-- ==== Sys2Proof/Word.lean ====
section
/-! DEFINITION. The word types of the KHS-512 model.

A value is a bit vector where the manual treats it as bits that are shifted, masked or wrapped (a byte of memory, a
register of a strand, a mask). Numbers that only name or count things (ports, nodes, times, lengths) are `Nat`. -/
namespace Sys2Proof

/-- One byte of a memory, a frame or an image. -/
abbrev Byte := BitVec 8

/-- A scalar register of a strand (R84). -/
abbrev Word64 := BitVec 64

/-- A vector register of a strand (R84): 512 bits. -/
abbrev Vec := BitVec 512

/-- A predicate register of a strand (R84): one bit per lane. -/
abbrev Pred := BitVec 16

/-- A dirty mask over the 256 pieces of 4 KiB of a granule (R269). -/
abbrev Mask256 := BitVec 256

end Sys2Proof
end

