-- ==== Sys2Proof/Syntax.lean ====
section
/-! DEFINITION. The commands of the block: one constructor per row of spec/opcode_table.json.

A command brings what the row says and nothing more: the number of the object it concerns, and for an event that comes
from outside (a frame, a flit, a measurement, a host access) what it brings. The rule after each name is the row's. -/
namespace Sys2Proof

/-- The commands. The rows without operands come last. -/
inductive Instr where
  /-- MOVE_PASS_END (R269). Operands: `g` granule. -/
  | movePassEnd (g : Nat)
  /-- MOVE_HOLD_TIMEOUT (R269). Operands: `g` granule. -/
  | moveHoldTimeout (g : Nat)
  /-- MOVE_SOURCE_FREE (R269). Operands: `g` granule. -/
  | moveSourceFree (g : Nat)
  /-- CLOCK_POINT_PAUSE_END (R31). Operands: `gal` gallery. -/
  | clockPointPauseEnd (gal : Nat)
  /-- GALLERY_IDLE_SLEEP (R32). Operands: `gal` gallery. -/
  | galleryIdleSleep (gal : Nat)
  /-- STACK_SELF_REFRESH (R32). Operands: `stack` HBM stack. -/
  | stackSelfRefresh (stack : Nat)
  /-- LANE_SLEEP (R397). Operands: `port` port. -/
  | laneSleep (port : Nat)
  /-- SLOT_WAKE (R34). Operands: `kind` 0 gallery, 1 stack, 2 lane; `unit` number of the unit. -/
  | slotWake (kind : Nat) (unit : Nat)
  /-- UNIT_WAKE_DONE (R35). Operands: `kind` 0 gallery, 1 stack, 2 lane; `unit` number of the unit. -/
  | unitWakeDone (kind : Nat) (unit : Nat)
  /-- GALLERY_ZEROING_DONE (R39). Operands: `gal` gallery. -/
  | galleryZeroingDone (gal : Nat)
  /-- TIME (R407). Operands: `port` port; `arr` local arrival time; `bytes` bytes. -/
  | time (port : Nat) (arr : Nat) (bytes : List Byte)
  /-- TIME_SYNC_SEND (R406). Operands: `port` port. -/
  | timeSyncSend (port : Nat)
  /-- SLOT_START (R228). Operands: `slot` timetable slot. -/
  | slotStart (slot : Nat)
  /-- INGRESS_FRAME (R66). Operands: `port` port; `frame` header, payload and trailer. -/
  | ingressFrame (port : Nat) (frame : List Byte)
  /-- ETHERNET_FRAME (R77). Operands: `port` port; `dst` MAC address; `srcMac` MAC address; `etype` EtherType; `bytes` bytes; `fcs` whether the answer is good. -/
  | ethernetFrame (port : Nat) (dst : Nat) (srcMac : Nat) (etype : Nat) (bytes : List Byte) (fcs : Bool)
  /-- LOAD (R51). Operands: `id` number of the request, message or answer in the inbox. -/
  | load (id : Nat)
  /-- STORE (R51). Operands: `id` number of the request, message or answer in the inbox. -/
  | store (id : Nat)
  /-- OF_STORE_RELEASE (R54). Operands: `id` number of the request, message or answer in the inbox. -/
  | ofStoreRelease (id : Nat)
  /-- ATOMIC (R59). Operands: `id` number of the request, message or answer in the inbox. -/
  | atomic (id : Nat)
  /-- ANSWER_ENTRY_EXPIRE (R59). Operands: `src` node; `tag` TAG. -/
  | answerEntryExpire (src : Nat) (tag : Nat)
  /-- BULK_PUT (R64). Operands: `id` number of the request, message or answer in the inbox. -/
  | bulkPut (id : Nat)
  /-- BULK_GET (R64). Operands: `id` number of the request, message or answer in the inbox. -/
  | bulkGet (id : Nat)
  /-- BULK_PUT_MASKED (R62). Operands: `id` number of the request, message or answer in the inbox. -/
  | bulkPutMasked (id : Nat)
  /-- BULK_ATOMIC (R63). Operands: `id` number of the request, message or answer in the inbox. -/
  | bulkAtomic (id : Nat)
  /-- TRACKER_ANSWER (R69). Operands: `id` number of the request, message or answer in the inbox. -/
  | trackerAnswer (id : Nat)
  /-- TRACKER_TIMEOUT (R69). Operands: `req` tracker number of the request. -/
  | trackerTimeout (req : Nat)
  /-- CAPS (R79). Operands: `port` port; `word` 64-bit word. -/
  | caps (port : Nat) (word : Nat)
  /-- LAUNCH (R102). Operands: `id` number of the request, message or answer in the inbox. -/
  | launch (id : Nat)
  /-- GALLERY_DISPATCH (R104). Operands: `gal` gallery. -/
  | galleryDispatch (gal : Nat)
  /-- INSTANCE_END (R105). Operands: `inst` number of the living program run. -/
  | instanceEnd (inst : Nat)
  /-- INSTANCE_TIME_LIMIT (R106). Operands: `inst` number of the living program run. -/
  | instanceTimeLimit (inst : Nat)
  /-- LAUNCH_DEADLINE (R106). Operands: `req` tracker number of the request. -/
  | launchDeadline (req : Nat)
  /-- STRAND_FABRIC_ANSWER (R161). Operands: `k` strand of the part: gallery * 1024 + pip * 8 + strand; `n` number of the fabric request of the strand. -/
  | strandFabricAnswer (k : Nat) (n : Nat)
  /-- WAITE_RELEASE (R151). Operands: `k` strand of the part: gallery * 1024 + pip * 8 + strand. -/
  | waiteRelease (k : Nat)
  /-- NOP (R148). Operands: `k` strand of the part: gallery * 1024 + pip * 8 + strand. -/
  | nop (k : Nat)
  /-- BR (R149). Operands: `k` strand of the part: gallery * 1024 + pip * 8 + strand. -/
  | br (k : Nat)
  /-- LOOP (R150). Operands: `k` strand of the part: gallery * 1024 + pip * 8 + strand. -/
  | loop (k : Nat)
  /-- WAITE (R151). Operands: `k` strand of the part: gallery * 1024 + pip * 8 + strand. -/
  | waite (k : Nat)
  /-- BAR (R152). Operands: `k` strand of the part: gallery * 1024 + pip * 8 + strand. -/
  | bar (k : Nat)
  /-- FENCE (R152). Operands: `k` strand of the part: gallery * 1024 + pip * 8 + strand. -/
  | fence (k : Nat)
  /-- RAISE (R153). Operands: `k` strand of the part: gallery * 1024 + pip * 8 + strand. -/
  | raise (k : Nat)
  /-- HALT (R153). Operands: `k` strand of the part: gallery * 1024 + pip * 8 + strand. -/
  | halt (k : Nat)
  /-- RECV (R155). Operands: `k` strand of the part: gallery * 1024 + pip * 8 + strand. -/
  | recv (k : Nat)
  /-- SEND (R157). Operands: `k` strand of the part: gallery * 1024 + pip * 8 + strand. -/
  | send (k : Nat)
  /-- FWD (R158). Operands: `k` strand of the part: gallery * 1024 + pip * 8 + strand. -/
  | fwd (k : Nat)
  /-- GRANT (R159). Operands: `k` strand of the part: gallery * 1024 + pip * 8 + strand. -/
  | grant (k : Nat)
  /-- LDV (R162). Operands: `k` strand of the part: gallery * 1024 + pip * 8 + strand. -/
  | ldv (k : Nat)
  /-- STV (R163). Operands: `k` strand of the part: gallery * 1024 + pip * 8 + strand. -/
  | stv (k : Nat)
  /-- LDS (R164). Operands: `k` strand of the part: gallery * 1024 + pip * 8 + strand. -/
  | lds (k : Nat)
  /-- STS (R164). Operands: `k` strand of the part: gallery * 1024 + pip * 8 + strand. -/
  | sts (k : Nat)
  /-- GATH (R165). Operands: `k` strand of the part: gallery * 1024 + pip * 8 + strand. -/
  | gath (k : Nat)
  /-- SCAT (R165). Operands: `k` strand of the part: gallery * 1024 + pip * 8 + strand. -/
  | scat (k : Nat)
  /-- ATOM (R166). Operands: `k` strand of the part: gallery * 1024 + pip * 8 + strand. -/
  | atom (k : Nat)
  /-- PIN (R168). Operands: `k` strand of the part: gallery * 1024 + pip * 8 + strand. -/
  | pin (k : Nat)
  /-- PIN_RELEASE (R168). Operands: `k` strand of the part: gallery * 1024 + pip * 8 + strand. -/
  | pinRelease (k : Nat)
  /-- ADD (R169). Operands: `k` strand of the part: gallery * 1024 + pip * 8 + strand. -/
  | add (k : Nat)
  /-- SUB (R169). Operands: `k` strand of the part: gallery * 1024 + pip * 8 + strand. -/
  | sub (k : Nat)
  /-- MUL (R169). Operands: `k` strand of the part: gallery * 1024 + pip * 8 + strand. -/
  | mul (k : Nat)
  /-- FMA (R169). Operands: `k` strand of the part: gallery * 1024 + pip * 8 + strand. -/
  | fma (k : Nat)
  /-- DIV (R169). Operands: `k` strand of the part: gallery * 1024 + pip * 8 + strand. -/
  | div (k : Nat)
  /-- MAX (R169). Operands: `k` strand of the part: gallery * 1024 + pip * 8 + strand. -/
  | max (k : Nat)
  /-- MIN (R169). Operands: `k` strand of the part: gallery * 1024 + pip * 8 + strand. -/
  | min (k : Nat)
  /-- CMP (R172). Operands: `k` strand of the part: gallery * 1024 + pip * 8 + strand. -/
  | cmp (k : Nat)
  /-- SEL (R173). Operands: `k` strand of the part: gallery * 1024 + pip * 8 + strand. -/
  | sel (k : Nat)
  /-- AND (R174). Operands: `k` strand of the part: gallery * 1024 + pip * 8 + strand. -/
  | and (k : Nat)
  /-- OR (R174). Operands: `k` strand of the part: gallery * 1024 + pip * 8 + strand. -/
  | or (k : Nat)
  /-- XOR (R174). Operands: `k` strand of the part: gallery * 1024 + pip * 8 + strand. -/
  | xor (k : Nat)
  /-- ANDN (R174). Operands: `k` strand of the part: gallery * 1024 + pip * 8 + strand. -/
  | andn (k : Nat)
  /-- NOT (R174). Operands: `k` strand of the part: gallery * 1024 + pip * 8 + strand. -/
  | not (k : Nat)
  /-- SHL (R174). Operands: `k` strand of the part: gallery * 1024 + pip * 8 + strand. -/
  | shl (k : Nat)
  /-- SHR (R174). Operands: `k` strand of the part: gallery * 1024 + pip * 8 + strand. -/
  | shr (k : Nat)
  /-- SAR (R174). Operands: `k` strand of the part: gallery * 1024 + pip * 8 + strand. -/
  | sar (k : Nat)
  /-- MOV (R175). Operands: `k` strand of the part: gallery * 1024 + pip * 8 + strand. -/
  | mov (k : Nat)
  /-- BCAST (R175). Operands: `k` strand of the part: gallery * 1024 + pip * 8 + strand. -/
  | bcast (k : Nat)
  /-- BCASTI (R175). Operands: `k` strand of the part: gallery * 1024 + pip * 8 + strand. -/
  | bcasti (k : Nat)
  /-- IOTA (R175). Operands: `k` strand of the part: gallery * 1024 + pip * 8 + strand. -/
  | iota (k : Nat)
  /-- INS (R175). Operands: `k` strand of the part: gallery * 1024 + pip * 8 + strand. -/
  | ins (k : Nat)
  /-- EXT (R175). Operands: `k` strand of the part: gallery * 1024 + pip * 8 + strand. -/
  | ext (k : Nat)
  /-- SADD (R176). Operands: `k` strand of the part: gallery * 1024 + pip * 8 + strand. -/
  | sadd (k : Nat)
  /-- SSUB (R176). Operands: `k` strand of the part: gallery * 1024 + pip * 8 + strand. -/
  | ssub (k : Nat)
  /-- SMUL (R176). Operands: `k` strand of the part: gallery * 1024 + pip * 8 + strand. -/
  | smul (k : Nat)
  /-- SAND (R176). Operands: `k` strand of the part: gallery * 1024 + pip * 8 + strand. -/
  | sand (k : Nat)
  /-- SOR (R176). Operands: `k` strand of the part: gallery * 1024 + pip * 8 + strand. -/
  | sor (k : Nat)
  /-- SXOR (R176). Operands: `k` strand of the part: gallery * 1024 + pip * 8 + strand. -/
  | sxor (k : Nat)
  /-- SSHL (R176). Operands: `k` strand of the part: gallery * 1024 + pip * 8 + strand. -/
  | sshl (k : Nat)
  /-- SSHR (R176). Operands: `k` strand of the part: gallery * 1024 + pip * 8 + strand. -/
  | sshr (k : Nat)
  /-- SSAR (R176). Operands: `k` strand of the part: gallery * 1024 + pip * 8 + strand. -/
  | ssar (k : Nat)
  /-- SMIN (R176). Operands: `k` strand of the part: gallery * 1024 + pip * 8 + strand. -/
  | smin (k : Nat)
  /-- SMAX (R176). Operands: `k` strand of the part: gallery * 1024 + pip * 8 + strand. -/
  | smax (k : Nat)
  /-- SMINU (R176). Operands: `k` strand of the part: gallery * 1024 + pip * 8 + strand. -/
  | sminu (k : Nat)
  /-- SMAXU (R176). Operands: `k` strand of the part: gallery * 1024 + pip * 8 + strand. -/
  | smaxu (k : Nat)
  /-- SLT (R176). Operands: `k` strand of the part: gallery * 1024 + pip * 8 + strand. -/
  | slt (k : Nat)
  /-- SLTU (R176). Operands: `k` strand of the part: gallery * 1024 + pip * 8 + strand. -/
  | sltu (k : Nat)
  /-- SEQ (R176). Operands: `k` strand of the part: gallery * 1024 + pip * 8 + strand. -/
  | seq (k : Nat)
  /-- SMOV (R176). Operands: `k` strand of the part: gallery * 1024 + pip * 8 + strand. -/
  | smov (k : Nat)
  /-- SLIH (R176). Operands: `k` strand of the part: gallery * 1024 + pip * 8 + strand. -/
  | slih (k : Nat)
  /-- PAND (R177). Operands: `k` strand of the part: gallery * 1024 + pip * 8 + strand. -/
  | pand (k : Nat)
  /-- POR (R177). Operands: `k` strand of the part: gallery * 1024 + pip * 8 + strand. -/
  | por (k : Nat)
  /-- PXOR (R177). Operands: `k` strand of the part: gallery * 1024 + pip * 8 + strand. -/
  | pxor (k : Nat)
  /-- PANDN (R177). Operands: `k` strand of the part: gallery * 1024 + pip * 8 + strand. -/
  | pandn (k : Nat)
  /-- PNOT (R177). Operands: `k` strand of the part: gallery * 1024 + pip * 8 + strand. -/
  | pnot (k : Nat)
  /-- PSET (R177). Operands: `k` strand of the part: gallery * 1024 + pip * 8 + strand. -/
  | pset (k : Nat)
  /-- PFROM (R177). Operands: `k` strand of the part: gallery * 1024 + pip * 8 + strand. -/
  | pfrom (k : Nat)
  /-- PTO (R177). Operands: `k` strand of the part: gallery * 1024 + pip * 8 + strand. -/
  | pto (k : Nat)
  /-- PCNT (R177). Operands: `k` strand of the part: gallery * 1024 + pip * 8 + strand. -/
  | pcnt (k : Nat)
  /-- NEG (R178). Operands: `k` strand of the part: gallery * 1024 + pip * 8 + strand. -/
  | neg (k : Nat)
  /-- ABS (R178). Operands: `k` strand of the part: gallery * 1024 + pip * 8 + strand. -/
  | abs (k : Nat)
  /-- SQRT (R178). Operands: `k` strand of the part: gallery * 1024 + pip * 8 + strand. -/
  | sqrt (k : Nat)
  /-- ACC (R179). Operands: `k` strand of the part: gallery * 1024 + pip * 8 + strand. -/
  | acc (k : Nat)
  /-- ACCM (R180). Operands: `k` strand of the part: gallery * 1024 + pip * 8 + strand. -/
  | accm (k : Nat)
  /-- CLRA (R181). Operands: `k` strand of the part: gallery * 1024 + pip * 8 + strand. -/
  | clra (k : Nat)
  /-- RND (R182). Operands: `k` strand of the part: gallery * 1024 + pip * 8 + strand. -/
  | rnd (k : Nat)
  /-- PACK (R183). Operands: `k` strand of the part: gallery * 1024 + pip * 8 + strand. -/
  | pack (k : Nat)
  /-- UNPK (R183). Operands: `k` strand of the part: gallery * 1024 + pip * 8 + strand. -/
  | unpk (k : Nat)
  /-- TOPK (R184). Operands: `k` strand of the part: gallery * 1024 + pip * 8 + strand. -/
  | topk (k : Nat)
  /-- CVT (R185). Operands: `k` strand of the part: gallery * 1024 + pip * 8 + strand. -/
  | cvt (k : Nat)
  /-- XPND (R186). Operands: `k` strand of the part: gallery * 1024 + pip * 8 + strand. -/
  | xpnd (k : Nat)
  /-- COL_SEG (R204). Operands: `id` number of the request, message or answer in the inbox. -/
  | colSeg (id : Nat)
  /-- COL_PART (R214). Operands: `id` number of the request, message or answer in the inbox. -/
  | colPart (id : Nat)
  /-- COL_RESULT (R216). Operands: `id` number of the request, message or answer in the inbox. -/
  | colResult (id : Nat)
  /-- COL_GRANT (R203). Operands: `id` number of the request, message or answer in the inbox. -/
  | colGrant (id : Nat)
  /-- COL_ABORT (R219). Operands: `id` number of the request, message or answer in the inbox. -/
  | colAbort (id : Nat)
  /-- COL_NO_PROGRESS (R218). Operands: `c` collective number. -/
  | colNoProgress (c : Nat)
  /-- COL_REARM (R222). Operands: `c` collective number. -/
  | colRearm (c : Nat)
  /-- STRAGGLER (R217). Operands: `c` collective number; `sender` kind * 65536 + index of the sender. -/
  | straggler (c : Nat) (sender : Nat)
  /-- GATHER_BATCH (R238). Operands: `id` number of the request, message or answer in the inbox. -/
  | gatherBatch (id : Nat)
  /-- GATHER_DIRECTORY_DONE (R244). Operands: `b` number of the batch. -/
  | gatherDirectoryDone (b : Nat)
  /-- GATHER_ROW_FETCH (R243). Operands: `b` number of the batch; `share` share of the batch; `row` row. -/
  | gatherRowFetch (b : Nat) (share : Nat) (row : Nat)
  /-- GATHER_BATCH_END (R241). Operands: `b` number of the batch. -/
  | gatherBatchEnd (b : Nat)
  /-- GATHER_BATCH_DEADLINE (R245). Operands: `b` number of the batch. -/
  | gatherBatchDeadline (b : Nat)
  /-- ROW_PUT (R247). Operands: `id` number of the request, message or answer in the inbox. -/
  | rowPut (id : Nat)
  /-- ROW_FLIP (R247). Operands: `tbl` table. -/
  | rowFlip (tbl : Nat)
  /-- SCATTER_ADD (R252). Operands: `id` number of the request, message or answer in the inbox. -/
  | scatterAdd (id : Nat)
  /-- FILTER_TOPK (R253). Operands: `id` number of the request, message or answer in the inbox. -/
  | filterTopk (id : Nat)
  /-- TABLE_PIN (R250). Operands: `id` number of the request, message or answer in the inbox. -/
  | tablePin (id : Nat)
  /-- TABLE_UNPIN (R250). Operands: `id` number of the request, message or answer in the inbox. -/
  | tableUnpin (id : Nat)
  /-- PIN_HOLD_LAPSE (R250). Operands: `tbl` table; `ver` version; `peer` node. -/
  | pinHoldLapse (tbl : Nat) (ver : Nat) (peer : Nat)
  /-- TABLE_SLOT_FREE (R249). Operands: `tbl` table; `tslot` slot of the table. -/
  | tableSlotFree (tbl : Nat) (tslot : Nat)
  /-- TABLE_READY (R232). Operands: `tbl` table. -/
  | tableReady (tbl : Nat)
  /-- TIER_ANSWER (R266). Operands: `op` number of the lower-stair operation; `tray` tray of the set; `ok` whether the answer is good. -/
  | tierAnswer (op : Nat) (tray : Nat) (ok : Bool)
  /-- TIER_ATTEMPT_TIMEOUT (R266). Operands: `op` number of the lower-stair operation. -/
  | tierAttemptTimeout (op : Nat)
  /-- TRAY_LATENCY_WINDOW (R265). Operands: `set` stripe set; `tray` tray of the set; `ns` measured nanoseconds. -/
  | trayLatencyWindow (set : Nat) (tray : Nat) (ns : Nat)
  /-- TRAY_SLOW_CLEAR (R265). Operands: `set` stripe set; `tray` tray of the set. -/
  | traySlowClear (set : Nat) (tray : Nat)
  /-- WS_PREFETCH_POINT (R282). Operands: `p` stream plan. -/
  | wsPrefetchPoint (p : Nat)
  /-- WS_COPY_COMPLETE (R282). Operands: `p` stream plan. -/
  | wsCopyComplete (p : Nat)
  /-- WS_STORE_ANSWER (R286). Operands: `id` number of the request, message or answer in the inbox. -/
  | wsStoreAnswer (id : Nat)
  /-- WS_FLAG_ANSWER (R282). Operands: `id` number of the request, message or answer in the inbox. -/
  | wsFlagAnswer (id : Nat)
  /-- WEIGHT_LATE (R289). Operands: `p` stream plan. -/
  | weightLate (p : Nat)
  /-- EXT_GRANT (R298). Operands: `h` host port. -/
  | extGrant (h : Nat)
  /-- EXT_REVOKE (R298). Operands: `h` host port. -/
  | extRevoke (h : Nat)
  /-- FENCE_CONFIRMED (R304). Operands: `e` extent entry. -/
  | fenceConfirmed (e : Nat)
  /-- DRAIN_DONE (R304). Operands: `e` extent entry. -/
  | drainDone (e : Nat)
  /-- DRAIN_TIMEOUT (R304). Operands: `e` extent entry. -/
  | drainTimeout (e : Nat)
  /-- SCRUB_DONE (R305). Operands: `e` extent entry. -/
  | scrubDone (e : Nat)
  /-- LEASE_RENEW (R307). Operands: `id` number of the request, message or answer in the inbox. -/
  | leaseRenew (id : Nat)
  /-- LEASE_EXPIRY (R307). Operands: `l` lease entry. -/
  | leaseExpiry (l : Nat)
  /-- STREAM_OPEN (R316). Operands: `h` host port; `buf` the bytes read from the buffer in host memory, none where the read fails. -/
  | streamOpen (h : Nat) (buf : Option (List Byte))
  /-- STREAM_GROW (R311). Operands: `h` host port; `buf` the bytes read from the buffer in host memory, none where the read fails. -/
  | streamGrow (h : Nat) (buf : Option (List Byte))
  /-- STREAM_HANDOFF (R318). Operands: `h` host port; `buf` the bytes read from the buffer in host memory, none where the read fails. -/
  | streamHandoff (h : Nat) (buf : Option (List Byte))
  /-- STREAM_ACCEPT (R318). Operands: `h` host port; `buf` the bytes read from the buffer in host memory, none where the read fails. -/
  | streamAccept (h : Nat) (buf : Option (List Byte))
  /-- STREAM_TAKEOVER (R317). Operands: `h` host port; `buf` the bytes read from the buffer in host memory, none where the read fails. -/
  | streamTakeover (h : Nat) (buf : Option (List Byte))
  /-- STREAM_CLOSE (R312). Operands: `h` host port; `buf` the bytes read from the buffer in host memory, none where the read fails. -/
  | streamClose (h : Nat) (buf : Option (List Byte))
  /-- STREAM_QUERY (R310). Operands: `h` host port. -/
  | streamQuery (h : Nat)
  /-- LEDGER_POLL (R318). Operands: `ctx` token-stream context. -/
  | ledgerPoll (ctx : Nat)
  /-- LEDGER_CAS_ANSWER (R318). Operands: `id` number of the request, message or answer in the inbox. -/
  | ledgerCasAnswer (id : Nat)
  /-- STREAM_PULL_ANSWER (R318). Operands: `id` number of the request, message or answer in the inbox. -/
  | streamPullAnswer (id : Nat)
  /-- STREAM_ACCEPT_TIMEOUT (R318). Operands: `ctx` token-stream context. -/
  | streamAcceptTimeout (ctx : Nat)
  /-- CACHE_DECLARE (R322). Operands: `id` number of the request, message or answer in the inbox. -/
  | cacheDeclare (id : Nat)
  /-- CACHE_RELEASE (R339). Operands: `id` number of the request, message or answer in the inbox. -/
  | cacheRelease (id : Nat)
  /-- RD_SHARED (R332). Operands: `id` number of the request, message or answer in the inbox. -/
  | rdShared (id : Nat)
  /-- RD_OWN (R332). Operands: `id` number of the request, message or answer in the inbox. -/
  | rdOwn (id : Nat)
  /-- UPGRADE (R332). Operands: `id` number of the request, message or answer in the inbox. -/
  | upgrade (id : Nat)
  /-- WB_DIRTY (R332). Operands: `id` number of the request, message or answer in the inbox. -/
  | wbDirty (id : Nat)
  /-- EVICT_CLEAN (R332). Operands: `id` number of the request, message or answer in the inbox. -/
  | evictClean (id : Nat)
  /-- SNOOP_ANSWER (R331). Operands: `id` number of the request, message or answer in the inbox. -/
  | snoopAnswer (id : Nat)
  /-- SNOOP_TIMEOUT (R336). Operands: `stag` TAG of the snoop. -/
  | snoopTimeout (stag : Nat)
  /-- STALE_CLEAR (R341). Operands: `h` host port. -/
  | staleClear (h : Nat)
  /-- STALE_QUERY (R344). Operands: `h` host port. -/
  | staleQuery (h : Nat)
  /-- PORT_SIGNAL (R398). Operands: `port` port. -/
  | portSignal (port : Nat)
  /-- RETRAIN (R399). Operands: `port` port. -/
  | retrain (port : Nat)
  /-- PRBS_CHECK_DONE (R398). Operands: `port` port; `pass` whether the check passes. -/
  | prbsCheckDone (port : Nat) (pass : Bool)
  /-- FULL_TRAINING_DONE (R398). Operands: `port` port; `settings` settings of each lane. -/
  | fullTrainingDone (port : Nat) (settings : List (List Byte))
  /-- TRAINING_TIMEOUT (R398). Operands: `port` port. -/
  | trainingTimeout (port : Nat)
  /-- TRAINING_RETRY (R398). Operands: `port` port. -/
  | trainingRetry (port : Nat)
  /-- PAIR_ALIGNED (R398). Operands: `port` port. -/
  | pairAligned (port : Nat)
  /-- ALIGNMENT_LOST (R398). Operands: `port` port. -/
  | alignmentLost (port : Nat)
  /-- RESUME (R398). Operands: `port` port; `inc` INCARNATION of the peer; `seq` SEQ expected by the peer. -/
  | resume (port : Nat) (inc : Nat) (seq : Nat)
  /-- HOLD_UP_EXPIRY (R398). Operands: `port` port. -/
  | holdUpExpiry (port : Nat)
  /-- FLIT_RECEIVE (R401). Operands: `port` port; `flit` the flit. -/
  | flitReceive (port : Nat) (flit : List Byte)
  /-- REPLAY_TIMEOUT (R401). Operands: `port` port. -/
  | replayTimeout (port : Nat)
  /-- TAG (R410). Operands: `port` port; `flit` the flit. -/
  | tag (port : Nat) (flit : List Byte)
  /-- WIDTH_ASK (R395). Operands: `port` port; `mask` lane mask. -/
  | widthAsk (port : Nat) (mask : Nat)
  /-- WIDTH (R395). Operands: `port` port; `mask` lane mask. -/
  | width (port : Nat) (mask : Nat)
  /-- OFFER (R446). Operands: `port` port; `keyId` key id; `bytes` bytes. -/
  | offer (port : Nat) (keyId : Nat) (bytes : List Byte)
  /-- ACCEPT (R446). Operands: `port` port; `keyId` key id; `bytes` bytes. -/
  | accept (port : Nat) (keyId : Nat) (bytes : List Byte)
  /-- DONE (R446). Operands: `port` port; `keyId` key id; `bytes` bytes. -/
  | done (port : Nat) (keyId : Nat) (bytes : List Byte)
  /-- ABORT (R448). Operands: `port` port; `keyId` key id. -/
  | abort (port : Nat) (keyId : Nat)
  /-- KEY_DONE_TIMEOUT (R448). Operands: `port` port. -/
  | keyDoneTimeout (port : Nat)
  /-- REKEY_START (R447). Operands: `port` port. -/
  | rekeyStart (port : Nat)
  /-- SUB_FORCE (R415). Operands: `h` host port. -/
  | subForce (h : Nat)
  /-- SUB_ASK (R418). Operands: `id` number of the request, message or answer in the inbox. -/
  | subAsk (id : Nat)
  /-- SUB_ASK_TIMEOUT (R417). Operands: `port` port. -/
  | subAskTimeout (port : Nat)
  /-- SUB_ANSWER (R417). Operands: `id` number of the request, message or answer in the inbox. -/
  | subAnswer (id : Nat)
  /-- SUB_COMMIT (R419). Operands: `id` number of the request, message or answer in the inbox. -/
  | subCommit (id : Nat)
  /-- ID_GET (R454). Operands: `h` host port. -/
  | idGet (h : Nat)
  /-- QUOTE (R443). Operands: `h` host port. -/
  | quote (h : Nat)
  /-- FRAME_STAGE (R439). Operands: `h` host port. -/
  | frameStage (h : Nat)
  /-- LICENCE_LOAD (R442). Operands: `h` host port. -/
  | licenceLoad (h : Nat)
  /-- JOB_OPEN (R450). Operands: `h` host port. -/
  | jobOpen (h : Nat)
  /-- JOB_WRAP (R451). Operands: `h` host port. -/
  | jobWrap (h : Nat)
  /-- JOB_CLOSE (R453). Operands: `h` host port. -/
  | jobClose (h : Nat)
  /-- JOB_KEY_INSTALL (R450). Operands: `id` number of the request, message or answer in the inbox. -/
  | jobKeyInstall (id : Nat)
  /-- MGT_QUERY (R500). Operands: `id` number of the request, message or answer in the inbox. -/
  | mgtQuery (id : Nat)
  /-- HOLONE_REQUEST (R456). Operands: `bytes` bytes. -/
  | holoneRequest (bytes : List Byte)
  /-- IMAGE_STAGE (R473). Operands: `h` host port; `buf` the bytes read from the buffer in host memory, none where the read fails. -/
  | imageStage (h : Nat) (buf : Option (List Byte))
  /-- IMAGE_ARM (R476). Operands: `h` host port. -/
  | imageArm (h : Nat)
  /-- IMAGE_DISARM (R475). Operands: `h` host port. -/
  | imageDisarm (h : Nat)
  /-- CLAIM (R486). Operands: `h` host port. -/
  | claim (h : Nat)
  /-- RENEW (R486). Operands: `h` host port. -/
  | renew (h : Nat)
  /-- RELEASE (R487). Operands: `h` host port. -/
  | release (h : Nat)
  /-- HOST_LINK_DOWN (R506). Operands: `h` host port. -/
  | hostLinkDown (h : Nat)
  /-- COMMAND_WINDOW_WRITE (R489). Operands: `h` host port; `bytes` bytes. -/
  | commandWindowWrite (h : Nat) (bytes : List Byte)
  /-- COMMAND_COMPLETION (R492). Operands: `h` host port. -/
  | commandCompletion (h : Nat)
  /-- CQ_HEAD_WRITE (R492). Operands: `h` host port; `val` value written. -/
  | cqHeadWrite (h : Nat) (val : Nat)
  /-- CQ_CONFIG_WRITE (R502). Operands: `h` host port; `off` byte offset in the BAR; `val` value written. -/
  | cqConfigWrite (h : Nat) (off : Nat) (val : Nat)
  /-- RESET (R493). Operands: `h` host port. -/
  | reset (h : Nat)
  /-- STAGE_DISCARD (R498). Operands: `h` host port. -/
  | stageDiscard (h : Nat)
  /-- PROG_LOAD (R98). Operands: `h` host port; `buf` the bytes read from the buffer in host memory, none where the read fails. -/
  | progLoad (h : Nat) (buf : Option (List Byte))
  /-- HOST_COMMAND_LAUNCH (R106). Operands: `h` host port; `buf` the bytes read from the buffer in host memory, none where the read fails. -/
  | hostCommandLaunch (h : Nat) (buf : Option (List Byte))
  /-- KILL (R493). Operands: `h` host port. -/
  | kill (h : Nat)
  /-- COL_OPEN (R194). Operands: `h` host port; `buf` the bytes read from the buffer in host memory, none where the read fails. -/
  | colOpen (h : Nat) (buf : Option (List Byte))
  /-- COL_CLOSE (R197). Operands: `h` host port. -/
  | colClose (h : Nat)
  /-- HOST_COMMAND_COL_ABORT (R218). Operands: `h` host port. -/
  | hostCommandColAbort (h : Nat)
  /-- TT_LOAD (R225). Operands: `h` host port; `buf` the bytes read from the buffer in host memory, none where the read fails. -/
  | ttLoad (h : Nat) (buf : Option (List Byte))
  /-- S0_QUERY (R260). Operands: `h` host port. -/
  | s0Query (h : Nat)
  /-- HOST_APERTURE_ACCESS (R483). Operands: `h` host port; `write` write rather than read; `off` byte offset in the BAR; `len` bytes; `bytes` bytes. -/
  | hostApertureAccess (h : Nat) (write : Bool) (off : Nat) (len : Nat) (bytes : List Byte)
  /-- HOST_INBOUND_REQUEST (R484). Operands: `id` number of the request, message or answer in the inbox; `buf` the bytes read from the buffer in host memory, none where the read fails. -/
  | hostInboundRequest (id : Nat) (buf : Option (List Byte))
  /-- REGISTER_WRITE (R495). Operands: `h` host port; `off` byte offset in the BAR; `bytes` bytes. -/
  | registerWrite (h : Nat) (off : Nat) (bytes : List Byte)
  /-- LANE_FAILED (R394). Operands: `port` port; `lane` lane of the port. -/
  | laneFailed (port : Nat) (lane : Nat)
  /-- GOVERNOR_RUN (R277). Operands: `w` measured watts. -/
  | governorRun (w : Nat)
  /-- WS_LEVEL_HALF_LEAD (R288). Operands: `p` stream plan. -/
  | wsLevelHalfLead (p : Nat)
  /-- WS_ESCALATE (R288). Operands: `p` stream plan. -/
  | wsEscalate (p : Nat)
  /-- LANE_SER_WINDOW (R394). Operands: `port` port; `lane` lane of the port; `ppm` corrected symbols per million. -/
  | laneSerWindow (port : Nat) (lane : Nat) (ppm : Nat)
  /-- LANE_RETRAIN_GOOD (R396). Operands: `port` port; `lane` lane of the port. -/
  | laneRetrainGood (port : Nat) (lane : Nat)
  /-- KEY_LIMIT_REACHED (R448). Operands: `port` port. -/
  | keyLimitReached (port : Nat)
  /-- OLD_KEY_RETIRE (R447). Operands: `port` port. -/
  | oldKeyRetire (port : Nat)
  /-- SUB_WAIT_EXPIRY (R415). Operands: `port` port. -/
  | subWaitExpiry (port : Nat)
  /-- SUB_ASK_RESEND (R417). Operands: `port` port. -/
  | subAskResend (port : Nat)
  /-- TRAY_REBUILD_DONE (R422). Operands: `set` stripe set; `tray` tray of the set. -/
  | trayRebuildDone (set : Nat) (tray : Nat)
  /-- AGEING_MEASURE_DONE (R429). Operands: `slacks` worst slack in ps: gallery * 65 + (point - 1) * 13 + offset step. -/
  | ageingMeasureDone (slacks : List Nat)
  /-- ENDORSE_SET (R445). Operands: `h` host port. -/
  | endorseSet (h : Nat)
  /-- CRED_SET (R454). Operands: `h` host port. -/
  | credSet (h : Nat)
  /-- RECOVERY_IMAGE (R455). Operands: `h` host port. -/
  | recoveryImage (h : Nat)
  /-- JOB_KEY_DESTROY (R453). Operands: `key` job key id. -/
  | jobKeyDestroy (key : Nat)
  /-- HOLONE_SLOT_UNLOCK (R458). Operands: `hslot` Holone slot. -/
  | holoneSlotUnlock (hslot : Nat)
  /-- RESET_N_LOW (R506). Operands: `ns` measured nanoseconds. -/
  | resetNLow (ns : Nat)
  /-- SELFTEST_DONE (R467). Operands: `bytes` bytes. -/
  | selftestDone (bytes : List Byte)
  /-- TFTP_WRITE_REQUEST (R473). Operands: `fk` image kind; `bytes` bytes. -/
  | tftpWriteRequest (fk : Nat) (bytes : List Byte)
  /-- IMAGE_WRITE_DONE (R475). Operands: `fk` image kind. -/
  | imageWriteDone (fk : Nat)
  /-- IMAGE_TRANSFER_STALL (R475). Operands: `fk` image kind. -/
  | imageTransferStall (fk : Nat)
  /-- HOLDUP_N (R480). Operands: `level` level of the pin. -/
  | holdupN (level : Bool)
  /-- THERMAL_SAMPLE (R516). Operands: `temps` die sensors, tenths of a degree; `stemps` stack sensors, tenths of a degree; `w` measured watts. -/
  | thermalSample (temps : List Nat) (stemps : List Nat) (w : Nat)
  /-- I3C_PRIVATE_READ (R507). Operands: `idx` index. -/
  | i3cPrivateRead (idx : Nat)
  /-- I3C_DYNAMIC_ADDRESS (R507). Operands: `val` value written. -/
  | i3cDynamicAddress (val : Nat)
  /-- CAB_PRES_N (R504). Operands: `conn` connector; `level` level of the pin. -/
  | cabPresN (conn : Nat) (level : Bool)
  /-- HOST_PORT_TRAINED (R482). Operands: `h` host port; `width` lanes; `speed` rate in GT/s. -/
  | hostPortTrained (h : Nat) (width : Nat) (speed : Nat)
  /-- PPS_IN_EDGE (R505). Operands: `arr` local arrival time. -/
  | ppsInEdge (arr : Nat)
  /-- REKEY_RETRY (R448). Operands: `port` port. -/
  | rekeyRetry (port : Nat)
  /-- EPOCH_BOUNDARY (R21). -/
  | epochBoundary
  /-- STAGE_CUTOFF (R496). -/
  | stageCutoff
  /-- ROUTE_RETIRE (R372). -/
  | routeRetire
  /-- HALL_GATE (R29). -/
  | hallGate
  /-- HOLDOVER_ENTRY (R16). -/
  | holdoverEntry
  /-- ACQUIRING_END (R17). -/
  | acquiringEnd
  /-- QUIET_SLOT (R384). -/
  | quietSlot
  /-- SCHEDULER_CELL_TIME (R355). -/
  | schedulerCellTime
  /-- AUDIT_NOW (R367). -/
  | auditNow
  /-- BUFFER_AUDIT_DONE (R367). -/
  | bufferAuditDone
  /-- LEDGER_REVERT_TICK (R316). -/
  | ledgerRevertTick
  /-- MAINT_NOW (R428). -/
  | maintNow
  /-- PWROK_RISE (R510). -/
  | pwrokRise
  /-- PWROK_FALL (R510). -/
  | pwrokFall
  /-- WARM_RESET (R462). -/
  | warmReset
  /-- STARTUP_READY (R465). -/
  | startupReady
  /-- MGMT_HEARTBEAT_LOSS (R460). -/
  | mgmtHeartbeatLoss
  /-- TRIAL_TIMEOUT (R478). -/
  | trialTimeout
  /-- OWNER_LEASE_EXPIRY (R487). -/
  | ownerLeaseExpiry
  /-- EFF_LIMIT_TICK (R517). -/
  | effLimitTick
  /-- THERMTRIP_RELEASE (R518). -/
  | thermtripRelease
  /-- PPS_OUT_PULSE (R505). -/
  | ppsOutPulse
  /-- SHELL_SRAM_ERROR (R460). -/
  | shellSramError
  /-- STANDBY_GROUP_UP (R460). -/
  | standbyGroupUp
  /-- STANDBY_GROUP_DOWN (R511). -/
  | standbyGroupDown
  /-- FOLLOWER_READY_TIMEOUT (R466). -/
  | followerReadyTimeout
  /-- SAVED_SETTINGS_WRITE (R470). -/
  | savedSettingsWrite
  deriving DecidableEq, Repr

end Sys2Proof
end

