-- ==== Sys2Proof/Config.lean ====
section
/-! DEFINITION. What one part fixes and what the manual leaves open: constants with no body, so that no proof can see
a value of theirs. -/
namespace Sys2Proof.Config

/-- A value the manual leaves open, one for every number of the state's counter (assumption log 1). -/
opaque freeValue : Nat → Nat

/-- The 512 bits of a `BULK_PUT_MASKED` mask whose marks, given as the bits of a number, reach beyond byte 511 of the block
(R62, assumption log 32). -/
opaque wideMask : Nat → Nat

/-- A random 256-bit draw of the Shell's generator (R445, R450), one for every number of the state's counter. -/
opaque random : Nat → BitVec 256

/-- `ID_SERIAL` of this part (R502: "Per part"). -/
opaque idSerial : BitVec 64

/-- `ETH_MAC_BASE` of this part, bits [47:8] (R502: "Per part", bits [7:0] zero). -/
opaque macBaseHigh : BitVec 40

/-- Bits [39:8] of the capability word that this switch sends (R78: the manual gives its version fields alone). -/
opaque ownCaps : BitVec 32

/-- The image of each kind that flash bank 0 holds at manufacture (assumption log 50). -/
opaque factoryImage : Nat → List Byte

/-- The device secret UDS of this part (R431). -/
opaque uds : List Byte

/-- The digest of the ROM contents, by which M0 is extended (R435). -/
opaque romDigest : List Byte

/-- The DIK certificate held in flash (R431). -/
opaque dikCertificate : List Byte

/-- The four firmware root digests in ROM (R433). -/
opaque fwRoot : Nat → List Byte

/-- The four licence root digests in ROM (R433, R441). -/
opaque licRoot : Nat → List Byte

/-- SHA3-256 (FIPS 202): 32 bytes. -/
opaque sha3 : List Byte → List Byte

/-- ML-DSA-44 (FIPS 204): the public key that a seed gives, 1,312 bytes. -/
opaque dsaPublic : List Byte → List Byte

/-- ML-DSA-44 (FIPS 204): the signature of a digest under the key that a seed gives, 2,420 bytes. -/
opaque dsaSign : List Byte → List Byte → List Byte

/-- ML-DSA-44 (FIPS 204): whether a signature of a digest verifies under a public key. -/
opaque dsaVerify : List Byte → List Byte → List Byte → Bool

/-- ML-KEM-768 (FIPS 203): the encapsulation key that d and z give, 1,184 bytes. -/
opaque kemPublic : List Byte → List Byte → List Byte

/-- ML-KEM-768 (FIPS 203): ciphertext (1,088 bytes) and shared secret that an encapsulation key and random bits give. -/
opaque kemEncaps : List Byte → BitVec 256 → List Byte × List Byte

/-- ML-KEM-768 (FIPS 203): the shared secret that d, z and a ciphertext give. -/
opaque kemDecaps : List Byte → List Byte → List Byte → List Byte

/-- AES-256-GCM (SP 800-38D): ciphertext and 16-byte tag from key, nonce, additional data and plaintext. -/
opaque gcmSeal : List Byte → List Byte → List Byte → List Byte → List Byte × List Byte

/-- AES-256-GCM (SP 800-38D): plaintext from key, nonce, additional data, ciphertext and tag, where the tag verifies. -/
opaque gcmOpen : List Byte → List Byte → List Byte → List Byte → List Byte → Option (List Byte)

/-- HMAC-SHA3-256 (FIPS 198-1): 32 bytes from key and message. -/
opaque hmac : List Byte → List Byte → List Byte

end Sys2Proof.Config
end

