-- ==== Sys2Proof/Machine/Tab.lean ====
section
/-! DEFINITION. Sparse tables and byte memories as plain data in one canonical form.

A table is a list of (key, value) pairs with strictly rising keys. A byte memory is a table of bytes that lists no byte
equal to 0, the value an unlisted byte reads as (R39, R257, R300, R462). Byte order is decided here, once (R7). -/
namespace Sys2Proof.Machine

/-- A finite map by number, keys strictly rising. -/
abbrev Tab (α : Type) := List (Nat × α)

/-- A byte memory: an unlisted address reads 0. -/
abbrev Mem := List (Nat × Byte)

/-- The entry of a key, if it is listed. -/
def tget {α : Type} : Tab α → Nat → Option α
  | [], _ => none
  | (k, v) :: t, a => if a = k then some v else if a < k then none else tget t a

/-- The entry of a key, or a default where it is not listed. -/
def tgetD {α : Type} (t : Tab α) (a : Nat) (d : α) : α := (tget t a).getD d

/-- Enter or replace a key. -/
def tset {α : Type} : Tab α → Nat → α → Tab α
  | [], a, v => [(a, v)]
  | (k, w) :: t, a, v =>
    if a < k then (a, v) :: (k, w) :: t
    else if a = k then (a, v) :: t
    else (k, w) :: tset t a v

/-- Remove a key. -/
def tdel {α : Type} : Tab α → Nat → Tab α
  | [], _ => []
  | (k, w) :: t, a =>
    if a < k then (k, w) :: t else if a = k then t else (k, w) :: tdel t a

/-- Enter a value, or remove the key when the value is the one an unlisted key stands for. -/
def tput {α : Type} [DecidableEq α] (t : Tab α) (a : Nat) (d v : α) : Tab α :=
  if v = d then tdel t a else tset t a v

/-- Change the entry of a key where it is listed. -/
def tmod {α : Type} (t : Tab α) (a : Nat) (f : α → α) : Tab α :=
  match tget t a with
  | some v => tset t a (f v)
  | none => t

/-- Change every entry, the key given too. -/
def tmap {α β : Type} (t : Tab α) (f : Nat → α → β) : Tab β := t.map fun p => (p.1, f p.1 p.2)

/-- Keep the entries that meet a test. -/
def tfilter {α : Type} (t : Tab α) (f : Nat → α → Bool) : Tab α := t.filter fun p => f p.1 p.2

/-- The first entry that meets a test, lowest key first. -/
def tfind {α : Type} (t : Tab α) (f : Nat → α → Bool) : Option (Nat × α) := t.find? fun p => f p.1 p.2

/-- Whether a key is listed. -/
def thas {α : Type} (t : Tab α) (a : Nat) : Bool := (tget t a).isSome

/-- The canonical form of a table: keys strictly rising. -/
def twf {α : Type} : Tab α → Bool
  | [] => true
  | [_] => true
  | (a, _) :: (b, w) :: t => decide (a < b) && twf ((b, w) :: t)

/-- The canonical form of a byte memory: addresses strictly rising, and no listed byte is 0. -/
def Memory.wf (m : Mem) : Bool := twf m && m.all fun p => p.2 != 0

/-- Read one byte. -/
def mget (m : Mem) (a : Nat) : Byte := tgetD m a 0

/-- Write one byte, keeping the canonical form. -/
def mset (m : Mem) (a : Nat) (b : Byte) : Mem := tput m a 0 b

/-- Read n bytes from an address upwards. -/
def mread (m : Mem) (a : Nat) : Nat → List Byte
  | 0 => []
  | n + 1 => mget m a :: mread m (a + 1) n

/-- Write bytes from an address upwards. -/
def mwrite (m : Mem) (a : Nat) : List Byte → Mem
  | [] => m
  | b :: bs => mwrite (mset m a b) (a + 1) bs

/-- Write those bytes whose mark is set. -/
def mwriteMasked (m : Mem) (a : Nat) : List Byte → List Bool → Mem
  | b :: bs, k :: ks => mwriteMasked (if k then mset m a b else m) (a + 1) bs ks
  | _, _ => m

/-- Zero n bytes from an address upwards: nothing is listed there any more. -/
def mzero (m : Mem) (a n : Nat) : Mem := m.filter fun p => !(decide (a ≤ p.1) && decide (p.1 < a + n))

/-- The number that bytes spell, the lowest byte first (R7). -/
def leNat : List Byte → Nat
  | [] => 0
  | b :: bs => b.toNat + 256 * leNat bs

/-- The n bytes of a number, the lowest byte first (R7). -/
def toLE : Nat → Nat → List Byte
  | 0, _ => []
  | n + 1, v => BitVec.ofNat 8 v :: toLE n (v / 256)

/-- n bytes of all-ones (R52). -/
def onesBytes (n : Nat) : List Byte := List.replicate n 0xFF#8

/-- Bits [lo + w - 1 : lo] of a number. -/
def bitsOf (v lo w : Nat) : Nat := v / 2 ^ lo % 2 ^ w

/-- One bit of a number as a truth value. -/
def bitAt (v i : Nat) : Bool := v.testBit i

/-- A truth value as a number. -/
def b2n (b : Bool) : Nat := if b then 1 else 0

/-- Set or clear bit i of a number. -/
def setBit (v i : Nat) (b : Bool) : Nat := if v.testBit i = b then v else if b then v + 2 ^ i else v - 2 ^ i

/-- A w-bit number read as signed. -/
def signed (w v : Nat) : Int := if v % 2 ^ w < 2 ^ (w - 1) then (v % 2 ^ w : Int) else (v % 2 ^ w : Int) - 2 ^ w

/-- The w low bits of an integer in two's complement. -/
def unsigned (w : Nat) (x : Int) : Nat := (x % (2 ^ w : Int)).toNat

/-- n bytes of a list from a place on, padded with zeros. -/
def slice (bs : List Byte) (at_ n : Nat) : List Byte :=
  let r := (bs.drop at_).take n
  r ++ List.replicate (n - r.length) 0#8

/-- Little-endian number of n bytes of a list from a place on. -/
def leAt (bs : List Byte) (at_ n : Nat) : Nat := leNat (slice bs at_ n)

/-- Concatenate fields given as (width, value), the lowest first. -/
def packBits : List (Nat × Nat) → Nat
  | [] => 0
  | (w, v) :: t => v % 2 ^ w + 2 ^ w * packBits t

/-- Numbers 0 to n - 1. -/
abbrev upTo (n : Nat) : List Nat := List.range n

/-- Ceiling division. -/
def ceilDiv (a b : Nat) : Nat := (a + b - 1) / b

/-- Insert into a list sorted by a key, after entries of the same key. -/
def insertBy {α : Type} (key : α → Nat) (x : α) : List α → List α
  | [] => [x]
  | y :: t => if key x < key y then x :: y :: t else y :: insertBy key x t

/-- Sort by a key; entries of the same key keep their order. -/
def sortBy {α : Type} (key : α → Nat) : List α → List α
  | [] => []
  | x :: t =>
    let rec ins : α → List α → List α
      | x, [] => [x]
      | x, y :: r => if key y < key x then y :: ins x r else x :: y :: r
    ins x (sortBy key t)

/-- Remove later repeats from a list. -/
def dedup' : List Nat → List Nat
  | [] => []
  | x :: t => x :: (dedup' t).filter (· != x)

/-- The elements with their places. -/
def enum' {α : Type} (l : List α) : List (Nat × α) := (upTo l.length).zip l

/-- Replace the element at a place. -/
def listSet {α : Type} (l : List α) (i : Nat) (x : α) : List α := l.set i x

/-- Cut a list of bytes into pieces of n bytes. The fuel is the list's length. -/
def chunksOf (n : Nat) : Nat → List Byte → List (List Byte)
  | 0, _ => []
  | f + 1, bs => if bs.isEmpty then [] else bs.take n :: chunksOf n f (bs.drop n)

end Sys2Proof.Machine
end

