-- ==== Sys2Proof/Machine/Crc.lean ====
section
/-! DEFINITION. The check codes of the formats: CRC-32C over payloads, reports, descriptors, route hashing and answer
entries (R58, R346, R369, R468, R472). The manual names CRC-32C and gives no polynomial or bit order: the Castagnoli
polynomial 0x1EDC6F41, reflected, with all-ones start and final inversion is taken (assumption log 8, PRESUMED). -/
namespace Sys2Proof.Machine

/-- n steps of the reflected CRC-32C register. -/
def crc32cBits : Nat → BitVec 32 → BitVec 32
  | 0, c => c
  | n + 1, c => crc32cBits n (if c.getLsbD 0 then (c >>> 1) ^^^ 0x82F63B78#32 else c >>> 1)

/-- The register after a list of bytes. -/
def crc32cFold : BitVec 32 → List Byte → BitVec 32
  | c, [] => c
  | c, b :: bs => crc32cFold (crc32cBits 8 (c ^^^ b.setWidth 32)) bs

/-- CRC-32C of a list of bytes. -/
def crc32c (bs : List Byte) : Nat := (~~~(crc32cFold 0xFFFFFFFF#32 bs)).toNat

/-- One bit of the reflected CRC-64 of ECMA-182 (R400): polynomial 0x42F0E1EBA9EA3693, reflected. -/
def crc64Bits : Nat → Nat → Nat
  | 0, r => r
  | n + 1, r => crc64Bits n (if r % 2 = 1 then (r / 2) ^^^ 0xC96C5795D7870F42 else r / 2)

/-- The register after some bytes. -/
def crc64Step (r : Nat) : List Byte → Nat
  | [] => r
  | b :: bs => crc64Step (crc64Bits 8 (r ^^^ b.toNat)) bs

/-- CRC-64 of a flit: initial value all ones, final XOR all ones (R400). -/
def crc64 (bs : List Byte) : Nat := crc64Step 0xFFFFFFFFFFFFFFFF bs ^^^ 0xFFFFFFFFFFFFFFFF

end Sys2Proof.Machine
end

