-- ==== Sys2Proof/Machine/Format.lean ====
section
/-! DEFINITION. Element formats, exact values and the one rounding (04_number_formats.md, R117-R123, R131-R139).

A value is computed exactly as a fraction of integers; `roundTo` narrows it once, at the end. -/
namespace Sys2Proof.Machine

/-- Element formats of R117, by code 0x0 to 0x9. -/
inductive Fmt where
  | fp64 | fp32 | fp16 | bf16 | e4m3 | e5m2 | e3m2 | e2m1 | int8 | int32
  deriving DecidableEq, Repr

/-- The format of a code; 0xA-0xF are reserved (R117). -/
def Fmt.ofCode : Nat → Option Fmt
  | 0 => some .fp64 | 1 => some .fp32 | 2 => some .fp16 | 3 => some .bf16 | 4 => some .e4m3
  | 5 => some .e5m2 | 6 => some .e3m2 | 7 => some .e2m1 | 8 => some .int8 | 9 => some .int32
  | _ => none

/-- The code of a format. -/
def Fmt.code : Fmt → Nat
  | .fp64 => 0 | .fp32 => 1 | .fp16 => 2 | .bf16 => 3 | .e4m3 => 4
  | .e5m2 => 5 | .e3m2 => 6 | .e2m1 => 7 | .int8 => 8 | .int32 => 9

/-- Width in bits (R117). -/
def Fmt.width : Fmt → Nat
  | .fp64 => 64 | .fp32 => 32 | .fp16 => 16 | .bf16 => 16 | .e4m3 => 8
  | .e5m2 => 8 | .e3m2 => 6 | .e2m1 => 4 | .int8 => 8 | .int32 => 32

/-- Fraction bits m (R117). -/
def Fmt.frac : Fmt → Nat
  | .fp64 => 52 | .fp32 => 23 | .fp16 => 10 | .bf16 => 7 | .e4m3 => 3
  | .e5m2 => 2 | .e3m2 => 2 | .e2m1 => 1 | .int8 => 0 | .int32 => 0

/-- Exponent bits (R117). -/
def Fmt.expo : Fmt → Nat
  | .fp64 => 11 | .fp32 => 8 | .fp16 => 5 | .bf16 => 8 | .e4m3 => 4
  | .e5m2 => 5 | .e3m2 => 3 | .e2m1 => 2 | .int8 => 0 | .int32 => 0

/-- Bias (R117). -/
def Fmt.bias : Fmt → Int
  | .fp64 => 1023 | .fp32 => 127 | .fp16 => 15 | .bf16 => 127 | .e4m3 => 7
  | .e5m2 => 15 | .e3m2 => 3 | .e2m1 => 1 | .int8 => 0 | .int32 => 0

/-- Whether the format is an integer format. -/
def Fmt.isInt : Fmt → Bool
  | .int8 => true | .int32 => true | _ => false

/-- Formats that mark infinity and NaN with an all-ones exponent (R118). -/
def Fmt.ieee : Fmt → Bool
  | .fp64 => true | .fp32 => true | .fp16 => true | .bf16 => true | .e5m2 => true | _ => false

/-- Formats of MX block form (R122). -/
def Fmt.mx : Fmt → Bool
  | .e4m3 => true | .e5m2 => true | .e3m2 => true | .e2m1 => true | .int8 => true | _ => false

/-- Encoding of the largest finite magnitude (R118). -/
def Fmt.maxBits : Fmt → Nat
  | .fp64 => 0x7FEFFFFFFFFFFFFF | .fp32 => 0x7F7FFFFF | .fp16 => 0x7BFF | .bf16 => 0x7F7F
  | .e4m3 => 0x7E | .e5m2 => 0x7B | .e3m2 => 0x1F | .e2m1 => 0x7 | .int8 => 127 | .int32 => 2147483647

/-- The NaN written (R118); a format without NaN writes +0 (R135, R170). -/
def Fmt.nanBits : Fmt → Nat
  | .fp64 => 0x7FF8000000000000 | .fp32 => 0x7FC00000 | .fp16 => 0x7E00 | .bf16 => 0x7FC0
  | .e4m3 => 0x7F | .e5m2 => 0x7E | _ => 0

/-- Elements of a vector register (R121). -/
def Fmt.elems : Fmt → Nat
  | .fp64 => 8 | .fp32 => 16 | .int32 => 16 | _ => 32

/-- An exact fraction; the denominator is above 0. -/
structure Q where
  n : Int
  d : Nat
  deriving DecidableEq, Repr

/-- The value of an element: NaN, an infinity, or a finite value with its sign bit. -/
inductive FVal where
  | nan
  | inf (neg : Bool)
  | fin (neg : Bool) (q : Q)
  deriving DecidableEq, Repr

/-- m × 2^e as a fraction. -/
def Q.scale (m : Int) (e : Int) : Q := if 0 ≤ e then ⟨m * 2 ^ e.toNat, 1⟩ else ⟨m, 2 ^ (-e).toNat⟩

def Q.add (a b : Q) : Q := ⟨a.n * b.d + b.n * a.d, a.d * b.d⟩
def Q.mul (a b : Q) : Q := ⟨a.n * b.n, a.d * b.d⟩
def Q.neg (a : Q) : Q := ⟨-a.n, a.d⟩

/-- a / b for b not zero. -/
def Q.div (a b : Q) : Q := if b.n < 0 then ⟨-(a.n * b.d), a.d * b.n.natAbs⟩ else ⟨a.n * b.d, a.d * b.n.natAbs⟩

/-- a < b. -/
def Q.lt (a b : Q) : Bool := decide (a.n * b.d < b.n * a.d)

/-- a = b as values. -/
def Q.eqv (a b : Q) : Bool := decide (a.n * b.d = b.n * a.d)

/-- floor(log2 |a|) for a not zero. -/
def Q.log2 (a : Q) : Int :=
  let n := a.n.natAbs
  let g : Int := (Nat.log2 n : Int) - (Nat.log2 a.d : Int)
  -- n / d lies between 2^(g-1) and 2^(g+1)
  let below : Bool := if 0 ≤ g then decide (n < a.d * 2 ^ g.toNat) else decide (n * 2 ^ (-g).toNat < a.d)
  if below then g - 1 else g

/-- The value that the bits of an element have (R117, R118). -/
def valOf (f : Fmt) (bits : Nat) : FVal :=
  match f with
  | .int8 => .fin (decide (128 ≤ bits % 256)) ⟨signed 8 bits, 1⟩
  | .int32 => .fin (decide (2147483648 ≤ bits % 4294967296)) ⟨signed 32 bits, 1⟩
  | _ =>
    let m := f.frac
    let b := bits % 2 ^ f.width
    let neg := b.testBit (f.width - 1)
    let e := b / 2 ^ m % 2 ^ f.expo
    let fr := b % 2 ^ m
    if f.ieee && e = 2 ^ f.expo - 1 then (if fr = 0 then .inf neg else .nan)
    else if f = .e4m3 && e = 15 && fr = 7 then .nan
    else
      let sg : Int := if neg then -1 else 1
      if e = 0 then .fin neg (Q.scale (sg * fr) (1 - f.bias - m))
      else .fin neg (Q.scale (sg * (fr + 2 ^ m)) (e - f.bias - m))

/-- Rounding modes (R131). -/
inductive RMode where
  | rne | rna | rtz | rup | rdn | sr
  deriving DecidableEq, Repr

/-- The mode of a code; 6 and 7 are reserved (R131). -/
def RMode.ofCode : Nat → Option RMode
  | 0 => some .rne | 1 => some .rna | 2 => some .rtz | 3 => some .rup | 4 => some .rdn | 5 => some .sr
  | _ => none

/-- The sign and overflow rule of R133 on magnitude bits: `over` is the overflow result. -/
def overflowBits (f : Fmt) (rm : RMode) (sat neg : Bool) : Nat :=
  let sgn := if neg then 2 ^ (f.width - 1) else 0
  let big := sgn + f.maxBits
  let infB := if f = .e4m3 then f.nanBits else sgn + (2 ^ f.expo - 1) * 2 ^ f.frac
  if f.isInt then (if neg then 2 ^ (f.width - 1) else f.maxBits)
  else if sat || f = .e3m2 || f = .e2m1 then big
  else match rm with
    | .rtz => big
    | .rup => if neg then big else infB
    | .rdn => if neg then infB else big
    | _ => infB

/-- Whether the magnitude rises from k to k + 1: `half` compares the rest with half a step, `srUp` is the choice of
stochastic rounding away from zero (R131, R138). -/
def roundsUp (rm : RMode) (neg : Bool) (k : Nat) (half : Ordering) (srUp : Bool) : Bool :=
  match rm with
  | .rne => half = .gt || (half = .eq && k % 2 = 1)
  | .rna => half != .lt
  | .rtz => false
  | .rup => !neg
  | .rdn => neg
  | .sr => srUp

/-- Encode a rounded magnitude k × 2^qe with its sign, with the overflow of R133. -/
def encodeMag (f : Fmt) (rm : RMode) (sat neg : Bool) (k : Nat) (qe : Int) : Nat :=
  if f.isInt then
    let lim := if neg then 2 ^ (f.width - 1) else f.maxBits
    if lim < k then overflowBits f rm sat neg
    else if neg then (2 ^ f.width - k) % 2 ^ f.width else k
  else
    let emin : Int := 1 - f.bias
    let bits := (qe - (emin - f.frac)).toNat * 2 ^ f.frac + k
    if f.maxBits < bits then overflowBits f rm sat neg
    else (if neg then 2 ^ (f.width - 1) else 0) + bits

/-- Exponent of the grid spacing at a value of exponent e: subnormals below, the top binade's spacing above (R132). -/
def gridExp (f : Fmt) (e : Int) : Int :=
  if f.isInt then 0
  else
    let emin : Int := 1 - f.bias
    let emax : Int := (f.maxBits / 2 ^ f.frac : Nat) - f.bias
    (min (max e emin) emax) - f.frac

/-- R132 to R134: round an exact fraction once. `r` is the random word of R138, used only by `sr`. -/
def roundTo (f : Fmt) (rm : RMode) (sat : Bool) (r : Nat) (x : Q) : Nat :=
  if x.n = 0 then 0
  else
    let neg := decide (x.n < 0)
    let qe := gridExp f x.log2
    let num := if 0 ≤ qe then x.n.natAbs else x.n.natAbs * 2 ^ (-qe).toNat
    let den := if 0 ≤ qe then x.d * 2 ^ qe.toNat else x.d
    let k := num / den
    let rest := num % den
    if rest = 0 then encodeMag f rm sat neg k qe
    else
      -- hi is taken when r < floor(f × 2^32); for a negative x, hi is the smaller magnitude
      let fr := if neg then den - rest else rest
      let hi := decide (r < fr * 2 ^ 32 / den)
      let srUp := if neg then !hi else hi
      let k' := if roundsUp rm neg k (compare (2 * rest) den) srUp then k + 1 else k
      if k' = 0 then (if neg && !f.isInt then 2 ^ (f.width - 1) else 0) else encodeMag f rm sat neg k' qe

/-- Integer square root, bit by bit from the top. -/
def isqrtAux : Nat → Nat → Nat → Nat
  | 0, _, r => r
  | i + 1, n, r => let c := r + 2 ^ i; isqrtAux i n (if c * c ≤ n then c else r)

/-- floor(sqrt n). -/
def isqrt (n : Nat) : Nat := isqrtAux (Nat.log2 n / 2 + 1) n 0

/-- The exact square root of a positive fraction, rounded once (R178). -/
def roundSqrt (f : Fmt) (rm : RMode) (sat : Bool) (x : Q) : Nat :=
  if x.n ≤ 0 then 0
  else
    let qe := gridExp f (x.log2 / 2)
    let num := if 0 ≤ qe then x.n.natAbs else x.n.natAbs * 2 ^ (2 * (-qe).toNat)
    let den := if 0 ≤ qe then x.d * 2 ^ (2 * qe.toNat) else x.d
    let k := isqrt (num / den)
    if k * k * den = num then encodeMag f rm sat false k qe
    else
      let half := compare (4 * num) ((2 * k + 1) * (2 * k + 1) * den)
      encodeMag f rm sat false (if roundsUp rm false k half false then k + 1 else k) qe

/-- The result of an infinity in a format (the `POS_INF` and `NEG_INF` rows of R135, also R170). -/
def infBits (f : Fmt) (sat neg : Bool) : Nat :=
  let sgn := if neg then 2 ^ (f.width - 1) else 0
  if f.isInt then (if neg then 2 ^ (f.width - 1) else f.maxBits)
  else if f.ieee then sgn + (2 ^ f.expo - 1) * 2 ^ f.frac
  else if f = .e4m3 then (if sat then sgn + f.maxBits else f.nanBits)
  else sgn + f.maxBits

/-- Round any value once: R132-R135. An exact zero gives +0 (R134). -/
def roundVal (f : Fmt) (rm : RMode) (sat : Bool) (r : Nat) : FVal → Nat
  | .nan => f.nanBits
  | .inf neg => infBits f sat neg
  | .fin _ q => roundTo f rm sat r q

/-! ## Register layout and memory packing (R120, R121) -/

/-- Lowest bit of element i in a vector register (R121). -/
def elemPos (f : Fmt) (i : Nat) : Nat :=
  match f.elems with
  | 8 => 64 * i
  | 16 => 32 * i
  | _ => 16 * i

/-- Bits an element owns in the register: its half or lane. -/
def elemSpan (f : Fmt) : Nat :=
  match f.elems with
  | 8 => 64
  | 16 => 32
  | _ => 16

/-- Element i of a register: `el(v, i)`. -/
def el (f : Fmt) (v : BitVec 512) (i : Nat) : Nat := (v >>> elemPos f i).toNat % 2 ^ f.width

/-- Write element i of a register, zeros above it: `put(v, i, x)`. -/
def put (f : Fmt) (v : BitVec 512) (i : Nat) (x : Nat) : BitVec 512 :=
  let p := elemPos f i
  let hole : BitVec 512 := BitVec.ofNat 512 (2 ^ elemSpan f - 1) <<< p
  (v &&& ~~~hole) ||| (BitVec.ofNat 512 (x % 2 ^ f.width) <<< p)

/-- Bytes of a packed register (R120, R162). -/
def Fmt.bytes (f : Fmt) : Nat := f.elems * f.width / 8

/-- Unpack one register from its packed bytes. -/
def unpackReg (f : Fmt) (bs : List Byte) : BitVec 512 :=
  let n := leNat bs
  (upTo f.elems).foldl (fun v i => put f v i (n / 2 ^ (i * f.width))) 0

/-- Pack one register. -/
def packReg (f : Fmt) (v : BitVec 512) : List Byte :=
  toLE f.bytes ((upTo f.elems).foldl (fun n i => n + el f v i * 2 ^ (i * f.width)) 0)

/-- The 32-bit lane j of a register. -/
def laneOf (v : BitVec 512) (j : Nat) : Nat := (v >>> (32 * j)).toNat % 2 ^ 32

/-- Write lane j. -/
def setLane (v : BitVec 512) (j x : Nat) : BitVec 512 := put .int32 v j x

/-! ## MX block form (R122, R137) -/

/-- The value of an element under a block scale S (R122). -/
def mxValue (f : Fmt) (bits s : Nat) : FVal :=
  if s = 255 then .nan
  else match valOf f bits with
    | .fin neg q => .fin neg (Q.mul q (Q.scale 1 ((s : Int) - 127 - (if f = .int8 then 6 else 0))))
    | v => v

/-- The largest magnitude of finite values. -/
def maxMag : List FVal → Q
  | [] => ⟨0, 1⟩
  | .fin _ q :: t => let m := maxMag t; let a : Q := ⟨q.n.natAbs, q.d⟩; if Q.lt m a then a else m
  | _ :: t => maxMag t

/-- The e of R137. -/
def mxTop : Fmt → Int
  | .e4m3 => 8 | .e5m2 => 15 | .e3m2 => 4 | .e2m1 => 2 | _ => 0

/-- Form a block of 32 values: its scale and element bits (R137). `r i` is the random word of element i. -/
def mxBlock (f : Fmt) (rm : RMode) (vals : List FVal) (rs : List Nat) : Nat × List Nat :=
  if vals.any (fun v => match v with | .fin _ _ => false | _ => true) then (255, vals.map fun _ => 0)
  else
    let m := maxMag vals
    if m.n = 0 then (0, vals.map fun _ => 0)
    else
      let s := (max 0 (min 254 (m.log2 - mxTop f + 127))).toNat
      let k : Int := 127 - s + (if f = .int8 then 6 else 0)
      (s, (vals.zip rs).map fun p => match p.1 with
        | .fin _ q => roundTo f rm true p.2 (Q.mul q (Q.scale 1 k))
        | _ => 0)

/-! ## Stochastic rounding (R138) -/

/-- n rounds of Philox-4x32. The manual names Philox-4x32-10 and gives no constants: those of its definition by
Salmon, Moraes, Dror and Shaw are taken (assumption log 9, PRESUMED). -/
def philoxRounds : Nat → Nat → Nat → Nat → Nat → Nat → Nat → Nat
  | 0, c0, _, _, _, _, _ => c0
  | n + 1, c0, c1, c2, c3, k0, k1 =>
    let p0 := 0xD2511F53 * c0
    let p1 := 0xCD9E8D57 * c2
    philoxRounds n ((p1 / 2 ^ 32) ^^^ c1 ^^^ k0) (p1 % 2 ^ 32) ((p0 / 2 ^ 32) ^^^ c3 ^^^ k1) (p0 % 2 ^ 32)
      ((k0 + 0x9E3779B9) % 2 ^ 32) ((k1 + 0xBB67AE85) % 2 ^ 32)

/-- The random word of an element (R138). -/
def philoxWord (seed index epoch : Nat) : Nat :=
  philoxRounds 10 (index % 2 ^ 32) (index / 2 ^ 32 % 2 ^ 32) (epoch % 2 ^ 32) (epoch / 2 ^ 32 % 2 ^ 32)
    (seed % 2 ^ 32) (seed / 2 ^ 32 % 2 ^ 32)

/-! ## Conversion (R139) -/

/-- Round the value of a source element to its target, with the random word of `SR`. A zero gives +0 (R134); an FP64 result
follows binary64, so that a zero keeps its sign there (R132, assumption log 157). -/
def convertWith (dst : Fmt) (rm : RMode) (sat : Bool) (r : Nat) : FVal → Nat
  | .fin neg q => if q.n = 0 then (if dst = .fp64 && neg then 2 ^ 63 else 0) else roundTo dst rm sat r q
  | v => roundVal dst rm sat r v

/-- The same without a random word. -/
def convertVal (dst : Fmt) (rm : RMode) (sat : Bool) (v : FVal) : Nat := convertWith dst rm sat 0 v

/-- Convert one element (R139). -/
def convert (src dst : Fmt) (rm : RMode) (sat : Bool) (bits : Nat) : Nat := convertVal dst rm sat (valOf src bits)

end Sys2Proof.Machine
end

