-- ==== Sys2Proof/Machine/Accum.lean ====
section
/-! DEFINITION. The exact accumulator lane: adding terms, merging, carry form, final rounding (R124-R130, R135, R136, R140). -/
namespace Sys2Proof.Machine

/-- One accumulator lane (R124). `special`: 0 FINITE, 1 POS_INF, 2 NEG_INF, 3 NAN. -/
structure Lane where
  value : BitVec 320
  count : Nat
  emax : Int
  special : Nat
  deriving DecidableEq, Repr

/-- The initial lane (R124). -/
def Lane.init : Lane := ⟨0, 0, -32768, 0⟩

/-- R126. -/
def combineSpecial (a b : Nat) : Nat :=
  if a = 0 then b else if b = 0 then a else if a = b then a else 3

/-- COUNT rises by k, saturating at 2^40 - 1 with `NAN` (R125, R130). -/
def Lane.addCount (l : Lane) (k : Nat) : Lane :=
  if 2 ^ 40 - 1 < l.count + k then { l with count := 2 ^ 40 - 1, special := 3 } else { l with count := l.count + k }

/-- `add_term`: add a term with multiplicity k (R125). -/
def Lane.add (l : Lane) (t : FVal) (k : Nat) : Lane :=
  let l := l.addCount k
  match t with
  | .nan => { l with special := combineSpecial l.special 3 }
  | .inf neg => { l with special := combineSpecial l.special (if neg then 2 else 1) }
  | .fin _ q =>
    if q.n = 0 then l
    else { l with
      value := l.value + BitVec.ofInt 320 (q.n * k * 2 ^ 152 / q.d)
      emax := max l.emax (q.log2 + 1) }

/-- R130. -/
def Lane.merge (a b : Lane) : Lane :=
  let l := a.addCount b.count
  { l with
    value := a.value + b.value
    emax := max a.emax b.emax
    special := combineSpecial l.special b.special }

/-- ceil(log2 n); 0 for n = 0, for which R127 gives nothing (log 180). -/
def ceilLog2 (n : Nat) : Nat := if n ≤ 1 then 0 else Nat.log2 (n - 1) + 1

/-- R127. -/
def Lane.overflow (l : Lane) : Bool :=
  l.special = 0 && l.emax != -32768 && decide (167 < l.emax + ceilLog2 l.count)

/-- The exact sum, or mean (R136), that the lane stands for at its final rounding (R135). -/
def Lane.val (l : Lane) (mean : Bool) : FVal :=
  if l.special = 3 || l.overflow then .nan
  else if l.special = 1 then (if mean && l.count = 0 then .nan else .inf false)
  else if l.special = 2 then (if mean && l.count = 0 then .nan else .inf true)
  else if mean && l.count = 0 then .nan
  else
    let n := l.value.toInt
    .fin (decide (n < 0)) ⟨n, 2 ^ 152 * (if mean then l.count else 1)⟩

/-- Whether the lane is reported (R135, R136). -/
def Lane.reported (l : Lane) (mean : Bool) : Bool := l.special = 3 || l.overflow || (mean && l.count = 0)

/-- The final rounding of a lane (R135, R136). -/
def Lane.round (l : Lane) (f : Fmt) (rm : RMode) (sat mean : Bool) (r : Nat) : Nat := roundVal f rm sat r (l.val mean)

/-- Word i of VALUE. -/
def Lane.word (l : Lane) (i : Nat) : Nat := (l.value >>> (64 * i)).toNat % 2 ^ 64

/-- Exact carry form of a lane (R129). -/
def Lane.form (l : Lane) : List Byte :=
  let ws := (upTo 5).filter fun i => l.word i != 0
  let mask := ws.foldl (fun m i => m + 2 ^ i) 0
  BitVec.ofNat 8 (mask + 32 * l.special) :: toLE 2 (unsigned 16 l.emax) ++ toLE 5 l.count
    ++ ws.flatMap fun i => toLE 8 (l.word i)

/-- Read one lane form from the front of a list: the lane, whether its reserved bit is set, and the rest. -/
def Lane.read (bs : List Byte) : Option (Lane × Bool × List Byte) :=
  match bs with
  | [] => none
  | b :: _ =>
    let h := b.toNat
    let ws := (upTo 5).filter fun i => h.testBit i
    let n := 8 + 8 * ws.length
    if bs.length < n then none
    else
      let v := (enum' ws).foldl (fun a p => a + leAt bs (8 + 8 * p.1) 8 * 2 ^ (64 * p.2)) 0
      some (⟨BitVec.ofNat 320 v, leAt bs 3 5, signed 16 (leAt bs 1 2), h / 32 % 4⟩, h.testBit 7, bs.drop n)

/-- The 16 lane forms of an item in carry form: the lanes and whether any form is malformed (R129, R155). -/
def Lane.readMany : Nat → List Byte → Option (List Lane × Bool)
  | 0, _ => some ([], false)
  | n + 1, bs =>
    match Lane.read bs with
    | none => none
    | some (l, bad, rest) =>
      match Lane.readMany n rest with
      | none => none
      | some (ls, bad') => some (l :: ls, bad || bad')

/-- The sign-of-zero rule of IEEE 754 for a binary64 sum that is exactly zero. -/
def zeroSumNeg (rm : RMode) (na nb : Bool) : Bool := if na = nb then na else rm = .rdn

/-- An IEEE 754 binary64 sum (R119, R140). -/
def fp64Add (rm : RMode) (sat : Bool) (a b : Nat) : Nat :=
  match valOf .fp64 a, valOf .fp64 b with
  | .nan, _ => Fmt.nanBits .fp64
  | _, .nan => Fmt.nanBits .fp64
  | .inf s, .inf t => if s = t then infBits .fp64 sat s else Fmt.nanBits .fp64
  | .inf s, _ => infBits .fp64 sat s
  | _, .inf t => infBits .fp64 sat t
  | .fin na p, .fin nb q =>
    let x := Q.add p q
    if x.n = 0 then (if zeroSumNeg rm na nb then 2 ^ 63 else 0) else roundTo .fp64 rm sat 0 x

/-- One level of the fixed tree: node i combines nodes 2i and 2i + 1; an only child passes on (R140). -/
def fp64Level : List (Option Nat) → List (Option Nat)
  | a :: b :: t =>
    (match a, b with
     | some x, some y => some (fp64Add .rne false x y)
     | some x, none => some x
     | none, y => y) :: fp64Level t
  | [a] => [a]
  | [] => []

/-- The root of the fixed tree of R140 over contributions in order; the fuel is the number of levels. -/
def fp64Tree : Nat → List (Option Nat) → Option Nat
  | _, [] => none
  | _, [a] => a
  | 0, a :: _ => a
  | n + 1, l => fp64Tree n (fp64Level l)

/-- A binary64 division of a root by a whole number (R140); `r` is the random word of `SR`. -/
def fp64DivNat (rm : RMode) (sat : Bool) (r a n : Nat) : Nat :=
  match valOf .fp64 a with
  | .fin neg q => if q.n = 0 then (if neg then 2 ^ 63 else 0) else roundTo .fp64 rm sat r ⟨q.n, q.d * n⟩
  | v => roundVal .fp64 rm sat r v

end Sys2Proof.Machine
end

