-- ==== Sys2Proof/Machine/RegMap.lean ====
section
/-! DEFINITION. The register map of BAR0 (18_host_registers.md R485 and the register tables of every chapter): one
constant per field, with its address, array shape, bits, access code, reset value and range rule. -/
namespace Sys2Proof.Machine

/-- Access codes of the reading conventions (00_scope.md). -/
inductive Acc where
  | ro | rw | rws | w1c | boot
  deriving DecidableEq, Repr

/-- How a staged or written value that breaks its field's range is clamped. -/
inductive Clamp where
  | none
  | rng (lo hi : Nat)        -- out-of-range values clamp to the nearer end
  | low (bound tgt : Nat)    -- values below the bound clamp to a given value
  | bad (v tgt : Nat)        -- one reserved value clamps to a given value
  deriving DecidableEq, Repr

/-- One register field. Field i of an array lies `i / inner` strides and `i % inner` inner strides above the base. -/
structure Fld where
  base : Nat
  count : Nat
  stride : Nat
  inner : Nat
  istride : Nat
  lo : Nat
  w : Nat
  acc : Acc
  reset : Nat
  clamp : Clamp
  deriving DecidableEq, Repr

/-- The address of the register that holds field i. -/
def Fld.addr (f : Fld) (i : Nat) : Nat := f.base + i / f.inner * f.stride + i % f.inner * f.istride

/-- The key of field i in the register file: its address and its lowest bit. -/
def Fld.key (f : Fld) (i : Nat) : Nat := f.addr i * 1024 + f.lo

/-- The clamp of a value (R496 step 1). -/
def Clamp.app : Clamp → Nat → Nat
  | .none, v => v
  | .rng lo hi, v => if v < lo then lo else if hi < v then hi else v
  | .low b t, v => if v < b then t else v
  | .bad b t, v => if v = b then t else v

namespace R
/-- TIME_NOW TIME_NS (01): Current time in ns -/
def TIME_NOW_TIME_NS : Fld := ⟨0x100000, 1, 0x8, 1, 0, 0, 64, .ro, 0, .none⟩
/-- EPOCH_NOW EPOCH (01): Current epoch number -/
def EPOCH_NOW_EPOCH : Fld := ⟨0x100008, 1, 0x8, 1, 0, 0, 64, .ro, 0, .none⟩
/-- EPOCH_CFG EPOCH_LEN_US (01): Epoch length in µs, 10–100,000. Out-of-range values clamp to the nearer end. -/
def EPOCH_CFG_EPOCH_LEN_US : Fld := ⟨0x100010, 1, 0x8, 1, 0, 0, 17, .rws, 0x3e8, .rng 10 100000⟩
/-- TIME_CTL TIME_ROLE (01): 0 FOLLOWER, 1 GRANDMASTER, 2 STANDALONE; 3 clamps to 0 -/
def TIME_CTL_TIME_ROLE : Fld := ⟨0x100018, 1, 0x8, 1, 0, 0, 2, .rws, 0, .bad 3 0⟩
/-- TIME_CTL EXT_PPS_EN (01): Discipline time to the 1PPS input; used only as grandmaster -/
def TIME_CTL_EXT_PPS_EN : Fld := ⟨0x100018, 1, 0x8, 1, 0, 2, 1, .rws, 0, .none⟩
/-- TIME_CTL EXT_10M_EN (01): Use the 10 MHz input as reference; used only as grandmaster -/
def TIME_CTL_EXT_10M_EN : Fld := ⟨0x100018, 1, 0x8, 1, 0, 3, 1, .rws, 0, .none⟩
/-- TIME_STATUS TIME_STATE (01): 0 FREE, 1 ACQUIRING, 2 LOCKED, 3 HOLDOVER -/
def TIME_STATUS_TIME_STATE : Fld := ⟨0x100020, 1, 0x8, 1, 0, 0, 3, .ro, 0, .none⟩
/-- TIME_STATUS OFFSET_NS (01): Last measured offset from the grandmaster, signed, saturating at ±32,767 ns -/
def TIME_STATUS_OFFSET_NS : Fld := ⟨0x100020, 1, 0x8, 1, 0, 16, 16, .ro, 0, .none⟩
/-- TIME_STATUS SYNC_PORT (01): Port giving time; 0xFF when none -/
def TIME_STATUS_SYNC_PORT : Fld := ⟨0x100020, 1, 0x8, 1, 0, 32, 8, .ro, 0xff, .none⟩
/-- GALLERY_GRANT MASK (01): Bit g grants gallery g to partition p; clamped under R38 -/
def GALLERY_GRANT_MASK : Fld := ⟨0x801000, 64, 0x8, 1, 0, 0, 32, .rws, 0, .none⟩
/-- WIN PART (02): Partition, 0–63 -/
def WIN_PART : Fld := ⟨0x208000, 1024, 0x10, 1, 0, 0, 6, .boot, 0, .none⟩
/-- WIN VALID (02): Window in use -/
def WIN_VALID : Fld := ⟨0x208000, 1024, 0x10, 1, 0, 6, 1, .boot, 0, .none⟩
/-- WIN NODE_LO (02): Lowest destination node -/
def WIN_NODE_LO : Fld := ⟨0x208000, 1024, 0x10, 1, 0, 8, 15, .boot, 0, .none⟩
/-- WIN NODE_HI (02): Highest destination node -/
def WIN_NODE_HI : Fld := ⟨0x208000, 1024, 0x10, 1, 0, 24, 15, .boot, 0, .none⟩
/-- WIN R_READ (02): LOAD, BULK_GET, gather and pooled look-up -/
def WIN_R_READ : Fld := ⟨0x208000, 1024, 0x10, 1, 0, 40, 1, .boot, 0, .none⟩
/-- WIN R_WRITE (02): STORE, BULK_PUT, BULK_PUT_MASKED, scatter -/
def WIN_R_WRITE : Fld := ⟨0x208000, 1024, 0x10, 1, 0, 41, 1, .boot, 0, .none⟩
/-- WIN R_ATOMIC (02): Atomics -/
def WIN_R_ATOMIC : Fld := ⟨0x208000, 1024, 0x10, 1, 0, 42, 1, .boot, 0, .none⟩
/-- WIN R_COHERENT (02): Coherent requests -/
def WIN_R_COHERENT : Fld := ⟨0x208000, 1024, 0x10, 1, 0, 43, 1, .boot, 0, .none⟩
/-- WIN R_LAUNCH (02): LAUNCH -/
def WIN_R_LAUNCH : Fld := ⟨0x208000, 1024, 0x10, 1, 0, 44, 1, .boot, 0, .none⟩
/-- WIN BASE_1M (02): OFFSET[47:20] of the first MiB -/
def WIN_BASE_1M : Fld := ⟨0x208000, 1024, 0x10, 1, 0, 64, 28, .boot, 0, .none⟩
/-- WIN LIMIT_1M (02): OFFSET[47:20] of the last MiB -/
def WIN_LIMIT_1M : Fld := ⟨0x208000, 1024, 0x10, 1, 0, 92, 28, .boot, 0, .none⟩
/-- XACT_CFG REMOTE_TIMEOUT_US (02): 10–100,000. Out-of-range values clamp to the nearer end. -/
def XACT_CFG_REMOTE_TIMEOUT_US : Fld := ⟨0x204000, 1, 0x8, 1, 0, 0, 17, .rws, 0x3e8, .rng 10 100000⟩
/-- ANSWER_CFG ANSWER_RETAIN_US (02): Clamped to no less than 4 × REMOTE_TIMEOUT_US as committed at the same boundary, and ... -/
def ANSWER_CFG_ANSWER_RETAIN_US : Fld := ⟨0x204008, 1, 0x8, 1, 0, 0, 20, .rws, 0xfa0, .rng 0 1000000⟩
/-- ANSWER_STATUS ENTRIES_LIVE (02): Answer memory entries not free -/
def ANSWER_STATUS_ENTRIES_LIVE : Fld := ⟨0x204010, 1, 0x8, 1, 0, 0, 25, .ro, 0, .none⟩
/-- LATE_ANSWERS COUNT (02): Answers dropped after their tracker entry timed out -/
def LATE_ANSWERS_COUNT : Fld := ⟨0x204018, 1, 0x8, 1, 0, 0, 64, .ro, 0, .none⟩
/-- NODE_SELF NODE (02): This switch's node number -/
def NODE_SELF_NODE : Fld := ⟨0x204020, 1, 0x8, 1, 0, 0, 15, .boot, 0x7fff, .none⟩
/-- ETH_CFG ETHERTYPE (02): EtherType of the Ethernet bulk personality. Values below 0x0600 clamp to 0x88B5. -/
def ETH_CFG_ETHERTYPE : Fld := ⟨0x204028, 1, 0x8, 1, 0, 0, 16, .rws, 0x88b5, .low 0x0600 0x88B5⟩
/-- FAULT_WR COUNT (02): Records written since reset. The newest is at index (COUNT − 1) mod 256. -/
def FAULT_WR_COUNT : Fld := ⟨0x20c000, 64, 0x20, 1, 0, 0, 64, .ro, 0, .none⟩
/-- FAULT_RD COUNT (02): Records consumed by software -/
def FAULT_RD_COUNT : Fld := ⟨0x20c008, 64, 0x20, 1, 0, 0, 64, .rw, 0, .none⟩
/-- FAULT_LOST COUNT (02): Records overwritten while FAULT_WR − FAULT_RD exceeded 256 -/
def FAULT_LOST_COUNT : Fld := ⟨0x20c010, 64, 0x20, 1, 0, 0, 64, .w1c, 0, .none⟩
/-- FAULT_IRQ EN (02): Interrupt while FAULT_WR ≠ FAULT_RD -/
def FAULT_IRQ_EN : Fld := ⟨0x20c018, 64, 0x20, 1, 0, 0, 1, .rw, 0, .none⟩
/-- ETH_PORT PORT_PKEY (02): Key stamped on frames from the port (R75). A value outside the port's key set clamps ... -/
def ETH_PORT_PORT_PKEY : Fld := ⟨0x400400, 128, 0x1000, 1, 0, 0, 16, .rws, 0, .none⟩
/-- ETH_DROP COUNT (02): Frames dropped with the landing full -/
def ETH_DROP_COUNT : Fld := ⟨0x400408, 128, 0x1000, 1, 0, 0, 64, .ro, 0, .none⟩
/-- ETH_FCS_BAD COUNT (02): Frames dropped for a bad FCS -/
def ETH_FCS_BAD_COUNT : Fld := ⟨0x400410, 128, 0x1000, 1, 0, 0, 64, .ro, 0, .none⟩
/-- ETH_OVERSIZE COUNT (02): Frames dropped for exceeding 9,216 bytes -/
def ETH_OVERSIZE_COUNT : Fld := ⟨0x400418, 128, 0x1000, 1, 0, 0, 64, .ro, 0, .none⟩
/-- ETH_ETYPE_DROP COUNT (02): Frames dropped for an EtherType other than ETHERTYPE -/
def ETH_ETYPE_DROP_COUNT : Fld := ⟨0x400420, 128, 0x1000, 1, 0, 0, 64, .ro, 0, .none⟩
/-- SFAULT_WR COUNT (03): Records written since reset. The newest is at index (COUNT − 1) mod 64. -/
def SFAULT_WR_COUNT : Fld := ⟨0x880000, 64, 0x20, 1, 0, 0, 64, .ro, 0, .none⟩
/-- SFAULT_RD COUNT (03): Records consumed by software -/
def SFAULT_RD_COUNT : Fld := ⟨0x880008, 64, 0x20, 1, 0, 0, 64, .rw, 0, .none⟩
/-- SFAULT_LOST COUNT (03): Records overwritten while SFAULT_WR − SFAULT_RD exceeded 64 -/
def SFAULT_LOST_COUNT : Fld := ⟨0x880010, 64, 0x20, 1, 0, 0, 64, .w1c, 0, .none⟩
/-- SFAULT_IRQ EN (03): Interrupt while SFAULT_WR ≠ SFAULT_RD -/
def SFAULT_IRQ_EN : Fld := ⟨0x880018, 64, 0x20, 1, 0, 0, 1, .rw, 0, .none⟩
/-- PROG_CFG PROG_LIMIT_US (03): Default time limit, 10–100,000. Out-of-range values clamp to the nearer end. -/
def PROG_CFG_PROG_LIMIT_US : Fld := ⟨0x800000, 1, 0x8, 1, 0, 0, 17, .rws, 0x2710, .rng 10 100000⟩
/-- PROG_STATUS INSTANCES (03): Instances dispatched since reset -/
def PROG_STATUS_INSTANCES : Fld := ⟨0x800008, 1, 0x8, 1, 0, 0, 64, .ro, 0, .none⟩
/-- COL_UNGRANTED COUNT (06): Segments dropped for lack of credit -/
def COL_UNGRANTED_COUNT : Fld := ⟨0x220000, 1, 0x8, 1, 0, 0, 64, .ro, 0, .none⟩
/-- COL_STALE COUNT (06): Segments and aborts dropped under R204 and R221 -/
def COL_STALE_COUNT : Fld := ⟨0x220008, 1, 0x8, 1, 0, 0, 64, .ro, 0, .none⟩
/-- TT_STATUS LIVE (06): A timetable runs -/
def TT_STATUS_LIVE : Fld := ⟨0x220010, 1, 0x8, 1, 0, 0, 1, .ro, 0, .none⟩
/-- TT_STATUS MISMATCH (06): R24 holds at the last boundary -/
def TT_STATUS_MISMATCH : Fld := ⟨0x220010, 1, 0x8, 1, 0, 1, 1, .ro, 0, .none⟩
/-- TT_STATUS STAGED (06): A loaded image awaits its boundary -/
def TT_STATUS_STAGED : Fld := ⟨0x220010, 1, 0x8, 1, 0, 2, 1, .ro, 0, .none⟩
/-- TT_STATUS NSLOTS (06): Slots of the live timetable -/
def TT_STATUS_NSLOTS : Fld := ⟨0x220010, 1, 0x8, 1, 0, 16, 13, .ro, 0, .none⟩
/-- TT_ID ID (06): TT_ID of the live timetable; 0 when none -/
def TT_ID_ID : Fld := ⟨0x220018, 1, 0x8, 1, 0, 0, 64, .ro, 0, .none⟩
/-- TT_OVERRUNS COUNT (06): Slot triggers that found their context RUNNING -/
def TT_OVERRUNS_COUNT : Fld := ⟨0x220020, 1, 0x8, 1, 0, 0, 64, .ro, 0, .none⟩
/-- COL_CTX STATE (06): 0 FREE, 2 ARMED, 3 RUNNING, 4 ABORTED; 1 and 5–7 unused -/
def COL_CTX_STATE : Fld := ⟨0x240000, 8192, 0x40, 1, 0, 0, 3, .ro, 0, .none⟩
/-- COL_CTX RP (06): Parity of the current or last run -/
def COL_CTX_RP : Fld := ⟨0x240000, 8192, 0x40, 1, 0, 3, 1, .ro, 0, .none⟩
/-- COL_CTX CLOSE_PENDING (06): Close waits for the run to end -/
def COL_CTX_CLOSE_PENDING : Fld := ⟨0x240000, 8192, 0x40, 1, 0, 4, 1, .ro, 0, .none⟩
/-- COL_CTX NO_GALLERY (06): No gallery is allowed for the context (R195) -/
def COL_CTX_NO_GALLERY : Fld := ⟨0x240000, 8192, 0x40, 1, 0, 5, 1, .ro, 0, .none⟩
/-- COL_CTX GALLERY (06): Gallery of the context -/
def COL_CTX_GALLERY : Fld := ⟨0x240000, 8192, 0x40, 1, 0, 8, 5, .ro, 0, .none⟩
/-- COL_CTX PENDING (06): Pending triggers -/
def COL_CTX_PENDING : Fld := ⟨0x240000, 8192, 0x40, 1, 0, 16, 16, .ro, 0, .none⟩
/-- COL_CTX RUNS_DONE (06): Runs ended without abort -/
def COL_CTX_RUNS_DONE : Fld := ⟨0x240008, 8192, 0x40, 1, 0, 0, 64, .ro, 0, .none⟩
/-- COL_CTX RUNS_ABORTED (06): Runs aborted -/
def COL_CTX_RUNS_ABORTED : Fld := ⟨0x240010, 8192, 0x40, 1, 0, 0, 64, .ro, 0, .none⟩
/-- COL_CTX LAST_REASON (06): REASON of the last abort -/
def COL_CTX_LAST_REASON : Fld := ⟨0x240018, 8192, 0x40, 1, 0, 0, 4, .ro, 0, .none⟩
/-- COL_CTX SPECIAL_LANES (06): Lanes reported in the last ended run, saturating -/
def COL_CTX_SPECIAL_LANES : Fld := ⟨0x240018, 8192, 0x40, 1, 0, 32, 32, .ro, 0, .none⟩
/-- COL_CTX FIRST_SPECIAL_POS (06): First reported position of that run -/
def COL_CTX_FIRST_SPECIAL_POS : Fld := ⟨0x240020, 8192, 0x40, 1, 0, 0, 32, .ro, 0, .none⟩
/-- COL_CTX STRETCH_US (06): Largest final lateness of that run, saturating -/
def COL_CTX_STRETCH_US : Fld := ⟨0x240020, 8192, 0x40, 1, 0, 32, 32, .ro, 0, .none⟩
/-- COL_CTX STRETCH_IDX (06): Contributor with that lateness -/
def COL_CTX_STRETCH_IDX : Fld := ⟨0x240028, 8192, 0x40, 1, 0, 0, 14, .ro, 0, .none⟩
/-- TBL VALID (07): Table in use -/
def TBL_VALID : Fld := ⟨0xd00000, 4096, 0x40, 1, 0, 0, 1, .rws, 0, .none⟩
/-- TBL PART (07): Owning partition, 0–63 -/
def TBL_PART : Fld := ⟨0xd00000, 4096, 0x40, 1, 0, 1, 6, .rws, 0, .none⟩
/-- TBL FMT (07): Element format code of R117, 0x0–0x9 -/
def TBL_FMT : Fld := ⟨0xd00000, 4096, 0x40, 1, 0, 8, 4, .rws, 0, .none⟩
/-- TBL MX (07): Rows in MX block form; FMT must be 0x4–0x8 -/
def TBL_MX : Fld := ⟨0xd00000, 4096, 0x40, 1, 0, 12, 1, .rws, 0, .none⟩
/-- TBL ROW_ELEMS (07): Elements per row, a multiple of 32, at least 32 -/
def TBL_ROW_ELEMS : Fld := ⟨0xd00000, 4096, 0x40, 1, 0, 16, 16, .rws, 0, .none⟩
/-- TBL NROWS (07): Rows, 1 to 2^32 − 1 -/
def TBL_NROWS : Fld := ⟨0xd00000, 4096, 0x40, 1, 0, 32, 32, .rws, 0, .none⟩
/-- TBL NSLOTS (07): Slots, 1 to 2^32 − 2 -/
def TBL_NSLOTS : Fld := ⟨0xd00000, 4096, 0x40, 1, 0, 64, 32, .rws, 0, .none⟩
/-- TBL SLOT_BASE (07): Offset of slot 0 in the pool window, a multiple of 1 MiB -/
def TBL_SLOT_BASE : Fld := ⟨0xd00000, 4096, 0x40, 1, 0, 128, 48, .rws, 0, .none⟩
/-- TBL DIR_BASE (07): Offset of the directory area in the pool window, a multiple of 1 MiB -/
def TBL_DIR_BASE : Fld := ⟨0xd00000, 4096, 0x40, 1, 0, 192, 48, .rws, 0, .none⟩
/-- TBL_STATUS READY (07): Directory zeroed; table serves -/
def TBL_STATUS_READY : Fld := ⟨0xd40000, 4096, 0x40, 1, 0, 0, 1, .ro, 0, .none⟩
/-- TBL_STATUS NPINS (07): Distinct pinned versions held, 0–4 -/
def TBL_STATUS_NPINS : Fld := ⟨0xd40000, 4096, 0x40, 1, 0, 1, 3, .ro, 0, .none⟩
/-- TBL_STATUS SLOTS_FREE (07): Free slots -/
def TBL_STATUS_SLOTS_FREE : Fld := ⟨0xd40000, 4096, 0x40, 1, 0, 32, 32, .ro, 0, .none⟩
/-- TBL_VER LIVE_VER (07): Live version -/
def TBL_VER_LIVE_VER : Fld := ⟨0xd40008, 4096, 0x40, 1, 0, 0, 64, .ro, 0, .none⟩
/-- TBL_PIN0 VER (07): Pinned versions; 0 where unused -/
def TBL_PIN0_VER : Fld := ⟨0xd40010, 4096, 0x40, 1, 0, 0, 64, .ro, 0, .none⟩
/-- TBL_PIN1 VER (07): Pinned versions; 0 where unused -/
def TBL_PIN1_VER : Fld := ⟨0xd40018, 4096, 0x40, 1, 0, 0, 64, .ro, 0, .none⟩
/-- TBL_PIN2 VER (07): Pinned versions; 0 where unused -/
def TBL_PIN2_VER : Fld := ⟨0xd40020, 4096, 0x40, 1, 0, 0, 64, .ro, 0, .none⟩
/-- TBL_PIN3 VER (07): Pinned versions; 0 where unused -/
def TBL_PIN3_VER : Fld := ⟨0xd40028, 4096, 0x40, 1, 0, 0, 64, .ro, 0, .none⟩
/-- TBL_SPILL SPILL_ROUNDS (07): Fold rounds beyond the first, since the table became valid -/
def TBL_SPILL_SPILL_ROUNDS : Fld := ⟨0xd40030, 4096, 0x40, 1, 0, 0, 64, .ro, 0, .none⟩
/-- TBL_FETCH FETCHES (07): Row fetches since the table became valid -/
def TBL_FETCH_FETCHES : Fld := ⟨0xd40038, 4096, 0x40, 1, 0, 0, 64, .ro, 0, .none⟩
/-- GDETAIL_WR COUNT (07): Gather detail records written; the newest has SEQ = COUNT − 1 -/
def GDETAIL_WR_COUNT : Fld := ⟨0xdc0000, 64, 0x8, 1, 0, 0, 64, .ro, 0, .none⟩
/-- SET VALID (08): Set in use -/
def SET_VALID : Fld := ⟨0xc20000, 64, 0x200, 1, 0, 0, 1, .rws, 0, .none⟩
/-- SET STAIR (08): 1 Stair 1, 2 Stair 2 -/
def SET_STAIR : Fld := ⟨0xc20000, 64, 0x200, 1, 0, 1, 2, .rws, 1, .none⟩
/-- SET PROT (08): 0 MIRROR2, 1 PARITY -/
def SET_PROT : Fld := ⟨0xc20000, 64, 0x200, 1, 0, 3, 2, .rws, 0, .none⟩
/-- SET NTRAYS (08): MIRROR2: even, 2–32. PARITY: 3–16, with n = NTRAYS − 1 data units per row -/
def SET_NTRAYS : Fld := ⟨0xc20000, 64, 0x200, 1, 0, 5, 6, .rws, 0, .none⟩
/-- SET DRAIN (08): No new granules; held granules move out at MIGRATE_GBPS -/
def SET_DRAIN : Fld := ⟨0xc20000, 64, 0x200, 1, 0, 11, 1, .rws, 0, .none⟩
/-- SET SLOTS (08): Granule slots of the set, as computed below -/
def SET_SLOTS : Fld := ⟨0xc20000, 64, 0x200, 1, 0, 32, 32, .ro, 0, .none⟩
/-- SET TRAY_BYTES (08): Bytes that each tray gives; multiple of 4 KiB -/
def SET_TRAY_BYTES : Fld := ⟨0xc20000, 64, 0x200, 1, 0, 64, 48, .rws, 0, .none⟩
/-- SET SLOTS_FREE (08): Free slots, saturating at 65,535 -/
def SET_SLOTS_FREE : Fld := ⟨0xc20000, 64, 0x200, 1, 0, 112, 16, .ro, 0, .none⟩
/-- TRAY NODE (08): Node of the tray or flash endpoint -/
def TRAY_NODE : Fld := ⟨0xc20040, 2048, 0x200, 32, 8, 0, 15, .rws, 0x7fff, .none⟩
/-- TRAY BASE (08): Offset of the set's region on that node; multiple of 4 KiB -/
def TRAY_BASE : Fld := ⟨0xc20040, 2048, 0x200, 32, 8, 16, 48, .rws, 0, .none⟩
/-- PLACE_PROFILE PROFILE (08): 0 THROUGHPUT, 1 ENERGY, 2 QUIET, 3 EXPERT -/
def PLACE_PROFILE_PROFILE : Fld := ⟨0xc00000, 1, 0x8, 1, 0, 0, 2, .rws, 0, .none⟩
/-- PKG_POWER LIMIT_W (08): Package power limit, 400–1,800 W. Out-of-range values clamp to the nearer end. -/
def PKG_POWER_LIMIT_W : Fld := ⟨0xc00008, 1, 0x8, 1, 0, 0, 11, .rws, 0x708, .rng 400 1800⟩
/-- PKG_POWER MEASURED_W (08): P of the last governor run -/
def PKG_POWER_MEASURED_W : Fld := ⟨0xc00008, 1, 0x8, 1, 0, 16, 11, .ro, 0, .none⟩
/-- PKG_POWER AT_FLOOR (08): R278 holds -/
def PKG_POWER_AT_FLOOR : Fld := ⟨0xc00008, 1, 0x8, 1, 0, 32, 1, .ro, 0, .none⟩
/-- PLACE_HEAT PROMOTE_HEAT (08): EXPERT only; 1–65,535, 0 clamps to 1 -/
def PLACE_HEAT_PROMOTE_HEAT : Fld := ⟨0xc00010, 1, 0x8, 1, 0, 0, 16, .rws, 0x10, .rng 1 65535⟩
/-- PLACE_HEAT PROMOTE_EPOCHS (08): EXPERT only; 1–3, 0 clamps to 1 -/
def PLACE_HEAT_PROMOTE_EPOCHS : Fld := ⟨0xc00010, 1, 0x8, 1, 0, 16, 2, .rws, 1, .rng 1 3⟩
/-- PLACE_HEAT S1_DEMOTE_AGE (08): EXPERT only; epochs; 0 means never -/
def PLACE_HEAT_S1_DEMOTE_AGE : Fld := ⟨0xc00010, 1, 0x8, 1, 0, 32, 16, .rws, 0x3e8, .none⟩
/-- PLACE_FREE FREE_LOW (08): EXPERT only; frames per wing, 0–65,536 -/
def PLACE_FREE_FREE_LOW : Fld := ⟨0xc00018, 1, 0x8, 1, 0, 0, 18, .rws, 0x800, .rng 0 65536⟩
/-- PLACE_FREE FREE_HIGH (08): EXPERT only; clamped to at least FREE_LOW + 256 and at most 131,072 -/
def PLACE_FREE_FREE_HIGH : Fld := ⟨0xc00018, 1, 0x8, 1, 0, 32, 18, .rws, 0x1000, .rng 0 131072⟩
/-- PLACE_RATE MIGRATE_GBPS (08): 1–256 GB/s -/
def PLACE_RATE_MIGRATE_GBPS : Fld := ⟨0xc00020, 1, 0x8, 1, 0, 0, 9, .rws, 0x40, .rng 1 256⟩
/-- PLACE_RATE CUT_GBPS (08): 1–256 GB/s -/
def PLACE_RATE_CUT_GBPS : Fld := ⟨0xc00020, 1, 0x8, 1, 0, 16, 9, .rws, 0x40, .rng 1 256⟩
/-- PLACE_SLEEP GALLERY_IDLE_US (08): EXPERT only; 10–10,000 -/
def PLACE_SLEEP_GALLERY_IDLE_US : Fld := ⟨0xc00028, 1, 0x8, 1, 0, 0, 16, .rws, 0x32, .rng 10 10000⟩
/-- PLACE_SLEEP STACK_IDLE_US (08): EXPERT only; 50–60,000 -/
def PLACE_SLEEP_STACK_IDLE_US : Fld := ⟨0xc00028, 1, 0x8, 1, 0, 16, 16, .rws, 0xc8, .rng 50 60000⟩
/-- PLACE_SLEEP LANE_IDLE_US (08): EXPERT only; 200–60,000 -/
def PLACE_SLEEP_LANE_IDLE_US : Fld := ⟨0xc00028, 1, 0x8, 1, 0, 32, 16, .rws, 0x3e8, .rng 200 60000⟩
/-- TIER_CFG S1_TIMEOUT_US (08): 10–65,535, then the clamp of R266, which may lower it to as little as 1 -/
def TIER_CFG_S1_TIMEOUT_US : Fld := ⟨0xc00030, 1, 0x8, 1, 0, 0, 16, .rws, 0x64, .rng 10 65535⟩
/-- TIER_CFG S2_TIMEOUT_US (08): 50–65,535, then the clamp of R266, which may lower it to as little as 1 -/
def TIER_CFG_S2_TIMEOUT_US : Fld := ⟨0xc00030, 1, 0x8, 1, 0, 16, 16, .rws, 0x190, .rng 50 65535⟩
/-- TIER_CFG SLOW_PCT (08): 120–1,000 -/
def TIER_CFG_SLOW_PCT : Fld := ⟨0xc00030, 1, 0x8, 1, 0, 32, 10, .rws, 0xc8, .rng 120 1000⟩
/-- S0_WING FREE_FRAMES (08): Free granule frames of wing w -/
def S0_WING_FREE_FRAMES : Fld := ⟨0xc00100, 4, 0x8, 1, 0, 0, 18, .ro, 0, .none⟩
/-- S0_WING FRAMES_TOTAL (08): R258 -/
def S0_WING_FRAMES_TOTAL : Fld := ⟨0xc00100, 4, 0x8, 1, 0, 18, 18, .ro, 0, .none⟩
/-- S0_WING GOOD_PCH (08): C of R258 -/
def S0_WING_GOOD_PCH : Fld := ⟨0xc00100, 4, 0x8, 1, 0, 36, 9, .ro, 0, .none⟩
/-- GALLERY_CLK POINT (08): Code of R30 -/
def GALLERY_CLK_POINT : Fld := ⟨0xc00200, 32, 0x8, 1, 0, 0, 4, .ro, 0, .none⟩
/-- GALLERY_CLK CAP (08): Highest point allowed by ageing -/
def GALLERY_CLK_CAP : Fld := ⟨0xc00200, 32, 0x8, 1, 0, 4, 4, .ro, 5, .none⟩
/-- S0_QUOTA QUOTA_GIB (08): Stair 0 quota of partition p. Clamped to the granule frames ÷ 1,024. -/
def S0_QUOTA_QUOTA_GIB : Fld := ⟨0xc10000, 64, 0x10, 1, 0, 0, 10, .rws, 0, .none⟩
/-- S0_USE GRANULES (08): Stair 0 use under R270 -/
def S0_USE_GRANULES : Fld := ⟨0xc10008, 64, 0x10, 1, 0, 0, 20, .ro, 0, .none⟩
/-- S0_USE DEMOTE_PENDING (08): Granules still to demote under R273 -/
def S0_USE_DEMOTE_PENDING : Fld := ⟨0xc10008, 64, 0x10, 1, 0, 20, 20, .ro, 0, .none⟩
/-- PLAN VALID (09): Plan in use -/
def PLAN_VALID : Fld := ⟨0xc40000, 1024, 0x40, 1, 0, 0, 1, .rws, 0, .none⟩
/-- PLAN PART (09): Owning partition, 0–63 -/
def PLAN_PART : Fld := ⟨0xc40000, 1024, 0x40, 1, 0, 1, 6, .rws, 0, .none⟩
/-- PLAN HUSK (09): The source is a Husk stream; otherwise raw bytes -/
def PLAN_HUSK : Fld := ⟨0xc40000, 1024, 0x40, 1, 0, 8, 1, .rws, 0, .none⟩
/-- PLAN EXPAND (09): 0 NONE, 1 AT_LOAD, 2 AT_USE; 3 reserved -/
def PLAN_EXPAND : Fld := ⟨0xc40000, 1024, 0x40, 1, 0, 9, 2, .rws, 0, .none⟩
/-- PLAN PKEY (09): Key under which the plan reads and writes -/
def PLAN_PKEY : Fld := ⟨0xc40000, 1024, 0x40, 1, 0, 16, 16, .rws, 0, .none⟩
/-- PLAN DST_NODE (09): Accelerator that receives the weights -/
def PLAN_DST_NODE : Fld := ⟨0xc40000, 1024, 0x40, 1, 0, 32, 15, .rws, 0x7fff, .none⟩
/-- PLAN SRC_OFF (09): Offset of the source in this switch's pool window; multiple of 64 -/
def PLAN_SRC_OFF : Fld := ⟨0xc40000, 1024, 0x40, 1, 0, 64, 48, .rws, 0, .none⟩
/-- PLAN SRC_LEN (09): Source bytes, a multiple of 64, from 64 to 2^32 − 64 -/
def PLAN_SRC_LEN : Fld := ⟨0xc40000, 1024, 0x40, 1, 0, 128, 32, .rws, 0, .none⟩
/-- PLAN OUT_LEN (09): Bytes delivered, 1 to 2^32 − 1; equals SRC_LEN when EXPAND is NONE -/
def PLAN_OUT_LEN : Fld := ⟨0xc40000, 1024, 0x40, 1, 0, 160, 32, .rws, 0, .none⟩
/-- PLAN DST_OFF (09): Offset at DST_NODE of the first byte; multiple of 4,096 -/
def PLAN_DST_OFF : Fld := ⟨0xc40000, 1024, 0x40, 1, 0, 192, 48, .rws, 0, .none⟩
/-- PLAN FLAG_OFF (09): Offset at DST_NODE of the 8-byte flag; multiple of 8 -/
def PLAN_FLAG_OFF : Fld := ⟨0xc40000, 1024, 0x40, 1, 0, 256, 48, .rws, 0, .none⟩
/-- PLAN LEAD_US (09): Prefetch lead before the slot start, 0–65,535 µs -/
def PLAN_LEAD_US : Fld := ⟨0xc40000, 1024, 0x40, 1, 0, 320, 16, .rws, 0, .none⟩
/-- PLAN ESC_US (09): Waiting that raises the plan to level 3, 1–65,535 µs; 0 means 20 -/
def PLAN_ESC_US : Fld := ⟨0xc40000, 1024, 0x40, 1, 0, 336, 16, .rws, 0, .none⟩
/-- PLAN RATE_GBPS (09): Level 0 prefetch rate, 1–256 GB/s; 0 means 32 -/
def PLAN_RATE_GBPS : Fld := ⟨0xc40000, 1024, 0x40, 1, 0, 352, 9, .rws, 0, .none⟩
/-- WS_STATE STATE (09): 0 IDLE, 1 PREFETCH, 2 READY, 3 DELIVER -/
def WS_STATE_STATE : Fld := ⟨0xc50000, 1024, 0x40, 1, 0, 0, 2, .ro, 0, .none⟩
/-- WS_STATE LEVEL (09): Level of R288 for the current or last run -/
def WS_STATE_LEVEL : Fld := ⟨0xc50000, 1024, 0x40, 1, 0, 2, 2, .ro, 0, .none⟩
/-- WS_STATE BUF_WING (09): Wing of the buffer -/
def WS_STATE_BUF_WING : Fld := ⟨0xc50000, 1024, 0x40, 1, 0, 4, 2, .ro, 0, .none⟩
/-- WS_STATE LAST_STATUS (09): Status of the last run that ended -/
def WS_STATE_LAST_STATUS : Fld := ⟨0xc50000, 1024, 0x40, 1, 0, 8, 8, .ro, 0, .none⟩
/-- WS_STATE PENDING (09): Pending slot starts -/
def WS_STATE_PENDING : Fld := ⟨0xc50000, 1024, 0x40, 1, 0, 16, 16, .ro, 0, .none⟩
/-- WS_RUNS RUNS (09): Run numbers taken and not given back -/
def WS_RUNS_RUNS : Fld := ⟨0xc50008, 1024, 0x40, 1, 0, 0, 64, .ro, 0, .none⟩
/-- WS_FAILED RUNS_FAILED (09): Runs ended under R286 -/
def WS_FAILED_RUNS_FAILED : Fld := ⟨0xc50010, 1024, 0x40, 1, 0, 0, 64, .ro, 0, .none⟩
/-- WS_LATE LATE_US (09): Lateness of the last ended run, saturating -/
def WS_LATE_LATE_US : Fld := ⟨0xc50018, 1024, 0x40, 1, 0, 0, 32, .ro, 0, .none⟩
/-- WS_LATE MAX_LATE_US (09): Largest lateness since the plan became valid, saturating -/
def WS_LATE_MAX_LATE_US : Fld := ⟨0xc50018, 1024, 0x40, 1, 0, 32, 32, .ro, 0, .none⟩
/-- WS_COPIED BYTES (09): Source bytes copied in the current run -/
def WS_COPIED_BYTES : Fld := ⟨0xc50020, 1024, 0x40, 1, 0, 0, 64, .ro, 0, .none⟩
/-- WS_SENT BYTES (09): Bytes delivered in the current run -/
def WS_SENT_BYTES : Fld := ⟨0xc50028, 1024, 0x40, 1, 0, 0, 64, .ro, 0, .none⟩
/-- WS_OVERRUNS COUNT (09): Slot starts that found their plan busy -/
def WS_OVERRUNS_COUNT : Fld := ⟨0xc60000, 1, 0x8, 1, 0, 0, 64, .ro, 0, .none⟩
/-- EXT STATE (10): 0 FREE, 1 ACTIVE, 2 FENCING, 3 DRAINING, 4 SCRUB; 5–7 unused -/
def EXT_STATE : Fld := ⟨0x1000000, 65536, 0x10, 1, 0, 0, 3, .ro, 0, .none⟩
/-- EXT SCRUB_ON_FREE (10): Zero every backed granule before the extent is freed -/
def EXT_SCRUB_ON_FREE : Fld := ⟨0x1000000, 65536, 0x10, 1, 0, 3, 1, .ro, 0, .none⟩
/-- EXT PIN_S0 (10): Granules of the extent are PINNED (R255) while in Stair 0 -/
def EXT_PIN_S0 : Fld := ⟨0x1000000, 65536, 0x10, 1, 0, 4, 1, .ro, 0, .none⟩
/-- EXT LEDGER (10): The extent holds ownership ledger entries -/
def EXT_LEDGER : Fld := ⟨0x1000000, 65536, 0x10, 1, 0, 5, 1, .ro, 0, .none⟩
/-- EXT STREAM (10): The extent holds token-stream blocks -/
def EXT_STREAM : Fld := ⟨0x1000000, 65536, 0x10, 1, 0, 6, 1, .ro, 0, .none⟩
/-- EXT PART (10): Partition, 0–63 -/
def EXT_PART : Fld := ⟨0x1000000, 65536, 0x10, 1, 0, 8, 6, .ro, 0, .none⟩
/-- EXT HOLDER (10): Node whose lease keeps the extent; 0x7FFF for none -/
def EXT_HOLDER : Fld := ⟨0x1000000, 65536, 0x10, 1, 0, 16, 15, .ro, 0x7fff, .none⟩
/-- EXT BASE_G (10): First granule -/
def EXT_BASE_G : Fld := ⟨0x1000000, 65536, 0x10, 1, 0, 32, 26, .ro, 0, .none⟩
/-- EXT LEN_G (10): Granules, 1 to 2^26 -/
def EXT_LEN_G : Fld := ⟨0x1000000, 65536, 0x10, 1, 0, 64, 27, .ro, 0, .none⟩
/-- EXT BLOCK_LOG2 (10): With STREAM: block size 2^BLOCK_LOG2 bytes, 12–17; otherwise zero -/
def EXT_BLOCK_LOG2 : Fld := ⟨0x1000000, 65536, 0x10, 1, 0, 96, 5, .ro, 0, .none⟩
/-- EXT GRANTS (10): Times the entry has been granted, wrapping at 2^16 -/
def EXT_GRANTS : Fld := ⟨0x1000000, 65536, 0x10, 1, 0, 112, 16, .ro, 0, .none⟩
/-- EXT_QUOTA QUOTA_GIB (10): Extent quota of partition p, 0–65,536; larger values clamp to 65,536 -/
def EXT_QUOTA_QUOTA_GIB : Fld := ⟨0x1100000, 64, 0x10, 1, 0, 0, 17, .rws, 0, .rng 0 65536⟩
/-- EXT_USE GRANULES (10): Extent use of R302 -/
def EXT_USE_GRANULES : Fld := ⟨0x1100008, 64, 0x10, 1, 0, 0, 27, .ro, 0, .none⟩
/-- EXT_USE OVER (10): Use above quota (R303) -/
def EXT_USE_OVER : Fld := ⟨0x1100008, 64, 0x10, 1, 0, 27, 1, .ro, 0, .none⟩
/-- EXT_CFG LEASE_MS (10): Holder lease, 100–60,000; clamps to the nearer end -/
def EXT_CFG_LEASE_MS : Fld := ⟨0x1100800, 1, 0x8, 1, 0, 0, 16, .rws, 0x7d0, .rng 100 60000⟩
/-- EXT_CFG SCRUB_GBPS (10): 1–256 GB/s -/
def EXT_CFG_SCRUB_GBPS : Fld := ⟨0x1100800, 1, 0x8, 1, 0, 16, 9, .rws, 0x80, .rng 1 256⟩
/-- STREAM_CFG HANDOFF_MS (10): Handoff deadline set by this switch as ledger home, 1–60,000 -/
def STREAM_CFG_HANDOFF_MS : Fld := ⟨0x1100808, 1, 0x8, 1, 0, 0, 16, .rws, 0x32, .rng 1 60000⟩
/-- STREAM_CFG POLL_US (10): Ledger poll interval, 1–1,000 -/
def STREAM_CFG_POLL_US : Fld := ⟨0x1100808, 1, 0x8, 1, 0, 16, 10, .rws, 0xa, .rng 1 1000⟩
/-- STREAM_CFG PULL_GBPS (10): Pull rate of one handoff, 1–256 GB/s -/
def STREAM_CFG_PULL_GBPS : Fld := ⟨0x1100808, 1, 0x8, 1, 0, 26, 9, .rws, 0x32, .rng 1 256⟩
/-- STREAM_STATUS CONTEXTS (10): Contexts in use, 0–262,144 -/
def STREAM_STATUS_CONTEXTS : Fld := ⟨0x1100810, 1, 0x8, 1, 0, 0, 19, .ro, 0, .none⟩
/-- STREAM_STATUS HANDOFFS (10): Contexts in HANDING_OUT or PULLING -/
def STREAM_STATUS_HANDOFFS : Fld := ⟨0x1100810, 1, 0x8, 1, 0, 19, 13, .ro, 0, .none⟩
/-- HANDOFF_DONE COUNT (10): Claims made by this switch as target -/
def HANDOFF_DONE_COUNT : Fld := ⟨0x1100818, 1, 0x8, 1, 0, 0, 64, .ro, 0, .none⟩
/-- HANDOFF_REVERTED COUNT (10): Handoffs ended without a claim, counted at either party -/
def HANDOFF_REVERTED_COUNT : Fld := ⟨0x1100820, 1, 0x8, 1, 0, 0, 64, .ro, 0, .none⟩
/-- STREAMS_LOST COUNT (10): Contexts that reached LOST -/
def STREAMS_LOST_COUNT : Fld := ⟨0x1100828, 1, 0x8, 1, 0, 0, 64, .ro, 0, .none⟩
/-- DRAIN_ABANDONED COUNT (10): Requests whose answers were dropped under R304 -/
def DRAIN_ABANDONED_COUNT : Fld := ⟨0x1100830, 1, 0x8, 1, 0, 0, 64, .ro, 0, .none⟩
/-- LEASE NODE (10): Holder of lease i, 0–511 -/
def LEASE_NODE : Fld := ⟨0x1101000, 512, 0x10, 1, 0, 0, 15, .ro, 0x7fff, .none⟩
/-- LEASE STATE (10): 0 NONE, 1 LIVE, 2 LAPSED -/
def LEASE_STATE : Fld := ⟨0x1101000, 512, 0x10, 1, 0, 15, 2, .ro, 0, .none⟩
/-- LEASE_EXP EXPIRY_US (10): Expiry in fabric µs -/
def LEASE_EXP_EXPIRY_US : Fld := ⟨0x1101008, 512, 0x10, 1, 0, 0, 48, .ro, 0, .none⟩
/-- COH_CFG SNOOP_TIMEOUT_US (11): 10–65,535, then the clamp of R336, which may lower it to as little as 1 -/
def COH_CFG_SNOOP_TIMEOUT_US : Fld := ⟨0x1210000, 1, 0x8, 1, 0, 0, 16, .rws, 0x32, .rng 10 65535⟩
/-- LOST_WR COUNT (11): Records written since cold start. The newest is at index (COUNT − 1) mod 4,096. -/
def LOST_WR_COUNT : Fld := ⟨0x1210008, 1, 0x8, 1, 0, 0, 64, .ro, 0, .none⟩
/-- LOST_RD COUNT (11): Records consumed by software -/
def LOST_RD_COUNT : Fld := ⟨0x1210010, 1, 0x8, 1, 0, 0, 64, .rw, 0, .none⟩
/-- LOST_OVER COUNT (11): Records overwritten while LOST_WR − LOST_RD exceeded 4,096 -/
def LOST_OVER_COUNT : Fld := ⟨0x1210018, 1, 0x8, 1, 0, 0, 64, .w1c, 0, .none⟩
/-- LOST_IRQ EN (11): Interrupt while LOST_WR ≠ LOST_RD -/
def LOST_IRQ_EN : Fld := ⟨0x1210020, 1, 0x8, 1, 0, 0, 1, .rw, 0, .none⟩
/-- COH_STATUS STALE_LINES (11): STALE tags in all slots -/
def COH_STATUS_STALE_LINES : Fld := ⟨0x1210028, 1, 0x8, 1, 0, 0, 23, .ro, 0, .none⟩
/-- COH_STATUS SLOTS_USED (11): Slots not FREE, 0–64 -/
def COH_STATUS_SLOTS_USED : Fld := ⟨0x1210028, 1, 0x8, 1, 0, 23, 7, .ro, 0, .none⟩
/-- BACK_INVAL COUNT (11): Victims of R328 -/
def BACK_INVAL_COUNT : Fld := ⟨0x1210030, 1, 0x8, 1, 0, 0, 64, .ro, 0, .none⟩
/-- SNOOP_TIMEOUTS COUNT (11): Snoop timeouts of R336 -/
def SNOOP_TIMEOUTS_COUNT : Fld := ⟨0x1210038, 1, 0x8, 1, 0, 0, 64, .ro, 0, .none⟩
/-- CSLOT NODE (11): Node bound to the slot -/
def CSLOT_NODE : Fld := ⟨0x1210100, 64, 0x10, 1, 0, 0, 15, .ro, 0x7fff, .none⟩
/-- CSLOT STATE (11): 0 FREE, 1 REGISTERED, 2 RELEASING, 3 DEAD -/
def CSLOT_STATE : Fld := ⟨0x1210100, 64, 0x10, 1, 0, 15, 2, .ro, 0, .none⟩
/-- CSLOT WAYS (11): Ways per set, 1–16 -/
def CSLOT_WAYS : Fld := ⟨0x1210100, 64, 0x10, 1, 0, 17, 5, .ro, 0, .none⟩
/-- CSLOT M_TAGS (11): Tags in state M -/
def CSLOT_M_TAGS : Fld := ⟨0x1210108, 64, 0x10, 1, 0, 0, 17, .ro, 0, .none⟩
/-- CSLOT S_TAGS (11): Tags in state S -/
def CSLOT_S_TAGS : Fld := ⟨0x1210108, 64, 0x10, 1, 0, 17, 17, .ro, 0, .none⟩
/-- CSLOT STALE_TAGS (11): Tags in state STALE -/
def CSLOT_STALE_TAGS : Fld := ⟨0x1210108, 64, 0x10, 1, 0, 34, 17, .ro, 0, .none⟩
/-- MC PORTS (12): Bit n sends a copy to port n -/
def MC_PORTS : Fld := ⟨0x2c0000, 8192, 0x20, 1, 0, 0, 128, .rws, 0, .none⟩
/-- MC H0 (12): Copy to host port H0 -/
def MC_H0 : Fld := ⟨0x2c0000, 8192, 0x20, 1, 0, 128, 1, .rws, 0, .none⟩
/-- MC H1 (12): Copy to host port H1 -/
def MC_H1 : Fld := ⟨0x2c0000, 8192, 0x20, 1, 0, 129, 1, .rws, 0, .none⟩
/-- HALL_CT CT_CLASS (12): Bit c allows cut-through for class c -/
def HALL_CT_CT_CLASS : Fld := ⟨0x200000, 1, 0x8, 1, 0, 0, 8, .rws, 0xff, .none⟩
/-- HALL_CT BLK_SPRAY (12): Spray BLK over set members (R369) -/
def HALL_CT_BLK_SPRAY : Fld := ⟨0x200000, 1, 0x8, 1, 0, 8, 1, .rws, 0, .none⟩
/-- BUF_CFG SINK_FLOOR (12): 0–131,072 cells; larger values clamp to 131,072 -/
def BUF_CFG_SINK_FLOOR : Fld := ⟨0x200008, 1, 0x8, 1, 0, 0, 20, .rws, 0x8000, .rng 0 131072⟩
/-- BUF_CFG AUDIT_EPOCHS (12): 1–65,535; 0 clamps to 1 -/
def BUF_CFG_AUDIT_EPOCHS : Fld := ⟨0x200008, 1, 0x8, 1, 0, 32, 16, .rws, 0x3e8, .rng 1 65535⟩
/-- BUF_CFG AUDIT_NOW (12): Write 1 to start an audit; reads 0 -/
def BUF_CFG_AUDIT_NOW : Fld := ⟨0x200008, 1, 0x8, 1, 0, 48, 1, .rw, 0, .none⟩
/-- BUF_STATUS FREE_CELLS (12): Free cells of every part -/
def BUF_STATUS_FREE_CELLS : Fld := ⟨0x200010, 1, 0x8, 1, 0, 0, 20, .ro, 0x80000, .none⟩
/-- BUF_STATUS SHARED_FREE (12): Free cells of the shared pool -/
def BUF_STATUS_SHARED_FREE : Fld := ⟨0x200010, 1, 0x8, 1, 0, 20, 20, .ro, 0, .none⟩
/-- LEAK_RECLAIMED COUNT (12): Cells freed by R367 -/
def LEAK_RECLAIMED_COUNT : Fld := ⟨0x200018, 1, 0x8, 1, 0, 0, 64, .ro, 0, .none⟩
/-- AUDIT_STATUS AUDITS (12): Audits completed -/
def AUDIT_STATUS_AUDITS : Fld := ⟨0x200020, 1, 0x8, 1, 0, 0, 32, .ro, 0, .none⟩
/-- AUDIT_STATUS RUNNING (12): An audit is in progress -/
def AUDIT_STATUS_RUNNING : Fld := ⟨0x200020, 1, 0x8, 1, 0, 32, 1, .ro, 0, .none⟩
/-- AUDIT_STATUS LAST_LEAKED (12): Cells freed by the last audit -/
def AUDIT_STATUS_LAST_LEAKED : Fld := ⟨0x200020, 1, 0x8, 1, 0, 33, 20, .ro, 0, .none⟩
/-- ROUTE_CTL FLIP (12): Flip at the next allowed boundary; clears when it commits -/
def ROUTE_CTL_FLIP : Fld := ⟨0x200028, 1, 0x8, 1, 0, 0, 1, .rws, 0, .none⟩
/-- ROUTE_CTL DRAIN_US (12): 50–65,535; lower values clamp to 50 -/
def ROUTE_CTL_DRAIN_US : Fld := ⟨0x200028, 1, 0x8, 1, 0, 16, 16, .rws, 0x1f4, .rng 50 65535⟩
/-- ROUTE_CTL HASH_SEED (12): R369 -/
def ROUTE_CTL_HASH_SEED : Fld := ⟨0x200028, 1, 0x8, 1, 0, 32, 16, .rws, 0, .none⟩
/-- ROUTE_STATUS GEN_LIVE (12): Live generation -/
def ROUTE_STATUS_GEN_LIVE : Fld := ⟨0x200030, 1, 0x8, 1, 0, 0, 1, .ro, 0, .none⟩
/-- ROUTE_STATUS OLD_VALID (12): The other generation is OLD -/
def ROUTE_STATUS_OLD_VALID : Fld := ⟨0x200030, 1, 0x8, 1, 0, 1, 1, .ro, 0, .none⟩
/-- ROUTE_STATUS FLIP_HELD (12): A staged flip waits under R372 -/
def ROUTE_STATUS_FLIP_HELD : Fld := ⟨0x200030, 1, 0x8, 1, 0, 2, 1, .ro, 0, .none⟩
/-- ROUTE_STATUS FLIPS (12): Flips committed, wrapping -/
def ROUTE_STATUS_FLIPS : Fld := ⟨0x200030, 1, 0x8, 1, 0, 16, 16, .ro, 0, .none⟩
/-- ROUTE_STALE_CNT COUNT (12): Frames dropped under R373 -/
def ROUTE_STALE_CNT_COUNT : Fld := ⟨0x200038, 1, 0x8, 1, 0, 0, 64, .ro, 0, .none⟩
/-- NO_ROUTE COUNT (12): Frames dropped under R366 and R361 -/
def NO_ROUTE_COUNT : Fld := ⟨0x200040, 1, 0x8, 1, 0, 0, 64, .ro, 0, .none⟩
/-- RETIRE_NS TIME_NS (12): Fabric time of the last retirement -/
def RETIRE_NS_TIME_NS : Fld := ⟨0x200048, 1, 0x8, 1, 0, 0, 64, .ro, 0, .none⟩
/-- BALCONY_CFG ETYPE (12): EtherType of copies; values below 0x0600 clamp to 0x88B6 -/
def BALCONY_CFG_ETYPE : Fld := ⟨0x200050, 1, 0x8, 1, 0, 0, 16, .rws, 0x88b6, .low 0x0600 0x88B6⟩
/-- PART_LAND LAND_MAX (12): 0–524,288 cells -/
def PART_LAND_LAND_MAX : Fld := ⟨0x201000, 64, 0x10, 1, 0, 0, 20, .rws, 0x40000, .rng 0 524288⟩
/-- PART_LAND LAND_RSV (12): 0–131,072 cells; clamped under R351 -/
def PART_LAND_LAND_RSV : Fld := ⟨0x201000, 64, 0x10, 1, 0, 20, 20, .rws, 0, .rng 0 131072⟩
/-- PART_LAND CELLS (12): Cells held by the internal landing -/
def PART_LAND_CELLS : Fld := ⟨0x201008, 64, 0x10, 1, 0, 0, 20, .ro, 0, .none⟩
/-- PLAND LAND_MIN (12): 0–16,384 cells; clamped under R351 -/
def PLAND_LAND_MIN : Fld := ⟨0x400100, 128, 0x1000, 1, 0, 0, 20, .rws, 0x400, .rng 0 16384⟩
/-- PLAND LAND_SHARE (12): 1–64; 0 clamps to 1 -/
def PLAND_LAND_SHARE : Fld := ⟨0x400100, 128, 0x1000, 1, 0, 20, 6, .rws, 8, .rng 1 64⟩
/-- PLAND HEADROOM (12): 64–4,095 cells -/
def PLAND_HEADROOM : Fld := ⟨0x400100, 128, 0x1000, 1, 0, 32, 12, .rws, 0x200, .rng 64 4095⟩
/-- PTRANSIT TRANSIT_MAX (12): 64–65,535 cells -/
def PTRANSIT_TRANSIT_MAX : Fld := ⟨0x400108, 128, 0x1000, 1, 0, 0, 16, .rws, 0x800, .rng 64 65535⟩
/-- PCELLS LAND_CELLS (12): Cells on the port landing -/
def PCELLS_LAND_CELLS : Fld := ⟨0x400110, 128, 0x1000, 1, 0, 0, 20, .ro, 0, .none⟩
/-- PCELLS TRANSIT_CELLS (12): COL cells counted under R352 -/
def PCELLS_TRANSIT_CELLS : Fld := ⟨0x400110, 128, 0x1000, 1, 0, 20, 20, .ro, 0, .none⟩
/-- PCELLS OFF_MASK (12): Classes now off towards the port -/
def PCELLS_OFF_MASK : Fld := ⟨0x400110, 128, 0x1000, 1, 0, 40, 8, .ro, 0, .none⟩
/-- PDROP RX_OVERRUN (12): Drops under R353 and R354 -/
def PDROP_RX_OVERRUN : Fld := ⟨0x400118, 128, 0x1000, 1, 0, 0, 32, .ro, 0, .none⟩
/-- PDROP RX_TAIL_BAD (12): Frames discarded or marked under R347 -/
def PDROP_RX_TAIL_BAD : Fld := ⟨0x400118, 128, 0x1000, 1, 0, 32, 32, .ro, 0, .none⟩
/-- PFLUSH FLUSHED_FRAMES (12): Frames discarded under R365 -/
def PFLUSH_FLUSHED_FRAMES : Fld := ⟨0x400120, 128, 0x1000, 1, 0, 0, 64, .ro, 0, .none⟩
/-- PREFUSED COUNT (12): Frames refused at the port under R79 and R522 -/
def PREFUSED_COUNT : Fld := ⟨0x400130, 128, 0x1000, 1, 0, 0, 64, .ro, 0, .none⟩
/-- PMODE BALCONY (12): The port is a balcony port -/
def PMODE_BALCONY : Fld := ⟨0x400128, 128, 0x1000, 1, 0, 0, 1, .boot, 0, .none⟩
/-- MIRROR EN (12): Session on -/
def MIRROR_EN : Fld := ⟨0x202000, 8, 0x40, 1, 0, 0, 1, .rws, 0, .none⟩
/-- MIRROR DIR_RX (12): Copy on arrival -/
def MIRROR_DIR_RX : Fld := ⟨0x202000, 8, 0x40, 1, 0, 1, 1, .rws, 0, .none⟩
/-- MIRROR DIR_TX (12): Copy on departure -/
def MIRROR_DIR_TX : Fld := ⟨0x202000, 8, 0x40, 1, 0, 2, 1, .rws, 0, .none⟩
/-- MIRROR BALCONY_PORT (12): A port with BALCONY set; any other value stages the session off, logged -/
def MIRROR_BALCONY_PORT : Fld := ⟨0x202000, 8, 0x40, 1, 0, 3, 8, .rws, 0, .none⟩
/-- MIRROR CLASSES (12): Class mask -/
def MIRROR_CLASSES : Fld := ⟨0x202000, 8, 0x40, 1, 0, 11, 8, .rws, 0, .none⟩
/-- MIRROR PART (12): Partition -/
def MIRROR_PART : Fld := ⟨0x202000, 8, 0x40, 1, 0, 19, 6, .rws, 0, .none⟩
/-- MIRROR PART_EN (12): Match on PART -/
def MIRROR_PART_EN : Fld := ⟨0x202000, 8, 0x40, 1, 0, 25, 1, .rws, 0, .none⟩
/-- MIRROR SAMPLE_N (12): 1–65,535; 0 clamps to 1 -/
def MIRROR_SAMPLE_N : Fld := ⟨0x202000, 8, 0x40, 1, 0, 32, 16, .rws, 1, .rng 1 65535⟩
/-- MIRROR TRUNC_CELLS (12): 0 for the whole frame, otherwise 1–33 -/
def MIRROR_TRUNC_CELLS : Fld := ⟨0x202000, 8, 0x40, 1, 0, 48, 6, .rws, 0, .rng 0 33⟩
/-- MIRROR PORTS (12): Port mask -/
def MIRROR_PORTS : Fld := ⟨0x202008, 8, 0x40, 1, 0, 0, 128, .rws, 0, .none⟩
/-- MIRROR SRC (12): Source node -/
def MIRROR_SRC : Fld := ⟨0x202018, 8, 0x40, 1, 0, 0, 15, .rws, 0, .none⟩
/-- MIRROR SRC_EN (12): Match on SRC -/
def MIRROR_SRC_EN : Fld := ⟨0x202018, 8, 0x40, 1, 0, 15, 1, .rws, 0, .none⟩
/-- MIRROR DST (12): Destination node -/
def MIRROR_DST : Fld := ⟨0x202018, 8, 0x40, 1, 0, 16, 15, .rws, 0, .none⟩
/-- MIRROR DST_EN (12): Match on DST -/
def MIRROR_DST_EN : Fld := ⟨0x202018, 8, 0x40, 1, 0, 31, 1, .rws, 0, .none⟩
/-- MIRROR OPC (12): Operation code -/
def MIRROR_OPC : Fld := ⟨0x202018, 8, 0x40, 1, 0, 32, 8, .rws, 0, .none⟩
/-- MIRROR OPC_MASK (12): Bits of OPC compared -/
def MIRROR_OPC_MASK : Fld := ⟨0x202018, 8, 0x40, 1, 0, 40, 8, .rws, 0, .none⟩
/-- MIRROR COPIES (12): Copies sent -/
def MIRROR_COPIES : Fld := ⟨0x202020, 8, 0x40, 1, 0, 0, 64, .ro, 0, .none⟩
/-- MIRROR DROPPED (12): Copies dropped under R364 -/
def MIRROR_DROPPED : Fld := ⟨0x202028, 8, 0x40, 1, 0, 0, 64, .ro, 0, .none⟩
/-- MIRROR SEQ (12): Next copy number -/
def MIRROR_SEQ : Fld := ⟨0x202030, 8, 0x40, 1, 0, 0, 32, .ro, 0, .none⟩
/-- TM_CFG WEIGHT_REQ (13): Quantum in cells; 0 clamps to 1 -/
def TM_CFG_WEIGHT_REQ : Fld := ⟨0x1400000, 1, 0x8, 1, 0, 0, 8, .rws, 4, .rng 1 255⟩
/-- TM_CFG WEIGHT_BLK (13): As above -/
def TM_CFG_WEIGHT_BLK : Fld := ⟨0x1400000, 1, 0x8, 1, 0, 8, 8, .rws, 2, .rng 1 255⟩
/-- TM_CFG WEIGHT_COL (13): As above -/
def TM_CFG_WEIGHT_COL : Fld := ⟨0x1400000, 1, 0x8, 1, 0, 16, 8, .rws, 8, .rng 1 255⟩
/-- TM_CFG WEIGHT_MGT (13): As above -/
def TM_CFG_WEIGHT_MGT : Fld := ⟨0x1400000, 1, 0x8, 1, 0, 24, 8, .rws, 1, .rng 1 255⟩
/-- TM_CFG TRAY_CAP_GBPS (13): Per tray, 1–256 -/
def TM_CFG_TRAY_CAP_GBPS : Fld := ⟨0x1400000, 1, 0x8, 1, 0, 32, 9, .rws, 0x40, .rng 1 256⟩
/-- TM_STATUS PATTERN (13): The slot pattern is in force -/
def TM_STATUS_PATTERN : Fld := ⟨0x1400008, 1, 0x8, 1, 0, 0, 1, .ro, 0, .none⟩
/-- TM_STATUS FREE_SLOTS (13): Free slots -/
def TM_STATUS_FREE_SLOTS : Fld := ⟨0x1400008, 1, 0x8, 1, 0, 8, 7, .ro, 0x40, .none⟩
/-- QSLOT PART (13): Owner of slot s -/
def QSLOT_PART : Fld := ⟨0x1401000, 64, 0x8, 1, 0, 0, 6, .rws, 0, .none⟩
/-- QSLOT OWNED (13): Slot owned -/
def QSLOT_OWNED : Fld := ⟨0x1401000, 64, 0x8, 1, 0, 6, 1, .rws, 0, .none⟩
/-- SUBSHAPE RATE_MBPS (13): 0 off; up to 102,400,000 -/
def SUBSHAPE_RATE_MBPS : Fld := ⟨0x1410000, 64, 0x100, 1, 0, 0, 27, .rws, 0, .rng 0 102400000⟩
/-- SVCSHAPE_REQ RATE_MBPS (13): 0 off; up to 102,400,000 -/
def SVCSHAPE_REQ_RATE_MBPS : Fld := ⟨0x1410008, 64, 0x100, 1, 0, 0, 27, .rws, 0, .rng 0 102400000⟩
/-- SVCSHAPE_BLK RATE_MBPS (13): 0 off; up to 102,400,000 -/
def SVCSHAPE_BLK_RATE_MBPS : Fld := ⟨0x1410010, 64, 0x100, 1, 0, 0, 27, .rws, 0, .rng 0 102400000⟩
/-- SVCSHAPE_COL RATE_MBPS (13): 0 off; up to 102,400,000 -/
def SVCSHAPE_COL_RATE_MBPS : Fld := ⟨0x1410018, 64, 0x100, 1, 0, 0, 27, .rws, 0, .rng 0 102400000⟩
/-- SVCSHAPE_MGT RATE_MBPS (13): 0 off; up to 102,400,000 -/
def SVCSHAPE_MGT_RATE_MBPS : Fld := ⟨0x1410020, 64, 0x100, 1, 0, 0, 27, .rws, 0, .rng 0 102400000⟩
/-- SUBSHAPE BURST (13): Bytes; values below 8,479 clamp to 8,479 -/
def SUBSHAPE_BURST : Fld := ⟨0x1410000, 64, 0x100, 1, 0, 32, 24, .rws, 0x10000, .rng 8479 16777215⟩
/-- SVCSHAPE_REQ BURST (13): Bytes; values below 8,479 clamp to 8,479 -/
def SVCSHAPE_REQ_BURST : Fld := ⟨0x1410008, 64, 0x100, 1, 0, 32, 24, .rws, 0x10000, .rng 8479 16777215⟩
/-- SVCSHAPE_BLK BURST (13): Bytes; values below 8,479 clamp to 8,479 -/
def SVCSHAPE_BLK_BURST : Fld := ⟨0x1410010, 64, 0x100, 1, 0, 32, 24, .rws, 0x10000, .rng 8479 16777215⟩
/-- SVCSHAPE_COL BURST (13): Bytes; values below 8,479 clamp to 8,479 -/
def SVCSHAPE_COL_BURST : Fld := ⟨0x1410018, 64, 0x100, 1, 0, 32, 24, .rws, 0x10000, .rng 8479 16777215⟩
/-- SVCSHAPE_MGT BURST (13): Bytes; values below 8,479 clamp to 8,479 -/
def SVCSHAPE_MGT_BURST : Fld := ⟨0x1410020, 64, 0x100, 1, 0, 32, 24, .rws, 0x10000, .rng 8479 16777215⟩
/-- PQUIET QUIET (13): Quiet mode (R383) -/
def PQUIET_QUIET : Fld := ⟨0x1410028, 64, 0x100, 1, 0, 0, 1, .rws, 0, .none⟩
/-- PQUIET TRAY_RSV_GBPS (13): Per tray, 0–256; clamped under R386 -/
def PQUIET_TRAY_RSV_GBPS : Fld := ⟨0x1410028, 64, 0x100, 1, 0, 16, 9, .rws, 0, .rng 0 256⟩
/-- SHAPE_HELD HELD_NS (13): Nanoseconds for which frames of the partition were held by their buckets alone, summed ... -/
def SHAPE_HELD_HELD_NS : Fld := ⟨0x1410030, 64, 0x100, 1, 0, 0, 64, .ro, 0, .none⟩
/-- SUB_CREDIT CREDIT (13): C of the subscriber bucket, signed, whole bytes -/
def SUB_CREDIT_CREDIT : Fld := ⟨0x1410038, 64, 0x100, 1, 0, 0, 64, .ro, 0, .none⟩
/-- PSHAPE RATE_MBPS (13): Port bucket; clamped under R379 -/
def PSHAPE_RATE_MBPS : Fld := ⟨0x400200, 128, 0x1000, 1, 0, 0, 27, .rws, 0, .rng 0 102400000⟩
/-- PSHAPE BURST (13): Port bucket; clamped under R379 -/
def PSHAPE_BURST : Fld := ⟨0x400200, 128, 0x1000, 1, 0, 32, 24, .rws, 0x10000, .rng 8479 16777215⟩
/-- POVH OVH_BYTES (13): Signed; values below −31 clamp to −31 -/
def POVH_OVH_BYTES : Fld := ⟨0x400208, 128, 0x1000, 1, 0, 0, 9, .rws, 0, .none⟩
/-- PPOL_REQ CIR_MBPS (13): Committed rate -/
def PPOL_REQ_CIR_MBPS : Fld := ⟨0x400210, 128, 0x1000, 1, 0, 0, 27, .rws, 0, .none⟩
/-- PPOL_BLK CIR_MBPS (13): Committed rate -/
def PPOL_BLK_CIR_MBPS : Fld := ⟨0x400220, 128, 0x1000, 1, 0, 0, 27, .rws, 0, .none⟩
/-- PPOL_MGT CIR_MBPS (13): Committed rate -/
def PPOL_MGT_CIR_MBPS : Fld := ⟨0x400230, 128, 0x1000, 1, 0, 0, 27, .rws, 0, .none⟩
/-- PPOL_REQ EN (13): Policer on; ignored on ports not granted to one partition -/
def PPOL_REQ_EN : Fld := ⟨0x400210, 128, 0x1000, 1, 0, 27, 1, .rws, 0, .none⟩
/-- PPOL_BLK EN (13): Policer on; ignored on ports not granted to one partition -/
def PPOL_BLK_EN : Fld := ⟨0x400220, 128, 0x1000, 1, 0, 27, 1, .rws, 0, .none⟩
/-- PPOL_MGT EN (13): Policer on; ignored on ports not granted to one partition -/
def PPOL_MGT_EN : Fld := ⟨0x400230, 128, 0x1000, 1, 0, 27, 1, .rws, 0, .none⟩
/-- PPOL_REQ RED_MARK (13): Handle red as yellow -/
def PPOL_REQ_RED_MARK : Fld := ⟨0x400210, 128, 0x1000, 1, 0, 28, 1, .rws, 0, .none⟩
/-- PPOL_BLK RED_MARK (13): Handle red as yellow -/
def PPOL_BLK_RED_MARK : Fld := ⟨0x400220, 128, 0x1000, 1, 0, 28, 1, .rws, 0, .none⟩
/-- PPOL_MGT RED_MARK (13): Handle red as yellow -/
def PPOL_MGT_RED_MARK : Fld := ⟨0x400230, 128, 0x1000, 1, 0, 28, 1, .rws, 0, .none⟩
/-- PPOL_REQ PIR_MBPS (13): Peak rate; clamped to at least CIR_MBPS -/
def PPOL_REQ_PIR_MBPS : Fld := ⟨0x400210, 128, 0x1000, 1, 0, 32, 27, .rws, 0, .none⟩
/-- PPOL_BLK PIR_MBPS (13): Peak rate; clamped to at least CIR_MBPS -/
def PPOL_BLK_PIR_MBPS : Fld := ⟨0x400220, 128, 0x1000, 1, 0, 32, 27, .rws, 0, .none⟩
/-- PPOL_MGT PIR_MBPS (13): Peak rate; clamped to at least CIR_MBPS -/
def PPOL_MGT_PIR_MBPS : Fld := ⟨0x400230, 128, 0x1000, 1, 0, 32, 27, .rws, 0, .none⟩
/-- PPOLB_REQ CBS (13): Bytes; values below 8,479 clamp to 8,479 -/
def PPOLB_REQ_CBS : Fld := ⟨0x400218, 128, 0x1000, 1, 0, 0, 24, .rws, 0x10000, .rng 8479 16777215⟩
/-- PPOLB_BLK CBS (13): Bytes; values below 8,479 clamp to 8,479 -/
def PPOLB_BLK_CBS : Fld := ⟨0x400228, 128, 0x1000, 1, 0, 0, 24, .rws, 0x10000, .rng 8479 16777215⟩
/-- PPOLB_MGT CBS (13): Bytes; values below 8,479 clamp to 8,479 -/
def PPOLB_MGT_CBS : Fld := ⟨0x400238, 128, 0x1000, 1, 0, 0, 24, .rws, 0x10000, .rng 8479 16777215⟩
/-- PPOLB_REQ PBS (13): Bytes; values below 8,479 clamp to 8,479 -/
def PPOLB_REQ_PBS : Fld := ⟨0x400218, 128, 0x1000, 1, 0, 32, 24, .rws, 0x20000, .rng 8479 16777215⟩
/-- PPOLB_BLK PBS (13): Bytes; values below 8,479 clamp to 8,479 -/
def PPOLB_BLK_PBS : Fld := ⟨0x400228, 128, 0x1000, 1, 0, 32, 24, .rws, 0x20000, .rng 8479 16777215⟩
/-- PPOLB_MGT PBS (13): Bytes; values below 8,479 clamp to 8,479 -/
def PPOLB_MGT_PBS : Fld := ⟨0x400238, 128, 0x1000, 1, 0, 32, 24, .rws, 0x20000, .rng 8479 16777215⟩
/-- PCOLOUR YELLOW_16THS (13): 0–16; larger values clamp to 16 -/
def PCOLOUR_YELLOW_16THS : Fld := ⟨0x400240, 128, 0x1000, 1, 0, 0, 5, .rws, 0xc, .rng 0 16⟩
/-- PGREEN COUNT (13): Green frames -/
def PGREEN_COUNT : Fld := ⟨0x400248, 128, 0x1000, 1, 0, 0, 64, .ro, 0, .none⟩
/-- PYELLOW COUNT (13): Yellow frames, including red handled as yellow -/
def PYELLOW_COUNT : Fld := ⟨0x400250, 128, 0x1000, 1, 0, 0, 64, .ro, 0, .none⟩
/-- PRED COUNT (13): Red frames -/
def PRED_COUNT : Fld := ⟨0x400258, 128, 0x1000, 1, 0, 0, 64, .ro, 0, .none⟩
/-- PCOL_DROP COUNT (13): Frames dropped under R382 -/
def PCOL_DROP_COUNT : Fld := ⟨0x400260, 128, 0x1000, 1, 0, 0, 64, .ro, 0, .none⟩
/-- LINK_CTL PERSONALITY (14): 0 Molza, 1 Ethernet bulk; clamped under R392 -/
def LINK_CTL_PERSONALITY : Fld := ⟨0x400000, 128, 0x1000, 1, 0, 0, 1, .rws, 0, .none⟩
/-- LINK_CTL GANG (14): Even ports only: gang with port n + 1; clamps to 0 on odd ports -/
def LINK_CTL_GANG : Fld := ⟨0x400000, 128, 0x1000, 1, 0, 1, 1, .rws, 0, .none⟩
/-- LINK_CTL SLEEP_EN (14): Lanes may sleep (R397) -/
def LINK_CTL_SLEEP_EN : Fld := ⟨0x400000, 128, 0x1000, 1, 0, 2, 1, .rws, 1, .none⟩
/-- LINK_CTL RETRAIN (14): Write 1 to retrain; reads 0 -/
def LINK_CTL_RETRAIN : Fld := ⟨0x400000, 128, 0x1000, 1, 0, 3, 1, .rw, 0, .none⟩
/-- LINK_CFG HOLD_UP_US (14): 0–10,000; larger values clamp to 10,000 -/
def LINK_CFG_HOLD_UP_US : Fld := ⟨0x400008, 128, 0x1000, 1, 0, 0, 16, .rws, 0x3e8, .rng 0 10000⟩
/-- LINK_CFG REPLAY_US (14): 1–255; 0 clamps to 1 -/
def LINK_CFG_REPLAY_US : Fld := ⟨0x400008, 128, 0x1000, 1, 0, 16, 8, .rws, 4, .rng 1 255⟩
/-- LINK_CFG SYNC_US (14): 1–255; 0 clamps to 1 -/
def LINK_CFG_SYNC_US : Fld := ⟨0x400008, 128, 0x1000, 1, 0, 24, 8, .rws, 0xa, .rng 1 255⟩
/-- LINK_CFG CRYPT_GROUP (14): 1–32; out-of-range values clamp to the nearer end -/
def LINK_CFG_CRYPT_GROUP : Fld := ⟨0x400008, 128, 0x1000, 1, 0, 32, 6, .rws, 8, .rng 1 32⟩
/-- LINK_CFG LANE_SER_PPM (14): 10–1,000 -/
def LINK_CFG_LANE_SER_PPM : Fld := ⟨0x400008, 128, 0x1000, 1, 0, 38, 10, .rws, 0x64, .rng 10 1000⟩
/-- LINK_CFG ASYM_NS (14): Signed, ns -/
def LINK_CFG_ASYM_NS : Fld := ⟨0x400008, 128, 0x1000, 1, 0, 48, 16, .rws, 0, .none⟩
/-- LINK_STATUS LSTATE (14): 0 DOWN, 1 TRAINING, 2 ALIGNING, 3 EXCHANGE, 4 UP, 5 CTL_ONLY, 6 RECOVER -/
def LINK_STATUS_LSTATE : Fld := ⟨0x400010, 128, 0x1000, 1, 0, 0, 3, .ro, 0, .none⟩
/-- LINK_STATUS VERSION_LOW (14): R79 -/
def LINK_STATUS_VERSION_LOW : Fld := ⟨0x400010, 128, 0x1000, 1, 0, 3, 1, .ro, 0, .none⟩
/-- LINK_STATUS VER (14): Header version in use -/
def LINK_STATUS_VER : Fld := ⟨0x400010, 128, 0x1000, 1, 0, 4, 4, .ro, 0, .none⟩
/-- LINK_STATUS TX_LANES (14): Active transmit lanes -/
def LINK_STATUS_TX_LANES : Fld := ⟨0x400010, 128, 0x1000, 1, 0, 8, 8, .ro, 0, .none⟩
/-- LINK_STATUS RX_LANES (14): Active receive lanes -/
def LINK_STATUS_RX_LANES : Fld := ⟨0x400010, 128, 0x1000, 1, 0, 16, 8, .ro, 0, .none⟩
/-- LINK_STATUS SAVED (14): Last training used saved settings -/
def LINK_STATUS_SAVED : Fld := ⟨0x400010, 128, 0x1000, 1, 0, 24, 1, .ro, 0, .none⟩
/-- LINK_STATUS INCARNATION (14): R398 -/
def LINK_STATUS_INCARNATION : Fld := ⟨0x400010, 128, 0x1000, 1, 0, 32, 16, .ro, 0, .none⟩
/-- PEER_CAPS CAPS (14): Peer's capability word -/
def PEER_CAPS_CAPS : Fld := ⟨0x400018, 128, 0x1000, 1, 0, 0, 64, .ro, 0, .none⟩
/-- FEC_CORR COUNT (14): Symbols corrected -/
def FEC_CORR_COUNT : Fld := ⟨0x400020, 128, 0x1000, 1, 0, 0, 64, .ro, 0, .none⟩
/-- FEC_UNCORR COUNT (14): Codewords not correctable -/
def FEC_UNCORR_COUNT : Fld := ⟨0x400028, 128, 0x1000, 1, 0, 0, 64, .ro, 0, .none⟩
/-- CRC_BAD COUNT (14): Bad flits -/
def CRC_BAD_COUNT : Fld := ⟨0x400030, 128, 0x1000, 1, 0, 0, 64, .ro, 0, .none⟩
/-- REPLAYS COUNT (14): R401 -/
def REPLAYS_COUNT : Fld := ⟨0x400038, 128, 0x1000, 1, 0, 0, 64, .ro, 0, .none⟩
/-- WIDTH_CHANGES COUNT (14): R395 -/
def WIDTH_CHANGES_COUNT : Fld := ⟨0x400040, 128, 0x1000, 1, 0, 0, 64, .ro, 0, .none⟩
/-- RECOVERIES COUNT (14): Entries to RECOVER -/
def RECOVERIES_COUNT : Fld := ⟨0x400048, 128, 0x1000, 1, 0, 0, 64, .ro, 0, .none⟩
/-- TAG_FAIL COUNT (14): R410 -/
def TAG_FAIL_COUNT : Fld := ⟨0x400050, 128, 0x1000, 1, 0, 0, 64, .ro, 0, .none⟩
/-- ONOFF_VIOLATION COUNT (14): R404 -/
def ONOFF_VIOLATION_COUNT : Fld := ⟨0x400058, 128, 0x1000, 1, 0, 0, 64, .ro, 0, .none⟩
/-- LANE STATE (14): Lane i: 0 ACTIVE, 1 SLOW, 2 ASLEEP, 3 FAILED -/
def LANE_STATE : Fld := ⟨0x400080, 512, 0x1000, 4, 8, 0, 2, .ro, 0, .none⟩
/-- LANE SER_PPM (14): Corrected symbols per million in the last window -/
def LANE_SER_PPM : Fld := ⟨0x400080, 512, 0x1000, 4, 8, 32, 32, .ro, 0, .none⟩
/-- GRP VALID (15): Group in use -/
def GRP_VALID : Fld := ⟨0x1300000, 1024, 0x10, 1, 0, 0, 1, .rws, 0, .none⟩
/-- GRP KIND (15): 0 compute endpoints, 1 trays -/
def GRP_KIND : Fld := ⟨0x1300000, 1024, 0x10, 1, 0, 1, 1, .rws, 0, .none⟩
/-- GRP STATE (15): 0 READY, 1 COMMITTED, 2 USED; meaningful on the spare switch only -/
def GRP_STATE : Fld := ⟨0x1300000, 1024, 0x10, 1, 0, 2, 2, .ro, 0, .none⟩
/-- GRP SPARE (15): Node of the spare endpoint -/
def GRP_SPARE : Fld := ⟨0x1300000, 1024, 0x10, 1, 0, 8, 15, .rws, 0x7fff, .none⟩
/-- GRP SPARE_SW (15): Node of the spare switch -/
def GRP_SPARE_SW : Fld := ⟨0x1300000, 1024, 0x10, 1, 0, 24, 15, .rws, 0x7fff, .none⟩
/-- GRP SERIAL (15): Grants made by this switch for the group -/
def GRP_SERIAL : Fld := ⟨0x1300000, 1024, 0x10, 1, 0, 64, 32, .ro, 0, .none⟩
/-- PSPARE GROUP (15): Spare group of the endpoint bound to the port -/
def PSPARE_GROUP : Fld := ⟨0x400300, 128, 0x1000, 1, 0, 0, 10, .rws, 0, .none⟩
/-- PSPARE EN (15): The endpoint is a member -/
def PSPARE_EN : Fld := ⟨0x400300, 128, 0x1000, 1, 0, 10, 1, .rws, 0, .none⟩
/-- REMAP FROM (15): Failed node -/
def REMAP_FROM : Fld := ⟨0x1310000, 1024, 0x8, 1, 0, 0, 15, .ro, 0, .none⟩
/-- REMAP VALID (15): Remap live -/
def REMAP_VALID : Fld := ⟨0x1310000, 1024, 0x8, 1, 0, 15, 1, .ro, 0, .none⟩
/-- REMAP TO (15): Spare node -/
def REMAP_TO : Fld := ⟨0x1310000, 1024, 0x8, 1, 0, 16, 15, .ro, 0, .none⟩
/-- REMAP CLEAR (15): Remove the remap at the next boundary -/
def REMAP_CLEAR : Fld := ⟨0x1310000, 1024, 0x8, 1, 0, 31, 1, .rws, 0, .none⟩
/-- REMAP GROUP (15): Spare group -/
def REMAP_GROUP : Fld := ⟨0x1310000, 1024, 0x8, 1, 0, 32, 10, .ro, 0, .none⟩
/-- SUB_CFG SUB_WAIT_US (15): 0–100,000; larger values clamp to 100,000 -/
def SUB_CFG_SUB_WAIT_US : Fld := ⟨0x1320000, 1, 0x8, 1, 0, 0, 17, .rws, 0xc8, .rng 0 100000⟩
/-- SUB_CFG REBUILD_GBPS (15): 1–256; 0 clamps to 1 -/
def SUB_CFG_REBUILD_GBPS : Fld := ⟨0x1320000, 1, 0x8, 1, 0, 24, 9, .rws, 0x10, .rng 1 256⟩
/-- SUB_DONE COUNT (15): Remaps made live -/
def SUB_DONE_COUNT : Fld := ⟨0x1320008, 1, 0x8, 1, 0, 0, 64, .ro, 0, .none⟩
/-- SUB_REFUSED COUNT (15): Asks answered NO_SPARE or SPARE_DOWN by this switch -/
def SUB_REFUSED_COUNT : Fld := ⟨0x1320010, 1, 0x8, 1, 0, 0, 64, .ro, 0, .none⟩
/-- AGE_CFG MAINT_EPOCHS (15): 1 to 2^32 − 1; 0 clamps to 1 -/
def AGE_CFG_MAINT_EPOCHS : Fld := ⟨0x811000, 1, 0x8, 1, 0, 0, 32, .rws, 0x36ee80, .rng 1 4294967295⟩
/-- AGE_CFG MIN_SLACK_PS (15): 5–100; out-of-range values clamp to the nearer end -/
def AGE_CFG_MIN_SLACK_PS : Fld := ⟨0x811000, 1, 0x8, 1, 0, 32, 8, .rws, 0xf, .rng 5 100⟩
/-- AGE_CFG MAINT_NOW (15): Write 1 to measure now; reads 0 -/
def AGE_CFG_MAINT_NOW : Fld := ⟨0x811000, 1, 0x8, 1, 0, 40, 1, .rw, 0, .none⟩
/-- AGE_SLACK SLACK_PS (15): 8 bits per point, 0x1 in [7:0] to 0x5 in [39:32]; worst slack at the chosen offset, 0–255 -/
def AGE_SLACK_SLACK_PS : Fld := ⟨0x810000, 32, 0x20, 1, 0, 0, 40, .ro, 0, .none⟩
/-- AGE_VOFF VOFF (15): 4 bits per point, in steps of 5 mV, 0–12 -/
def AGE_VOFF_VOFF : Fld := ⟨0x810008, 32, 0x20, 1, 0, 0, 20, .ro, 0, .none⟩
/-- AGE_STATUS CAP_BIRTH (15): Cap set at the last cold start -/
def AGE_STATUS_CAP_BIRTH : Fld := ⟨0x810010, 32, 0x20, 1, 0, 0, 4, .ro, 5, .none⟩
/-- AGE_STATUS WORN (15): Step 3 of R429 holds -/
def AGE_STATUS_WORN : Fld := ⟨0x810010, 32, 0x20, 1, 0, 4, 1, .ro, 0, .none⟩
/-- AGE_STATUS LAST_MAINT (15): Epoch of the last measurement, low 48 bits -/
def AGE_STATUS_LAST_MAINT : Fld := ⟨0x810010, 32, 0x20, 1, 0, 16, 48, .ro, 0, .none⟩
/-- MBOX_CTL CMD (16): Command code -/
def MBOX_CTL_CMD : Fld := ⟨0x1880000, 1, 0x8, 1, 0, 0, 8, .rw, 0, .none⟩
/-- MBOX_CTL GO (16): Write 1 to start; reads 0 -/
def MBOX_CTL_GO : Fld := ⟨0x1880000, 1, 0x8, 1, 0, 8, 1, .rw, 0, .none⟩
/-- MBOX_CTL REQ_LEN (16): Request bytes, 0–262,144 -/
def MBOX_CTL_REQ_LEN : Fld := ⟨0x1880000, 1, 0x8, 1, 0, 32, 19, .rw, 0, .none⟩
/-- MBOX_STATUS BUSY (16): A command is running -/
def MBOX_STATUS_BUSY : Fld := ⟨0x1880008, 1, 0x8, 1, 0, 0, 1, .ro, 0, .none⟩
/-- MBOX_STATUS STATUS (16): Status code of R73 -/
def MBOX_STATUS_STATUS : Fld := ⟨0x1880008, 1, 0x8, 1, 0, 8, 8, .ro, 0, .none⟩
/-- MBOX_STATUS RSP_LEN (16): Response bytes -/
def MBOX_STATUS_RSP_LEN : Fld := ⟨0x1880008, 1, 0x8, 1, 0, 32, 19, .ro, 0, .none⟩
/-- SHELL_STATE VARIANT (16): Applied VARIANT -/
def SHELL_STATE_VARIANT : Fld := ⟨0x1880010, 1, 0x8, 1, 0, 0, 8, .ro, 0, .none⟩
/-- SHELL_STATE FEATURES (16): Applied FEATURES [3:0] -/
def SHELL_STATE_FEATURES : Fld := ⟨0x1880010, 1, 0x8, 1, 0, 8, 4, .ro, 0, .none⟩
/-- SHELL_STATE BOOT_LOCK (16): R437 -/
def SHELL_STATE_BOOT_LOCK : Fld := ⟨0x1880010, 1, 0x8, 1, 0, 12, 1, .ro, 0, .none⟩
/-- SHELL_STATE AUTH_ENROLLED (16): R439 -/
def SHELL_STATE_AUTH_ENROLLED : Fld := ⟨0x1880010, 1, 0x8, 1, 0, 13, 1, .ro, 0, .none⟩
/-- FRAME_INFO SERIAL (16): Applied frame -/
def FRAME_INFO_SERIAL : Fld := ⟨0x1880018, 1, 0x8, 1, 0, 0, 32, .ro, 0, .none⟩
/-- FRAME_INFO FRAME_REFUSED (16): 0 none, 1 signature or authority, 2 SERIAL, 3 section, 4 licence -/
def FRAME_INFO_FRAME_REFUSED : Fld := ⟨0x1880018, 1, 0x8, 1, 0, 32, 8, .ro, 0, .none⟩
/-- BOOT_WRITE_DENIED COUNT (16): R437 -/
def BOOT_WRITE_DENIED_COUNT : Fld := ⟨0x1880020, 1, 0x8, 1, 0, 0, 64, .ro, 0, .none⟩
/-- HOLONE_DENIED COUNT (16): Holone requests dropped under the Holone rules below -/
def HOLONE_DENIED_COUNT : Fld := ⟨0x1880028, 1, 0x8, 1, 0, 0, 64, .ro, 0, .none⟩
/-- JOB_WINDOW_FULL COUNT (16): R452 -/
def JOB_WINDOW_FULL_COUNT : Fld := ⟨0x1880030, 1, 0x8, 1, 0, 0, 64, .ro, 0, .none⟩
/-- MEAS WORD (16): Word w, 0–3, of register Mr, bytes 8w to 8w + 7 -/
def MEAS_WORD : Fld := ⟨0x1880100, 32, 0x8, 1, 0, 0, 64, .ro, 0, .none⟩
/-- START_STATUS PHASE (17): 0 BOOT, 1 SELFTEST, 2 VERIFY, 3 TRAIN, 4 READY, 5 RECOVERY -/
def START_STATUS_PHASE : Fld := ⟨0x2000, 1, 0x8, 1, 0, 0, 3, .ro, 0, .none⟩
/-- START_STATUS WARM (17): The last reset was warm -/
def START_STATUS_WARM : Fld := ⟨0x2000, 1, 0x8, 1, 0, 3, 1, .ro, 0, .none⟩
/-- START_STATUS CAUSE (17): Row of R460, 0–7 in table order -/
def START_STATUS_CAUSE : Fld := ⟨0x2000, 1, 0x8, 1, 0, 4, 4, .ro, 0, .none⟩
/-- START_STATUS TRIAL (17): This start is a trial -/
def START_STATUS_TRIAL : Fld := ⟨0x2000, 1, 0x8, 1, 0, 8, 1, .ro, 0, .none⟩
/-- START_STATUS FULL_TRAIN (17): A saved setting was refused under R470 -/
def START_STATUS_FULL_TRAIN : Fld := ⟨0x2000, 1, 0x8, 1, 0, 9, 1, .ro, 0, .none⟩
/-- START_STATUS WARM_RESETS (17): Warm resets since the last cold start -/
def START_STATUS_WARM_RESETS : Fld := ⟨0x2000, 1, 0x8, 1, 0, 32, 32, .ro, 0, .none⟩
/-- START_TIME READY_MS (17): Time from T0 to READY -/
def START_TIME_READY_MS : Fld := ⟨0x2008, 1, 0x8, 1, 0, 0, 32, .ro, 0, .none⟩
/-- UPD_STATUS STATE (17): Kind k: 0 IDLE, 1 WRITING, 2 STAGED, 3 ARMED, 4 TRIAL -/
def UPD_STATUS_STATE : Fld := ⟨0x2010, 3, 0x8, 1, 0, 0, 3, .ro, 0, .none⟩
/-- UPD_STATUS ACTIVE (17): Active bank -/
def UPD_STATUS_ACTIVE : Fld := ⟨0x2010, 3, 0x8, 1, 0, 3, 1, .ro, 0, .none⟩
/-- UPD_STATUS RESULT (17): 0 OK, 1 BUSY, 2 BAD_SIGNATURE, 3 SVN_LOW, 4 WRONG_KIND, 5 INCOMPATIBLE, 6 NOT_READY, 7 ... -/
def UPD_STATUS_RESULT : Fld := ⟨0x2010, 3, 0x8, 1, 0, 8, 8, .ro, 0, .none⟩
/-- UPD_STATUS STAGED_VERSION (17): VERSION of the staging bank's image -/
def UPD_STATUS_STAGED_VERSION : Fld := ⟨0x2010, 3, 0x8, 1, 0, 32, 32, .ro, 0, .none⟩
/-- SVC_CFG TFTP_EN (17): Accept images by TFTP -/
def SVC_CFG_TFTP_EN : Fld := ⟨0x2028, 1, 0x8, 1, 0, 0, 1, .rw, 0, .none⟩
/-- ID_PART MAGIC (18): Bytes "KWAY" -/
def ID_PART_MAGIC : Fld := ⟨0x0, 1, 0x8, 1, 0, 0, 32, .ro, 0x5941574b, .none⟩
/-- ID_PART GEN (18): Kwayth generation -/
def ID_PART_GEN : Fld := ⟨0x0, 1, 0x8, 1, 0, 32, 8, .ro, 2, .none⟩
/-- ID_PART STEPPING (18): 0 A0, 1 B0 -/
def ID_PART_STEPPING : Fld := ⟨0x0, 1, 0x8, 1, 0, 40, 4, .ro, 1, .none⟩
/-- ID_SERIAL SERIAL (18): Part serial number -/
def ID_SERIAL_SERIAL : Fld := ⟨0x8, 1, 0x8, 1, 0, 0, 64, .ro, 0, .none⟩
/-- ID_MAC ETH_MAC_BASE (18): Bits [7:0] zero; port n uses + n -/
def ID_MAC_ETH_MAC_BASE : Fld := ⟨0x10, 1, 0x8, 1, 0, 0, 48, .ro, 0, .none⟩
/-- CAP_COUNTS PORTS (18): as its table gives -/
def CAP_COUNTS_PORTS : Fld := ⟨0x18, 1, 0x8, 1, 0, 0, 10, .ro, 0x80, .none⟩
/-- CAP_COUNTS GALLERIES (18): as its table gives -/
def CAP_COUNTS_GALLERIES : Fld := ⟨0x18, 1, 0x8, 1, 0, 16, 6, .ro, 0x20, .none⟩
/-- CAP_COUNTS PIPS_PER_GALLERY (18): as its table gives -/
def CAP_COUNTS_PIPS_PER_GALLERY : Fld := ⟨0x18, 1, 0x8, 1, 0, 24, 8, .ro, 0x80, .none⟩
/-- CAP_COUNTS STACKS (18): as its table gives -/
def CAP_COUNTS_STACKS : Fld := ⟨0x18, 1, 0x8, 1, 0, 32, 8, .ro, 0x14, .none⟩
/-- CAP_COUNTS PARTITIONS (18): as its table gives -/
def CAP_COUNTS_PARTITIONS : Fld := ⟨0x18, 1, 0x8, 1, 0, 40, 8, .ro, 0x40, .none⟩
/-- CAP_COUNTS WINGS (18): as its table gives -/
def CAP_COUNTS_WINGS : Fld := ⟨0x18, 1, 0x8, 1, 0, 48, 8, .ro, 4, .none⟩
/-- CAP_COUNTS STRANDS (18): Per pip -/
def CAP_COUNTS_STRANDS : Fld := ⟨0x18, 1, 0x8, 1, 0, 56, 8, .ro, 8, .none⟩
/-- CAP_VERSIONS VER_MIN (18): Header versions (R79) -/
def CAP_VERSIONS_VER_MIN : Fld := ⟨0x20, 1, 0x8, 1, 0, 0, 4, .ro, 2, .none⟩
/-- CAP_VERSIONS VER_MAX (18): as its table gives -/
def CAP_VERSIONS_VER_MAX : Fld := ⟨0x20, 1, 0x8, 1, 0, 4, 4, .ro, 2, .none⟩
/-- CAP_VERSIONS ISA_MAJOR (18): Seedcode -/
def CAP_VERSIONS_ISA_MAJOR : Fld := ⟨0x20, 1, 0x8, 1, 0, 8, 8, .ro, 1, .none⟩
/-- CAP_VERSIONS ISA_MINOR (18): as its table gives -/
def CAP_VERSIONS_ISA_MINOR : Fld := ⟨0x20, 1, 0x8, 1, 0, 16, 8, .ro, 0, .none⟩
/-- CAP_VERSIONS TT_VERSION (18): R223 -/
def CAP_VERSIONS_TT_VERSION : Fld := ⟨0x20, 1, 0x8, 1, 0, 24, 8, .ro, 1, .none⟩
/-- CAP_VERSIONS HUSK_VERSION (18): R290 -/
def CAP_VERSIONS_HUSK_VERSION : Fld := ⟨0x20, 1, 0x8, 1, 0, 32, 8, .ro, 1, .none⟩
/-- CAP_VERSIONS FPR_VERSION (18): R468 -/
def CAP_VERSIONS_FPR_VERSION : Fld := ⟨0x20, 1, 0x8, 1, 0, 40, 8, .ro, 1, .none⟩
/-- CAP_FEATURES FEATURES (18): Exact carry, hop crypt, job crypt, quiet, Holone, Ethernet bulk, coherence; licence ... -/
def CAP_FEATURES_FEATURES : Fld := ⟨0x28, 1, 0x8, 1, 0, 0, 7, .ro, 0x7f, .none⟩
/-- FW_VER VERSION (18): Running image of kind k -/
def FW_VER_VERSION : Fld := ⟨0x38, 3, 0x8, 1, 0, 0, 32, .ro, 0, .none⟩
/-- FW_VER SVN (18): as its table gives -/
def FW_VER_SVN : Fld := ⟨0x38, 3, 0x8, 1, 0, 32, 6, .ro, 0, .none⟩
/-- HOST_OWN OWNER (18): 0 none, 1 H0, 2 H1 -/
def HOST_OWN_OWNER : Fld := ⟨0x1000, 1, 0x8, 1, 0, 0, 2, .ro, 0, .none⟩
/-- HOST_OWN CLAIM (18): Write 1; reads 0 -/
def HOST_OWN_CLAIM : Fld := ⟨0x1000, 1, 0x8, 1, 0, 2, 1, .rw, 0, .none⟩
/-- HOST_OWN RENEW (18): Write 1; reads 0 -/
def HOST_OWN_RENEW : Fld := ⟨0x1000, 1, 0x8, 1, 0, 3, 1, .rw, 0, .none⟩
/-- HOST_OWN RELEASE (18): Write 1; reads 0 -/
def HOST_OWN_RELEASE : Fld := ⟨0x1000, 1, 0x8, 1, 0, 4, 1, .rw, 0, .none⟩
/-- HOST_LEASE EXPIRY_US (18): Owner lease expiry -/
def HOST_LEASE_EXPIRY_US : Fld := ⟨0x1008, 1, 0x8, 1, 0, 0, 48, .ro, 0, .none⟩
/-- HOST_DENIED COUNT (18): R486, R488 -/
def HOST_DENIED_COUNT : Fld := ⟨0x1010, 1, 0x8, 1, 0, 0, 64, .ro, 0, .none⟩
/-- HOST_PORT RATE (18): 0 none, 5 32 GT/s, 6 64 GT/s -/
def HOST_PORT_RATE : Fld := ⟨0x1018, 2, 0x8, 1, 0, 0, 4, .ro, 0, .none⟩
/-- HOST_PORT WIDTH (18): Lanes trained -/
def HOST_PORT_WIDTH : Fld := ⟨0x1018, 2, 0x8, 1, 0, 4, 5, .ro, 0, .none⟩
/-- HOST_PORT BARS_EN (18): R482 -/
def HOST_PORT_BARS_EN : Fld := ⟨0x1018, 2, 0x8, 1, 0, 9, 1, .ro, 0, .none⟩
/-- HOST_PORT CAUSE (18): 0 none, 1 rate, 2 width, 3 HOST_BAD -/
def HOST_PORT_CAUSE : Fld := ⟨0x1018, 2, 0x8, 1, 0, 10, 2, .ro, 0, .none⟩
/-- HOST_PORT CAN_OWN (18): From the frame -/
def HOST_PORT_CAN_OWN : Fld := ⟨0x1018, 2, 0x8, 1, 0, 12, 1, .ro, 0, .none⟩
/-- HOST_PORT CAN_STANDBY (18): From the frame -/
def HOST_PORT_CAN_STANDBY : Fld := ⟨0x1018, 2, 0x8, 1, 0, 13, 1, .ro, 0, .none⟩
/-- HOST_PORT NODE (18): BIND_NODE -/
def HOST_PORT_NODE : Fld := ⟨0x1018, 2, 0x8, 1, 0, 14, 15, .ro, 0x7fff, .none⟩
/-- CQ_BASE ADDR (18): Bits [5:0] zero -/
def CQ_BASE_ADDR : Fld := ⟨0x1100, 2, 0x80, 1, 0, 0, 64, .rw, 0, .none⟩
/-- CQ_CFG CQ_LOG2 (18): 8–16; out-of-range writes ignored -/
def CQ_CFG_CQ_LOG2 : Fld := ⟨0x1108, 2, 0x80, 1, 0, 0, 5, .rw, 8, .none⟩
/-- CQ_HEAD HEAD (18): Next entry the host will read -/
def CQ_HEAD_HEAD : Fld := ⟨0x1110, 2, 0x80, 1, 0, 0, 16, .rw, 0, .none⟩
/-- CQ_TAIL TAIL (18): Next entry the switch writes -/
def CQ_TAIL_TAIL : Fld := ⟨0x1118, 2, 0x80, 1, 0, 0, 16, .ro, 0, .none⟩
/-- CQ_TAIL PHASE (18): as its table gives -/
def CQ_TAIL_PHASE : Fld := ⟨0x1118, 2, 0x80, 1, 0, 16, 1, .ro, 1, .none⟩
/-- CMDQ DEPTH (18): Commands queued or running -/
def CMDQ_DEPTH : Fld := ⟨0x1120, 2, 0x80, 1, 0, 0, 9, .ro, 0, .none⟩
/-- CW_BAD COUNT (18): R489 -/
def CW_BAD_COUNT : Fld := ⟨0x1128, 2, 0x80, 1, 0, 0, 64, .ro, 0, .none⟩
/-- CW_FULL COUNT (18): R489 -/
def CW_FULL_COUNT : Fld := ⟨0x1130, 2, 0x80, 1, 0, 0, 64, .ro, 0, .none⟩
/-- INBOUND INBOUND_BASE (18): R484; multiple of 4 KiB -/
def INBOUND_INBOUND_BASE : Fld := ⟨0x1138, 2, 0x80, 1, 0, 0, 64, .rws, 0, .none⟩
/-- INBOUND_LEN LEN (18): R484; multiple of 4 KiB -/
def INBOUND_LEN_LEN : Fld := ⟨0x1140, 2, 0x80, 1, 0, 0, 48, .rws, 0, .none⟩
/-- HOST_CFG STAGE_VIEW (18): R495 -/
def HOST_CFG_STAGE_VIEW : Fld := ⟨0x1148, 2, 0x80, 1, 0, 0, 1, .rw, 0, .none⟩
/-- APERTURE NODE (18): R483 -/
def APERTURE_NODE : Fld := ⟨0x1200, 32, 0x10, 1, 0, 0, 15, .rws, 0x7fff, .none⟩
/-- APERTURE EN (18): as its table gives -/
def APERTURE_EN : Fld := ⟨0x1200, 32, 0x10, 1, 0, 15, 1, .rws, 0, .none⟩
/-- APERTURE PKEY (18): as its table gives -/
def APERTURE_PKEY : Fld := ⟨0x1200, 32, 0x10, 1, 0, 16, 16, .rws, 0, .none⟩
/-- APERTURE BASE_4G (18): OFFSET[47:32] -/
def APERTURE_BASE_4G : Fld := ⟨0x1200, 32, 0x10, 1, 0, 32, 16, .rws, 0, .none⟩
/-- STAGE_STATUS STAGE_PENDING (18): R495 -/
def STAGE_STATUS_STAGE_PENDING : Fld := ⟨0x100120, 1, 0x8, 1, 0, 0, 1, .ro, 0, .none⟩
/-- STAGE_STATUS COMMITS (18): Boundaries at which anything committed, wrapping -/
def STAGE_STATUS_COMMITS : Fld := ⟨0x100120, 1, 0x8, 1, 0, 32, 32, .ro, 0, .none⟩
/-- THERM_CFG TJ_THROTTLE (19): °C, 80–105; out-of-range values clamp to the nearer end -/
def THERM_CFG_TJ_THROTTLE : Fld := ⟨0xc00300, 1, 0x8, 1, 0, 0, 7, .rws, 0x64, .rng 80 105⟩
/-- THERM_STATUS TJ_MAX (19): Hottest die sensor, °C -/
def THERM_STATUS_TJ_MAX : Fld := ⟨0xc00308, 1, 0x8, 1, 0, 0, 8, .ro, 0, .none⟩
/-- THERM_STATUS HBM_MAX (19): Hottest stack, °C -/
def THERM_STATUS_HBM_MAX : Fld := ⟨0xc00308, 1, 0x8, 1, 0, 8, 8, .ro, 0, .none⟩
/-- THERM_STATUS EFF_LIMIT_W (19): R517 -/
def THERM_STATUS_EFF_LIMIT_W : Fld := ⟨0xc00308, 1, 0x8, 1, 0, 16, 11, .ro, 0x708, .none⟩
/-- THERM_STATUS THROTTLED (19): EFF_LIMIT_W is below LIMIT_W -/
def THERM_STATUS_THROTTLED : Fld := ⟨0xc00308, 1, 0x8, 1, 0, 27, 1, .ro, 0, .none⟩
/-- THERM_STATUS ALERT (19): R516 -/
def THERM_STATUS_ALERT : Fld := ⟨0xc00308, 1, 0x8, 1, 0, 28, 1, .ro, 0, .none⟩
/-- THERM_STATUS HBM_HOT (19): R516 -/
def THERM_STATUS_HBM_HOT : Fld := ⟨0xc00308, 1, 0x8, 1, 0, 29, 1, .ro, 0, .none⟩
/-- THROTTLE_US COUNT (19): µs with THROTTLED set, since reset -/
def THROTTLE_US_COUNT : Fld := ⟨0xc00310, 1, 0x8, 1, 0, 0, 64, .ro, 0, .none⟩
/-- PKG_STATE STATE (19): 2 START, 3 IDLE, 4 RUN; 0, 1 and 5–7 unused -/
def PKG_STATE_STATE : Fld := ⟨0xc00318, 1, 0x8, 1, 0, 0, 3, .ro, 2, .none⟩
/-- STAGE_WR COUNT (18): R497 pointers of the stage report -/
def STAGE_WR : Fld := ⟨0x100100, 1, 0x8, 1, 0, 0, 64, .ro, 0, .none⟩
/-- EVT_WR COUNT (15): R427 pointers of the owner ring -/
def EVTO_WR : Fld := ⟨0x14a0000, 1, 0x8, 1, 0, 0, 64, .ro, 0, .none⟩
/-- EVT_WR COUNT (15): R427 pointers of the partition rings -/
def EVTP_WR : Fld := ⟨0x14a0100, 64, 0x20, 1, 0, 0, 64, .ro, 0, .none⟩
/-- STAGE_RD COUNT (18): R497 pointers of the stage report -/
def STAGE_RD : Fld := ⟨0x100108, 1, 0x8, 1, 0, 0, 64, .rw, 0, .none⟩
/-- EVT_RD COUNT (15): R427 pointers of the owner ring -/
def EVTO_RD : Fld := ⟨0x14a0008, 1, 0x8, 1, 0, 0, 64, .rw, 0, .none⟩
/-- EVT_RD COUNT (15): R427 pointers of the partition rings -/
def EVTP_RD : Fld := ⟨0x14a0108, 64, 0x20, 1, 0, 0, 64, .rw, 0, .none⟩
/-- STAGE_LOST COUNT (18): R497 pointers of the stage report -/
def STAGE_LOST : Fld := ⟨0x100110, 1, 0x8, 1, 0, 0, 64, .w1c, 0, .none⟩
/-- EVT_LOST COUNT (15): R427 pointers of the owner ring -/
def EVTO_LOST : Fld := ⟨0x14a0010, 1, 0x8, 1, 0, 0, 64, .w1c, 0, .none⟩
/-- EVT_LOST COUNT (15): R427 pointers of the partition rings -/
def EVTP_LOST : Fld := ⟨0x14a0110, 64, 0x20, 1, 0, 0, 64, .w1c, 0, .none⟩
/-- STAGE_IRQ EN (18): R497 pointers of the stage report -/
def STAGE_IRQ : Fld := ⟨0x100118, 1, 0x8, 1, 0, 0, 1, .rw, 0, .none⟩
/-- EVT_IRQ EN (15): R427 pointers of the owner ring -/
def EVTO_IRQ : Fld := ⟨0x14a0018, 1, 0x8, 1, 0, 0, 1, .rw, 0, .none⟩
/-- EVT_IRQ EN (15): R427 pointers of the partition rings -/
def EVTP_IRQ : Fld := ⟨0x14a0118, 64, 0x20, 1, 0, 0, 1, .rw, 0, .none⟩
/-- PROFILE PROFILE (18): R499 profiles of blocks 1-5 (block 0 is PLACE_PROFILE) -/
def PROFILE : Fld := ⟨0x100208, 5, 0x8, 1, 0, 0, 2, .rws, 0, .none⟩
/-- METER PORT_RX_BYTES (13): R389 frozen meter of R40 -/
def METER_PORT_RX_BYTES : Fld := ⟨0x1420000, 64, 0x80, 1, 0, 0, 64, .ro, 0, .none⟩
/-- METER PORT_TX_BYTES (13): R389 frozen meter of R40 -/
def METER_PORT_TX_BYTES : Fld := ⟨0x1420008, 64, 0x80, 1, 0, 0, 64, .ro, 0, .none⟩
/-- METER HALL_CELLS (13): R389 frozen meter of R40 -/
def METER_HALL_CELLS : Fld := ⟨0x1420010, 64, 0x80, 1, 0, 0, 64, .ro, 0, .none⟩
/-- METER PIP_CYCLES (13): R389 frozen meter of R40 -/
def METER_PIP_CYCLES : Fld := ⟨0x1420018, 64, 0x80, 1, 0, 0, 64, .ro, 0, .none⟩
/-- METER GALLERY_NS (13): R389 frozen meter of R40 -/
def METER_GALLERY_NS : Fld := ⟨0x1420020, 64, 0x80, 1, 0, 0, 64, .ro, 0, .none⟩
/-- METER S0_GRANULE_EPOCHS (13): R389 frozen meter of R40 -/
def METER_S0_GRANULE_EPOCHS : Fld := ⟨0x1420028, 64, 0x80, 1, 0, 0, 64, .ro, 0, .none⟩
/-- METER S0_BYTES (13): R389 frozen meter of R40 -/
def METER_S0_BYTES : Fld := ⟨0x1420030, 64, 0x80, 1, 0, 0, 64, .ro, 0, .none⟩
/-- METER S1_BYTES (13): R389 frozen meter of R40 -/
def METER_S1_BYTES : Fld := ⟨0x1420038, 64, 0x80, 1, 0, 0, 64, .ro, 0, .none⟩
/-- METER S2_BYTES (13): R389 frozen meter of R40 -/
def METER_S2_BYTES : Fld := ⟨0x1420040, 64, 0x80, 1, 0, 0, 64, .ro, 0, .none⟩
/-- METER ENERGY_UJ (13): R389 frozen meter of R40 -/
def METER_ENERGY_UJ : Fld := ⟨0x1420048, 64, 0x80, 1, 0, 0, 64, .ro, 0, .none⟩
/-- SNAP_EPOCH SNAP_EPOCH (13): R389 -/
def SNAP_EPOCH : Fld := ⟨0x1420050, 64, 0x80, 1, 0, 0, 64, .ro, 0, .none⟩

end R

/-- Part 0 of the list of all fields. -/
def regPart0 : List Fld :=
  [R.TIME_NOW_TIME_NS, R.EPOCH_NOW_EPOCH, R.EPOCH_CFG_EPOCH_LEN_US, R.TIME_CTL_TIME_ROLE, R.TIME_CTL_EXT_PPS_EN, R.TIME_CTL_EXT_10M_EN, R.TIME_STATUS_TIME_STATE, R.TIME_STATUS_OFFSET_NS, R.TIME_STATUS_SYNC_PORT, R.GALLERY_GRANT_MASK, R.WIN_PART, R.WIN_VALID, R.WIN_NODE_LO, R.WIN_NODE_HI, R.WIN_R_READ, R.WIN_R_WRITE, R.WIN_R_ATOMIC, R.WIN_R_COHERENT, R.WIN_R_LAUNCH, R.WIN_BASE_1M, R.WIN_LIMIT_1M, R.XACT_CFG_REMOTE_TIMEOUT_US, R.ANSWER_CFG_ANSWER_RETAIN_US, R.ANSWER_STATUS_ENTRIES_LIVE, R.LATE_ANSWERS_COUNT, R.NODE_SELF_NODE, R.ETH_CFG_ETHERTYPE, R.FAULT_WR_COUNT, R.FAULT_RD_COUNT, R.FAULT_LOST_COUNT, R.FAULT_IRQ_EN, R.ETH_PORT_PORT_PKEY, R.ETH_DROP_COUNT, R.ETH_FCS_BAD_COUNT, R.ETH_OVERSIZE_COUNT, R.ETH_ETYPE_DROP_COUNT, R.SFAULT_WR_COUNT, R.SFAULT_RD_COUNT, R.SFAULT_LOST_COUNT, R.SFAULT_IRQ_EN]

/-- Part 1 of the list of all fields. -/
def regPart1 : List Fld :=
  [R.PROG_CFG_PROG_LIMIT_US, R.PROG_STATUS_INSTANCES, R.COL_UNGRANTED_COUNT, R.COL_STALE_COUNT, R.TT_STATUS_LIVE, R.TT_STATUS_MISMATCH, R.TT_STATUS_STAGED, R.TT_STATUS_NSLOTS, R.TT_ID_ID, R.TT_OVERRUNS_COUNT, R.COL_CTX_STATE, R.COL_CTX_RP, R.COL_CTX_CLOSE_PENDING, R.COL_CTX_NO_GALLERY, R.COL_CTX_GALLERY, R.COL_CTX_PENDING, R.COL_CTX_RUNS_DONE, R.COL_CTX_RUNS_ABORTED, R.COL_CTX_LAST_REASON, R.COL_CTX_SPECIAL_LANES, R.COL_CTX_FIRST_SPECIAL_POS, R.COL_CTX_STRETCH_US, R.COL_CTX_STRETCH_IDX, R.TBL_VALID, R.TBL_PART, R.TBL_FMT, R.TBL_MX, R.TBL_ROW_ELEMS, R.TBL_NROWS, R.TBL_NSLOTS, R.TBL_SLOT_BASE, R.TBL_DIR_BASE, R.TBL_STATUS_READY, R.TBL_STATUS_NPINS, R.TBL_STATUS_SLOTS_FREE, R.TBL_VER_LIVE_VER, R.TBL_PIN0_VER, R.TBL_PIN1_VER, R.TBL_PIN2_VER, R.TBL_PIN3_VER]

/-- Part 2 of the list of all fields. -/
def regPart2 : List Fld :=
  [R.TBL_SPILL_SPILL_ROUNDS, R.TBL_FETCH_FETCHES, R.GDETAIL_WR_COUNT, R.SET_VALID, R.SET_STAIR, R.SET_PROT, R.SET_NTRAYS, R.SET_DRAIN, R.SET_SLOTS, R.SET_TRAY_BYTES, R.SET_SLOTS_FREE, R.TRAY_NODE, R.TRAY_BASE, R.PLACE_PROFILE_PROFILE, R.PKG_POWER_LIMIT_W, R.PKG_POWER_MEASURED_W, R.PKG_POWER_AT_FLOOR, R.PLACE_HEAT_PROMOTE_HEAT, R.PLACE_HEAT_PROMOTE_EPOCHS, R.PLACE_HEAT_S1_DEMOTE_AGE, R.PLACE_FREE_FREE_LOW, R.PLACE_FREE_FREE_HIGH, R.PLACE_RATE_MIGRATE_GBPS, R.PLACE_RATE_CUT_GBPS, R.PLACE_SLEEP_GALLERY_IDLE_US, R.PLACE_SLEEP_STACK_IDLE_US, R.PLACE_SLEEP_LANE_IDLE_US, R.TIER_CFG_S1_TIMEOUT_US, R.TIER_CFG_S2_TIMEOUT_US, R.TIER_CFG_SLOW_PCT, R.S0_WING_FREE_FRAMES, R.S0_WING_FRAMES_TOTAL, R.S0_WING_GOOD_PCH, R.GALLERY_CLK_POINT, R.GALLERY_CLK_CAP, R.S0_QUOTA_QUOTA_GIB, R.S0_USE_GRANULES, R.S0_USE_DEMOTE_PENDING, R.PLAN_VALID, R.PLAN_PART]

/-- Part 3 of the list of all fields. -/
def regPart3 : List Fld :=
  [R.PLAN_HUSK, R.PLAN_EXPAND, R.PLAN_PKEY, R.PLAN_DST_NODE, R.PLAN_SRC_OFF, R.PLAN_SRC_LEN, R.PLAN_OUT_LEN, R.PLAN_DST_OFF, R.PLAN_FLAG_OFF, R.PLAN_LEAD_US, R.PLAN_ESC_US, R.PLAN_RATE_GBPS, R.WS_STATE_STATE, R.WS_STATE_LEVEL, R.WS_STATE_BUF_WING, R.WS_STATE_LAST_STATUS, R.WS_STATE_PENDING, R.WS_RUNS_RUNS, R.WS_FAILED_RUNS_FAILED, R.WS_LATE_LATE_US, R.WS_LATE_MAX_LATE_US, R.WS_COPIED_BYTES, R.WS_SENT_BYTES, R.WS_OVERRUNS_COUNT, R.EXT_STATE, R.EXT_SCRUB_ON_FREE, R.EXT_PIN_S0, R.EXT_LEDGER, R.EXT_STREAM, R.EXT_PART, R.EXT_HOLDER, R.EXT_BASE_G, R.EXT_LEN_G, R.EXT_BLOCK_LOG2, R.EXT_GRANTS, R.EXT_QUOTA_QUOTA_GIB, R.EXT_USE_GRANULES, R.EXT_USE_OVER, R.EXT_CFG_LEASE_MS, R.EXT_CFG_SCRUB_GBPS]

/-- Part 4 of the list of all fields. -/
def regPart4 : List Fld :=
  [R.STREAM_CFG_HANDOFF_MS, R.STREAM_CFG_POLL_US, R.STREAM_CFG_PULL_GBPS, R.STREAM_STATUS_CONTEXTS, R.STREAM_STATUS_HANDOFFS, R.HANDOFF_DONE_COUNT, R.HANDOFF_REVERTED_COUNT, R.STREAMS_LOST_COUNT, R.DRAIN_ABANDONED_COUNT, R.LEASE_NODE, R.LEASE_STATE, R.LEASE_EXP_EXPIRY_US, R.COH_CFG_SNOOP_TIMEOUT_US, R.LOST_WR_COUNT, R.LOST_RD_COUNT, R.LOST_OVER_COUNT, R.LOST_IRQ_EN, R.COH_STATUS_STALE_LINES, R.COH_STATUS_SLOTS_USED, R.BACK_INVAL_COUNT, R.SNOOP_TIMEOUTS_COUNT, R.CSLOT_NODE, R.CSLOT_STATE, R.CSLOT_WAYS, R.CSLOT_M_TAGS, R.CSLOT_S_TAGS, R.CSLOT_STALE_TAGS, R.MC_PORTS, R.MC_H0, R.MC_H1, R.HALL_CT_CT_CLASS, R.HALL_CT_BLK_SPRAY, R.BUF_CFG_SINK_FLOOR, R.BUF_CFG_AUDIT_EPOCHS, R.BUF_CFG_AUDIT_NOW, R.BUF_STATUS_FREE_CELLS, R.BUF_STATUS_SHARED_FREE, R.LEAK_RECLAIMED_COUNT, R.AUDIT_STATUS_AUDITS, R.AUDIT_STATUS_RUNNING]

/-- Part 5 of the list of all fields. -/
def regPart5 : List Fld :=
  [R.AUDIT_STATUS_LAST_LEAKED, R.ROUTE_CTL_FLIP, R.ROUTE_CTL_DRAIN_US, R.ROUTE_CTL_HASH_SEED, R.ROUTE_STATUS_GEN_LIVE, R.ROUTE_STATUS_OLD_VALID, R.ROUTE_STATUS_FLIP_HELD, R.ROUTE_STATUS_FLIPS, R.ROUTE_STALE_CNT_COUNT, R.NO_ROUTE_COUNT, R.RETIRE_NS_TIME_NS, R.BALCONY_CFG_ETYPE, R.PART_LAND_LAND_MAX, R.PART_LAND_LAND_RSV, R.PART_LAND_CELLS, R.PLAND_LAND_MIN, R.PLAND_LAND_SHARE, R.PLAND_HEADROOM, R.PTRANSIT_TRANSIT_MAX, R.PCELLS_LAND_CELLS, R.PCELLS_TRANSIT_CELLS, R.PCELLS_OFF_MASK, R.PDROP_RX_OVERRUN, R.PDROP_RX_TAIL_BAD, R.PFLUSH_FLUSHED_FRAMES, R.PREFUSED_COUNT, R.PMODE_BALCONY, R.MIRROR_EN, R.MIRROR_DIR_RX, R.MIRROR_DIR_TX, R.MIRROR_BALCONY_PORT, R.MIRROR_CLASSES, R.MIRROR_PART, R.MIRROR_PART_EN, R.MIRROR_SAMPLE_N, R.MIRROR_TRUNC_CELLS, R.MIRROR_PORTS, R.MIRROR_SRC, R.MIRROR_SRC_EN, R.MIRROR_DST]

/-- Part 6 of the list of all fields. -/
def regPart6 : List Fld :=
  [R.MIRROR_DST_EN, R.MIRROR_OPC, R.MIRROR_OPC_MASK, R.MIRROR_COPIES, R.MIRROR_DROPPED, R.MIRROR_SEQ, R.TM_CFG_WEIGHT_REQ, R.TM_CFG_WEIGHT_BLK, R.TM_CFG_WEIGHT_COL, R.TM_CFG_WEIGHT_MGT, R.TM_CFG_TRAY_CAP_GBPS, R.TM_STATUS_PATTERN, R.TM_STATUS_FREE_SLOTS, R.QSLOT_PART, R.QSLOT_OWNED, R.SUBSHAPE_RATE_MBPS, R.SVCSHAPE_REQ_RATE_MBPS, R.SVCSHAPE_BLK_RATE_MBPS, R.SVCSHAPE_COL_RATE_MBPS, R.SVCSHAPE_MGT_RATE_MBPS, R.SUBSHAPE_BURST, R.SVCSHAPE_REQ_BURST, R.SVCSHAPE_BLK_BURST, R.SVCSHAPE_COL_BURST, R.SVCSHAPE_MGT_BURST, R.PQUIET_QUIET, R.PQUIET_TRAY_RSV_GBPS, R.SHAPE_HELD_HELD_NS, R.SUB_CREDIT_CREDIT, R.PSHAPE_RATE_MBPS, R.PSHAPE_BURST, R.POVH_OVH_BYTES, R.PPOL_REQ_CIR_MBPS, R.PPOL_BLK_CIR_MBPS, R.PPOL_MGT_CIR_MBPS, R.PPOL_REQ_EN, R.PPOL_BLK_EN, R.PPOL_MGT_EN, R.PPOL_REQ_RED_MARK, R.PPOL_BLK_RED_MARK]

/-- Part 7 of the list of all fields. -/
def regPart7 : List Fld :=
  [R.PPOL_MGT_RED_MARK, R.PPOL_REQ_PIR_MBPS, R.PPOL_BLK_PIR_MBPS, R.PPOL_MGT_PIR_MBPS, R.PPOLB_REQ_CBS, R.PPOLB_BLK_CBS, R.PPOLB_MGT_CBS, R.PPOLB_REQ_PBS, R.PPOLB_BLK_PBS, R.PPOLB_MGT_PBS, R.PCOLOUR_YELLOW_16THS, R.PGREEN_COUNT, R.PYELLOW_COUNT, R.PRED_COUNT, R.PCOL_DROP_COUNT, R.LINK_CTL_PERSONALITY, R.LINK_CTL_GANG, R.LINK_CTL_SLEEP_EN, R.LINK_CTL_RETRAIN, R.LINK_CFG_HOLD_UP_US, R.LINK_CFG_REPLAY_US, R.LINK_CFG_SYNC_US, R.LINK_CFG_CRYPT_GROUP, R.LINK_CFG_LANE_SER_PPM, R.LINK_CFG_ASYM_NS, R.LINK_STATUS_LSTATE, R.LINK_STATUS_VERSION_LOW, R.LINK_STATUS_VER, R.LINK_STATUS_TX_LANES, R.LINK_STATUS_RX_LANES, R.LINK_STATUS_SAVED, R.LINK_STATUS_INCARNATION, R.PEER_CAPS_CAPS, R.FEC_CORR_COUNT, R.FEC_UNCORR_COUNT, R.CRC_BAD_COUNT, R.REPLAYS_COUNT, R.WIDTH_CHANGES_COUNT, R.RECOVERIES_COUNT, R.TAG_FAIL_COUNT]

/-- Part 8 of the list of all fields. -/
def regPart8 : List Fld :=
  [R.ONOFF_VIOLATION_COUNT, R.LANE_STATE, R.LANE_SER_PPM, R.GRP_VALID, R.GRP_KIND, R.GRP_STATE, R.GRP_SPARE, R.GRP_SPARE_SW, R.GRP_SERIAL, R.PSPARE_GROUP, R.PSPARE_EN, R.REMAP_FROM, R.REMAP_VALID, R.REMAP_TO, R.REMAP_CLEAR, R.REMAP_GROUP, R.SUB_CFG_SUB_WAIT_US, R.SUB_CFG_REBUILD_GBPS, R.SUB_DONE_COUNT, R.SUB_REFUSED_COUNT, R.AGE_CFG_MAINT_EPOCHS, R.AGE_CFG_MIN_SLACK_PS, R.AGE_CFG_MAINT_NOW, R.AGE_SLACK_SLACK_PS, R.AGE_VOFF_VOFF, R.AGE_STATUS_CAP_BIRTH, R.AGE_STATUS_WORN, R.AGE_STATUS_LAST_MAINT, R.MBOX_CTL_CMD, R.MBOX_CTL_GO, R.MBOX_CTL_REQ_LEN, R.MBOX_STATUS_BUSY, R.MBOX_STATUS_STATUS, R.MBOX_STATUS_RSP_LEN, R.SHELL_STATE_VARIANT, R.SHELL_STATE_FEATURES, R.SHELL_STATE_BOOT_LOCK, R.SHELL_STATE_AUTH_ENROLLED, R.FRAME_INFO_SERIAL, R.FRAME_INFO_FRAME_REFUSED]

/-- Part 9 of the list of all fields. -/
def regPart9 : List Fld :=
  [R.BOOT_WRITE_DENIED_COUNT, R.HOLONE_DENIED_COUNT, R.JOB_WINDOW_FULL_COUNT, R.MEAS_WORD, R.START_STATUS_PHASE, R.START_STATUS_WARM, R.START_STATUS_CAUSE, R.START_STATUS_TRIAL, R.START_STATUS_FULL_TRAIN, R.START_STATUS_WARM_RESETS, R.START_TIME_READY_MS, R.UPD_STATUS_STATE, R.UPD_STATUS_ACTIVE, R.UPD_STATUS_RESULT, R.UPD_STATUS_STAGED_VERSION, R.SVC_CFG_TFTP_EN, R.ID_PART_MAGIC, R.ID_PART_GEN, R.ID_PART_STEPPING, R.ID_SERIAL_SERIAL, R.ID_MAC_ETH_MAC_BASE, R.CAP_COUNTS_PORTS, R.CAP_COUNTS_GALLERIES, R.CAP_COUNTS_PIPS_PER_GALLERY, R.CAP_COUNTS_STACKS, R.CAP_COUNTS_PARTITIONS, R.CAP_COUNTS_WINGS, R.CAP_COUNTS_STRANDS, R.CAP_VERSIONS_VER_MIN, R.CAP_VERSIONS_VER_MAX, R.CAP_VERSIONS_ISA_MAJOR, R.CAP_VERSIONS_ISA_MINOR, R.CAP_VERSIONS_TT_VERSION, R.CAP_VERSIONS_HUSK_VERSION, R.CAP_VERSIONS_FPR_VERSION, R.CAP_FEATURES_FEATURES, R.FW_VER_VERSION, R.FW_VER_SVN, R.HOST_OWN_OWNER, R.HOST_OWN_CLAIM]

/-- Part 10 of the list of all fields. -/
def regPart10 : List Fld :=
  [R.HOST_OWN_RENEW, R.HOST_OWN_RELEASE, R.HOST_LEASE_EXPIRY_US, R.HOST_DENIED_COUNT, R.HOST_PORT_RATE, R.HOST_PORT_WIDTH, R.HOST_PORT_BARS_EN, R.HOST_PORT_CAUSE, R.HOST_PORT_CAN_OWN, R.HOST_PORT_CAN_STANDBY, R.HOST_PORT_NODE, R.CQ_BASE_ADDR, R.CQ_CFG_CQ_LOG2, R.CQ_HEAD_HEAD, R.CQ_TAIL_TAIL, R.CQ_TAIL_PHASE, R.CMDQ_DEPTH, R.CW_BAD_COUNT, R.CW_FULL_COUNT, R.INBOUND_INBOUND_BASE, R.INBOUND_LEN_LEN, R.HOST_CFG_STAGE_VIEW, R.APERTURE_NODE, R.APERTURE_EN, R.APERTURE_PKEY, R.APERTURE_BASE_4G, R.STAGE_STATUS_STAGE_PENDING, R.STAGE_STATUS_COMMITS, R.THERM_CFG_TJ_THROTTLE, R.THERM_STATUS_TJ_MAX, R.THERM_STATUS_HBM_MAX, R.THERM_STATUS_EFF_LIMIT_W, R.THERM_STATUS_THROTTLED, R.THERM_STATUS_ALERT, R.THERM_STATUS_HBM_HOT, R.THROTTLE_US_COUNT, R.PKG_STATE_STATE, R.STAGE_WR, R.EVTO_WR, R.EVTP_WR]

/-- Part 11 of the list of all fields. -/
def regPart11 : List Fld :=
  [R.STAGE_RD, R.EVTO_RD, R.EVTP_RD, R.STAGE_LOST, R.EVTO_LOST, R.EVTP_LOST, R.STAGE_IRQ, R.EVTO_IRQ, R.EVTP_IRQ, R.PROFILE, R.METER_PORT_RX_BYTES, R.METER_PORT_TX_BYTES, R.METER_HALL_CELLS, R.METER_PIP_CYCLES, R.METER_GALLERY_NS, R.METER_S0_GRANULE_EPOCHS, R.METER_S0_BYTES, R.METER_S1_BYTES, R.METER_S2_BYTES, R.METER_ENERGY_UJ, R.SNAP_EPOCH]

/-- Every register field of the map. -/
def regFields : List Fld :=
  regPart0 ++ regPart1 ++ regPart2 ++ regPart3 ++ regPart4 ++ regPart5 ++ regPart6 ++ regPart7 ++ regPart8 ++ regPart9 ++ regPart10 ++ regPart11

end Sys2Proof.Machine
end

