-- ==== Sys2Proof/Machine/State.lean ====
section
/-! DEFINITION. The state of the block: everything the manual gives the part, as plain data, with its reset.

A register that the host can read lives in the register file under its address (`RegFile.live`), at its reset value
until it is written, unless a structure below holds it; then reading it computes the view (Machine/Ops.lean). -/
namespace Sys2Proof.Machine

/-! ## Time (01_architecture.md) -/

/-- The last good TIME flit of a port, with its arrival (R406, R407). -/
structure PeerTime where
  state : Nat        -- its TIME_STATE
  hops : Nat
  gm : Nat           -- node of its grandmaster
  tx : Nat           -- the timestamp it carried
  time : Nat         -- its time at the arrival, corrected by the path delay
  epochT : Nat
  epochE : Nat
  epochLen : Nat
  nextLen : Nat
  nextAt : Nat
  arrived : Nat
  deriving DecidableEq, Repr

/-- Always-on time and epoch unit (R15-R25). -/
structure Clock where
  now : Nat                -- fabric time in ns, 64 bits
  tB : Nat                 -- boundary at which the live length came into force
  eB : Nat                 -- number of the epoch that boundary began
  nextB : Nat              -- time of the next boundary
  nextLen : Nat            -- epoch length to come in µs, 0 none (R23)
  nextAt : Nat             -- boundary time at which it comes into force
  cutoff : Bool            -- the stage cut-off of the coming boundary has passed (R21)
  hops : Nat               -- hops from the grandmaster
  gmNode : Nat             -- node of the grandmaster
  acqSince : Option Nat    -- start of ACQUIRING (R17)
  holdSince : Option Nat   -- start of HOLDOVER
  lastSource : Nat         -- last instant at which a port gave time (R16, R407)
  everLocked : Bool        -- the first forward step of R466 has been taken
  peers : Tab PeerTime
  pathDelay : Tab Nat      -- per port, the measured path delay
  slew : Int               -- offset still to be slewed, ns (R16, R18)
  slewAt : Nat             -- time from which the next nanosecond may be slewed
  behind : Bool            -- `TIME_BEHIND` stands reported (R18)
  deriving DecidableEq, Repr

/-! ## Registers and staging (18_host_registers.md) -/

/-- Who staged a value (R497 `SOURCE`). -/
inductive Source where
  | h0 | h1 | holone | self
  deriving DecidableEq, Repr

/-- A staged value of one register field. -/
structure StagedVal where
  value : Nat
  source : Source
  deriving DecidableEq, Repr

/-- A staged command or object (R494). `code` is its `CMD`, `obj` the entry it names, `bytes` its record or image. -/
structure StagedCmd where
  code : Nat
  obj : Nat
  tag : Nat
  source : Source
  args : List Byte
  bytes : List Byte
  lapsed : Bool            -- a grant staged while its holder's lease was `LAPSED` (R307)
  deriving DecidableEq, Repr

/-- The register file: live values, the staged copy, and the copy frozen at the cut-off (R495, R496). -/
structure RegFile where
  live : Tab Nat
  staged : Tab StagedVal
  frozen : Tab StagedVal
  stagedCmds : List StagedCmd
  frozenCmds : List StagedCmd
  retainHist : List (Nat × Nat) -- values of ANSWER_RETAIN_US that ceased, with the µs at which each ceased (R60)
  deriving DecidableEq, Repr

/-! ## Rings (R71, R114, R246, R344, R427, R497) -/

/-- The rings of records. Each is a table of records by index. -/
structure Rings where
  fault : Tab (List Byte)    -- index p * 256 + i, 32 bytes
  sfault : Tab (List Byte)   -- index p * 64 + i, 64 bytes
  gdetail : Tab (List Byte)  -- index p * 32 + i, 128 bytes
  stage : Tab (List Byte)    -- 256 entries of 32 bytes
  evOwner : Tab (List Byte)  -- 1,024 records of 64 bytes
  evPart : Tab (List Byte)   -- index p * 64 + i
  lost : Tab (List Byte)     -- 4,096 records of 16 bytes
  deriving DecidableEq, Repr

/-! ## Frames and the Hall (02_fabric_transactions.md, 12_hall.md, 13_traffic_tenants.md) -/

/-- A frame of R44 to R46 with its trailer (R346). -/
structure Frame where
  ver : Nat
  cls : Nat
  g : Nat
  dst : Nat
  src : Nat
  pkey : Nat
  opc : Nat
  tag : Nat
  len : Nat
  status : Nat
  of_ : Bool
  je : Bool
  mc : Bool
  offset : Nat
  rsv : Nat            -- the reserved header bits as received, in place (R45)
  payload : List Byte
  tailBad : Bool
  reason : Nat
  pcrc : Nat
  jobKey : Option Nat  -- the model's own: key of the job envelope that this switch opened or will seal (R412)
  deriving DecidableEq, Repr

/-- What a frame in the buffer is charged to (R349, R350, R354). -/
inductive Landing where
  | port (n : Nat)
  | part (p : Nat)
  | sink (n c : Nat)
  | head (n : Nat)
  | none
  deriving DecidableEq, Repr

/-- An output of a frame in the buffer: the unit, and the cells it has taken once it has started. -/
structure OutLeg where
  unit : Nat
  started : Bool
  sent : Nat
  deriving DecidableEq, Repr

/-- A frame held in the shared buffer (R345, R355, R360). -/
structure HFrame where
  id : Nat
  frame : Frame
  input : Nat
  outs : List OutLeg
  cells : Nat
  landing : Landing
  part : Option Nat       -- partition that owns PKEY
  arrived : Nat           -- time at which its header cell was accepted
  first : Bool            -- held and charged by service and subscriber buckets (R377)
  whole : Bool            -- store-and-forward: the trailer is checked before the first cell leaves (R348)
  moved : Bool            -- some cell has left
  ethSrc : Nat            -- source MAC, for frames of Ethernet ports
  heldSince : Option Nat  -- since when its buckets alone have held it (SHAPE_HELD)
  deriving DecidableEq, Repr

/-- A whole frame handed to one of this switch's own units, waiting for the row that serves it (R12). -/
structure Inbox where
  frame : Frame
  port : Nat           -- arrival port; 128 + h for host h; 255 made inside
  eth : Bool           -- arrived on a port in Ethernet bulk personality
  host : Option Nat    -- the host port it has reached, for frames bound for a host
  part : Option Nat
  arrived : Nat
  landed : Bool        -- its cells have moved to its partition's landing (R350)
  deriving DecidableEq, Repr

/-- States of a route generation (R372). -/
inductive GenState where
  | retired
  | live
  | old (retireAt : Nat)
  deriving DecidableEq, Repr

/-- A shaping or policing bucket: credit in units of 2^-16 byte and the time it was brought up to date (R376, R381). -/
structure Bucket where
  credit : Int
  at_ : Nat
  deriving DecidableEq, Repr

/-- A balcony copy queued for its port (R363). -/
structure Balcony where
  session : Nat
  port : Nat
  bytes : List Byte
  cells : Nat
  deriving DecidableEq, Repr

/-- The Hall. -/
structure Hall where
  frames : List HFrame          -- in order of acceptance
  inbox : Tab Inbox
  grantPtr : Tab Nat
  acceptPtr : Tab Nat
  drr : Tab Nat                 -- deficit of class c at input i, key i * 8 + c (R380)
  drrNext : Tab Nat             -- per input, the class whose turn it is
  balcony : List Balcony
  off : Tab Nat                 -- per port, mask of classes turned off towards it (R352)
  peerOff : Tab Nat             -- per port, mask of classes its peer has turned off (R403)
  sinkLow : Bool                -- the hold of R354 is in force
  gen0 : GenState
  gen1 : GenState
  routes : Tab Nat              -- live tables: key g * 32768 + node
  sets : Tab (List Byte)        -- live sets: key g * 256 + set, 32 bytes
  stRoutes : Tab Nat
  stSets : Tab (List Byte)
  lostCells : Nat               -- buffer cells that neither a queue nor an operation refers to (R367)
  auditSeen : Nat               -- of those, the cells the last audit found
  auditWait : Nat               -- epochs since the last periodic audit began
  auditEnds : Option Nat
  buckets : Tab Bucket          -- key: service p * 4 + c, subscriber 256 + p, port 320 + n
  policers : Tab Bucket         -- key (n * 3 + i) * 2 committed, + 1 peak
  quietSlot : Nat               -- slot of the quiet frame in progress (R384)
  quietCell : Nat               -- cell times left in that slot
  mirrorCnt : Tab Nat
  meters : Tab Nat              -- running meters: key p * 16 + m (R40)
  gated : Bool                  -- the Hall clock is gated (R29)
  lastWork : Nat
  ethPeer : Tab Nat             -- per port, source address of the last good Ethernet frame (R76)
  partCells : Tab Nat           -- cells charged to internal landings by units outside `frames`
  deriving DecidableEq, Repr

/-! ## Tracker and answer memory (R54, R57-R61, R69) -/

/-- Where the request of a tracker entry came from. -/
inductive Origin where
  | port (n : Nat)            -- an endpoint's port; the answer leaves as a frame
  | host (h : Nat)            -- a PCIe access through BAR2 (R483)
  | strand (k n : Nat)        -- fabric request n of strand k
  | tier (op : Nat)           -- a lower-stair attempt
  | plan (p : Nat)            -- a delivery store of stream plan p
  | flag (p : Nat)            -- a flag store of stream plan p
  | stream (c : Nat)          -- a pull of stream context c
  | ledger (c : Nat)          -- a ledger CAS of context c
  | poll (c : Nat)            -- a ledger poll of context c
  | revert (off : Nat)        -- the revert of the ledger entry at an offset, by its home
  | batch (b : Nat)           -- an index or row fetch of a gather batch
  | table (t : Nat)           -- a row read or written by a write of a table
  | col (c : Nat)             -- a collective
  | mgmt (n : Nat)            -- the management processor: job key install to peer n
  deriving DecidableEq, Repr

/-- A tracked request (R69). -/
structure Track where
  origin : Origin
  orig : Frame          -- the request as the source sent it
  sent : Frame          -- the request as it was sent on
  accepted : Nat        -- acceptance time, ns
  repeats : Nat         -- repeats of R64 made
  held : Bool           -- an OF store that waits (R54, R62)
  part : Option Nat
  port : Nat            -- arrival port for the fault record
  deriving DecidableEq, Repr

/-- A store that counts for the OF rule of its (SRC, DST) pair: its end, none while it runs (R54). -/
structure PairStore where
  src : Nat
  dst : Nat
  id : Nat
  isOF : Bool
  done : Option Bool     -- ended: true without an error
  deriving DecidableEq, Repr

/-- An entry of the answer memory (R58). -/
structure AnswerEntry where
  src : Nat
  tag : Nat
  pending : Bool
  check : Nat
  old : Nat
  status : Nat
  expiry : Nat            -- µs
  req : Nat               -- number of the atomic that it was entered for
  waiting : List Nat      -- requests held by the PENDING row of R59
  deriving DecidableEq, Repr

structure Tracker where
  reqs : Tab Track
  pairs : List PairStore
  answers : List AnswerEntry
  acceptFrom : Nat                 -- µs before which an atomic's ISSUE_US is refused (R60)
  barred : List (Nat × Nat)        -- node and µs of R61
  places : List (Nat × Nat × Nat)  -- requests that hold a place of R522 at an endpoint: `DST`, `SRC`, `TAG`
  late : List (Nat × Nat × Nat)    -- answers to come after a time-out: `SRC`, `DST`, `TAG` (R69)
  deriving DecidableEq, Repr

/-! ## What leaves the block -/

/-- Output pins of the part. -/
inductive Pin where
  | thermtrip | thermAlert | ppsOut
  deriving DecidableEq, Repr

/-- One thing the block sends out, oldest first in `State.out`. -/
inductive Output where
  | frame (port : Nat) (f : Frame)                                     -- a frame leaves a Molza port
  | eth (port dst src etype : Nat) (bytes : List Byte) (fcsGood : Bool) -- an Ethernet frame leaves a port
  | flit (port : Nat) (bytes : List Byte)                              -- a flit leaves a port
  | dmaWrite (host addr : Nat) (bytes : List Byte)                     -- a write into host memory
  | dmaRead (host addr len : Nat)                                      -- a read of host memory is issued
  | pcieRead (host : Nat) (bytes : List Byte)                          -- completion of a host read
  | msix (host vec : Nat)
  | pin (p : Pin) (high : Bool)
  | udp (bytes : List Byte)                                            -- a Holone answer
  | tftp (bytes : List Byte)
  | i3c (bytes : List Byte)
  | tray (node off len : Nat) (write : Bool) (bytes : List Byte)       -- an access to a tray or flash endpoint
  | signal (port : Nat) (code : Nat)                                   -- what a lane state machine drives
  | avs (rail : Nat) (mv : Nat)                                        -- AVSBus sets a rail: VDD_WING0 to 3, 4 VDD_HALL
  deriving DecidableEq, Repr

/-! ## The Shell (16_security.md) -/

structure PFPort where
  role : Nat              -- 0 unused, 1 endpoint, 2 side, 3 down, 4 balcony
  part : Nat
  granted : Bool
  bindNode : Nat
  hop : Nat
  keys : List Nat         -- indices into KEYS
  deriving DecidableEq, Repr

structure PFHost where
  canOwn : Bool
  canStandby : Bool
  bindNode : Nat
  part : Nat
  deriving DecidableEq, Repr

structure PFPeer where
  node : Nat
  digest : List Byte
  sk : List Byte
  deriving DecidableEq, Repr

/-- An access window (R68). -/
structure Window where
  part : Nat
  valid : Bool
  nodeLo : Nat
  nodeHi : Nat
  rights : Nat            -- bit 0 R_READ, 1 R_WRITE, 2 R_ATOMIC, 3 R_COHERENT, 4 R_LAUNCH
  base : Nat
  limit : Nat
  deriving DecidableEq, Repr

/-- An applied protection frame (R438). -/
structure ProtFrame where
  serial : Nat
  nodeSelf : Nat
  nswitches : Nat
  enabled : List Nat          -- partitions whose ENABLED bit is set
  jobRequired : List Nat
  keys : List (Nat × Nat)     -- key and partition, in the order of KEYS
  ports : Tab PFPort
  windows : List Window
  host0 : PFHost
  host1 : PFHost
  linkAuth : List Byte
  peers : List PFPeer
  holoneEn : Bool
  holonePort : Nat
  holoneRoles : List Nat
  nextAuth : List Byte
  signer : List Byte          -- digest of the key that signed it
  digest : List Byte          -- SHA3-256 of the frame (M4)
  deriving DecidableEq, Repr

/-- An applied licence (R441). -/
structure Licence where
  variant : Nat
  features : Nat
  licId : Nat
  digest : List Byte
  deriving DecidableEq, Repr

/-- A job key (R450). -/
structure JobKey where
  part : Nat
  key : List Byte
  notBefore : Nat
  issuer : Nat
  installed : Nat            -- epoch at which it was installed here
  removeAt : Option Nat      -- boundary epoch from which new frames are refused (R453)
  destroyAt : Option Nat     -- ns at which it is destroyed
  deriving DecidableEq, Repr

/-- A replay window (R412, R452). -/
structure ReplayWin where
  key : Nat
  src : Nat
  top : Nat               -- highest counter seen
  seen : Tab (List Byte)  -- tags of the counters in the window
  deriving DecidableEq, Repr

/-- A Holone credential slot (R456, R458). -/
structure HoloneSlot where
  key : Option (List Byte)
  counter : Nat              -- highest accepted
  sealed : Nat
  drops : List Nat           -- times of drops within the last second
  lockedUntil : Option Nat
  accepted : Nat
  deriving DecidableEq, Repr

structure Shell where
  meas : List (List Byte)        -- M0-M7
  frame : ProtFrame
  licence : Option Licence
  authority : Option (List Byte)
  jobKeys : Tab JobKey
  jobCtr : Nat
  jobMsg : Nat                   -- counter of the messages this switch seals (R411)
  jobBarred : List (Nat × Nat)   -- remapped nodes and the epoch of the boundary (R453)
  windows : List ReplayWin
  reqBuf : Mem
  rspBuf : Mem
  mboxHost : Nat                 -- host whose mailbox command runs or ran last
  mboxCmd : Nat                  -- its code and request length, as they stood at `GO`
  mboxLen : Nat
  jobOpen : Option (Nat × List (Nat × Option Nat)) -- JOB_OPEN in progress: key, peers and their answers
  recov : List Byte              -- chunks of R455 received
  recovTotal : Nat
  holone : List HoloneSlot
  endorsement : List Byte
  stagedFrame : List Byte        -- flash staging slot
  licenceFlash : List Byte       -- flash licence region
  fuseSvn : List Nat             -- fuse minimum per kind 1 to 3
  revokedFw : Nat
  revokedLic : Nat
  deriving DecidableEq, Repr

/-! ## Start-up and update (17_bringup_update.md) -/

/-- What a flash bank holds: the image installed at manufacture (log 50), or bytes written since; an erased byte reads as 0
(log 12). -/
inductive Bank where
  | factory
  | written (b : List Byte)
  deriving DecidableEq, Repr

/-- Saved training settings of a port: time of the write, digest of the report then in force, and the settings by lane
(R470). -/
structure SavedRec where
  at_ : Nat
  digest : List Byte
  lanes : Tab (List Byte)
  deriving DecidableEq, Repr

/-- The update state machine of a kind of image (R475). -/
structure Upd where
  state : Nat             -- 0 IDLE, 1 WRITING, 2 STAGED, 3 ARMED, 4 TRIAL
  active : Nat            -- ACTIVE bank
  try_ : Bool
  result : Nat
  banks : List Bank       -- banks 0 and 1
  pos : Nat               -- bytes of the image written so far
  total : Nat             -- length of a host image, 0 for TFTP
  lastByte : Nat          -- time of the last byte (10 s rule)
  byHost : Option Nat     -- the host of an IMAGE_STAGE in progress
  bootTrial : Bool        -- this start runs the trial bank
  runVersion : Nat
  runSvn : Nat
  runBank : Nat
  deriving DecidableEq, Repr

structure Boot where
  upd : List Upd                 -- kinds 1 to 3
  descOk : Bool                  -- a boot descriptor copy passes its check
  descSeq : Nat
  fpr : List Byte                -- floor plan report, 1,024 bytes
  pipBad : List Nat       -- marked in the report in force (R468)
  galleryBad : List Nat       -- marked in the report in force (R468)
  stackBad : List Nat       -- marked in the report in force (R468)
  portBad : List Nat       -- marked in the report in force (R468)
  laneBad : List Nat       -- marked in the report in force (R468)
  pchBad : List Nat       -- marked in the report in force (R468)
  hostBad : List Nat       -- marked in the report in force (R468)
  fuseMarks : List Byte          -- units marked in the fuse bank at manufacture, laid out as bytes 64 to 864 of a report (R467)
  pendPch : List Nat             -- marks pending in flash (R469)
  pendStack : List Nat
  coldStarts : Nat
  saved : Tab SavedRec           -- saved settings by region, which is a port
  savedWant : List Nat           -- regions whose settings wait to be written (R470)
  readyOnce : Bool               -- READY reached since the cold start
  t0 : Nat                       -- start of this start
  bootDone : Bool                -- the boot chain has completed
  testDone : Bool
  mgmtReleased : Option Nat      -- release of the management processor
  firstExchange : Option Nat     -- first port in EXCHANGE (R466)
  frameNew : Bool                -- a new frame was applied at this start (R463)
  recheck : Bool                 -- the check of R463 waits for the first boundary after READY
  tftp : Option Nat              -- kind whose TFTP transfer runs
  deriving DecidableEq, Repr

/-! ## Hosts (18_host_registers.md) -/

/-- A command in a host's queue. -/
structure HostCmd where
  bytes : List Byte
  deriving DecidableEq, Repr

/-- A B command in progress (R491). -/
structure BCmd where
  code : Nat
  tag : Nat
  irq : Bool
  obj : Nat              -- the stream, instance, kind or query it names
  buf : Nat
  deriving DecidableEq, Repr

structure HostPort where
  queue : List HostCmd
  running : List BCmd
  heldCpl : List (List Byte)       -- completions held by R492, oldest first
  linkUp : Bool
  claimAt : Option Nat
  resetAt : Option (Bool × Nat)    -- a reset 1 ms after its completion: warm?, time
  msixTable : Mem
  deriving DecidableEq, Repr

structure Hosts where
  h0 : HostPort
  h1 : HostPort
  deriving DecidableEq, Repr
/-! ## Package (19_package_power.md) -/

/-- Power states of the package (R511). `ready` is `IDLE` or `RUN`, as some port is up or none is. -/
inductive PkgPhase where
  | off | standby | start | ready | tripped
  deriving DecidableEq, Repr

/-- Units that sleep (R32). -/
inductive SleepUnit where
  | gallery (g : Nat)
  | stack (k : Nat)
  | lane (l : Nat)
  deriving DecidableEq, Repr

structure Package where
  phase : PkgPhase
  pwrok : Bool
  holdup : Bool            -- HOLDUP_N is asserted
  recoveryN : Bool         -- level of RECOVERY_N
  thermtrip : Bool         -- THERMTRIP_N is asserted
  thermAlert : Bool        -- THERM_ALERT_N is low
  dieHot : Bool            -- the row of TJ_THROTTLE holds (R516)
  dieCool : Bool           -- every sensor is at least 3 degrees below its throttle condition
  stack85 : List Nat       -- stacks whose refresh rate is doubled
  stack95 : List Nat       -- stacks capped at half bandwidth
  restartOk : Bool         -- every die sensor is below 85 degrees after a trip
  i3cDyn : Option Nat      -- dynamic address (R507)
  cabAbsent : List Nat     -- connectors whose CAB_PRES_N is high
  power : Nat              -- package power last measured, W
  asleep : List SleepUnit
  waking : List (SleepUnit × Nat)  -- units that wake, and since when
  idleSince : List (SleepUnit × Nat)  -- last use of stacks, and of ports by their first lane
  sealed : Bool            -- the sealing of R480 has been done for this hold-up
  throttledAt : Option Nat -- since when THROTTLED has been counted (THROTTLE_US)
  govAt : Option Nat       -- last run of the governor (R277)
  effAt : Option Nat       -- last tick of the effective limit (R517)
  sampleAt : Option Nat    -- last thermal sample (R516)
  rails : List Nat         -- mV that AVSBus has set: VDD_WING0 to 3, VDD_HALL; 0 before (R508)
  deriving DecidableEq, Repr
/-! ## Pool, stairs and moves (08_stairs.md) -/

/-- A placement map entry (R255), with the gallery requests of the epoch by wing that R267 weighs. -/
structure Granule where
  stair : Nat            -- 0, 1, 2; 3 UNBACKED
  homeWing : Nat
  pinned : Bool
  moving : Bool
  part : Nat
  hotRun : Nat
  destStair : Nat
  heat : Nat
  heatLast : Nat
  age : Nat
  loc : Nat
  dest : Nat
  galReq : List Nat
  stored : Bool          -- a store reached it on Stair 2 since the last boundary (R264)
  deriving DecidableEq, Repr

/-- Why a move was chosen (R267, R273). -/
inductive MoveKind where
  | promote | evict | cut | demote | wing | drain
  deriving DecidableEq, Repr

/-- A move in COPY (R269). -/
structure Move where
  kind : MoveKind
  pass : Nat
  dirty : Mask256
  holdSince : Option Nat
  todo : Mask256         -- units that the pass has still to copy
  deriving DecidableEq, Repr

/-- A source frame or slot that waits for requests accepted before the flip (R269). -/
structure Freeing where
  stair : Nat
  loc : Nat
  granule : Nat
  part : Nat
  before : Nat           -- requests with a lower number must be answered first
  deriving DecidableEq, Repr

/-- States of a tray (R265). -/
inductive TrayState where
  | up | slow | failed | rebuilding
  deriving DecidableEq, Repr

structure Tray where
  state : TrayState
  latency : Nat          -- mean read latency over the last 100 µs, ns
  belowSince : Option Nat
  errs : List Nat        -- times of uncorrectable errors
  rebuildAt : Nat        -- units: the rebuild pointer on the tray (R422)
  rebuilt : Nat          -- units that the rebuild has copied (R422)
  rebuildLost : Nat      -- units that it has skipped (R423)
  deriving DecidableEq, Repr

/-- What a lower-stair operation does. -/
inductive TierKind where
  | read | rmwRead | write
  | mirror              -- a mirror write of R313, under its tracker number
  deriving DecidableEq, Repr

/-- A lower-stair operation on one unit: the attempt in progress and the trays that still owe an answer (R264, R266). -/
structure TierOp where
  req : Nat              -- pool request it serves
  granule : Nat          -- granule whose unit it accesses
  kind : TierKind
  set : Nat
  slot : Nat
  unit : Nat
  piece : Nat            -- byte of the unit at which the access begins
  len : Nat
  attempt : Nat          -- 1 or 2
  trays : List Nat       -- trays that still owe an answer
  okSeen : Bool          -- some copy of a write has acknowledged
  last : Nat             -- status of the last failed attempt
  deadline : Nat
  copy : Bool            -- it copies a unit for the move of its granule (R269)
  deriving DecidableEq, Repr

/-- What a pool request does once it is ordered. -/
inductive PKind where
  | load
  | store
  | bulkGet
  | bulkPut
  | bulkPutMasked
  | atomic (op w operand compare : Nat)
  | rdShared | rdOwn | upgrade | wbDirty | evictClean
  deriving DecidableEq, Repr

/-- Where a pool request stands. -/
inductive PPhase where
  | order               -- waits for earlier transactions of its lines (R331)
  | snoop               -- waits for snoops
  | victim              -- waits for the back-invalidation of R328
  | wake (landed : Bool) -- waits for stacks to leave self-refresh (R35), on its partition's landing or where it arrived (R350)
  | hold                -- a write held by the fourth pass of a move (R269)
  | tier                -- waits for lower-stair operations and mirror writes
  | replay              -- waits for the stored answer of a pending atomic (R59)
  deriving DecidableEq, Repr

/-- A pool request in progress. -/
structure PoolReq where
  kind : PKind
  phase : PPhase
  frame : Frame
  origin : Origin
  tracked : Bool          -- this switch is its first switch
  off : Nat
  len : Nat
  data : List Byte
  mask : List Bool
  status : Nat
  grantOk : Bool
  wing : Option Nat       -- wing of the gallery that asked, for R267
  ent : Nat               -- extent that covers it
  seq : Nat               -- its place in the order in which the home accepted requests (R331)
  held : Bool             -- a write that a move held and released (R269)
  deriving DecidableEq, Repr

/-! ## Extents, leases, streams (10_extents_streams.md) -/

/-- An extent entry (R297) with what its fencing has reached (R304). -/
structure Extent where
  state : Nat             -- 0 FREE, 1 ACTIVE, 2 FENCING, 3 DRAINING, 4 SCRUB
  scrub : Bool
  pinS0 : Bool
  ledger : Bool
  stream : Bool
  part : Nat
  holder : Nat
  baseG : Nat
  lenG : Nat
  blockLog2 : Nat
  grants : Nat
  tD : Nat                -- drain start
  markId : Nat            -- requests with a lower number were accepted before the mark
  scrubbed : List Nat     -- granules already zeroed
  deriving DecidableEq, Repr

/-- A holder lease (R307). -/
structure Lease where
  node : Nat
  state : Nat             -- 0 NONE, 1 LIVE, 2 LAPSED
  expiryUs : Nat
  deriving DecidableEq, Repr

/-- What a token-stream context is doing for its command (R318). -/
inductive StreamStep where
  | idle
  | openCas               -- CAS FREE -> OWNED sent
  | drainWrites           -- writes in flight at S (step 1)
  | handCas               -- CAS OWNED -> HANDING sent
  | waitClaim             -- S waits for T
  | waitHanding           -- T waits to see HANDING
  | takeRead              -- takeover: ledger read sent
  | takeCas               -- takeover: CAS OWNED -> HANDING sent
  | list                  -- T reads the source's list
  | pull                  -- T pulls blocks
  | put                   -- T writes a pulled piece to its own block
  | claimCas              -- CAS to OWNED at GEN + 1 sent
  | lostCas               -- CAS to LOST sent
  | closeRead             -- close of a stream gone from here: ledger read sent
  | closeCas              -- CAS LOST -> FREE sent
  | verify                -- UNVERIFIED: a ledger read sent or owed
  deriving DecidableEq, Repr

/-- A token-stream context (R310). -/
structure StreamCtx where
  sid : Nat
  part : Nat
  lstate : Nat            -- 0 OWNED, 1 HANDING_OUT, 2 PULLING, 3 GONE, 4 LOST, 5 UNVERIFIED
  pkey : Nat
  nblocks : Nat
  gen : Nat
  list : Nat
  ledger : Nat
  mirror : Nat
  peerList : Nat
  peer : Nat
  step : StreamStep
  pulled : Nat            -- blocks written
  fromMirror : Bool
  srcBlocks : List Nat    -- offsets read from PEER_LIST
  part4k : Nat            -- bytes of the block in progress already pulled
  casCmp : Nat
  casNew : Nat
  casTag : Nat
  casIssue : Nat          -- ISSUE_US of the CAS in progress
  casId : Option Nat      -- its tracker number
  casTries : Nat          -- repeats of it
  pollId : Option Nat     -- tracker number of the ledger read in progress
  pollOld : Bool          -- it was sent before the last CAS was answered
  pullId : Option Nat     -- tracker number of the pull in progress
  since : Nat             -- start of the wait of HANDOFF_MS
  nextPoll : Nat
  cmd : Option (Nat × Nat)    -- host and CMD_TAG of the command in progress
  deriving DecidableEq, Repr

structure Pool where
  mem : Mem
  map : Tab Granule
  moves : Tab Move            -- by granule
  freeing : List Freeing
  trays : Tab Tray            -- by set * 32 + tray
  ops : Tab TierOp
  reqs : Tab PoolReq
  skipped : List (Nat × Nat)  -- set, unit number without a readable source (R423)
  bad : List Nat              -- Stair 0 chunks with an uncorrectable error: granule * 1024 + chunk (R424)
  extents : Tab Extent
  leases : Tab Lease
  streams : Tab StreamCtx
  blocks : Tab (Nat × Nat)    -- block offset to context and index (R311)
  handing : Tab Nat           -- ledger entry offset to DEADLINE_US (R316)
  stairFull : Bool
  quotaPinned : List Nat      -- partitions whose pinned granules were reported to exceed their quota (R273)
  evicting : List Nat         -- wings whose free frames fell below FREE_LOW and have not reached FREE_HIGH (R267)
  cutLeft : Nat               -- bytes of CUT_GBPS that no move has used yet (R273)
  moveLeft : Nat              -- bytes of MIGRATE_GBPS that no move has used yet (R268)
  deriving DecidableEq, Repr

/-! ## Coherence (11_coherence.md) -/

/-- A snoop filter slot (R322, R339). -/
structure CSlot where
  node : Nat
  state : Nat             -- 0 FREE, 1 REGISTERED, 2 RELEASING, 3 DEAD
  ways : Nat
  lines : Nat
  port : Nat
  deriving DecidableEq, Repr

/-- A filter tag (R327): 1 S, 2 M, 3 STALE. -/
structure CTag where
  slot : Nat
  line : Nat              -- offset of the line
  state : Nat
  gtag : Nat              -- TAG of the last grant
  order : Nat             -- order of grants
  deriving DecidableEq, Repr

/-- An outstanding snoop (R336). Its key is the TAG of the snoop. -/
structure Snoop where
  slot : Nat
  line : Nat
  inv : Bool              -- SNP_INV, else SNP_SHARE
  req : Nat               -- pool request it serves; for others the purpose below
  purpose : Nat           -- 0 request, 1 release (R339), 2 drain of extent `req` (R342), 3 victim for request `req`, 4 bytes that the Stair engine uses
  sends : Nat
  deadline : Nat
  deriving DecidableEq, Repr

structure Coherence where
  slots : Tab CSlot
  tags : List CTag
  snoops : Tab Snoop
  nextOrder : Nat
  deriving DecidableEq, Repr
/-! ## Programs (03_seedcode_model.md, 05_seedcode_instructions.md) -/

/-- A checked program image (R97). -/
structure Image where
  flags : Nat
  textLen : Nat
  dataLen : Nat
  gsLen : Nat
  psLen : Nat
  pips : Nat
  strands : Nat
  timeLimit : Nat
  entry : Nat
  text : List Byte
  data : List Byte
  deriving DecidableEq, Repr

/-- A live program slot (R99). -/
structure ProgSlot where
  part : Nat
  image : Image
  version : Nat          -- commit number, so that a replaced image is told from its successor (R100, R108)
  deriving DecidableEq, Repr

/-- Who asked for an instance (R113 `LAUNCHED_BY`). -/
inductive LaunchBy where
  | request (req : Nat)           -- LAUNCH frame, its tracker number
  | host (h tag : Nat)
  | slot (entry : Nat)
  | col (ctx : Nat)
  | pool (batch : Nat)            -- a pooling share (R242)
  deriving DecidableEq, Repr

/-- A launch on its way (R101-R106). -/
structure LaunchRec where
  by_ : LaunchBy
  slot : Nat
  part : Nat
  pkey : Nat
  src : Nat
  dst : Nat
  tag : Nat
  gallery : Nat
  fixed : Bool
  early : Bool
  args : List Word64
  deadline : Option Nat           -- the second time of R106
  port : Nat
  deriving DecidableEq, Repr

/-- What a strand waits for. -/
inductive Wait where
  | none
  | load (left : List Nat)        -- fabric requests of a load that still owe an answer (R161)
  | bar                           -- R93
  | event (mark : Nat)            -- WAITE (R151): the time, or for a boundary the epoch, at which the wait began
  | fault                         -- the strand has faulted and issues nothing more (R110)
  deriving DecidableEq, Repr

/-- A fabric request of a strand (R90, R161). -/
structure FabReq where
  n : Nat                         -- its tracker number
  tag : Nat
  isLoad : Bool
  isAtomic : Bool
  dReg : Option Nat               -- sD of a fabric ATOM
  width : Nat
  repeats : Nat                   -- repeats of R167 made
  frame : Frame
  pc : Nat                        -- text offset of the instruction that issued it
  deriving DecidableEq, Repr

/-- One strand (R84). -/
structure Strand where
  v : List Vec
  a : List (List Lane)
  s : List Word64
  p : List Pred
  pc : Nat
  wait : Wait
  halted : Bool
  reqs : List FabReq
  buf : Tab (Nat × List Byte)     -- answers in for the load that holds the strand: status and data by tracker number
  inst : Nat
  index : Nat                     -- strand index (R82)
  near : Vec                      -- what a `GATH` that awaits fabric lanes took from the stores at issue (R92)
  deriving DecidableEq, Repr

/-- The fault that decides an instance (R109-R113). -/
structure FaultInfo where
  time : Nat
  cause : Nat
  status : Nat
  strand : Nat                    -- global strand number
  pc : Nat
  insn : Nat
  addr : Nat
  more : Nat                      -- faults of the instance after the first (R111)
  told : Bool                     -- the launch is answered and the records are written (R110)
  deriving DecidableEq, Repr

/-- A living instance. -/
structure Inst where
  launch : LaunchRec
  image : Image
  slot : Nat
  version : Nat
  part : Nat
  gallery : Nat
  pipsAt : List Nat               -- global pip numbers by position (R82)
  pages : List Nat                -- gallery store pages of the region, in order
  dispatched : Nat
  limitAt : Nat
  result : Word64
  fault : Option FaultInfo
  pins : List (Nat × Nat)         -- table and version (R168)
  deriving DecidableEq, Repr

/-- Text resident in a gallery (R108). -/
structure ResText where
  slot : Nat
  version : Nat
  pages : List Nat
  deriving DecidableEq, Repr

structure Gallery where
  queue : List LaunchRec
  resident : Option Nat           -- partition whose instances it holds or held last
  zeroFor : Option Nat            -- zeroing in progress, and the partition it is for
  zeroAt : Nat                    -- its start (R39)
  needZero : Bool                 -- stores hold bytes of `resident`
  texts : List ResText
  point : Nat                     -- clock point (R30)
  paused : Option Nat             -- since when issue is paused by a change of point (R31)
  batches : List Nat              -- gather batches pooled here
  emptySince : Option Nat
  queueEmptyAt : Nat              -- when its queue last became empty
  ungatedAt : Option Nat          -- from when its ungated time is not yet metered (`GALLERY_NS`)
  deriving DecidableEq, Repr

structure Seed where
  slots : Tab ProgSlot
  insts : Tab Inst
  nextInst : Nat
  nextVersion : Nat
  strands : Tab Strand
  pipMem : Mem
  galMem : Mem
  gals : List Gallery
  held : List LaunchRec           -- launches that wait in the Hall buffer (R104)
  deriving DecidableEq, Repr
/-! ## Collectives and timetables (06_collectives.md) -/

/-- A `CHILD` entry of a context record (R192, R213). -/
structure ColChild where
  node : Nat
  base : Nat
  size : Nat
  deriving DecidableEq, Repr

/-- A context record (R192). -/
structure ColRec where
  num : Nat
  op : Nat                -- 0 ALL_REDUCE, 1 REDUCE_SCATTER, 2 ALL_GATHER, 3 BROADCAST, 4 REDUCE, 5 BARRIER
  mean : Bool
  mxin : Bool
  ifmt : Nat
  rfmt : Nat
  rm : Nat
  sat : Bool
  carry : Nat             -- 0 NONE, 1 EXACT, 2 FP64
  chbuf : Nat
  slot : Nat
  elems : Nat
  segelems : Nat
  mcgroup : Option Nat
  nlocal : Nat
  idxBase : Nat
  ntotal : Nat
  root : Nat
  parent : Nat
  children : List ColChild
  pkey : Nat
  straggle : Nat          -- µs, 0 means 50
  abortMs : Nat           -- ms, 0 means 10,000
  seed : Nat
  nodes : List Nat
  raw : List Byte         -- the 384 bytes, by which R227 compares records
  deriving DecidableEq, Repr

/-- An item held on a receive channel (R154, R209). -/
structure RItem where
  strand : Nat            -- strand index to which R209 delivers it
  pos : Nat
  idx : Nat
  last : Bool
  bytes : List Byte
  frees : Nat             -- bytes of the receive buffer that its removal frees
  report : List Byte      -- report bitmap of the segment, with its last item (R211)
  deriving DecidableEq, Repr

/-- An item on a send channel (R157). -/
structure SItem where
  strand : Nat
  pos : Nat
  last : Bool
  carry : Bool
  fmt : Nat
  bytes : List Byte
  report : List Byte
  deriving DecidableEq, Repr

/-- A frame of a send channel that waits for credit: the kind of R202 (none for a local recipient), its target, and
what it carries. -/
structure ColOut where
  kind : Option Nat
  dst : Nat
  mc : Bool
  pos : Nat
  last : Bool
  special : Bool
  payload : List Byte
  items : Nat             -- items whose last frame this is (R157)
  deriving DecidableEq, Repr

structure RChan where
  items : List RItem
  used : Nat              -- bytes reserved by grants or held by items (R159, R205)
  deriving DecidableEq, Repr

structure SChan where
  unsent : List SItem        -- items that wait behind frames without credit (R157)
  parts : Tab (List SItem)   -- per strand, the items of its segment so far (R210)
  lastPos : Tab (Nat × Nat)  -- per strand, the last carry position and the earlier items of it (R209)
  queue : List ColOut        -- frames that wait for credit, oldest first
  sent : Nat                 -- positions sent in the run
  deriving DecidableEq, Repr

/-- What the switch keeps of one sender of a run (R203, R217). `key` is kind * 65536 + index. -/
structure Sender where
  credit : Nat
  idle : Option Nat       -- start of the idle interval in progress
  late : Nat              -- ns that count
  told : Bool             -- the straggler event has been reported
  deriving DecidableEq, Repr

/-- What a context holds beyond its registers (R195-R222). -/
structure ColCtx where
  record : ColRec
  byTable : Bool                  -- opened by a timetable (R198)
  epoch : Nat                     -- epoch in which it opened (R210)
  inst : Option Nat
  runNo : Nat                     -- runs begun since open (R199 `ARG3`)
  recv : List RChan               -- receive channels 0 to 2
  send : List SChan               -- send channels 0 to 3
  dead : Bool                     -- the channels are aborted (R156)
  senders : Tab Sender
  progress : Nat                  -- time of the last progress
  abortAt : Option Nat
  next : Option ColRec            -- the record that opens when this context is free (R227)
  special : Nat                   -- lanes reported in the run so far
  firstSpecial : Nat
  away : Bool                     -- a boundary found its gallery no longer allowed, and no other is chosen yet (R195)
  reports : Tab (List Byte)       -- report bitmaps of the run's result segments from the parent, by first position (R211)
  deriving DecidableEq, Repr

/-- A slot entry (R224). -/
structure TtEntry where
  slot : Nat
  kind : Nat
  tflags : Nat
  ref : Nat
  gallery : Nat
  pkey : Nat
  portWake : Nat
  galWake : Nat
  stackWake : Nat
  args : List Word64
  disabled : Bool
  deriving DecidableEq, Repr

/-- A timetable image (R223). -/
structure Timetable where
  nslots : Nat
  lenUs : Nat
  id : Nat
  recs : List ColRec
  entries : List TtEntry
  liveAt : Nat            -- boundary at which it became live
  deriving DecidableEq, Repr

structure Col where
  ctx : Tab ColCtx
  live : Option Timetable
  slotsDone : Nat         -- slots of the epoch that have started
  offSince : Tab Nat      -- per port, since when this switch has held COL off (R207)
  deriving DecidableEq, Repr

/-! ## Tables (07_embedding.md) -/

/-- Who holds a pinned version (R250, R168). -/
inductive Holder where
  | node (n expiry : Nat)
  | inst (i : Nat)
  deriving DecidableEq, Repr

/-- A superseded slot that waits for R249: slot `old` was superseded by the flip of `new`. -/
structure Superseded where
  old : Nat
  new : Nat
  epoch : Nat             -- epoch in which the flip took place
  deriving DecidableEq, Repr

/-- A write of a table that has not flipped (R247, R248, R252): the reads or writes of its rows that it has issued, by
request number, with the row and, once answered, the status and data; and its rows with their fresh slots. -/
structure TWrite where
  req : Nat
  frame : Frame
  scatter : Bool
  phase : Nat             -- 0 waits its turn, 1 reads live rows, 2 writes fresh slots
  io : Tab (Nat × Option (Nat × List Byte))
  rows : List (Nat × Nat)
  deriving DecidableEq, Repr

structure Table where
  zeroEnd : Nat           -- the directory is zeroed and the table ready from then (R232)
  holds : List (Nat × Holder)   -- version and holder
  superseded : List Superseded
  writes : List TWrite    -- in order of acceptance
  deriving DecidableEq, Repr

/-- Where the directory of a table lies: its base, and the rows and slots that give its extent (R230, R233). -/
structure Dir where
  base : Nat
  nrows : Nat
  nslots : Nat
  deriving DecidableEq, Repr

/-- A share of a batch on one gallery (R242, R243). -/
structure Share where
  gallery : Nat
  started : Bool            -- dispatched from the gallery's queue
  rounds : List (Nat × Nat) -- positions of the round in progress and of those to come: first, and first beyond
  inst : Nat                -- number of its instance (R242)
  issued : Bool             -- its first round has begun
  deriving DecidableEq, Repr

/-- A read that a batch has issued: kind 0 bag array, 1 index array, 2 row of a share; and its answer, once in. -/
structure BFetch where
  kind : Nat
  share : Nat
  row : Nat
  ans : Option (Nat × List Byte)
  deriving DecidableEq, Repr

/-- What a table's descriptor says of its rows (R229, R230). -/
structure Geo where
  fmt : Nat
  mx : Bool
  elems : Nat
  nrows : Nat
  slotBase : Nat
  deriving DecidableEq, Repr

/-- A gather batch in flight (R237-R245). Its number is its request's. -/
structure Batch where
  dir : Dir               -- the directory area of its table, as it was when the batch was accepted (R251)
  frame : Frame
  port : Nat
  part : Nat
  table : Nat
  geo : Geo
  ver : Nat
  pool : Nat              -- 0 NONE, 1 SUM, 2 MEAN
  emptyZero : Bool
  ofmt : Nat
  rm : Nat
  sat : Bool
  seed : Nat
  srEpoch : Nat
  nidx : Nat
  nbags : Nat
  starts : List Nat
  indices : List Nat
  fetching : Bool         -- the directory is read and rows are being fetched
  shares : List Share
  fetch : Tab BFetch
  rowSlots : Tab Nat      -- per distinct row, the slot found at the batch version
  acc : Tab (List Lane)   -- per bag, the lanes of its row (`SUM`, `MEAN`)
  rows : Tab (List Byte)  -- per position, the row's bytes (`NONE`)
  fetches : Nat
  spills : Nat
  deadline : Nat
  deriving DecidableEq, Repr

structure Tables where
  run : Tab Table
  batches : Tab Batch
  deriving DecidableEq, Repr

/-! ## Weight streams (09_weight_streams.md) -/

/-- The fields of a plan's descriptor that its run in progress uses (R279). -/
structure PlanCfg where
  part : Nat
  expand : Nat
  pkey : Nat
  dst : Nat
  srcOff : Nat
  srcLen : Nat
  outLen : Nat
  dstOff : Nat
  flagOff : Nat
  escUs : Nat
  deriving DecidableEq, Repr

/-- What a plan with a buffer holds beyond its registers (R281-R289). -/
structure Plan where
  frames : List Nat       -- Stair 0 frames of the buffer
  cfg : PlanCfg
  run : Nat               -- number of the run in progress
  slot : Option (Nat × Nat)   -- slot of the run and the epoch it lies in, none when the run began at a slot start
  reads : Tab (List Byte) -- source reads answered ahead of their turn, by offset in the source
  bytes : List Byte       -- source bytes copied in order
  used : Nat              -- of those, the bytes decoded
  raw : List Byte         -- bytes ready for delivery, decoded where `EXPAND` asks
  sent : Nat              -- bytes sent to `DST_NODE`
  stores : List Nat       -- tracker numbers of data stores sent and not answered
  failed : Option Nat     -- first cause of R286
  storeFail : Option Nat  -- status of the first failed data store
  flag : Option Nat       -- tracker number of the flag store sent and not answered
  errSent : Bool          -- that flag is the plain one of R286
  repeating : Bool        -- stopped for a redelivery (R287)
  redo : Bool             -- it is, or was, delivered again: until its flag leaves that counts as lateness
  late : Nat              -- ns of counted waiting
  waiting : Option Nat    -- start of the wait in progress
  first : Bool            -- WEIGHT_LATE reported at its onset
  deriving DecidableEq, Repr

structure Streams where
  plans : Tab Plan
  deriving DecidableEq, Repr

/-! ## Links and hop keys (14_molza_link.md, 16_security.md) -/

/-- A sequenced flit that no `ACK` covers yet (R401). -/
structure Held where
  seq : Nat
  bytes : List Byte
  at_ : Nat
  deriving DecidableEq, Repr

/-- A hop key (R446, R447). -/
structure HopKey where
  id : Nat
  k0 : List Byte
  k1 : List Byte
  tx : Nat                -- flits encrypted under it
  rx : Nat
  since : Nat
  deriving DecidableEq, Repr

/-- The key establishment of a port (R445-R448). -/
structure HopState where
  cur : Option HopKey
  next : Option HopKey
  old : Option HopKey
  oldUntil : Nat
  rx : Tab (List Byte)    -- fragments of the message being received
  rxKind : Nat
  rxId : Nat
  offer : List Byte
  accept : List Byte
  kemD : List Byte
  kemZ : List Byte
  ss : List Byte
  offerAt : Option Nat
  limitAt : Option Nat    -- since when a limit of R447 holds without a next key
  retryAt : Option Nat
  deriving DecidableEq, Repr

/-- A Molza port beyond its registers (R393-R410). -/
structure LinkPort where
  saved : Tab (List Byte)  -- per lane, saved training settings
  usingSaved : Bool
  stateSince : Nat
  retryAt : Option Nat
  former : Nat            -- state before RECOVER
  aligned : Bool
  resume : Option (Nat × Nat)   -- INCARNATION and expected SEQ of the peer's RESUME
  peerInc : Option Nat
  capsGot : Bool
  txSeq : Nat
  rxSeq : Nat             -- next expected
  held : List Held        -- replay buffer, oldest first
  txWait : List (Nat × Nat × List Byte)   -- FTYPE, FSTART and payload of flits not yet sent
  nakAt : Option Nat      -- when the last NAK was sent, none once a flit was accepted
  again : Nat             -- sends-again in a row
  rxBytes : List Byte     -- bytes of the frame in progress
  group : List (List Byte)  -- flits of the tag group in progress
  groupFails : Nat
  rxUnion : Nat           -- lanes listened on during a change of width, 0 outside one
  rxNext : Option Nat     -- mask of the accepted `WIDTH` whose pairs have not begun
  widthSent : Option Nat  -- mask of a `WIDTH` sent and not yet acknowledged
  goodSince : Tab Nat     -- per lane, since when its error rate is below half the limit
  prbs : Bool             -- the PRBS check of saved settings runs
  hop : HopState
  deriving DecidableEq, Repr

/-! ## Spares and ageing (15_resilience.md) -/

/-- An ask at the detecting switch (R417). -/
structure Ask where
  port : Nat
  group : Nat
  failed : Nat
  cause : Nat
  tD : Nat
  sentAt : Nat
  deriving DecidableEq, Repr

/-- A grant of the spare switch (R418). -/
structure Grant where
  failed : Nat
  tB : Nat
  serial : Nat
  spare : Nat
  deriving DecidableEq, Repr

/-- A remap staged for a boundary (R419). -/
structure StagedRemap where
  failed : Nat
  spare : Nat
  group : Nat
  tB : Nat
  at_ : Nat               -- boundary whose cut-off it met
  deriving DecidableEq, Repr

structure Resil where
  asks : List Ask
  grants : Tab Grant
  seen : List (Nat × Nat)
  staged : List StagedRemap
  remaps : Tab (Nat × Nat × Nat)  -- live remaps by entry: FROM, TO, GROUP (R420)
  downSince : Tab Nat     -- members' ports in DOWN that have not been UP again (R415)
  measuring : Option Nat  -- start of the measurement in progress (R428)
  stagedAge : List (Nat × Nat × Nat × Nat)  -- gallery, cap, offsets, slacks to come into force (R429)
  deriving DecidableEq, Repr
/-! ## The machine -/

/-- Faults. No step of this block stops the machine: the manual gives every outcome as a status, a drop or a record. -/
inductive Fault
  deriving DecidableEq, Repr

/-- Refusals. -/
inductive Refusal where
  /-- Raised by the dispatcher for a command that has no meaning yet; safe: nothing is claimed of it. -/
  | notModelled (mnemonic : String)
  deriving DecidableEq, Repr

/-- Everything the manual gives the part, and the commands that wait (first in, first out). -/
structure State where
  clk : Clock
  rf : RegFile
  rings : Rings
  hall : Hall
  track : Tracker
  pool : Pool
  coh : Coherence
  seed : Seed
  col : Col
  tbl : Tables
  ws : Streams
  link : Tab LinkPort
  res : Resil
  sec : Shell
  boot : Boot
  host : Hosts
  pkg : Package
  out : List Output        -- what has left the part, oldest first
  freeCtr : Nat            -- the model's own: number of the next free value (log 3)
  nextId : Nat             -- the model's own: number of the next accepted request (log 3)
  pending : List Instr     -- commands that wait (the model's own)
  deriving DecidableEq, Repr

/-! ## Reset -/

/-- The applied frame before any frame was applied (R439). -/
def ProtFrame.empty : ProtFrame where
  serial := 0
  nodeSelf := 0x7FFF
  nswitches := 0
  enabled := []
  jobRequired := []
  keys := []
  ports := []
  windows := []
  host0 := ⟨false, false, 0x7FFF, 0⟩
  host1 := ⟨false, false, 0x7FFF, 0⟩
  linkAuth := List.replicate 32 0#8
  peers := []
  holoneEn := false
  holonePort := 0
  holoneRoles := []
  nextAuth := List.replicate 32 0#8
  signer := []
  digest := List.replicate 32 0#8

/-- A hop key establishment that has not begun. -/
def HopState.idle : HopState := ⟨none, none, none, 0, [], 0, 0, [], [], [], [], [], none, none, none⟩

/-- A port in DOWN. -/
def LinkPort.down : LinkPort where
  saved := []
  usingSaved := false
  stateSince := 0
  retryAt := none
  former := 0
  aligned := false
  resume := none
  peerInc := none
  capsGot := false
  txSeq := 0
  rxSeq := 0
  held := []
  txWait := []
  nakAt := none
  again := 0
  rxBytes := []
  group := []
  groupFails := 0
  rxUnion := 0
  rxNext := none
  widthSent := none
  goodSince := []
  prbs := false
  hop := HopState.idle

/-- A gallery with nothing on it, gated (R27, R29). -/
def Gallery.empty : Gallery := ⟨[], none, none, 0, false, [], 0, none, [], none, 0, none⟩

/-- An update state machine in IDLE with bank 0 ACTIVE, its image that of manufacture, and bank 1 erased (R475). -/
def Upd.idle : Upd := ⟨0, 0, false, 0, [.factory, .written []], 0, 0, 0, none, false, 0, 0, 0⟩

/-- A host port whose link is not trained (R482). -/
def HostPort.down : HostPort := ⟨[], [], [], false, none, none, []⟩

def Clock.reset : Clock where
  now := 0
  tB := 0
  eB := 0
  nextB := 1000000
  nextLen := 0
  nextAt := 0
  cutoff := false
  hops := 0xFF
  gmNode := 0x7FFF
  acqSince := none
  holdSince := none
  lastSource := 0
  everLocked := false
  peers := []
  pathDelay := []
  slew := 0
  slewAt := 0
  behind := false

def Hall.reset : Hall where
  frames := []
  inbox := []
  grantPtr := []
  acceptPtr := []
  drr := []
  drrNext := []
  balcony := []
  off := []
  peerOff := []
  sinkLow := false
  gen0 := .live
  gen1 := .retired
  routes := []
  sets := []
  stRoutes := []
  stSets := []
  lostCells := 0
  auditSeen := 0
  auditWait := 0
  auditEnds := none
  buckets := []
  policers := []
  quietSlot := 0
  quietCell := 0
  mirrorCnt := []
  meters := []
  gated := false
  lastWork := 0
  ethPeer := []
  partCells := []

def Shell.reset : Shell where
  meas := List.replicate 8 (List.replicate 32 0#8)
  frame := ProtFrame.empty
  licence := none
  authority := none
  jobKeys := []
  jobCtr := 0
  jobMsg := 0
  jobBarred := []
  windows := []
  reqBuf := []
  rspBuf := []
  mboxHost := 0
  mboxCmd := 0
  mboxLen := 0
  jobOpen := none
  recov := []
  recovTotal := 0
  holone := List.replicate 4 ⟨none, 0, 0, [], none, 0⟩
  endorsement := []
  stagedFrame := []
  licenceFlash := []
  fuseSvn := [0, 0, 0]
  revokedFw := 0
  revokedLic := 0

def Boot.reset : Boot where
  upd := [Upd.idle, Upd.idle, Upd.idle]
  descOk := true
  descSeq := 0
  fpr := []
  pipBad := []
  galleryBad := []
  stackBad := []
  portBad := []
  laneBad := []
  pchBad := []
  hostBad := []
  fuseMarks := []
  pendPch := []
  pendStack := []
  coldStarts := 0
  saved := []
  savedWant := []
  readyOnce := false
  t0 := 0
  bootDone := false
  testDone := false
  mgmtReleased := none
  firstExchange := none
  frameNew := false
  recheck := false
  tftp := none

def Package.reset : Package where
  phase := .start
  pwrok := true
  holdup := false
  recoveryN := true
  thermtrip := false
  thermAlert := false
  dieHot := false
  dieCool := true
  stack85 := []
  stack95 := []
  restartOk := false
  i3cDyn := none
  cabAbsent := []
  power := 0
  asleep := (List.range 32).map .gallery
  waking := []
  idleSince := []
  sealed := false
  throttledAt := none
  govAt := none
  effAt := none
  sampleAt := none
  rails := [0, 0, 0, 0, 0]

/-- The machine at T0 of a cold start (R461, R462), before the boot chain has run: `PHASE` is BOOT and `PKG_STATE` is
START. Registers hold the reset values of their tables, which is what an empty register file reads as. -/
def State.reset : State where
  clk := Clock.reset
  rf := ⟨[], [], [], [], [], []⟩
  rings := ⟨[], [], [], [], [], [], []⟩
  hall := Hall.reset
  track := ⟨[], [], [], 0, [], [], []⟩
  pool := ⟨[], [], [], [], [], [], [], [], [], [], [], [], [], [], false, [], [], 0, 0⟩
  coh := ⟨[], [], [], 0⟩
  seed := ⟨[], [], 0, 0, [], [], [], List.replicate 32 Gallery.empty, []⟩
  col := ⟨[], none, 0, []⟩
  tbl := ⟨[], []⟩
  ws := ⟨[]⟩
  link := []
  res := ⟨[], [], [], [], [], [], none, []⟩
  sec := Shell.reset
  boot := Boot.reset
  host := ⟨HostPort.down, HostPort.down⟩
  pkg := Package.reset
  out := []
  freeCtr := 0
  nextId := 1
  pending := []

end Sys2Proof.Machine
end

