-- ==== Sys2Proof/Machine/Ops.lean ====
section
/-! DEFINITION. Operations that every family of commands uses: the register file, outputs, interrupts, record rings,
fault records and events. -/
namespace Sys2Proof.Machine

/-- Answer of a meaning: every command of the block ends in a next state. -/
abbrev Out := Host.Outcome State Fault Refusal

/-! ## Registers and counters -/

/-- Live value of field `i` of a register array. -/
def rget (s : State) (f : Fld) (i : Nat) : Nat := tgetD s.rf.live (f.key i) f.reset

/-- Set the live value of a field; bits beyond its width are dropped. -/
def rset (f : Fld) (i v : Nat) (s : State) : State :=
  { s with rf := { s.rf with live := tput s.rf.live (f.key i) f.reset (v % 2 ^ f.w) } }

/-- Add to a counter, which wraps at its width. -/
def radd (f : Fld) (i n : Nat) (s : State) : State := rset f i (rget s f i + n) s

/-- Add one to a counter. -/
def rbump (f : Fld) (i : Nat) (s : State) : State := radd f i 1 s

/-- Add to a counter that saturates at its width. -/
def rsat (f : Fld) (i n : Nat) (s : State) : State := rset f i (min (rget s f i + n) (2 ^ f.w - 1)) s

/-- A one-bit field as a truth value. -/
def rbit (s : State) (f : Fld) (i : Nat) : Bool := rget s f i != 0

/-! ## Time -/

/-- Fabric time in whole µs. -/
def nowUs (s : State) : Nat := s.clk.now / 1000

/-- Bring fabric time to an instant that lies ahead of it (log 22). -/
def atTime (t : Nat) (s : State) : State :=
  if s.clk.now < t then { s with clk := { s.clk with now := t } } else s

/-- One nanosecond of fabric time passes; at most once in 10 µs a nanosecond more or none passes for it, while an offset is
to be slewed (R16, R18). -/
def tickTime (c : Clock) : Clock :=
  if c.slew = 0 ∨ c.now < c.slewAt then { c with now := (c.now + 1) % 2 ^ 64 }
  else if 0 < c.slew then { c with now := (c.now + 2) % 2 ^ 64, slew := c.slew - 1, slewAt := c.now + 10000 }
  else { c with slew := c.slew + 1, slewAt := c.now + 10000 }

/-- Nothing is commanded: one nanosecond passes while the always-on domain counts (log 2). -/
def idle (s : State) : State :=
  match s.pkg.phase with
  | .off => s
  | _ => { s with clk := tickTime s.clk }

/-- The live epoch length in ns (R19). -/
def epochLen (s : State) : Nat := 1000 * rget s R.EPOCH_CFG_EPOCH_LEN_US 0

/-- The number of the current epoch. -/
def epochNow (s : State) : Nat := rget s R.EPOCH_NOW_EPOCH 0

/-- `NODE_SELF`. -/
def nodeSelf (s : State) : Nat := rget s R.NODE_SELF_NODE 0

/-- The main domain is powered and running (R511). -/
def running (s : State) : Bool :=
  match s.pkg.phase with
  | .start | .ready => true
  | _ => false

/-- `PHASE` is READY (R465). -/
def isReady (s : State) : Bool := rget s R.START_STATUS_PHASE 0 == 4

/-! ## Free values and numbers (log 1, log 3) -/

/-- The next free value, and the state in which it is used up. -/
def fresh (s : State) : Nat × State := (Config.freeValue s.freeCtr, { s with freeCtr := s.freeCtr + 1 })

/-- The next random 256-bit draw. -/
def freshRandom (s : State) : BitVec 256 × State := (Config.random s.freeCtr, { s with freeCtr := s.freeCtr + 1 })

/-- The number for the next accepted request. -/
def takeId (s : State) : Nat × State := (s.nextId, { s with nextId := s.nextId + 1 })

/-- Choose one of a list where the manual leaves the choice open: start at a free place and search upwards. -/
def pickFree {α : Type} (l : List α) (s : State) : Option α × State :=
  match l with
  | [] => (none, s)
  | x :: t => let (v, s') := fresh s; ((x :: t)[v % (t.length + 1)]?, s')

/-! ## Outputs -/

/-- Something leaves the part. -/
def emit (o : Output) (s : State) : State := { s with out := s.out ++ [o] }

/-- The block of a host port. -/
def hostPort (s : State) (h : Nat) : HostPort := if h = 0 then s.host.h0 else s.host.h1

/-- Change the block of a host port. -/
def setHost (h : Nat) (p : HostPort) (s : State) : State :=
  if h = 0 then { s with host := { s.host with h0 := p } } else { s with host := { s.host with h1 := p } }

/-- Raise an MSI-X vector on one function: a masked vector sets its pending bit instead (log 24). -/
def raiseOn (h vec : Nat) (s : State) : State :=
  let p := hostPort s h
  if bitAt (mget p.msixTable (16 * vec + 12)).toNat 0 then
    setHost h { p with msixTable := mset p.msixTable 128 (BitVec.ofNat 8 (setBit (mget p.msixTable 128).toNat vec true)) } s
  else emit (.msix h vec) s

/-- Raise a vector on both functions (R501). -/
def raiseIrq (vec : Nat) (s : State) : State := raiseOn 1 vec (raiseOn 0 vec s)

/-- `PHASE` changes, which vector 7 reports (R501). -/
def setPhase (p : Nat) (s : State) : State :=
  if rget s R.START_STATUS_PHASE 0 = p then s else raiseIrq 7 (rset R.START_STATUS_PHASE 0 p s)

/-! ## Rings of records (R71, R114, R246, R344, R427, R497) -/

/-- The registers of a ring: records written, consumed, lost, and the interrupt enable. -/
structure RingRegs where
  wr : Fld
  rd : Fld
  lost : Fld
  irq : Fld
  size : Nat
  vec : Nat
  deriving DecidableEq, Repr

def faultRing : RingRegs := ⟨R.FAULT_WR_COUNT, R.FAULT_RD_COUNT, R.FAULT_LOST_COUNT, R.FAULT_IRQ_EN, 256, 1⟩
def sfaultRing : RingRegs := ⟨R.SFAULT_WR_COUNT, R.SFAULT_RD_COUNT, R.SFAULT_LOST_COUNT, R.SFAULT_IRQ_EN, 64, 2⟩
def stageRing : RingRegs := ⟨R.STAGE_WR, R.STAGE_RD, R.STAGE_LOST, R.STAGE_IRQ, 256, 6⟩
def ownerRing : RingRegs := ⟨R.EVTO_WR, R.EVTO_RD, R.EVTO_LOST, R.EVTO_IRQ, 1024, 3⟩
def partRing : RingRegs := ⟨R.EVTP_WR, R.EVTP_RD, R.EVTP_LOST, R.EVTP_IRQ, 64, 3⟩
def lostRing : RingRegs := ⟨R.LOST_WR_COUNT, R.LOST_RD_COUNT, R.LOST_OVER_COUNT, R.LOST_IRQ_EN, 4096, 4⟩

/-- Number of the record that a ring writes next. -/
def ringNext (r : RingRegs) (i : Nat) (s : State) : Nat := rget s r.wr i

/-- A record that overwrote an unread one is lost. -/
def ringLose (r : RingRegs) (i : Nat) (s : State) : State :=
  if r.size < (rget s r.wr i + 2 ^ 64 - rget s r.rd i) % 2 ^ 64 then rbump r.lost i s else s

/-- A ring whose interrupt is enabled raises its vector. -/
def ringAlert (r : RingRegs) (i : Nat) (s : State) : State := if rbit s r.irq i then raiseIrq r.vec s else s

/-- Count a record that has just been stored: `WR` rises, a record that overwrote an unread one is lost, and an
enabled ring raises its vector. -/
def ringCount (r : RingRegs) (i : Nat) (s : State) : State := ringAlert r i (ringLose r i (rbump r.wr i s))

/-- Whether a ring holds records that software has not consumed. -/
def ringNotEmpty (r : RingRegs) (i : Nat) (s : State) : Bool := rget s r.wr i != rget s r.rd i

/-- Pack fields into the bytes of a record. -/
def recBytes (n : Nat) (fields : List (Nat × Nat)) : List Byte := toLE n (packBits fields)

/-! ## Fault records (R71, R72) -/

/-- The partition that owns a key: `KEYS` lists it for a partition whose `ENABLED` bit is set (R66). -/
def keyPart (s : State) (key : Nat) : Option Nat :=
  (s.sec.frame.keys.find? fun k => k.1 == key && s.sec.frame.enabled.contains k.2).map (·.2)

/-- The lowest key of a partition, for accesses of this switch's own on its behalf; 0 where it has none. -/
def partKey (s : State) (p : Nat) : Nat :=
  match (s.sec.frame.keys.filter fun k => k.2 == p).map (·.1) with
  | [] => 0
  | k :: t => t.foldl min k

/-- The bytes of a fault record. -/
def faultBytes (time : Nat) (f : Frame) (status part origin port count aux : Nat) : List Byte :=
  recBytes 32 [(64, time), (48, f.offset), (8, status), (8, f.opc), (15, f.src), (1, 0), (15, f.dst), (1, 0), (20, f.tag),
    (3, f.cls), (1, 0), (6, part), (2, origin), (8, port), (16, count), (8, 0), (32, aux)]

/-- Whether the newest record of a ring takes a further occurrence (R72). -/
def faultFolds (s : State) (f : Frame) (status part : Nat) : Option (Nat × List Byte) :=
  let n := ringNext faultRing part s
  if n = 0 then none else
  let k := part * 256 + (n - 1) % 256
  match tget s.rings.fault k with
  | some r =>
    if leAt r 14 1 = status ∧ leAt r 16 2 % 32768 = f.src ∧ leAt r 18 2 % 32768 = f.dst
        ∧ s.clk.now - leAt r 0 8 ≤ 1000 then some (k, r) else none
  | none => none

/-- Write a fault record in the ring of a partition, or fold it into the newest one. -/
def faultIn (part : Nat) (f : Frame) (status origin port aux : Nat) (s : State) : State :=
  match faultFolds s f status part with
  | some (k, r) =>
    let c := min (leAt r 25 2 + 1) 65535
    { s with rings := { s.rings with fault := tset s.rings.fault k (r.take 25 ++ toLE 2 c ++ r.drop 27) } }
  | none =>
    let k := part * 256 + ringNext faultRing part s % 256
    let t := tset s.rings.fault k (faultBytes s.clk.now f status part origin port 1 aux)
    ringCount faultRing part { s with rings := { s.rings with fault := t } }

/-- Write a fault record in the ring of the partition that owns the frame's key; a key that belongs to no partition has
no ring (log 25). -/
def faultRec (f : Frame) (status origin port aux : Nat) (s : State) : State :=
  match keyPart s f.pkey with
  | some p => faultIn p f status origin port aux s
  | none => s

/-! ## Events (R425 to R427) -/

/-- What an event says beside its time and number. `part` is none for a unit that belongs to no partition. -/
structure Event where
  code : Nat
  phase : Nat
  part : Option Nat
  port : Nat
  unit : Nat
  aux : Nat
  mag : Nat
  v2 : Nat
  deriving DecidableEq, Repr

/-- The bytes of an event record. -/
def eventBytes (time seq : Nat) (e : Event) : List Byte :=
  recBytes 64 [(64, time), (8, e.code), (2, e.phase), (6, e.part.getD 0), (1, b2n e.part.isNone), (7, 0), (8, e.port),
    (32, e.unit), (32, e.aux), (32, min e.mag (2 ^ 32 - 1)), (64, e.v2), (64, seq), (192, 0)]

/-- Store an event record in the owner ring. -/
def ownerEvent (b : List Byte) (s : State) : State :=
  ringCount ownerRing 0 { s with rings := { s.rings with evOwner := tset s.rings.evOwner (ringNext ownerRing 0 s % 1024) b } }

/-- Store an event record in the ring of a partition. -/
def partEvent (p : Nat) (b : List Byte) (s : State) : State :=
  ringCount partRing p { s with rings := { s.rings with evPart := tset s.rings.evPart (p * 64 + ringNext partRing p s % 64) b } }

/-- Store an event record in the owner ring and, for a unit of a partition, in that partition's ring. -/
def storeEvent (b : List Byte) (part : Option Nat) (s : State) : State :=
  match part with
  | none => ownerEvent b s
  | some p => partEvent p b (ownerEvent b s)

/-- Report an event, at the time that is now and under the number of the owner ring. -/
def report (e : Event) (s : State) : State := storeEvent (eventBytes s.clk.now (ringNext ownerRing 0 s) e) e.part s

/-! ## Stage report (R497) -/

/-- The code of a source. -/
def Source.code : Source → Nat
  | .h0 => 0 | .h1 => 1 | .holone => 2 | .self => 3

/-- The bytes of a stage report entry. -/
def stageBytes (epoch addr lsb width kind : Nat) (src : Source) (status written applied : Nat) : List Byte :=
  recBytes 32 [(64, epoch), (32, addr), (8, lsb), (8, width), (4, kind), (4, src.code), (8, status), (64, written), (64, applied)]

/-- Append an entry to the stage report. -/
def stageEntry (b : List Byte) (s : State) : State :=
  let k := ringNext stageRing 0 s % 256
  ringCount stageRing 0 { s with rings := { s.rings with stage := tset s.rings.stage k b } }

/-! ## Meters (R40) -/

/-- Add to running meter `m` of a partition. -/
def meter (p m n : Nat) (s : State) : State :=
  { s with hall := { s.hall with meters := tput s.hall.meters (p * 16 + m) 0 (tgetD s.hall.meters (p * 16 + m) 0 + n) } }

/-- Fold an update over a list. -/
def each {α : Type} (l : List α) (f : α → State → State) (s : State) : State := l.foldl (fun s x => f x s) s

/-- Do something only under a condition. -/
def when_ (c : Bool) (f : State → State) (s : State) : State := if c then f s else s

end Sys2Proof.Machine
end

