-- ==== Sys2Proof/Machine/Frame.lean ====
section
/-! DEFINITION. Frames: the header and trailer as bits, the kinds and classes of R48 and R520, the format rules of R47,
and the answer of a request (02_fabric_transactions.md). -/
namespace Sys2Proof.Machine

/-! ## Classes, kinds and codes -/

/-- Status codes of R73 that the model names. -/
abbrev stOK := 0x00
abbrev stReplayed := 0x01
abbrev stLoadFailed := 0x10
abbrev stTierTimeout := 0x11
abbrev stTierError := 0x12
abbrev stStaleLine := 0x13
abbrev stRevoked := 0x14
abbrev stExpired := 0x15
abbrev stDenied := 0x16
abbrev stPkey := 0x17
abbrev stRouteStale := 0x18
abbrev stIndex := 0x19
abbrev stAbsent := 0x1A
abbrev stColAbort := 0x1B
abbrev stStreamLost := 0x1C
abbrev stDecode := 0x1D
abbrev stQuota := 0x1E
abbrev stIllegal := 0x1F
abbrev stUnsupported := 0x20
abbrev stWithheld := 0x21
abbrev stAnswerFull := 0x22
abbrev stTagReused := 0x23
abbrev stNoAnswer := 0x24

/-- The class in whose range of R48 an `OPC` lies. -/
def opcClass (opc : Nat) : Option Nat :=
  if opc = 0x01 ∨ opc = 0x02 then some 4
  else if 0x10 ≤ opc ∧ opc ≤ 0x30 then some 4
  else if 0x40 ≤ opc ∧ opc ≤ 0x4F then some 4
  else if 0x50 ≤ opc ∧ opc ≤ 0x5F then some 3
  else if opc = 0x80 ∨ opc = 0x81 then some 1
  else if opc = 0x90 ∨ opc = 0x91 then some 2
  else if 0xA0 ≤ opc ∧ opc ≤ 0xA3 then some 5
  else if 0xC0 ≤ opc ∧ opc ≤ 0xCF then some 6
  else if 0xE0 ≤ opc ∧ opc ≤ 0xEF then some 7
  else if 0xF0 ≤ opc ∧ opc ≤ 0xFF then some 0
  else none

/-- Whether some chapter assigns an `OPC` of its class's range. -/
def opcAssigned (opc : Nat) : Bool :=
  decide (opc = 0x01) || decide (opc = 0x02) || (decide (0x10 ≤ opc) && decide (opc ≤ 0x20))
  || (decide (0x22 ≤ opc) && decide (opc ≤ 0x26)) || decide (opc = 0x30) || (decide (0x40 ≤ opc) && decide (opc ≤ 0x44))
  || (decide (0x50 ≤ opc) && decide (opc ≤ 0x51)) || decide (opc = 0x80) || decide (opc = 0x81) || decide (opc = 0x90)
  || decide (opc = 0x91) || (decide (0xA0 ≤ opc) && decide (opc ≤ 0xA3)) || (decide (0xC0 ≤ opc) && decide (opc ≤ 0xC2))
  || decide (opc = 0xE0) || decide (opc = 0xE1) || (decide (0xF0 ≤ opc) && decide (opc ≤ 0xFA))

/-- SNP, REQ, BLK and MGT carry requests (R520). -/
def isRequest (cls : Nat) : Bool := cls == 3 || cls == 4 || cls == 5 || cls == 7

/-- RSP and DAT carry answers. -/
def isAnswer (cls : Nat) : Bool := cls == 1 || cls == 2

/-- Atomics of R56. -/
def isAtomicOpc (opc : Nat) : Bool := decide (0x10 ≤ opc) && decide (opc ≤ 0x1F)

/-- Width in bytes of an atomic `OPC`. -/
def atomicWidth (opc : Nat) : Nat := if 0x18 ≤ opc then 8 else 4

/-- `STORE`, `BULK_PUT` and `BULK_PUT_MASKED`: what R54 calls a store. -/
def isStoreOpc (opc : Nat) : Bool := opc == 0x02 || opc == 0xA0 || opc == 0xA2

/-! ## Bits and bytes -/

/-- The header as one number (R44), the reserved bits as carried in `rsv`: bit 23 its bit 0, bit 39 its bit 1, bits
[127:111] its bits [18:2], bits [191:176] its bits [34:19]. -/
def headerNat (f : Frame) : Nat :=
  packBits [(4, f.ver), (3, f.cls), (1, f.g), (15, f.dst), (1, bitsOf f.rsv 0 1), (15, f.src), (1, bitsOf f.rsv 1 1),
    (16, f.pkey), (8, f.opc), (20, f.tag), (16, f.len), (8, f.status), (1, b2n f.of_), (1, b2n f.je), (1, b2n f.mc),
    (17, bitsOf f.rsv 2 17), (48, f.offset), (16, bitsOf f.rsv 19 16)]

/-- The 24 header bytes. -/
def headerBytes (f : Frame) : List Byte := toLE 24 (headerNat f)

/-- The 8 trailer bytes (R346). -/
def trailerBytes (f : Frame) : List Byte :=
  toLE 8 (packBits [(1, b2n f.tailBad), (3, f.reason), (28, 0), (32, f.pcrc)])

/-- A frame end to end (R345). -/
def frameBytes (f : Frame) : List Byte := headerBytes f ++ f.payload ++ trailerBytes f

/-- Cells that a frame takes (R345). -/
def frameCells (f : Frame) : Nat := ceilDiv (f.payload.length + 32) 256

/-- Read a frame of header, payload and trailer; the payload is what lies between header and trailer. -/
def parseFrame (bs : List Byte) : Frame :=
  let h := leNat (bs.take 24)
  let n := bs.length - 32
  let t := leNat ((bs.drop (24 + n)).take 8)
  { ver := bitsOf h 0 4, cls := bitsOf h 4 3, g := bitsOf h 7 1, dst := bitsOf h 8 15, src := bitsOf h 24 15
    pkey := bitsOf h 40 16, opc := bitsOf h 56 8, tag := bitsOf h 64 20, len := bitsOf h 84 16, status := bitsOf h 100 8
    of_ := bitAt h 108, je := bitAt h 109, mc := bitAt h 110, offset := bitsOf h 128 48
    rsv := packBits [(1, bitsOf h 23 1), (1, bitsOf h 39 1), (17, bitsOf h 111 17), (16, bitsOf h 176 16)]
    payload := (bs.drop 24).take n, tailBad := bitAt t 0, reason := bitsOf t 1 3, pcrc := bitsOf t 32 32
    jobKey := none }

/-- `PCRC` of a payload (R346). -/
def pcrcOf (p : List Byte) : Nat := if p.isEmpty then 0 else crc32c p

/-- A frame that this switch makes, with its `PCRC`; `G` is stamped when it enters the Hall. -/
def mkFrame (cls opc dst src pkey tag status offset len : Nat) (payload : List Byte) : Frame :=
  { ver := 2, cls := cls, g := 0, dst := dst, src := src, pkey := pkey, opc := opc, tag := tag, len := len
    status := status, of_ := false, je := false, mc := false, offset := offset, rsv := 0, payload := payload
    tailBad := false, reason := 0, pcrc := pcrcOf payload, jobKey := none }

/-- A CTL message of this switch. -/
def mkCtl (opc dst src pkey tag offset : Nat) (payload : List Byte) : Frame :=
  mkFrame 0 opc dst src pkey tag 0 offset payload.length payload

/-! ## Format rules (R47, R51, R64, R521) -/

/-- The lengths and alignments that step 1 of R66 checks. -/
def lengthOk (f : Frame) : Bool :=
  if f.opc = 0x01 ∨ f.opc = 0x02 then
    decide (1 ≤ f.len) && decide (f.len ≤ 4096) && decide (f.offset % 4096 + f.len ≤ 4096)
  else if f.opc = 0xA0 ∨ f.opc = 0xA1 then decide (256 ≤ f.len) && decide (f.len ≤ 8192) && decide (f.len % 256 = 0)
  else if f.opc = 0xA2 then decide (f.offset % 4096 = 0) && decide (f.len = 4160)
  else true

/-- The payload bytes that a frame of its `OPC` and `LEN` carries: none for a `LOAD` or `BULK_GET` (R51, R64). -/
def payloadLen (f : Frame) : Nat := if f.opc = 0x01 ∨ f.opc = 0xA1 then 0 else f.len

/-- Step 1 of R66: the status with which a frame's form ends it, none if it is good. -/
def formatStatus (f : Frame) : Option Nat :=
  if f.ver ≠ 2 then some stUnsupported
  else if 8192 < f.len then some stIllegal
  else if !isAnswer f.cls && f.status != 0 then some stIllegal
  else match opcClass f.opc with
    | none => some stIllegal
    | some c =>
      if c ≠ f.cls then some stIllegal
      else if f.of_ && f.opc != 0x02 then some stIllegal
      else if !lengthOk f then some stIllegal
      else if f.je && (f.cls == 0 || f.cls == 3 || f.cls == 7 || decide (f.len < 32)) then some stIllegal
      else if !opcAssigned f.opc then some stUnsupported
      else none

/-- The form of a CTL message that its own rule gives: `LEN`, `OFFSET`, and the bytes that are zero (R202, R308, R321, R416). -/
def ctlForm (f : Frame) : Bool :=
  let p := f.payload
  let zero (i n : Nat) : Bool := (slice p i n).all (· == 0#8)
  let eight := f.len == 8 && f.offset == 0
  match f.opc with
  | 0xF0 => eight && leAt p 0 2 / 2 ^ 13 % 4 == 0 && leAt p 2 1 != 0 && decide (leAt p 3 1 ≤ 2) && decide (1 ≤ leAt p 4 2)
      && decide (leAt p 4 2 ≤ 32) && zero 6 2
  | 0xF1 => eight && leAt p 0 2 / 2 ^ 13 % 4 == 0 && zero 3 1 && zero 6 2
  | 0xF2 => eight && zero 0 8
  | 0xF4 => eight && zero 4 4
  | 0xF6 => eight && zero 0 8
  | 0xF7 => f.len == 32 && f.offset == 0 && zero 5 3 && zero 16 16
  | 0xF8 => f.len == 32 && f.offset == 0 && zero 5 3 && zero 20 12
  | 0xF9 => f.len == 32 && f.offset == 0 && zero 5 1 && zero 22 10
  | _ => true

/-! ## Answers (R46, R52) -/

/-- The `OPC` and class that answer a request: `LOAD_DATA`, `BULK_DATA`, `ATOMIC_ANSWER` or `COMPLETION`. -/
def answerKind (opc : Nat) : Nat × Nat :=
  if opc = 0x01 ∨ opc = 0x40 ∨ opc = 0x41 ∨ opc = 0xE0 then (2, 0x90)
  else if opc = 0xA1 then (2, 0x91)
  else if isAtomicOpc opc ∨ opc = 0xA3 then (1, 0x81)
  else (1, 0x80)

/-- The length that an `MGT_QUERY` asks for (R500): 0 for one that is no multiple of 8 from 8 to 4096. -/
def queryLen (f : Frame) : Nat :=
  let n := leAt f.payload 4 4
  if 8 ≤ n ∧ n ≤ 4096 ∧ n % 8 = 0 then n else 0

/-- The data of an answer that ends with an error: all-ones of the length asked for (R52, R500), and for a coherent request
of its line and grant word (R329). A completion carries none. -/
def errorData (f : Frame) : List Byte :=
  if f.opc = 0x01 ∨ f.opc = 0xA1 then onesBytes f.len
  else if f.opc = 0xE0 then onesBytes (queryLen f)
  else if f.opc = 0x40 ∨ f.opc = 0x41 then onesBytes 136
  else if f.opc = 0x42 then onesBytes 8
  else []

/-- The answer of a request: the same `TAG` and `OFFSET`, nodes exchanged. -/
def mkAnswer (f : Frame) (status : Nat) (data : List Byte) : Frame :=
  let k := if f.opc = 0x42 ∧ data.length = 136 then (2, 0x90) else answerKind f.opc
  { mkFrame k.1 k.2 f.src f.dst f.pkey f.tag status f.offset data.length data with g := f.g, jobKey := f.jobKey }

/-- The status that R69 and R366 give a request that gets no answer: `LOAD_FAILED` for a load or a coherent read. -/
def timeoutStatus (f : Frame) : Nat := if f.opc = 0x01 ∨ f.opc = 0x40 ∨ f.opc = 0x41 then stLoadFailed else stNoAnswer

end Sys2Proof.Machine
end

