-- ==== Sys2Proof/Machine/Route.lean ====
section
/-! DEFINITION. Ports, nodes, keys and routes: which node is bound where, which ports are up, the landings and their
limits, and the choice of an output (R41 to R43, R66 to R68, R349 to R354, R366 to R370). -/
namespace Sys2Proof.Machine

/-! ## Ports -/

/-- `LSTATE` of a port (R398). -/
def lstate (s : State) (n : Nat) : Nat := rget s R.LINK_STATUS_LSTATE n

/-- The port is in Ethernet bulk personality. -/
def isEth (s : State) (n : Nat) : Bool := rbit s R.LINK_CTL_PERSONALITY n

/-- The Hall treats the port as up: UP, CTL_ONLY or RECOVER (R398). -/
def portUp (s : State) (n : Nat) : Bool := lstate s n == 4 || lstate s n == 5 || lstate s n == 6

/-- The `PORTS` entry of a port (R438). -/
def pfPort (s : State) (n : Nat) : PFPort := tgetD s.sec.frame.ports n ⟨0, 0, false, 0x7FFF, 0, []⟩

/-- The `HOSTS` entry of a host port. -/
def pfHost (s : State) (h : Nat) : PFHost := if h = 0 then s.sec.frame.host0 else s.sec.frame.host1

/-- A port that carries an endpoint or a tray. -/
def isEndpointPort (s : State) (n : Nat) : Bool := let r := (pfPort s n).role; r == 1 || r == 3

/-- A side port, towards another switch. -/
def isSidePort (s : State) (n : Nat) : Bool := (pfPort s n).role == 2

/-- The partition to which the frame grants a port, if it grants it to one. -/
def portPart (s : State) (n : Nat) : Option Nat := let p := pfPort s n; if p.granted then some p.part else none

/-- A node after the live remaps: frames for `FAILED` are looked up as frames for `SPARE` (R420). -/
def remapNode (s : State) (n : Nat) : Nat :=
  match tfind s.res.remaps (fun _ r => r.1 == n) with
  | some (_, r) => r.2.1
  | none => n

/-- The node to which a physical binding stands after the live remaps: a spare's port is bound to the failed node, and
the failed member's old port to none (R420). -/
def boundNode (s : State) (b : Nat) : Option Nat :=
  if b = 0x7FFF then none
  else match tfind s.res.remaps (fun _ r => r.2.1 == b) with
    | some (_, r) => some r.1
    | none => if (tfind s.res.remaps (fun _ r => r.1 == b)).isSome then none else some b

/-- The node bound to a port, host ports numbered 128 and 129 (step 3 of R66). -/
def portNode (s : State) (n : Nat) : Option Nat :=
  if n < 128 then (if isEndpointPort s n then boundNode s (pfPort s n).bindNode else none)
  else if n = 128 ∨ n = 129 then boundNode s (pfHost s (n - 128)).bindNode
  else none

/-- The port or host port to which a node is bound: a port binds its node where its `ROLE` is that of an endpoint or a tray
(R43, R438). -/
def nodePort (s : State) (node : Nat) : Option Nat :=
  match s.sec.frame.ports.find? (fun p => (p.2.role == 1 || p.2.role == 3) && boundNode s p.2.bindNode == some node) with
  | some p => some p.1
  | none => if portNode s 128 = some node then some 128 else if portNode s 129 = some node then some 129 else none

/-- The one-hop domain of this switch (R43). -/
def oneHop (s : State) (node : Nat) : Bool := node == nodeSelf s || (nodePort s node).isSome

/-! ## Keys and windows -/

/-- The key set of a port or host port (R66). -/
def keySet (s : State) (n : Nat) : List Nat :=
  let live (k : Nat × Nat) : Bool := s.sec.frame.enabled.contains k.2
  if n < 128 then (pfPort s n).keys.filterMap fun i => match s.sec.frame.keys[i]? with
    | some k => if live k then some k.1 else none
    | none => none
  else (s.sec.frame.keys.filter fun k => live k && k.2 == (pfHost s (n - 128)).part).map (·.1)

/-- One access window of the partition covers the bytes with the right, given by its bit (R68, R521). -/
def windowCovers (s : State) (part right node off len : Nat) : Bool :=
  s.sec.frame.windows.any fun w => w.valid && w.part == part && decide (w.nodeLo ≤ node) && decide (node ≤ w.nodeHi)
    && bitAt w.rights right && decide (w.base * 2 ^ 20 ≤ off) && decide (off + len ≤ w.limit * 2 ^ 20 + 2 ^ 20)

/-- Right and target bytes of an `OPC` under R521; none where R521 names another check. The `AOPC` of a `BULK_ATOMIC` in an
envelope cannot be read here: the width is that of byte 20 of its payload as it stands (DESIGN CHOICE, log 172). -/
def rightOf (f : Frame) : Option (Nat × Nat) :=
  if f.opc = 0x01 ∨ f.opc = 0xA1 then some (0, f.len)
  else if f.opc = 0x02 ∨ f.opc = 0xA0 then some (1, f.len)
  else if f.opc = 0xA2 then some (1, 4096)
  else if isAtomicOpc f.opc then some (2, atomicWidth f.opc)
  else if f.opc = 0xA3 then some (2, atomicWidth (leAt f.payload 20 1))
  else if f.opc = 0x20 ∨ f.opc = 0x24 ∨ f.opc = 0x25 ∨ f.opc = 0x26 then some (0, 1)
  else if f.opc = 0x22 ∨ f.opc = 0x23 then some (1, 1)
  else if f.opc = 0x30 then some (4, 1)
  else if 0x40 ≤ f.opc ∧ f.opc ≤ 0x44 then some (3, 128)
  else none

/-! ## Landings (R349 to R354) -/

/-- Sum of a list of numbers. -/
def sumN (l : List Nat) : Nat := l.foldl (· + ·) 0

/-- Cells that an inbox entry holds. -/
def inboxCells (i : Inbox) : Nat := frameCells i.frame

/-- Cells on the landing of a port (R350). -/
def portCells (s : State) (n : Nat) : Nat :=
  sumN ((s.hall.frames.filter fun f => f.landing == .port n).map (·.cells))
    + sumN ((s.hall.inbox.filter fun p => p.2.port == n && !p.2.landed).map fun p => inboxCells p.2)
    + sumN ((s.hall.balcony.filter fun b => b.port == n).map (·.cells))
    + sumN (s.pool.reqs.map fun q => if q.2.phase == .wake false && q.2.origin == .port n then frameCells q.2.frame else 0)

/-- Cells in the headroom of a port (R353). -/
def headCells (s : State) (n : Nat) : Nat :=
  sumN ((s.hall.frames.filter fun f => f.landing == .head n).map (·.cells))

/-- Cells in the sink reserve of a class at a port (R354). -/
def sinkCells (s : State) (n c : Nat) : Nat :=
  sumN ((s.hall.frames.filter fun f => f.landing == .sink n c).map (·.cells))

/-- A result copy of this switch waits in the Hall for a port that has turned COL off (R207). -/
def copyWaits (s : State) (f : HFrame) : Bool :=
  f.landing == .none && f.frame.cls == 6 && f.outs.any fun o => !o.started && decide (o.unit < 128) && bitAt (tgetD s.hall.peerOff o.unit 0) 6

/-- Cells on the internal landing of a partition: frames, and what units hold for it. -/
def partCells (s : State) (p : Nat) : Nat :=
  sumN ((s.hall.frames.filter fun f => f.landing == .part p || (f.part == some p && copyWaits s f)).map (·.cells))
    + tgetD s.hall.partCells p 0

/-- Charge a partition's internal landing for cells that a unit holds. -/
def chargePart (p n : Nat) (s : State) : State :=
  { s with hall := { s.hall with partCells := tput s.hall.partCells p 0 (tgetD s.hall.partCells p 0 + n) } }

/-- Release cells of a partition's internal landing. -/
def releasePart (p n : Nat) (s : State) : State :=
  { s with hall := { s.hall with partCells := tput s.hall.partCells p 0 (tgetD s.hall.partCells p 0 - n) } }

/-- Sum over the 128 ports. -/
def overPorts (f : Nat → Nat) : Nat := sumN ((upTo 128).map f)

/-- Size of the shared pool (R349). -/
def sharedSize (s : State) : Nat :=
  524288 - 24576 - overPorts (fun n => rget s R.PLAND_LAND_MIN n) - overPorts (fun n => rget s R.PLAND_HEADROOM n)
    - sumN ((upTo 64).map fun p => rget s R.PART_LAND_LAND_RSV p)

/-- `SHARED_FREE`: what the landings above their minimum or reservation leave of the shared pool. -/
def sharedFree (s : State) : Nat :=
  sharedSize s - overPorts (fun n => portCells s n - rget s R.PLAND_LAND_MIN n)
    - sumN ((upTo 64).map fun p => partCells s p - rget s R.PART_LAND_LAND_RSV p)

/-- A partition is in quiet mode (R383). -/
def isQuiet (s : State) (p : Nat) : Bool := rbit s R.PQUIET_QUIET p

/-- The limit of a port landing (R350, R386). -/
def portLimit (s : State) (n : Nat) : Nat :=
  let m := rget s R.PLAND_LAND_MIN n
  if (portPart s n).any (isQuiet s) then m else m + sharedFree s * rget s R.PLAND_LAND_SHARE n / 16

/-- The limit of an internal landing: `LAND_RSV` + E, at most `LAND_MAX` (R350, R386). E takes the share of a port whose
`LAND_SHARE` is at its reset value (log 26). -/
def partLimit (s : State) (p : Nat) : Nat :=
  let r := rget s R.PART_LAND_LAND_RSV p
  if isQuiet s p then r else min (r + sharedFree s * R.PLAND_LAND_SHARE.reset / 16) (rget s R.PART_LAND_LAND_MAX p)

/-- Whether an internal landing has room. -/
def partRoom (s : State) (p n : Nat) : Bool := decide (partCells s p + n ≤ partLimit s p)

/-- Cells of COL frames that arrived on a port and wait for an output that is a port (R352). -/
def transitCells (s : State) (n : Nat) : Nat :=
  sumN ((s.hall.frames.filter fun f => f.input == n && f.frame.cls == 6 && f.outs.any (fun o => decide (o.unit < 128))).map (·.cells))

/-- A threshold with the 64 cells of hysteresis of R352. -/
def offNow (was : Bool) (level limit : Nat) : Bool :=
  if was then decide (limit - 64 < level) else decide (limit ≤ level)

/-- The classes that the switch turns off towards a port (R352). -/
def offMask (s : State) (n : Nat) : Nat :=
  let was := tgetD s.hall.off n 0
  let full := offNow (bitAt was 4) (portCells s n) (portLimit s n)
  let share := rget s R.PTRANSIT_TRANSIT_MAX n
  let col := if bitAt was 6 then decide (share - 64 < transitCells s n) else decide (share < transitCells s n)
  b2n full * (8 + 16 + 32 + 128) + b2n col * 64

/-- COL goes off or on towards a port: the idle intervals of senders behind it leave that time out (R207). -/
def colOffTurn (n : Nat) (was off : Bool) (s : State) : State :=
  if was = off then s
  else if off then { s with col := { s.col with offSince := tset s.col.offSince n s.clk.now } }
  else
    let t0 := tgetD s.col.offSince n s.clk.now
    let shift (c : ColCtx) : ColCtx :=
      { c with senders := tmap c.senders fun k x =>
          let node := c.record.nodes.getD (k % 65536 - c.record.idxBase) 0x7FFF
          if k < 65536 ∧ nodePort s node = some n then
            { x with idle := x.idle.map fun st => st + (s.clk.now - max st t0) } else x }
    { s with col := { s.col with offSince := tdel s.col.offSince n, ctx := tmap s.col.ctx fun _ c => shift c } }

/-- Bring the off bits of a port, and the hold of R354, up to date. -/
def updateOff (n : Nat) (s : State) : State :=
  let free := sharedFree s
  let floor := rget s R.BUF_CFG_SINK_FLOOR 0
  let low := if s.hall.sinkLow then decide (free < floor + 1024) else decide (free < floor)
  let mask := offMask s n
  let was := bitAt (tgetD s.hall.off n 0) 6
  colOffTurn n was (bitAt mask 6) { s with hall := { s.hall with off := tput s.hall.off n 0 mask, sinkLow := low } }

/-- Where an arriving frame is charged; none where it is dropped (R353, R354, R77). -/
def landFor (s : State) (n : Nat) (f : Frame) : Option Landing :=
  let c := frameCells f
  if isEth s n then (if portCells s n + c ≤ portLimit s n then some (.port n) else none)
  else if f.cls ≤ 2 then
    if sinkCells s n f.cls + c ≤ 64 then some (.sink n f.cls)
    else if portCells s n + c ≤ portLimit s n ∨ c ≤ sharedFree s ∨ f.cls ≠ 0 then some (.port n)
    else none
  else if bitAt (tgetD s.hall.off n 0) f.cls then
    (if headCells s n + c ≤ rget s R.PLAND_HEADROOM n then some (.head n) else none)
  else some (.port n)

/-! ## Routing (R366 to R370) -/

/-- The live generation. -/
def genLive (s : State) : Nat := rget s R.ROUTE_STATUS_GEN_LIVE 0

/-- State of a route generation. -/
def genState (s : State) (g : Nat) : GenState := if g = 0 then s.hall.gen0 else s.hall.gen1

/-- Members of an equal-cost set whose ports are up, in order. -/
def setMembers (s : State) (g i : Nat) : List Nat :=
  let b := tgetD s.hall.sets (g * 256 + i) []
  let c := leAt b 16 1
  if c = 0 ∨ 16 < c then []
  else (upTo c).filterMap fun j => let m := leAt b j 1; if m ≤ 127 ∧ portUp s m then some m else none

/-- Cells queued for a unit: those of its frames that have not left yet. -/
def queuedCells (s : State) (u : Nat) : Nat :=
  sumN (s.hall.frames.map fun f => sumN ((f.outs.filter (·.unit == u)).map fun o => f.cells - o.sent))

/-- The listed member with the fewest cells queued, the lower member (the one listed first) on a tie. -/
def leastQueued (s : State) : List Nat → Option Nat
  | [] => none
  | m :: t => match leastQueued s t with
    | none => some m
    | some b => if queuedCells s m ≤ queuedCells s b then some m else some b

/-- The choice of R369. -/
def chooseMember (s : State) (g i : Nat) (f : Frame) : Option Nat :=
  let ms := setMembers s g i
  if f.cls = 5 ∧ rbit s R.HALL_CT_BLK_SPRAY 0 then leastQueued s ms
  else
    let h := crc32c (toLE 2 f.src ++ toLE 2 f.dst ++ toLE 1 f.cls ++ [0#8] ++ toLE 2 (rget s R.ROUTE_CTL_HASH_SEED 0))
    ms[h * ms.length / 2 ^ 32]?

/-- Where a unicast frame goes. -/
inductive Dest where
  | unit (u : Nat)
  | self
  | nowhere
  deriving DecidableEq, Repr

/-- Look a frame up in its generation: a port or host port unit, this switch itself, or nothing (R366, R368, R420). A
frame addressed to a spare that stands for a failed node is unroutable. -/
def routeOf (s : State) (f : Frame) : Dest :=
  if f.dst = nodeSelf s then .self
  else if (tfind s.res.remaps (fun _ r => r.2.1 == f.dst)).isSome then .nowhere
  else
    let e := tgetD s.hall.routes (f.g * 32768 + remapNode s f.dst) 0
    if 2 ^ 10 ≤ e then .nowhere
    else
      let t := bitsOf e 2 8
      match e % 4 with
      | 1 => if t ≤ 127 then (if portUp s t then .unit t else .nowhere)
             else if t = 0x80 ∨ t = 0x81 then (if (hostPort s (t - 0x80)).linkUp then .unit (t - 0x80 + 132) else .nowhere)
             else .nowhere
      | 2 => match chooseMember s f.g t f with | some m => .unit m | none => .nowhere
      | 3 => .self
      | _ => .nowhere

/-- The outputs of a multicast group, of those that are up, but for the arrival port (R360, R361). -/
def groupOutputs (s : State) (m from_ : Nat) : List Nat :=
  let p := rget s R.MC_PORTS m
  let host (h : Nat) (named : Bool) : List Nat := if named && from_ != 132 + h && (hostPort s h).linkUp then [132 + h] else []
  ((upTo 128).filter fun n => bitAt p n && n != from_ && portUp s n) ++ host 0 (rbit s R.MC_H0 m) ++ host 1 (rbit s R.MC_H1 m)

/-- The neighbouring switches over side ports: one node per side port that is up (R416). -/
def sidePorts (s : State) : List Nat := (s.sec.frame.ports.filter fun p => p.2.role == 2 && portUp s p.1).map (·.1)

end Sys2Proof.Machine
end

