-- ==== Sys2Proof/Machine/Job.lean ====
section
/-! DEFINITION. Job envelopes: opening one at its destination, sealing one (R411, R412, R452, R453). -/
namespace Sys2Proof.Machine

/-- The 24-byte header with `G` zero: the additional data of an envelope (R411). -/
def jobAad (f : Frame) : List Byte := headerBytes { f with g := 0 }

/-- The nonce of an envelope. -/
def jobNonce (key ctr : Nat) : List Byte := toLE 4 key ++ toLE 8 ctr

/-- The replay window of a source under a key. -/
def jobWindow (s : State) (src key : Nat) : Option ReplayWin := s.sec.windows.find? fun w => w.key == key && w.src == src

/-- Enter a counter and its tag: the window keeps the last 1,024 counters. -/
def windowAdd (w : ReplayWin) (ctr : Nat) (tag : List Byte) : ReplayWin :=
  let top := max w.top ctr
  { w with top := top, seen := (tset w.seen ctr tag).filter fun p => decide (top < p.1 + 1024) }

/-- Whether a key may be used by a frame: known here, in force, of the frame's partition, and not installed before a
boundary that remapped the source (R452, R453). -/
def jobKeyUsable (s : State) (k : JobKey) (f : Frame) : Bool :=
  decide (k.notBefore ≤ epochNow s) && (match k.removeAt with | some e => decide (epochNow s < e) | none => true)
    && keyPart s f.pkey == some k.part
    && !(s.sec.jobBarred.any fun b => b.1 == f.src && decide (k.installed < b.2))

/-- Open a frame's envelope: the frame with its plaintext, and the state with the counter entered; none where the frame
ends `ACCESS_DENIED`. -/
def openJob (f : Frame) (s : State) : Option Frame × State :=
  let key := leAt f.payload 0 4
  let ctr := leAt f.payload 4 8
  let n := f.payload.length
  let ct := (f.payload.drop 16).take (n - 32)
  let tag := f.payload.drop (n - 16)
  match tget s.sec.jobKeys key with
  | none => (none, s)
  | some k =>
    if !jobKeyUsable s k f then (none, s) else
    match Config.gcmOpen k.key (jobNonce key ctr) (jobAad f) ct tag with
    | none => (none, s)
    | some pt =>
      let g := { f with payload := pt, len := if payloadLen f = 0 then f.len else pt.length, jobKey := some key }
      match jobWindow s f.src key with
      | none =>
        if 16384 ≤ s.sec.windows.length then (none, rbump R.JOB_WINDOW_FULL_COUNT 0 s)
        else (some g, { s with sec := { s.sec with windows := s.sec.windows ++ [⟨key, f.src, ctr, [(ctr, tag)]⟩] } })
      | some w =>
        let put (w' : ReplayWin) : State :=
          { s with sec := { s.sec with windows := s.sec.windows.map fun x => if x.key = key ∧ x.src = f.src then w' else x } }
        if ctr + 1024 ≤ w.top then (none, s)
        else match tget w.seen ctr with
          | some t => if t = tag then (some g, s) else (none, s)
          | none => (some g, put (windowAdd w ctr tag))

/-- Seal a frame that answers an enveloped one (R412). -/
def sealJob (f : Frame) (s : State) : Frame × State :=
  match f.jobKey with
  | none => (f, s)
  | some key =>
    match tget s.sec.jobKeys key with
    | none => ({ f with jobKey := none }, s)
    | some k =>
      let ctr := s.sec.jobMsg
      let g := { f with je := true, len := f.payload.length + 32, jobKey := none }
      let (ct, tag) := Config.gcmSeal k.key (jobNonce key ctr) (jobAad g) f.payload
      let p := toLE 4 key ++ toLE 8 ctr ++ toLE 4 0 ++ ct ++ tag
      ({ g with payload := p, pcrc := pcrcOf p }, { s with sec := { s.sec with jobMsg := ctr + 1 } })

/-! ## The peers' answers to JOB_OPEN (R450) -/

/-- A mailbox command ends with a response. -/
def mboxEnd (status : Nat) (rsp : List Byte) (s : State) : State :=
  let s1 := { s with sec := { s.sec with rspBuf := mwrite s.sec.rspBuf 0 rsp } }
  rset R.MBOX_STATUS_BUSY 0 0 (rset R.MBOX_STATUS_STATUS 0 status (rset R.MBOX_STATUS_RSP_LEN 0 rsp.length s1))

/-- The response of JOB_OPEN: the key, `NOT_BEFORE`, then node and status of each peer (log 47). -/
def jobOpenBytes (s : State) (key : Nat) (peers : List (Nat × Option Nat)) : List Byte :=
  toLE 4 key ++ toLE 8 (((tget s.sec.jobKeys key).map (·.notBefore)).getD 0)
    ++ (peers.map fun p => toLE 2 p.1 ++ toLE 1 (p.2.getD 0)).foldl (· ++ ·) []

/-- JOB_OPEN ends once every peer has answered. -/
def jobOpenGo (s : State) : State :=
  match s.sec.jobOpen with
  | some (key, peers) =>
    if peers.all (fun p => p.2.isSome) then mboxEnd stOK (jobOpenBytes s key peers) { s with sec := { s.sec with jobOpen := none } } else s
  | none => s

/-- A peer has answered an install, or stayed silent. The answer to a removal changes nothing. -/
def jobAnswer (peer : Nat) (payload : List Byte) (status : Nat) (s : State) : State :=
  match s.sec.jobOpen with
  | some (key, peers) =>
    if key = leAt payload 0 4 ∧ leAt payload 5 1 = 0 then
      jobOpenGo { s with sec := { s.sec with jobOpen := some (key, peers.map fun p => if p.1 = peer ∧ p.2.isNone then (p.1, some status) else p) } }
    else s
  | none => s

end Sys2Proof.Machine
end

