-- ==== Sys2Proof/Machine/Sleep.lean ====
section
/-! DEFINITION. Units that sleep (R32 to R35): which are asleep, the start of a wake, and when a unit was last used. -/
namespace Sys2Proof.Machine

/-- A unit sleeps or is still waking. -/
def sleeps (s : State) (u : SleepUnit) : Bool := s.pkg.asleep.contains u

/-- Begin to wake a unit. -/
def beginWake (u : SleepUnit) (s : State) : State :=
  if sleeps s u && !s.pkg.waking.any (·.1 == u) then { s with pkg := { s.pkg with waking := s.pkg.waking ++ [(u, s.clk.now)] } } else s

/-- Begin to wake the stacks of a wing (R8: stacks 5w to 5w + 4). -/
def wakeWing (w : Nat) (s : State) : State := each (upTo 5) (fun i => beginWake (.stack (5 * w + i))) s

/-- Note that a unit is used now. -/
def noteUse (u : SleepUnit) (s : State) : State :=
  { s with pkg := { s.pkg with idleSince := (u, s.clk.now) :: s.pkg.idleSince.filter (·.1 != u) } }

/-- An access to Stair 0 of a wing uses its stacks, which hold every chunk in turn (R258). -/
def useWing (w : Nat) (s : State) : State := each (upTo 5) (fun i t => noteUse (.stack (5 * w + i)) (beginWake (.stack (5 * w + i)) t)) s

/-- Frames on a port use its lanes; those that sleep begin to wake while the others carry the frames (R33). -/
def useLanes (n : Nat) (s : State) : State :=
  noteUse (.lane (4 * n)) (each (upTo 8) (fun i => beginWake (.lane (4 * n + i))) s)

end Sys2Proof.Machine
end

