-- ==== Sys2Proof/Machine/LinkTx.lean ====
section
/-! DEFINITION. The sending side of a Molza port: flits, sequence numbers, the replay buffer and hop-mode groups
(R400, R401, R405, R409). -/
namespace Sys2Proof.Machine

/-- The link of a port. -/
def linkOf (s : State) (n : Nat) : LinkPort := tgetD s.link n LinkPort.down

/-- Change the link of a port. -/
def setLink (n : Nat) (l : LinkPort) (s : State) : State := { s with link := tput s.link n LinkPort.down l }

/-- The on/off bits that the switch drives towards a port (R352, R403). -/
def onBits (s : State) (n : Nat) : Nat := 255 - tgetD s.hall.off n 0 % 256

/-- The 8 header bytes of a flit (R400). -/
def flitHeader (ftype seq ack onoff nak enc kid fstart gpos : Nat) : List Byte :=
  toLE 8 (packBits [(4, ftype), (12, seq), (12, ack), (8, onoff), (1, nak), (1, enc), (4, kid), (8, fstart), (5, gpos), (9, 0)])

/-- Close a flit with its CRC. -/
def sealFlit (b : List Byte) : List Byte := b ++ toLE 8 (crc64 b)

/-- A payload padded to the 240 bytes of a flit. -/
def pad240 (b : List Byte) : List Byte := slice b 0 240

/-- The last `SEQ` accepted in order; the flits of a group whose tag is not verified are not acknowledged (R410). -/
def ackOf (l : LinkPort) : Nat := (l.rxSeq + 8191 - l.group.length) % 4096

/-- Rewrite the fields that are written whenever a flit is sent, and its CRC (R400, R401). -/
def restamp (s : State) (n : Nat) (nak : Bool) (b : List Byte) : List Byte :=
  let l := linkOf s n
  let h := leNat (b.take 8)
  let h' := packBits [(16, bitsOf h 0 16), (12, ackOf l), (8, onBits s n), (1, b2n nak), (27, bitsOf h 37 27)]
  sealFlit (toLE 8 h' ++ (b.drop 8).take 240)

/-- Send an unsequenced flit (IDLE or TIME). -/
def sendPlain (n ftype : Nat) (nak : Bool) (payload : List Byte) (s : State) : State :=
  let l := linkOf s n
  emit (.flit n (sealFlit (flitHeader ftype 0 (ackOf l) (onBits s n) (b2n nak) 0 0 0xFF 0 ++ pad240 payload))) s

/-- Send one sequenced flit and keep it in the replay buffer. -/
def sendSeq (n ftype enc kid fstart gpos : Nat) (payload : List Byte) (s : State) : State :=
  let l := linkOf s n
  let b := sealFlit (flitHeader ftype l.txSeq (ackOf l) (onBits s n) 0 enc kid fstart gpos ++ pad240 payload)
  emit (.flit n b) (setLink n { l with txSeq := (l.txSeq + 1) % 4096, held := l.held ++ [⟨l.txSeq, b, s.clk.now⟩] } s)

/-- Whether this side initiates key establishment: the higher node number (R445). -/
def isInitiator (s : State) (n : Nat) : Bool := decide ((pfPort s n).bindNode < nodeSelf s)

/-- The key bytes that protect what this side sends, or receives. -/
def txKey (s : State) (n : Nat) (k : HopKey) : List Byte := if isInitiator s n then k.k0 else k.k1
def rxKey (s : State) (n : Nat) (k : HopKey) : List Byte := if isInitiator s n then k.k1 else k.k0

/-- The nonce of a group: key id and first flit counter (R409). -/
def groupNonce (k ctr : Nat) : List Byte := toLE 4 k ++ toLE 8 ctr

/-- Send a group of DATA flits under a hop key, closed by its TAG flit (R409). -/
def sendGroup (n : Nat) (k : HopKey) (flits : List (Nat × List Byte)) (s : State) : State :=
  let l := linkOf s n
  let kid := k.id % 16
  let heads := (enum' flits).map fun p => flitHeader 1 ((l.txSeq + p.1) % 4096) 0 0 0 1 kid p.2.1 p.1
  let plain := (flits.map fun f => pad240 f.2).foldl (· ++ ·) []
  let (ct, tag) := Config.gcmSeal (txKey s n k) (groupNonce k.id k.tx) (heads.foldl (· ++ ·) []) plain
  let s1 := each (enum' flits) (fun p => sendSeq n 1 1 kid p.2.1 p.1 (slice ct (240 * p.1) 240)) s
  let s2 := sendSeq n 4 0 0 0xFF 0 (tag ++ toLE 8 k.tx ++ toLE 4 k.id) s1
  let l2 := linkOf s2 n
  setLink n { l2 with hop := { l2.hop with cur := some { k with tx := k.tx + flits.length } } } s2

/-- The leading DATA flits of the waiting ones, at most n. -/
def leadingData : Nat → List (Nat × Nat × List Byte) → List (Nat × List Byte)
  | 0, _ => []
  | _, [] => []
  | n + 1, (t, f, p) :: r => if t = 1 then (f, p) :: leadingData n r else []

/-- A group start: a confirmed next key becomes the current one, and the old one is kept for 10 ms (R447). -/
def promoteKey (n : Nat) (s : State) : State :=
  let l := linkOf s n
  match l.hop.next with
  | some k => setLink n { l with hop := { l.hop with old := l.hop.cur, oldUntil := s.clk.now + 10000000
                                                     cur := some { k with since := s.clk.now }, next := none, limitAt := none } } s
  | none => s

/-- Send what waits while the replay buffer has room (R401). `fuel` is the number of waiting flits. -/
def pump (n : Nat) : Nat → State → State
  | 0, s => s
  | fuel + 1, s =>
    let l := linkOf s n
    match l.txWait with
    | [] => s
    | (t, f, p) :: r =>
      if 1024 ≤ l.held.length then s
      else if t = 1 ∧ (pfPort s n).hop = 1 then
        let s1 := promoteKey n s
        let l1 := linkOf s1 n
        match l1.hop.cur with
        | none => s1
        | some k =>
          let g := leadingData (min (rget s R.LINK_CFG_CRYPT_GROUP n) (1023 - l1.held.length)) l1.txWait
          if g.isEmpty ∨ l1.hop.limitAt.isSome then s1
          else pump n fuel (sendGroup n k g (setLink n { l1 with txWait := l1.txWait.drop g.length } s1))
      else pump n fuel (sendSeq n t 0 0 f 0 p (setLink n { l with txWait := r } s))

/-- Send all that can be sent on a port. -/
def pumpAll (n : Nat) (s : State) : State := pump n (linkOf s n).txWait.length s

/-- Queue a LINK message (R405), ahead of the DATA flits that wait, and send what can be sent. -/
def sendLink (n : Nat) (payload : List Byte) (s : State) : State :=
  let l := linkOf s n
  let first := l.txWait.filter fun x => x.1 == 2
  let rest := l.txWait.filter fun x => x.1 != 2
  pumpAll n (setLink n { l with txWait := first ++ [(2, 0xFF, payload)] ++ rest } s)

/-- The payloads of DATA flits that carry a frame from the start of a flit; the rest of the last one is padding. -/
def dataPayloads (b : List Byte) : List (Nat × Nat × List Byte) :=
  (enum' (chunksOf 240 b.length b)).map fun p => (1, if p.1 = 0 then 0 else 0xFF, p.2)

/-- Carry a frame over a Molza port. -/
def sendData (n : Nat) (f : Frame) (s : State) : State :=
  let l := linkOf s n
  pumpAll n (setLink n { l with txWait := l.txWait ++ dataPayloads (frameBytes f) } (useLanes n s))

end Sys2Proof.Machine
end

