-- ==== Sys2Proof/Machine/Hall.lean ====
section
/-! DEFINITION. Frames into and out of the Hall: queueing, refusals at an egress port, answers, and the transaction
tracker of the first switch (R54, R64, R69, R79, R80, R360 to R373, R522). -/
namespace Sys2Proof.Machine

/-! ## Queueing -/

/-- Cell counts and work for the meters and the gate of the Hall. -/
def noteCells (part : Option Nat) (n : Nat) (s : State) : State :=
  let s1 := { s with hall := { s.hall with lastWork := s.clk.now, gated := false } }
  match part with
  | some p => meter p 2 n s1
  | none => s1

/-- Put a frame into the buffer for its outputs. -/
def enqueue (input : Nat) (outs : List Nat) (landing : Landing) (part : Option Nat) (first whole : Bool) (f : Frame)
    (s : State) : State :=
  let (id, s1) := takeId s
  let h : HFrame := { id := id, frame := f, input := input, outs := outs.map fun u => ⟨u, false, 0⟩, cells := frameCells f
                      landing := landing, part := part, arrived := s.clk.now, first := first, whole := whole
                      moved := false, ethSrc := 0, heldSince := none }
  noteCells part h.cells { s1 with hall := { s1.hall with frames := s1.hall.frames ++ [h] } }

/-! ## What an egress port refuses (R67, R79, R80, R522) -/

/-- The capability bit of the kind of a frame (R78). -/
def kindBit (f : Frame) : Option Nat :=
  if f.opc = 0x01 ∨ f.opc = 0x02 then some 8
  else if isAtomicOpc f.opc then some 9
  else if f.cls = 3 ∨ (0x40 ≤ f.opc ∧ f.opc ≤ 0x44) then some 10
  else if f.cls = 6 then some 11
  else if 0x20 ≤ f.opc ∧ f.opc ≤ 0x26 then some 12
  else if f.cls = 5 then some 13
  else none

/-- The capability bits that an endpoint must have set to be sent a frame: that of its kind, and that of envelopes for an
enveloped one (R78, R80). -/
def capBits (f : Frame) : List Nat := (if f.je then [15] else []) ++ (kindBit f).toList

/-- Loads, stores, atomics, `BULK_ATOMIC` and coherence, in which a port in Ethernet bulk personality takes no part (R4). -/
def molzaOnly (f : Frame) : Bool :=
  isRequest f.cls && (f.opc == 0x01 || f.opc == 0x02 || isAtomicOpc f.opc || f.opc == 0xA3 || f.cls == 3
    || (decide (0x40 ≤ f.opc) && decide (f.opc ≤ 0x44)))

/-- `MAX_PAYLOAD` of the endpoint on a port, in bytes. -/
def maxPayload (s : State) (n : Nat) : Nat := bitsOf (rget s R.PEER_CAPS_CAPS n) 24 8 * 256

/-- What becomes of a frame at its output. -/
inductive Egress where
  | go
  | refuse (status : Nat)    -- answered with the status if it is a request, dropped otherwise
  deriving DecidableEq, Repr

/-- How a frame comes to its output: on its way through the switch, or made by the switch itself (whose keys are not checked);
and, for an answer, whether it may leave a port in `CTL_ONLY`: it answers an MGT request, or is an answer of R79. -/
structure Leave where
  own : Bool
  answers79 : Bool
  deriving DecidableEq, Repr

/-- A frame on its way through the switch. -/
def Leave.transit : Leave := ⟨false, false⟩

/-- A message or request of the switch itself. -/
def Leave.own_ : Leave := ⟨true, false⟩

/-- An answer of the switch itself: R79 lets it out of a port in `CTL_ONLY` where it answers an MGT request or ends a request
`UNSUPPORTED`. -/
def Leave.answer (f : Frame) (status : Nat) : Leave := ⟨true, f.cls == 7 || status == stUnsupported⟩

/-- The checks of an egress port (R4, R67, R79, R80, R392, R522): a port in Ethernet bulk personality carries no envelope. At a host (unit 132 on) only the key is checked. -/
def egressCheck (s : State) (n : Nat) (f : Frame) (how : Leave) : Egress :=
  if 128 ≤ n ∧ n < 132 then .go
  else if 132 ≤ n then (if !how.own ∧ !(keySet s (n - 4)).contains f.pkey then .refuse stPkey else .go)
  else if lstate s n = 5 ∧ f.cls ≠ 0 ∧ f.cls ≠ 7 ∧ !(isAnswer f.cls && how.answers79) then .refuse stUnsupported
  else if !how.own ∧ !(keySet s n).contains f.pkey then .refuse stPkey
  else if isEndpointPort s n then
    if isEth s n then (if molzaOnly f || f.je then .refuse stUnsupported else .go)
    else if (capBits f).any (fun b => !bitAt (rget s R.PEER_CAPS_CAPS n) b) then .refuse stUnsupported
    else if maxPayload s n < f.payload.length then .refuse stUnsupported
    else .go
  else .go

/-- Count a refusal at a port. -/
def countRefused (n : Nat) (s : State) : State := if n < 128 then rbump R.PREFUSED_COUNT n s else s

/-- `PORT` of a fault record raised at a unit (R71). -/
def recPort (u : Nat) : Nat := if u < 128 then u else if u = 132 then 0x80 else if u = 133 then 0x81 else 0xFF

/-- An input at which frames of endpoints or hosts enter. -/
def edgeInput (s : State) (u : Nat) : Bool := u == 132 || u == 133 || (decide (u < 128) && !isSidePort s u)

/-- A message or an answer is refused at its output: dropped, counted, and recorded where it entered from an endpoint or
host (R79, R520, R522). -/
def dropAt (input u : Nat) (f : Frame) (status : Nat) (s : State) : State :=
  let s1 := countRefused u s
  if edgeInput s1 input then faultRec f status 3 (recPort u) 0 s1 else s1

/-- The outputs of a multicast frame that take a copy, and the state in which the refused copies are counted. -/
def copyOutputs (input : Nat) (f : Frame) (how : Leave) (s : State) : List Nat × State :=
  let all := groupOutputs s (f.dst % 8192) input
  (all.filter fun u => egressCheck s u f how == .go,
   each all (fun u t => match egressCheck s u f how with | .go => t | .refuse st => dropAt input u f st t) s)

/-- An unroutable frame: dropped, counted, recorded (R366). -/
def noRoute (f : Frame) (s : State) : State :=
  faultRec f (timeoutStatus f) 3 0xFF 0 (rbump R.NO_ROUTE_COUNT 0 s)

/-- Put a frame of one of this switch's own units into the inbox, where the row of its kind serves it. -/
def toInbox (f : Frame) (port : Nat) (part : Option Nat) (host : Option Nat) (s : State) : State :=
  let (id, s1) := takeId s
  { s1 with hall := { s1.hall with inbox := tset s1.hall.inbox id ⟨f, port, false, host, part, s1.clk.now, false⟩ } }

/-- A frame that one of this switch's own units sends to another is written into the buffer (R40). -/
def toOwn (f : Frame) (part : Option Nat) (s : State) : State := noteCells part (frameCells f) (toInbox f 255 part none s)

/-- Send a frame as it is: it is routed in its own generation. Where it has no route or its output refuses it, it is dropped. -/
def sendAlong (input : Nat) (part : Option Nat) (how : Leave) (f : Frame) (s : State) : State :=
  if f.mc then
    let (outs, s1) := copyOutputs input f how s
    if !outs.isEmpty then enqueue input outs .none part true true f s1
    else if (groupOutputs s (f.dst % 8192) input).isEmpty then rbump R.NO_ROUTE_COUNT 0 s1
    else s1
  else match routeOf s f with
    | .unit u =>
      match egressCheck s u f how with
      | .go => enqueue input [u] .none part true true f s
      | .refuse st => dropAt input u f st s
    | .self => toOwn f part s
    | .nowhere => noRoute f s

/-- Send an answer or a message of this switch: `G` is stamped, and an envelope is sealed. -/
def sendRaw (input : Nat) (part : Option Nat) (how : Leave) (f : Frame) (s : State) : State :=
  let (f1, s1) := sealJob { f with g := genLive s } s
  sendAlong input part how f1 s1

/-- Bytes that an envelope adds to the payload of a frame made under a job key (R411). -/
def sealBytes (key : Option Nat) : Nat := if key.isSome then 32 else 0

/-- The payload bound of the endpoint to which a node belongs, if it is one of this switch (R522). -/
def payloadBound (s : State) (node : Nat) : Option Nat :=
  match nodePort s node with
  | some n => if n < 128 ∧ isEndpointPort s n ∧ !isEth s n then some (maxPayload s n) else none
  | none => none

/-- Send an answer to a request that ended here. A whole answer beyond its endpoint's bound is not sent: the request ends
`UNSUPPORTED`, its data cut to the bound (R522, log 74); an envelope counts against the bound. -/
def answer (f : Frame) (status : Nat) (data : List Byte) (s : State) : State :=
  let send (st : Nat) (d : List Byte) (t : State) : State := sendRaw 128 (keyPart t f.pkey) (Leave.answer f st) (mkAnswer f st d) t
  match payloadBound s f.src with
  | some b0 =>
    let b := b0 - sealBytes f.jobKey
    if data.length ≤ b then send status data s
    else if status = stOK ∨ status = stReplayed then
      send stUnsupported ((onesBytes data.length).take b) (faultRec f stUnsupported 3 ((nodePort s f.src).getD 0xFF) 0 s)
    else send status (data.take b) s
  | none => send status data s

/-- Answer a request with an error. -/
def answerError (f : Frame) (status : Nat) (s : State) : State := answer f status (errorData f) s

/-- An error answer of an atomic carries 8 bytes whose value the manual does not give (log 13). -/
def answerFree (f : Frame) (status : Nat) (s : State) : State :=
  if isAtomicOpc f.opc ∨ f.opc = 0xA3 then
    let (v, s1) := fresh s
    answer f status (toLE 8 (v % 2 ^ 64)) s1
  else answerError f status s

/-! ## The order of flag stores (R54) -/

/-- Enter a store of a pair. -/
def pairAdd (id : Nat) (f : Frame) (done : Option Bool) (s : State) : State :=
  if isStoreOpc f.opc then
    { s with track := { s.track with pairs := s.track.pairs ++ [⟨f.src, f.dst, id, f.of_, done⟩] } }
  else s

/-- A store of a pair has ended. A plain store that ended well is forgotten; one that failed is kept for the flag store
that it withholds; the end of a flag store forgets it and every failure before it. -/
def pairEnd (id : Nat) (ok : Bool) (s : State) : State :=
  let ps := s.track.pairs
  match ps.find? (fun p => p.id == id) with
  | none => s
  | some e =>
    let ps' :=
      if e.isOF then ps.filter fun p => !(p.src == e.src && p.dst == e.dst && decide (p.id ≤ id) && (p.done.isSome || p.id == id))
      else if ok then ps.filter fun p => p.id != id
      else ps.map fun p => if p.id = id then { p with done := some false } else p
    { s with track := { s.track with pairs := ps' } }

/-- The source by which a store's pair is kept: a strand counts as a source of its own (R95). -/
def pairSrc (s : State) (id : Nat) (f : Frame) : Nat :=
  match s.track.pairs.find? (fun p => p.id == id) with
  | some p => p.src
  | none => f.src

/-- Every earlier store of the pair has ended (R54). -/
def pairClear (s : State) (id : Nat) (f : Frame) : Bool :=
  let src := pairSrc s id f
  s.track.pairs.all fun p => !(p.src == src && p.dst == f.dst && decide (p.id < id)) || p.done.isSome

/-- Number of the previous flag store of the pair, 0 where none is kept (R54). -/
def prevFlag (s : State) (src dst id : Nat) : Nat :=
  (s.track.pairs.filter fun p => p.src == src && p.dst == dst && decide (p.id < id) && p.isOF).foldl (fun m p => max m p.id) 0

/-- A store of the pair after the previous flag store and before this one ended with an error. -/
def pairFailed (s : State) (id : Nat) (f : Frame) : Bool :=
  let src := pairSrc s id f
  s.track.pairs.any fun p => p.src == src && p.dst == f.dst && decide (prevFlag s src f.dst id < p.id) && decide (p.id < id)
    && !p.isOF && p.done == some false

/-! ## The tracker (R69) -/

/-- The tracker entry that an answer closes: tag, nodes exchanged. -/
def findTrack (s : State) (a : Frame) : Option (Nat × Track) :=
  tfind s.track.reqs fun _ t => t.sent.tag == a.tag && t.sent.src == a.dst && t.sent.dst == a.src

/-- The tracker entry of a frame on its way, if this switch is its first switch. -/
def trackOfFrame (s : State) (f : Frame) : Option (Nat × Track) :=
  tfind s.track.reqs fun _ t => t.sent.tag == f.tag && t.sent.src == f.src && t.sent.dst == f.dst && t.sent.opc == f.opc

/-- The request was made by this switch under R62 from a load or store, so that this switch repeats it. -/
def converted (t : Track) : Bool := (t.orig.opc == 0x01 && t.sent.opc == 0xA1) || (t.orig.opc == 0x02 && t.sent.opc == 0xA2)

/-- Drop a tracker entry. -/
def dropTrack (id : Nat) (s : State) : State :=
  { s with track := { s.track with reqs := tdel s.track.reqs id } }

/-- Close a tracker entry and give its source the answer. A status other than OK or REPLAYED writes a fault record
(R71) with the `PORT` and the `AUX` given. What the switch asked for itself is answered into the inbox. -/
def closeTrackAt (id status : Nat) (data : List Byte) (from_ port aux : Nat) (s : State) : State :=
  match tget s.track.reqs id with
  | none => s
  | some t =>
    let s1 := pairEnd id (decide (status = stOK)) (dropTrack id s)
    let s2 := if status = stOK ∨ status = stReplayed then s1 else faultRec t.orig status from_ port aux s1
    match t.origin with
    | .port _ => answer t.orig status data s2
    | .host h => if t.orig.opc = 0x01 then emit (.pcieRead h (if status = stOK then data else onesBytes t.orig.len)) s2 else s2
    | .mgmt n => jobAnswer n t.orig.payload status s2
    | _ =>
      let (k, s3) := takeId s2
      let a := mkAnswer t.orig status data
      { s3 with hall := { s3.hall with inbox := tset s3.hall.inbox k ⟨{ a with rsv := id }, 255, false, none, t.part, s3.clk.now, false⟩ } }

/-- The port at which a tracked request arrived, as a fault record names it. -/
def trackPort (s : State) (id : Nat) : Nat := match tget s.track.reqs id with | some t => t.port | none => 0xFF

/-- Close a tracker entry, the fault record naming the port at which the request arrived. -/
def closeTrackAux (id status : Nat) (data : List Byte) (from_ aux : Nat) (s : State) : State :=
  closeTrackAt id status data from_ (trackPort s id) aux s

/-- Close a tracker entry, the fault record's `AUX` being 0. -/
def closeTrack (id status : Nat) (data : List Byte) (from_ : Nat) (s : State) : State := closeTrackAux id status data from_ 0 s

/-- Close a tracker entry with an error raised at a port. An atomic's 8 bytes are then open (log 13). -/
def closeTrackErrorAt (id status from_ port : Nat) (s : State) : State :=
  match tget s.track.reqs id with
  | none => s
  | some t =>
    if isAtomicOpc t.orig.opc ∨ t.orig.opc = 0xA3 then
      let (v, s1) := fresh s
      closeTrackAt id status (toLE 8 (v % 2 ^ 64)) from_ port 0 s1
    else closeTrackAt id status (errorData t.orig) from_ port 0 s

/-- Close a tracker entry with an error. -/
def closeTrackError (id status from_ : Nat) (s : State) : State := closeTrackErrorAt id status from_ (trackPort s id) s

/-- A frame ends in this switch: a request of which this switch is the first one is answered through the tracker, another
request by an answer frame, and any other frame is dropped. -/
def endFrame (f : Frame) (status from_ port : Nat) (s : State) : State :=
  if isRequest f.cls then
    match trackOfFrame s f with
    | some (id, _) => closeTrackErrorAt id status from_ port s
    | none => answerFree f status (faultRec f status from_ port 0 s)
  else s

/-- Send a request, or a message or answer in transit, on its way: routed, and checked at its output. -/
def sendRequest (input : Nat) (landing : Landing) (part : Option Nat) (first whole : Bool) (f : Frame) (s : State) : State :=
  let f1 := if first then { f with g := genLive s } else f
  match routeOf s f1 with
  | .nowhere =>
    -- the record of a request that ends here is the one that its end writes
    match trackOfFrame s f1 with
    | some (id, t) => closeTrackError id (timeoutStatus t.orig) 3 (rbump R.NO_ROUTE_COUNT 0 s)
    | none => noRoute f1 s
  | .self => toOwn f1 part s
  | .unit u =>
    match egressCheck s u f1 .transit with
    | .refuse st => if isRequest f1.cls then endFrame f1 st 3 (recPort u) (countRefused u s) else dropAt input u f1 st s
    | .go => enqueue input [u] landing part first whole f1 s

/-! ## Tags of an endpoint (R522) -/

/-- Requests outstanding at an endpoint: sent to it, and not answered by it. -/
def outstanding (s : State) (dst : Nat) : Nat := (s.track.places.filter fun p => p.1 == dst).length

/-- A request bound for an endpoint at a unit takes one of the endpoint's tags; a snoop takes none (log 162). -/
def takesTag (s : State) (f : Frame) (u : Nat) : Bool :=
  isRequest f.cls && f.cls != 3 && decide (u < 128) && isEndpointPort s u && !isEth s u

/-- The tags of a frame's endpoint are all in use: it waits in the Hall. -/
def tagsFull (s : State) (f : Frame) (u : Nat) : Bool :=
  takesTag s f u && decide (2 ^ bitsOf (rget s R.PEER_CAPS_CAPS u) 32 8 ≤ outstanding s f.dst)

/-- A request that starts to leave takes its place. -/
def takeTag (f : Frame) (u : Nat) (s : State) : State :=
  if takesTag s f u then { s with track := { s.track with places := s.track.places ++ [(f.dst, f.src, f.tag)] } } else s

/-- An answer from an endpoint frees the place of its request. -/
def releaseTag (a : Frame) (s : State) : State :=
  { s with track := { s.track with places := s.track.places.erase (a.src, a.dst, a.tag) } }

/-- Where a request that this switch holds is charged: the landing of the port on which it came, or its partition's
internal landing (R350). -/
def heldLanding (t : Track) : Landing :=
  if t.port ≠ 255 then .port t.port else match t.part with | some p => .part p | none => .none

/-- Send the request of a tracker entry. -/
def sendTracked (id : Nat) (s : State) : State :=
  match tget s.track.reqs id with
  | none => s
  | some t =>
    sendRequest (if t.port < 128 then t.port else if t.port = 128 ∨ t.port = 129 then t.port + 4 else 128) (heldLanding t) t.part
      (decide (t.port = 255) || (portPart s t.port).isSome) true { t.sent with g := genLive s } s

/-- Send the frame of a tracker entry again (R64). -/
def repeatTrack (id : Nat) (t : Track) (s : State) : State :=
  sendTracked id { s with track := { s.track with reqs := tset s.track.reqs id { t with repeats := t.repeats + 1 } } }

/-- Enter a request in the tracker under its number. -/
def addTrack (id : Nat) (origin : Origin) (orig sent : Frame) (accepted port : Nat) (held : Bool) (s : State) : State :=
  let t : Track := ⟨origin, orig, sent, accepted, 0, held, keyPart s orig.pkey, port⟩
  { s with track := { s.track with reqs := tset s.track.reqs id t } }

/-- Issue a request of one of this switch's own units: tracked from now, then sent, or put into the inbox of this switch
where it is addressed to it. -/
def issue (origin : Origin) (f : Frame) (s : State) : Nat × State :=
  let (id, s1) := takeId s
  let s2 := addTrack id origin f f s1.clk.now 255 false s1
  let src := match origin with
    | .strand k _ => f.src + 32768 * (1 + k + 32768 * (match tget s.seed.strands k with | some x => x.inst | none => 0))
    | _ => f.src
  (id, pairAdd id { f with src := src } none s2)

/-- The inbox answer to tracker number `id` of one of this switch's own units, with its inbox number. -/
def ownAnswer (s : State) (id : Nat) : Option (Nat × Inbox) :=
  tfind s.hall.inbox fun _ i => isAnswer i.frame.cls && i.port == 255 && i.frame.rsv == id

/-- What an entry of the inbox holds of its partition's landing. -/
def landedCells (s : State) (id : Nat) : Nat × Nat :=
  match tget s.hall.inbox id with
  | some i => (i.part.getD 0, if i.landed then inboxCells i else 0)
  | none => (0, 0)

/-- Take an entry out of the inbox: its cells are free. -/
def takeInbox (id : Nat) (s : State) : State :=
  let l := landedCells s id
  { s with hall := { s.hall with inbox := tdel s.hall.inbox id
                                 partCells := tput s.hall.partCells l.1 0 (tgetD s.hall.partCells l.1 0 - l.2) } }

/-- An entry of the inbox comes to wait for something inside the switch: its cells move to its partition's landing if that has
room, or stay where they are (R350). -/
def landInbox (id : Nat) (s : State) : State :=
  match tget s.hall.inbox id with
  | some i =>
    if i.landed ∨ !partRoom s (i.part.getD 0) (inboxCells i) then s
    else chargePart (i.part.getD 0) (inboxCells i) { s with hall := { s.hall with inbox := tset s.hall.inbox id { i with landed := true } } }
  | none => s

/-- A frame is at the head of its order: no earlier frame of its source, destination and class waits (R358). -/
def isHead (s : State) (id : Nat) (i : Inbox) : Bool :=
  s.hall.inbox.all fun p => !(decide (p.1 < id) && p.2.frame.src == i.frame.src && p.2.frame.dst == i.frame.dst
    && p.2.frame.cls == i.frame.cls && p.2.port == i.port)

end Sys2Proof.Machine
end

