-- ==== Sys2Proof/Machine/Ingress.lean ====
section
/-! DEFINITION. Arrival and departure of frames at the ports: checks, policing, mirroring, Ethernet conversion, and the
path that a whole frame takes (R12, R66, R67, R74 to R79, R346, R347, R362 to R364, R375, R381, R382, R411). -/
namespace Sys2Proof.Machine

/-! ## Mirroring (R362 to R364) -/

/-- A session copies frames of this kind. -/
def mirrorMatches (s : State) (e : Nat) (tx : Bool) (port : Nat) (part : Option Nat) (f : Frame) : Bool :=
  rbit s R.MIRROR_EN e && (if tx then rbit s R.MIRROR_DIR_TX e else rbit s R.MIRROR_DIR_RX e)
    && decide (port < 128) && bitAt (rget s R.MIRROR_PORTS e) port && bitAt (rget s R.MIRROR_CLASSES e) f.cls
    && (!rbit s R.MIRROR_PART_EN e || part == some (rget s R.MIRROR_PART e))
    && (!rbit s R.MIRROR_SRC_EN e || f.src == rget s R.MIRROR_SRC e)
    && (!rbit s R.MIRROR_DST_EN e || f.dst == rget s R.MIRROR_DST e)
    && (f.opc &&& rget s R.MIRROR_OPC_MASK e) == (rget s R.MIRROR_OPC e &&& rget s R.MIRROR_OPC_MASK e)

/-- The bytes of a balcony copy: the 32-byte header and the frame, cut where the session says so. -/
def balconyBytes (s : State) (e : Nat) (tx : Bool) (port : Nat) (part : Option Nat) (f : Frame) : List Byte :=
  let whole := frameBytes f
  let cut := rget s R.MIRROR_TRUNC_CELLS e * 256
  let copy := if cut = 0 then whole else whole.take cut
  toLE 8 s.clk.now ++ toLE 4 (rget s R.MIRROR_SEQ e) ++ toLE 1 (e + 8 * b2n tx + 16 * b2n (decide (copy.length < whole.length)))
    ++ toLE 1 port ++ toLE 1 f.cls ++ toLE 1 (part.getD 0) ++ toLE 2 whole.length ++ toLE 2 copy.length
    ++ toLE 1 (b2n f.tailBad) ++ List.replicate 11 0#8 ++ copy

/-- Offer a frame to one session. -/
def mirrorOne (tx : Bool) (port : Nat) (part : Option Nat) (f : Frame) (e : Nat) (s : State) : State :=
  if !mirrorMatches s e tx port part f then s else
  let n := tgetD s.hall.mirrorCnt e 0 + 1
  let count (k : Nat) (t : State) : State := { t with hall := { t.hall with mirrorCnt := tput t.hall.mirrorCnt e 0 k } }
  if n < rget s R.MIRROR_SAMPLE_N e then count n s
  else
    let b := rget s R.MIRROR_BALCONY_PORT e
    let bytes := balconyBytes s e tx port part f
    let cells := ceilDiv bytes.length 256
    let s1 := rbump R.MIRROR_SEQ e (count 0 s)
    if portLimit s1 b < portCells s1 b + cells then rbump R.MIRROR_DROPPED e s1
    else { s1 with hall := { s1.hall with balcony := s1.hall.balcony ++ [⟨e, b, bytes, cells⟩] } }

/-- Offer a frame to every session. -/
def mirror (tx : Bool) (port : Nat) (part : Option Nat) (f : Frame) (s : State) : State :=
  each (upTo 8) (mirrorOne tx port part f) s

/-! ## Departure -/

/-- `ETH_MAC_BASE` + port number (R502). -/
def macOf (n : Nat) : Nat := Config.macBaseHigh.toNat * 256 + n

/-- The shim of a frame (R74). -/
def shimBytes (f : Frame) : List Byte :=
  toLE 16 (packBits [(8, f.opc), (8, f.status), (15, f.dst), (1, 0), (20, f.tag), (12, 0), (16, f.len), (48, f.offset)])

/-- A result copy that this switch made leaves for a port: its collective makes progress (R218). -/
def noteResult (f : Frame) (s : State) : State :=
  if f.opc = 0xC2 ∧ f.src = nodeSelf s then
    { s with col := { s.col with ctx := tmod s.col.ctx (f.offset % 8192) fun x => { x with progress := s.clk.now } } }
  else s

/-- A frame leaves by a port: as an Ethernet frame (R76, R347) or over the Molza link. -/
def departPort (n : Nat) (part : Option Nat) (f : Frame) (s : State) : State :=
  let s1 := noteResult f (mirror true n part f s)
  let s2 := match portPart s1 n with
    | some p => meter p 1 (24 + f.payload.length) s1
    | none => s1
  if isEth s2 n then
    emit (.eth n (tgetD s2.hall.ethPeer n 0) (macOf n) (rget s2 R.ETH_CFG_ETHERTYPE 0) (shimBytes f ++ f.payload) (!f.tailBad)) s2
  else sendData n f (emit (.frame n f) s2)

/-! ## Policing (R381, R382) -/

/-- `OVH_BYTES` of a port, signed (R375). -/
def ovhBytes (s : State) (n : Nat) : Int := signed 9 (rget s R.POVH_OVH_BYTES n)

/-- Counted length of a frame at a port (R375). -/
def countedLen (s : State) (n : Nat) (f : Frame) : Int := (f.len : Int) + 32 + (if n < 128 then ovhBytes s n else 0)

/-- Credit in 2^-16 byte that a rate gives over a time: Mbit/s to bytes per ns is 1/8000. -/
def earned (mbps ns : Nat) : Int := ((mbps * ns * 65536 / 8000 : Nat) : Int)

/-- A bucket brought up to now. -/
def bucketNow (now mbps burst : Nat) (b : Bucket) : Bucket :=
  ⟨min (b.credit + earned mbps (now - b.at_)) ((burst * 65536 : Nat) : Int), now⟩

/-- Colour of a frame. -/
inductive Colour where
  | green | yellow | red
  deriving DecidableEq, Repr

/-- The policer of a class: 0 REQ, 1 BLK, 2 MGT. -/
def policerIndex (cls : Nat) : Option Nat :=
  if cls = 4 then some 0 else if cls = 5 then some 1 else if cls = 7 then some 2 else none

/-- `CIR`, `PIR`, `CBS`, `PBS`, `EN` and `RED_MARK` of a policer. -/
def policerRegs (s : State) (n i : Nat) : Nat × Nat × Nat × Nat × Bool × Bool :=
  match i with
  | 0 => (rget s R.PPOL_REQ_CIR_MBPS n, rget s R.PPOL_REQ_PIR_MBPS n, rget s R.PPOLB_REQ_CBS n, rget s R.PPOLB_REQ_PBS n,
          rbit s R.PPOL_REQ_EN n, rbit s R.PPOL_REQ_RED_MARK n)
  | 1 => (rget s R.PPOL_BLK_CIR_MBPS n, rget s R.PPOL_BLK_PIR_MBPS n, rget s R.PPOLB_BLK_CBS n, rget s R.PPOLB_BLK_PBS n,
          rbit s R.PPOL_BLK_EN n, rbit s R.PPOL_BLK_RED_MARK n)
  | _ => (rget s R.PPOL_MGT_CIR_MBPS n, rget s R.PPOL_MGT_PIR_MBPS n, rget s R.PPOLB_MGT_CBS n, rget s R.PPOLB_MGT_PBS n,
          rbit s R.PPOL_MGT_EN n, rbit s R.PPOL_MGT_RED_MARK n)

/-- Colour a frame at its port and charge the buckets; none where nothing polices it. -/
def colourFrame (n : Nat) (f : Frame) (s : State) : Option Colour × State :=
  match policerIndex f.cls, portPart s n with
  | some i, some _ =>
    let (cir, pir, cbs, pbs, en, _) := policerRegs s n i
    if !en then (none, s) else
    let kc := (n * 3 + i) * 2
    let l := countedLen s n f * 65536
    let c := bucketNow s.clk.now cir cbs (tgetD s.hall.policers kc ⟨((cbs * 65536 : Nat) : Int), s.clk.now⟩)
    let p := bucketNow s.clk.now pir pbs (tgetD s.hall.policers (kc + 1) ⟨((pbs * 65536 : Nat) : Int), s.clk.now⟩)
    let put (c' p' : Bucket) : State :=
      { s with hall := { s.hall with policers := tset (tset s.hall.policers kc c') (kc + 1) p' } }
    if p.credit < l then (some .red, put c p)
    else if c.credit < l then (some .yellow, put c { p with credit := p.credit - l })
    else (some .green, put { c with credit := c.credit - l } { p with credit := p.credit - l })
  | _, _ => (none, s)

/-- Whether a coloured frame is admitted, with the counters of R382. -/
def admitColour (n : Nat) (f : Frame) (s : State) : Bool × State :=
  let (c, s1) := colourFrame n f s
  let yellowRoom := decide (portCells s1 n * 16 < portLimit s1 n * rget s1 R.PCOLOUR_YELLOW_16THS n)
  let drop (t : State) : Bool × State := (false, rbump R.PCOL_DROP_COUNT n t)
  let asYellow (t : State) : Bool × State :=
    let t1 := rbump R.PYELLOW_COUNT n t
    if yellowRoom then (true, t1) else drop t1
  match c with
  | none => (true, s1)
  | some .green => (true, rbump R.PGREEN_COUNT n s1)
  | some .yellow => asYellow s1
  | some .red =>
    let mark := match policerIndex f.cls with | some i => (policerRegs s1 n i).2.2.2.2.2 | none => false
    if mark then asYellow s1 else drop (rbump R.PRED_COUNT n s1)

/-! ## Checks of the first switch (R66, R67, R521) -/

/-- The check that R196 puts in place of step 4 for COL frames. -/
def colAllowed (s : State) (f : Frame) : Bool :=
  match tget s.col.ctx (f.offset % 8192) with
  | none => true
  | some c => c.record.pkey == f.pkey
      && (c.record.nodes.contains f.src || c.record.parent == f.src || c.record.children.any (·.node == f.src))

/-- Step 1 of R66 with the reserved node numbers of R42. -/
def formOrNode (f : Frame) : Option Nat :=
  match formatStatus f with
  | some st => some st
  | none => if f.mc ∨ f.dst < 0x4400 then none else if f.dst = 0x7FFF then some stIllegal else some stUnsupported

/-- Steps 1 to 4 of R66 for a frame from an endpoint or host: the failing status, if any. An answer is checked for its
form and key alone. -/
def ingressStatus (s : State) (n : Nat) (f : Frame) : Option Nat :=
  match formOrNode f with
  | some st => some st
  | none =>
    if !(keySet s n).contains f.pkey then some stPkey
    else if isAnswer f.cls then none
    else if portNode s n ≠ some f.src then some stDenied
    else if f.cls = 3 then some stUnsupported
    else if f.cls = 0 then (if f.dst = nodeSelf s then none else some stDenied)
    else if (f.cls = 4 ∨ f.cls = 5 ∨ f.cls = 6) ∧ !f.je ∧ (keyPart s f.pkey).any (fun p => s.sec.frame.jobRequired.contains p) then some stDenied
    else if f.cls = 6 then (if colAllowed s f then none else some stDenied)
    else match rightOf f, keyPart s f.pkey with
      | some (r, len), some p => if windowCovers s p r f.dst f.offset len then none else some stDenied
      | some _, none => some stDenied
      | none, _ => none

/-- The checks at a side port: form and key (R47, R67). -/
def sideStatus (s : State) (n : Nat) (f : Frame) : Option Nat :=
  match formOrNode f with
  | some st => some st
  | none => if (keySet s n).contains f.pkey then none else some stPkey

/-- A frame that fails a check: a request is answered, another frame is dropped; a fault record is written where the
frame entered from an endpoint or host, or is a request (R66, R520). A failed store still counts for R54. -/
def ingressEnd (n : Nat) (edge : Bool) (f : Frame) (status : Nat) (s : State) : State :=
  let s1 := if edge || isRequest f.cls then faultRec f status 0 n 0 s else s
  let s2 := if edge && isStoreOpc f.opc then let (id, t) := takeId s1; pairAdd id f (some false) t else s1
  if isRequest f.cls then answerFree f status s2 else s2

/-! ## The path of a whole frame (R12) -/

/-- Input unit of a port or host port. -/
def inputUnit (n : Nat) : Nat := if n < 128 then n else n + 4

/-- Hand a frame that is in the buffer to the inbox of this switch's units. -/
def acceptCopy (n : Nat) (eth : Bool) (f : Frame) (s : State) : State :=
  let (id, s1) := takeId s
  let i : Inbox := ⟨f, n, eth, none, keyPart s f.pkey, s.clk.now, false⟩
  let s2 := pairAddIf (decide (128 ≤ n) || isEndpointPort s n) id f s1
  { s2 with hall := { s2.hall with inbox := tset s2.hall.inbox id i } }
where
  /-- A store from an endpoint or host enters the order of its pair when it is accepted (R54). -/
  pairAddIf (edge : Bool) (id : Nat) (f : Frame) (t : State) : State := if edge then pairAdd id f none t else t

/-- Write a frame into the buffer for this switch's units. -/
def accept (n : Nat) (eth : Bool) (f : Frame) (s : State) : State := noteCells (keyPart s f.pkey) (frameCells f) (acceptCopy n eth f s)

/-- A frame for one of this switch's own units: a CTL message that breaks the form of its rule ends `ILLEGAL`, and an envelope is
opened first (R412, R520, R521). -/
def acceptOwn (n : Nat) (edge eth : Bool) (f : Frame) (s : State) : State :=
  if f.cls = 0 ∧ !ctlForm f then ingressEnd n edge f stIllegal s
  else if f.je then
    match openJob f s with
    | (some g, s1) => accept n eth g s1
    | (none, s1) => ingressEnd n edge f stDenied s1
  else accept n eth f s

/-- Rate of one direction of a unit in GB/s: 25 for each active lane, 128 or 64 for a host port (R348). -/
def unitRate (s : State) (u : Nat) (tx : Bool) : Nat :=
  if u < 128 then
    let m := rget s (if tx then R.LINK_STATUS_TX_LANES else R.LINK_STATUS_RX_LANES) u
    25 * sumN ((upTo 8).map fun i => b2n (bitAt m i))
  else if rget s R.HOST_PORT_RATE (u - 132) = 6 then 128 else 64

/-- The slot pattern of quiet mode is in force (R384). -/
def quietPattern (s : State) : Bool := (upTo 64).any fun i => rbit s R.QSLOT_OWNED i

/-- A frame from a port leaves by cut-through (R348, R384). -/
def cutThrough (s : State) (n : Nat) (f : Frame) : Bool :=
  decide (n < 128) && !f.mc && bitAt (rget s R.HALL_CT_CT_CLASS 0) f.cls && !quietPattern s
    && (match routeOf s f with
        | .unit u => decide (unitRate s u true ≤ unitRate s n false)
        | _ => false)

/-- The first cell of a frame that leaves by cut-through may have left before its last one arrived: its output is free, it takes
the class, and no earlier frame of the queue waits for it (R347). -/
def mayHaveLeft (s : State) (n : Nat) (f : Frame) : Bool :=
  cutThrough s n f && (match routeOf s f with
    | .unit u =>
      !(s.hall.frames.any fun h => h.outs.any fun o => o.unit == u && (o.started || (h.input == n && h.frame.cls == f.cls)))
        && (decide (128 ≤ u) || isEth s u || !bitAt (tgetD s.hall.peerOff u 0) f.cls)
    | _ => false)

/-- Whether a flawed frame has begun to leave is open where it may have: a free value says so (R347, log 15). -/
def hasLeft (n : Nat) (edge : Bool) (f : Frame) (s : State) : Bool × State :=
  if mayHaveLeft s n f && !(edge && isRequest f.cls) then let (v, s1) := fresh s; (v % 2 == 1, s1) else (false, s)

/-- Put a frame in transit into the virtual output queues, charged to the landing it finds. -/
def transit (n : Nat) (landing : Landing) (part : Option Nat) (f : Frame) (s : State) : State :=
  let whole := !cutThrough s n f
  let first := decide (n < 128) && (portPart s n).isSome
  if f.mc then
    let (outs, s1) := copyOutputs (inputUnit n) f .transit s
    if !outs.isEmpty then enqueue (inputUnit n) outs landing part first whole f s1
    else if f.cls = 6 then noteCells part (frameCells f) s1
    else if (groupOutputs s (f.dst % 8192) (inputUnit n)).isEmpty then rbump R.NO_ROUTE_COUNT 0 s1
    else s1
  else sendRequest (inputUnit n) landing part first whole f s

/-- Drop a frame of a retired generation (R373). One that this switch made from a load or store is sent again (R64). -/
def dropStale (f : Frame) (s : State) : State :=
  let s1 := rbump R.ROUTE_STALE_CNT_COUNT 0 s
  if (f.cls = 4 ∨ f.cls = 5 ∨ f.cls = 7) ∧ !f.mc then
    match trackOfFrame s1 f with
    | some (id, t) => if converted t ∧ t.repeats < 3 then repeatTrack id t s1 else endFrame f stRouteStale 3 0xFF s1
    | none => endFrame f stRouteStale 3 0xFF s1
  else s1

/-- An answer that reaches its first switch: one for a unit of this switch closes its tracker entry at once; one for an
endpoint or host of this switch waits for its row. -/
def acceptAnswer (n : Nat) (eth : Bool) (f : Frame) (s : State) : State :=
  match findTrack s f with
  | some (id, t) =>
    if t.port = 255 then closeTrack id f.status f.payload 1 s else accept n eth f s
  | none => accept n eth f s

/-- The path of a frame that has passed its checks. -/
def dispatchFrame (n : Nat) (edge eth : Bool) (landing : Landing) (f : Frame) (s : State) : State :=
  let part := keyPart s f.pkey
  if f.mc then
    -- a multicast copy for a context of this switch is also taken here (R208, R360)
    let s1 := if f.cls = 6 then acceptCopy n eth f s else s
    transit n landing part f s1
  else if isAnswer f.cls then
    let s1 := if edge then releaseTag f s else s
    if f.dst = nodeSelf s ∨ (oneHop s f.dst ∧ (findTrack s f).isSome) then acceptAnswer n eth f s1
    else if oneHop s f.dst ∧ (!edge ∨ s.track.late.contains (f.src, f.dst, f.tag)) then acceptAnswer n eth f s1
    else transit n landing part f s1
  else if f.dst = nodeSelf s then acceptOwn n edge eth f s
  else if edge ∧ isRequest f.cls then accept n eth f s
  else transit n landing part f s

/-- What R346 finds wrong with a received frame, as its `REASON`: 0 nothing. -/
def tailFlaw (eth : Bool) (f : Frame) : Nat :=
  if f.tailBad then 4
  else if f.payload.length ≠ (if f.je then f.len else payloadLen f) then 2
  else if pcrcOf f.payload ≠ f.pcrc ∧ !eth then 3
  else 0

/-- The bytes of an arriving frame are metered for the partition of its port, whatever becomes of it (R40). -/
def countRx (n : Nat) (f : Frame) (s : State) : State :=
  match portPart s n with
  | some p => if n < 128 then meter p 0 (24 + f.payload.length) s else s
  | none => s

/-- The mirror copies of an arriving frame that meets the rules of its port. -/
def countIn (n : Nat) (f : Frame) (s : State) : State :=
  if n < 128 then mirror false n (keyPart s f.pkey) f s else s

/-- Accept a frame after policing: one of a retired generation is dropped, another lands and is dispatched. -/
def takeIn (n : Nat) (edge eth : Bool) (landing : Landing) (f : Frame) (s : State) : State :=
  if genState s f.g = .retired then dropStale f s
  else
    let s1 := dispatchFrame n edge eth landing f s
    if n < 128 then updateOff n s1 else s1

/-- Police a frame that meets the rules of its port. -/
def arriveOn (n : Nat) (edge eth : Bool) (landing : Landing) (f : Frame) (s : State) : State :=
  if n < 128 then
    match admitColour n f (countIn n f s) with
    | (true, s1) => takeIn n edge eth landing f s1
    | (false, s1) => ingressEnd n true f (timeoutStatus f) s1
  else takeIn n edge eth landing f (countIn n f s)

/-- A frame that has passed the check of its tail, or is marked by it: its version, its landing and the rules of its port. -/
def arriveWhole (n : Nat) (eth edge : Bool) (f : Frame) (s : State) : State :=
  let answersMgt := isAnswer f.cls && (match findTrack s f with | some (_, t) => t.orig.cls == 7 | none => false)
  if f.ver ≠ 2 then ingressEnd n edge f stUnsupported (countRefused n s)
  else if n < 128 ∧ lstate s n = 5 ∧ f.cls ≠ 0 ∧ f.cls ≠ 7 ∧ !answersMgt then
    ingressEnd n edge f stUnsupported (countRefused n s)
  else match (if n < 128 then landFor s n f else some (.port n)) with
    | none => if eth then rbump R.ETH_DROP_COUNT n s else if n < 128 then rbump R.PDROP_RX_OVERRUN n s else s
    | some landing =>
      let g := if edge then { f with g := genLive s } else f
      match (if edge then ingressStatus s n g else sideStatus s n g) with
      | some st => ingressEnd n edge g st s
      | none => arriveOn n edge eth landing g s

/-- A whole frame arrives at port `n` (128 and 129: a host port). -/
def arrive (n : Nat) (eth : Bool) (f : Frame) (s0 : State) : State :=
  let s := countRx n f s0
  let edge := decide (128 ≤ n) || isEndpointPort s n || (pfPort s n).role == 0 || (pfPort s n).role == 4
  let flaw := tailFlaw eth f
  if flaw = 0 then arriveWhole n eth edge f s
  else
    let s1 := if n < 128 then rbump R.PDROP_RX_TAIL_BAD n s else s
    match hasLeft n edge f s1 with
    | (true, s2) => arriveWhole n eth edge { f with tailBad := true, reason := flaw } s2
    | (false, s2) => s2

/-! ## Ethernet bulk personality (R74 to R77) -/

/-- An `OPC` whose frame carries no payload, `LEN` being the bytes asked for. -/
def asksOnly (opc : Nat) : Bool := opc == 0x01 || opc == 0xA1

/-- The `OPC` values that a port in Ethernet bulk personality accepts (R75). -/
def ethOpc (opc : Nat) : Bool :=
  (decide (0x20 ≤ opc) && decide (opc ≤ 0x26)) || (decide (0xA0 ≤ opc) && decide (opc ≤ 0xA2))
    || (decide (0xC0 ≤ opc) && decide (opc ≤ 0xCF)) || opc == 0xF1 || opc == 0xF2

/-- The transaction header that the switch builds from a shim (R75). A port with no bound node gives `SRC` 0x7FFF, and an `OPC`
that no class of R48 holds is taken for a request, so that it is answered (log 163). -/
def shimFrame (s : State) (n : Nat) (bytes : List Byte) : Frame :=
  let h := leNat (bytes.take 16)
  let opc := bitsOf h 0 8
  let len := bitsOf h 64 16
  let p := slice bytes 16 (if asksOnly opc then 0 else len)
  { mkFrame ((opcClass opc).getD 4) opc (bitsOf h 16 15) ((portNode s n).getD 0x7FFF) (rget s R.ETH_PORT_PORT_PKEY n)
      (bitsOf h 32 20) (bitsOf h 8 8) (bitsOf h 80 48) len p with g := genLive s }

/-- An Ethernet frame arrives (R75 to R77). The 9,216 bytes count the frame from its addresses to its FCS, 18 bytes more than
its payload; a frame shorter than its shim, or than the shim's `LEN`, is dropped and counted in `RX_TAIL_BAD` (log 163). -/
def arriveEth (n srcMac etype : Nat) (bytes : List Byte) (fcsGood : Bool) (s : State) : State :=
  if !fcsGood then rbump R.ETH_FCS_BAD_COUNT n s
  else if 9216 < bytes.length + 18 then rbump R.ETH_OVERSIZE_COUNT n s
  else if etype ≠ rget s R.ETH_CFG_ETHERTYPE 0 then rbump R.ETH_ETYPE_DROP_COUNT n s
  else
    let s1 := { s with hall := { s.hall with ethPeer := tput s.hall.ethPeer n 0 srcMac } }
    let f := shimFrame s1 n bytes
    if bytes.length < 16 then rbump R.PDROP_RX_TAIL_BAD n s1
    else if !ethOpc f.opc then ingressEnd n true f stUnsupported (countRx n f s1)
    else if !asksOnly f.opc ∧ bytes.length < 16 + f.len then rbump R.PDROP_RX_TAIL_BAD n s1
    else arrive n true f s1

end Sys2Proof.Machine
end

