-- ==== Sys2Proof/Machine/Frames.lean ====
section
/-! DEFINITION. The commands of the Hall: arriving frames, the scheduler's cell time, quiet slots, the retirement of a
route generation, the buffer audit and the gating of the Hall clock (R29, R66, R77, R355 to R384). -/
namespace Sys2Proof.Machine

/-- A main-domain command does nothing while the main domain is off (R511). -/
def whenRunning (f : State → State) (s : State) : Out := .next (if running s then f s else s)

/-! ## Quiet mode (R384) -/

/-- Owner of a slot. -/
def slotOwner (s : State) (i : Nat) : Option Nat := if rbit s R.QSLOT_OWNED i then some (rget s R.QSLOT_PART i) else none

/-- Slots from slot `i` on that have the owner `o`. Quiet frames follow each other, so slot 0 follows slot 63; the fuel bounds
one quiet frame. -/
def runAfter (s : State) (o : Option Nat) : Nat → Nat → Nat
  | 0, _ => 0
  | n + 1, i => if slotOwner s (i % 64) = o then 1 + runAfter s o n (i + 1) else 0

/-- Cell times left in the run of the current slot. -/
def runLeft (s : State) : Nat :=
  s.hall.quietCell + 33 * runAfter s (slotOwner s s.hall.quietSlot) 64 (s.hall.quietSlot + 1)

/-- The slot pattern lets a frame start (R384). -/
def quietAllows (s : State) (f : HFrame) : Bool :=
  if !quietPattern s then true
  else
    (match slotOwner s s.hall.quietSlot with
     | some p => f.part == some p
     | none => (match f.part with | some p => !isQuiet s p | none => true))
    && decide (f.cells ≤ runLeft s)

/-! ## Shaping (R375 to R380) -/

/-- The index of a class among REQ, BLK, COL and MGT. -/
def svcIndex (cls : Nat) : Option Nat :=
  if cls = 4 then some 0 else if cls = 5 then some 1 else if cls = 6 then some 2 else if cls = 7 then some 3 else none

/-- Rate and burst of a service bucket. -/
def svcRegs (s : State) (p c : Nat) : Nat × Nat :=
  match c with
  | 0 => (rget s R.SVCSHAPE_REQ_RATE_MBPS p, rget s R.SVCSHAPE_REQ_BURST p)
  | 1 => (rget s R.SVCSHAPE_BLK_RATE_MBPS p, rget s R.SVCSHAPE_BLK_BURST p)
  | 2 => (rget s R.SVCSHAPE_COL_RATE_MBPS p, rget s R.SVCSHAPE_COL_BURST p)
  | _ => (rget s R.SVCSHAPE_MGT_RATE_MBPS p, rget s R.SVCSHAPE_MGT_BURST p)

/-- Rate and burst of a shaping bucket by its key: service `p * 4 + c`, subscriber `256 + p`, port `320 + n`. -/
def bucketRegs (s : State) (k : Nat) : Nat × Nat :=
  if k < 256 then svcRegs s (k / 4) (k % 4)
  else if k < 320 then (rget s R.SUBSHAPE_RATE_MBPS (k - 256), rget s R.SUBSHAPE_BURST (k - 256))
  else (rget s R.PSHAPE_RATE_MBPS (k - 320), rget s R.PSHAPE_BURST (k - 320))

/-- A bucket brought up to now; one never used starts full. -/
def bucketAt (s : State) (k : Nat) : Bucket :=
  let (rate, burst) := bucketRegs s k
  bucketNow s.clk.now rate burst (tgetD s.hall.buckets k ⟨((burst * 65536 : Nat) : Int), s.clk.now⟩)

/-- The buckets that hold and those that only charge a frame on its way to a unit. -/
def bucketsOf (s : State) (f : HFrame) (u : Nat) : List Nat × List Nat :=
  let own := match f.first, f.part, svcIndex f.frame.cls with
    | true, some p, some c => [p * 4 + c, 256 + p]
    | _, _, _ => []
  let port := if u < 128 ∧ (portPart s u).isSome then [320 + u] else []
  let on (k : Nat) : Bool := (bucketRegs s k).1 != 0
  if (svcIndex f.frame.cls).isSome then ((own ++ port).filter on, []) else ([], port.filter on)

/-- Every bucket that holds the frame has credit. -/
def bucketsAllow (s : State) (f : HFrame) (u : Nat) : Bool :=
  (bucketsOf s f u).1.all fun k => decide (0 ≤ (bucketAt s k).credit)

/-- Charge the buckets of a frame whose header cell leaves. -/
def chargeBuckets (f : HFrame) (u : Nat) (s : State) : State :=
  let l := countedLen s u f.frame * 65536
  let ks := (bucketsOf s f u).1 ++ (bucketsOf s f u).2
  let put (k : Nat) (t : State) : State :=
    let b := bucketAt s k
    { t with hall := { t.hall with buckets := tset t.hall.buckets k { b with credit := b.credit - l } } }
  each ks put s

/-! ## What an input offers (R355, R356, R380) -/

/-- The queue of an input in which a frame waits for each of its outputs: one for each class; the switch's own units keep one for
each partition too (R377). -/
def queueOf (f : HFrame) : Nat × Option Nat := (f.frame.cls, if f.input < 128 ∨ f.input = 132 ∨ f.input = 133 then none else f.part)

/-- The first frame of each virtual output queue of an input. -/
def queueHeads (u : Nat) : List HFrame → List (Nat × Nat × Option Nat) → List (HFrame × OutLeg)
  | [], _ => []
  | f :: t, seen =>
    if f.input ≠ u then queueHeads u t seen
    else
      let new := f.outs.filter fun o => !(seen.contains (o.unit, queueOf f))
      new.map (fun o => (f, o)) ++ queueHeads u t (seen ++ f.outs.map fun o => (o.unit, queueOf f))

/-- An output is in the middle of a frame. -/
def outputBusy (s : State) (u : Nat) : Bool := s.hall.frames.any fun f => f.outs.any fun o => o.unit == u && o.started

/-- Everything but the buckets lets a frame start at an output (R354, R384, R403, R522). -/
def startAllowed (s : State) (f : HFrame) (u : Nat) : Bool :=
  !outputBusy s u && quietAllows s f && !tagsFull s f.frame u
    && (decide (128 ≤ u) || isEth s u || (!bitAt (tgetD s.hall.peerOff u 0) f.frame.cls && (lstate s u == 4 || lstate s u == 5)))
    && !(s.hall.sinkLow && decide (3 ≤ f.frame.cls) && decide (u < 128))

/-- A frame may start at an output. -/
def mayStart (s : State) (f : HFrame) (u : Nat) : Bool := startAllowed s f u && bucketsAllow s f u

/-- The quantum of a class in cells. -/
def quantum (s : State) (c : Nat) : Nat :=
  match c with
  | 4 => rget s R.TM_CFG_WEIGHT_REQ 0
  | 5 => rget s R.TM_CFG_WEIGHT_BLK 0
  | 6 => rget s R.TM_CFG_WEIGHT_COL 0
  | _ => rget s R.TM_CFG_WEIGHT_MGT 0

/-- Deficit round robin of an input: the class that it offers among those with frames that may start, given with the
cells of their first frame. Classes are visited in the order REQ, BLK, COL, MGT; a visit adds the quantum. -/
def drrPick (u : Nat) (ready : List (Nat × Nat)) : Nat → State → Option Nat × State
  | 0, s => (none, s)
  | fuel + 1, s =>
    let c := tgetD s.hall.drrNext u 4
    let k := u * 8 + c
    let d := tgetD s.hall.drr k 0
    let put (d' n : Nat) : State :=
      { s with hall := { s.hall with drr := tput s.hall.drr k 0 d', drrNext := tput s.hall.drrNext u 4 n } }
    let after := if c = 7 then 4 else c + 1
    match ready.find? (fun r => r.1 == c) with
    | none => drrPick u ready fuel (put 0 after)
    | some (_, cells) =>
      if cells ≤ d then (some c, s)
      else if cells ≤ d + quantum s c then (some c, put (d + quantum s c) c)
      else drrPick u ready fuel (put (d + quantum s c) after)

/-- A request of the scheduler: input, output and frame. -/
structure Req where
  input : Nat
  output : Nat
  id : Nat
  deriving DecidableEq, Repr

/-- What an input requests in this cell time: the frames in progress, and the new frames of the class it offers. -/
def offers (u : Nat) (s : State) : List Req × State :=
  let heads := queueHeads u s.hall.frames []
  let req (p : HFrame × OutLeg) : Req := ⟨u, p.2.unit, p.1.id⟩
  let inProgress := heads.filter fun p => p.2.started
  let new := heads.filter fun p => !p.2.started && mayStart s p.1 p.2.unit
  let strict := new.filter fun p => decide (p.1.frame.cls ≤ 3)
  match strict with
  | p :: t =>
    let c := t.foldl (fun m q => min m q.1.frame.cls) p.1.frame.cls
    ((inProgress ++ strict.filter fun q => q.1.frame.cls == c).map req, s)
  | [] =>
    if new.isEmpty then (inProgress.map req, s)
    else
      let (c, s1) := drrPick u (new.map fun p => (p.1.frame.cls, p.1.cells)) 160 s
      ((inProgress ++ new.filter fun q => some q.1.frame.cls == c).map req, s1)

/-- Inputs that hold frames. -/
def activeInputs (s : State) : List Nat := dedup' (s.hall.frames.map (·.input))

/-- The requests of a cell time. -/
def allOffers : List Nat → State → List Req × State
  | [], s => ([], s)
  | u :: t, s => let (r, s1) := offers u s; let (r', s2) := allOffers t s1; (r ++ r', s2)

/-- Frames a unit takes or gives per cell time: a wing 32, any other unit one (R355). -/
def unitCap (u : Nat) : Nat := if 128 ≤ u ∧ u < 132 then 32 else 1

/-- Order after a pointer, round robin over the 135 units. -/
def fromPtr (p : Nat) (l : List Nat) : List Nat := sortBy (fun x => (x + 135 - p) % 135) l

/-- Matches of an input or output so far. -/
def matchedIn (m : List Req) (u : Nat) : Nat := (m.filter fun r => r.input == u).length
def matchedOut (m : List Req) (u : Nat) : Nat := (m.filter fun r => r.output == u).length

/-- One iteration of request, grant and accept. Pointers move on an acceptance in the first iteration. -/
def iterate (first : Bool) (reqs m : List Req) (s : State) : List Req × State :=
  let open_ := reqs.filter fun r => decide (matchedIn m r.input < unitCap r.input)
    && decide (matchedOut m r.output < unitCap r.output) && !(m.contains r)
  let outs := dedup' (open_.map (·.output))
  let grants : List Req := (outs.map fun o =>
    let ins := fromPtr (tgetD s.hall.grantPtr o 0) (dedup' ((open_.filter fun r => r.output == o).map (·.input)))
    (ins.take (unitCap o - matchedOut m o)).filterMap fun i => open_.find? fun r => r.output == o && r.input == i).foldl (· ++ ·) []
  let ins := dedup' (grants.map (·.input))
  let accepted : List Req := (ins.map fun i =>
    let os := fromPtr (tgetD s.hall.acceptPtr i 0) ((grants.filter fun r => r.input == i).map (·.output))
    (os.take (unitCap i - matchedIn m i)).filterMap fun o => grants.find? fun r => r.output == o && r.input == i).foldl (· ++ ·) []
  let move (r : Req) (t : State) : State :=
    { t with hall := { t.hall with grantPtr := tput t.hall.grantPtr r.output 0 ((r.input + 1) % 135)
                                   acceptPtr := tput t.hall.acceptPtr r.input 0 ((r.output + 1) % 135) } }
  (m ++ accepted, if first then each accepted move s else s)

/-! ## Moving cells -/

/-- Where the last cell of a frame has left to: a port, or the units of a host port. -/
def departUnit (u : Nat) (f : HFrame) (s : State) : State :=
  if u < 128 then departPort u f.part f.frame s
  else toInbox f.frame 255 f.part (some (u - 132)) s

/-- Move one cell of a matched frame. -/
def moveCell (r : Req) (s : State) : State :=
  match s.hall.frames.find? (fun f => f.id == r.id) with
  | none => s
  | some f =>
    match f.outs.find? (fun o => o.unit == r.output) with
    | none => s
    | some o =>
      let s1 := if o.started then s else
        let t := takeTag f.frame r.output (chargeBuckets f r.output s)
        let k := r.input * 8 + f.frame.cls
        { t with hall := { t.hall with drr := tput t.hall.drr k 0 (tgetD t.hall.drr k 0 - f.cells), lastWork := t.clk.now } }
      let done := decide (f.cells ≤ o.sent + 1)
      let outs := if done then f.outs.filter fun x => x.unit != r.output
                  else f.outs.map fun x => if x.unit = r.output then { x with started := true, sent := o.sent + 1 } else x
      let frames := if outs.isEmpty then s1.hall.frames.filter fun x => x.id != f.id
                    else s1.hall.frames.map fun x => if x.id = f.id then { f with outs := outs, moved := true } else x
      let s2 := { s1 with hall := { s1.hall with frames := frames } }
      if done then departUnit r.output f s2 else s2

/-- Frames that their buckets alone hold, and the time for which they were held (SHAPE_HELD). -/
def accountHeld (s : State) : State :=
  let heldNow (f : HFrame) : Bool := f.outs.any fun o => !o.started && startAllowed s f o.unit && !bucketsAllow s f o.unit
  let step (f : HFrame) (t : State) : State :=
    match f.heldSince, heldNow f with
    | none, true => { t with hall := { t.hall with frames := t.hall.frames.map fun x => if x.id = f.id then { x with heldSince := some s.clk.now } else x } }
    | some t0, false =>
      let u := { t with hall := { t.hall with frames := t.hall.frames.map fun x => if x.id = f.id then { x with heldSince := none } else x } }
      match f.part with
      | some p => radd R.SHAPE_HELD_HELD_NS p (s.clk.now - t0) u
      | none => u
    | _, _ => t
  each s.hall.frames step s

/-- The oldest balcony copy of a port leaves. -/
def sendCopy (port : Nat) (s : State) : State :=
  match s.hall.balcony.find? (fun b => b.port == port) with
  | none => s
  | some b =>
    let s1 := { s with hall := { s.hall with balcony := s.hall.balcony.erase b } }
    rbump R.MIRROR_COPIES b.session
      (emit (.eth b.port 0xFFFFFFFFFFFF (macOf b.port) (rget s1 R.BALCONY_CFG_ETYPE 0) b.bytes true) s1)

/-- Balcony copies go last: one leaves each balcony port that no frame uses, and for which none was matched (R364). -/
def sendBalcony (matched : List Nat) (s : State) : State :=
  each ((dedup' (s.hall.balcony.map (·.port))).filter fun n => !matched.contains n && !outputBusy s n) sendCopy s

/-- Bring the off bits of every port that is up up to date (R352). -/
def syncOff (s : State) : State := each ((upTo 128).filter (portUp s)) updateOff s

/-- One cell time of the scheduler (R355). -/
def cellTime (s : State) : State :=
  let s0 := accountHeld s
  let (reqs, s1) := allOffers (activeInputs s0) s0
  let (m1, s2) := iterate true reqs [] s1
  let (m2, s3) := iterate false reqs m1 s2
  let (m3, s4) := iterate false reqs m2 s3
  let (m4, s5) := iterate false reqs m3 s4
  let s6 := sendBalcony (m4.map (·.output)) (each m4 moveCell s5)
  let s7 := syncOff s6
  { s7 with hall := { s7.hall with quietCell := s7.hall.quietCell - 1 } }

/-! ## The commands -/

/-- `SCHEDULER_CELL_TIME` (R355). -/
def execSchedulerCellTime (s : State) : Out := whenRunning cellTime s

/-- `INGRESS_FRAME` (R66): a whole frame arrives on a Molza port that is up. -/
def execIngressFrame (port : Nat) (bytes : List Byte) (s : State) : Out :=
  whenRunning (fun t => if !isEth t port ∧ (lstate t port = 4 ∨ lstate t port = 5) then arrive port false (parseFrame bytes) t else t) s

/-- `ETHERNET_FRAME` (R77): a frame arrives on a port in Ethernet bulk personality. -/
def execEthernetFrame (port dst srcMac etype : Nat) (bytes : List Byte) (fcs : Bool) (s : State) : Out :=
  whenRunning (fun t => if isEth t port ∧ portUp t port ∧ dst < 2 ^ 48 then arriveEth port srcMac etype bytes fcs t else t) s

/-- `QUIET_SLOT` (R384): the next slot of the quiet frame begins. -/
def execQuietSlot (s : State) : Out :=
  whenRunning (fun t =>
    if quietPattern t then { t with hall := { t.hall with quietSlot := (t.hall.quietSlot + 1) % 64, quietCell := 33 } } else t) s

/-- Drop what the retired generation has queued and not begun to send (R373). -/
def dropGeneration (g : Nat) (s : State) : State :=
  let stale := s.hall.frames.filter fun f => f.frame.g == g && f.outs.any (fun o => !o.started)
  let drop (f : HFrame) (t : State) : State :=
    let kept := f.outs.filter (·.started)
    let frames := if kept.isEmpty then t.hall.frames.filter fun x => x.id != f.id
                  else t.hall.frames.map fun x => if x.id = f.id then { x with outs := kept } else x
    dropStale f.frame { t with hall := { t.hall with frames := frames } }
  each stale drop s

/-- The retirement of a generation at its time. -/
def retireGen (g time : Nat) (s : State) : State :=
  let s1 := atTime time s
  let h := if g = 0 then { s1.hall with gen0 := .retired } else { s1.hall with gen1 := .retired }
  dropGeneration g (rset R.RETIRE_NS_TIME_NS 0 time (rset R.ROUTE_STATUS_OLD_VALID 0 0 { s1 with hall := h }))

/-- `ROUTE_RETIRE` (R372): the old generation reaches its retirement time. -/
def execRouteRetire (s : State) : Out :=
  whenRunning (fun t =>
    match t.hall.gen0, t.hall.gen1 with
    | .old time, _ => retireGen 0 time t
    | _, .old time => retireGen 1 time t
    | _, _ => t) s

/-- An audit begins; it takes 317.8 µs (R367). -/
def startAudit (s : State) : State :=
  match s.hall.auditEnds with
  | some _ => s
  | none => rset R.AUDIT_STATUS_RUNNING 0 1 { s with hall := { s.hall with auditEnds := some (s.clk.now + 317800) } }

/-- `AUDIT_NOW` (R367). -/
def execAuditNow (s : State) : Out := whenRunning startAudit s

/-- `BUFFER_AUDIT_DONE` (R367): cells that two audits in a row found unreferenced are freed and reported. -/
def execBufferAuditDone (s : State) : Out :=
  whenRunning (fun t =>
    match t.hall.auditEnds with
    | none => t
    | some e =>
      let t1 := atTime e t
      let freed := min t1.hall.auditSeen t1.hall.lostCells
      let left := t1.hall.lostCells - freed
      let t2 := { t1 with hall := { t1.hall with lostCells := left, auditSeen := left, auditEnds := none } }
      let t3 := rset R.AUDIT_STATUS_LAST_LEAKED 0 freed
        (rset R.AUDIT_STATUS_RUNNING 0 0 (rbump R.AUDIT_STATUS_AUDITS 0 (radd R.LEAK_RECLAIMED_COUNT 0 freed t2)))
      if freed = 0 then t3 else report ⟨0x13, 0, none, 0xFF, 0, 0, freed, 0⟩ t3) s

/-- `HALL_GATE` (R29): no port is up and 100 µs have passed without work. -/
def execHallGate (s : State) : Out :=
  whenRunning (fun t =>
    if (upTo 128).any (portUp t) then t
    else
      let t1 := atTime (t.hall.lastWork + 100000) t
      { t1 with hall := { t1.hall with gated := true } }) s

end Sys2Proof.Machine
end

