-- ==== Sys2Proof/Machine/HostCmd.lean ====
section
/-! DEFINITION. Host commands: their form, who may send them, the order in which they begin, their completions, and what
a staged command leaves (R486 to R494). -/
namespace Sys2Proof.Machine

/-- A command of 64 bytes (R490). -/
structure Cmd where
  code : Nat
  flags : Nat
  tag : Nat
  buf : Nat
  bufLen : Nat
  args : List Byte      -- 40 bytes
  badForm : Bool        -- a reserved byte or bit is set, or `BUF` is not a multiple of 64
  deriving DecidableEq, Repr

/-- Read the fields of a command. -/
def cmdOf (b : List Byte) : Cmd where
  code := leAt b 0 2
  flags := leAt b 2 1
  tag := leAt b 4 4
  buf := leAt b 8 8
  bufLen := leAt b 16 4
  args := slice b 24 40
  badForm := leAt b 2 1 / 2 != 0 || leAt b 3 1 != 0 || leAt b 20 4 != 0 || leAt b 8 8 % 64 != 0

/-- Argument bytes as a number. -/
def Cmd.arg (c : Cmd) (at_ n : Nat) : Nat := leAt c.args at_ n

/-- The argument bytes from a place on are zero. -/
def Cmd.restZero (c : Cmd) (n : Nat) : Bool := (c.args.drop n).all (· == 0#8)

/-- The codes of R493. -/
def cmdCodes : List Nat :=
  [0x01, 0x02, 0x10, 0x11, 0x12, 0x18, 0x19, 0x1A, 0x1B, 0x20, 0x21, 0x28, 0x29, 0x2A, 0x2B, 0x2C, 0x2D, 0x2E, 0x30, 0x31, 0x32,
   0x38, 0x40, 0x41, 0x42]

/-- Commands that both hosts may send. -/
def cmdBoth (code : Nat) : Bool := code == 0x2E || code == 0x30 || code == 0x32 || code == 0x40

/-- Host `h` owns the switch (R486). -/
def isOwner (s : State) (h : Nat) : Bool := rget s R.HOST_OWN_OWNER 0 == h + 1

/-- The source code of a host. -/
def hostSource (h : Nat) : Source := if h = 0 then .h0 else .h1

/-! ## Completions (R492) -/

/-- A completion waits to be written; its last byte, not written, is the `IRQ` flag. -/
def completeRaw (h tag code status : Nat) (result : List Byte) (eff irq : Nat) (s : State) : State :=
  let p := hostPort s h
  let b := toLE 4 tag ++ toLE 2 code ++ toLE 1 status ++ toLE 1 0 ++ slice result 0 16 ++ toLE 8 eff ++ toLE 1 irq
  setHost h { p with heldCpl := p.heldCpl ++ [b] } s

/-- A command completes. -/
def complete (h : Nat) (c : Cmd) (status : Nat) (result : List Byte) (eff : Nat) (s : State) : State :=
  completeRaw h c.tag c.code status result eff (c.flags % 2) s

/-- A command ends with a status and no result. -/
def completeWith (h : Nat) (c : Cmd) (status : Nat) (s : State) : State := complete h c status [] 0 s

/-- Entries of the completion ring. -/
def cqSize (s : State) (h : Nat) : Nat := 2 ^ rget s R.CQ_CFG_CQ_LOG2 h

/-- The ring has room: the entry at the tail is not the one before the head. -/
def cqRoom (s : State) (h : Nat) : Bool :=
  rget s R.CQ_TAIL_TAIL h != (rget s R.CQ_HEAD_HEAD h + cqSize s h - 1) % cqSize s h

/-- Write the oldest completion that waits, if the ring has room. -/
def writeCompletion (h : Nat) (s : State) : State :=
  let p := hostPort s h
  match p.heldCpl with
  | [] => s
  | b :: rest =>
    if !cqRoom s h then s
    else
      let tail := rget s R.CQ_TAIL_TAIL h
      let phase := rget s R.CQ_TAIL_PHASE h
      let bytes := b.take 7 ++ [BitVec.ofNat 8 phase] ++ (b.drop 8).take 24
      let next := (tail + 1) % cqSize s h
      let s1 := emit (.dmaWrite h (rget s R.CQ_BASE_ADDR h + 32 * tail) bytes) (setHost h { p with heldCpl := rest } s)
      let s2 := rset R.CQ_TAIL_TAIL h next (if next = 0 then rset R.CQ_TAIL_PHASE h (1 - phase) s1 else s1)
      if leAt b 32 1 = 1 then raiseOn h 0 s2 else s2

/-! ## Beginning a command (R490, R491) -/

/-- Commands with codes that R493 does not list end `ILLEGAL` when their turn comes; the fuel is the queue's length. -/
def skipUnknown (h : Nat) : Nat → State → State
  | 0, s => s
  | n + 1, s =>
    let p := hostPort s h
    match p.queue with
    | c :: rest =>
      if cmdCodes.contains (cmdOf c.bytes).code then s
      else skipUnknown h n (completeWith h (cmdOf c.bytes) stIllegal (setHost h { p with queue := rest } s))
    | [] => s

/-- Begin the host's next command if it has the code and names nothing that a command in progress works on. `refused` is what
an owner's command does when another host sends it. -/
def withCmdOr (refused : Cmd → State → State) (h code : Nat) (busy : Cmd → List BCmd → Bool) (act : Cmd → State → State) (s : State) :
    Out :=
  whenRunning (fun t =>
    let p := hostPort t h
    match p.queue with
    | [] => t
    | e :: rest =>
      let c := cmdOf e.bytes
      if 1 < h ∨ c.code ≠ code ∨ busy c p.running then t
      else
        let t1 := setHost h { p with queue := rest } t
        let t2 :=
          if c.badForm then completeWith h c stIllegal t1
          else if !isOwner t h && !cmdBoth code then completeWith h c stDenied (refused c t1)
          else act c t1
        skipUnknown h rest.length t2) s

/-- The same, where a refused command has no effect but its status. -/
def withCmd (h code : Nat) (busy : Cmd → List BCmd → Bool) (act : Cmd → State → State) (s : State) : Out :=
  withCmdOr (fun _ t => t) h code busy act s

/-- Nothing in progress stands in the way. -/
def neverBusy (_ : Cmd) (_ : List BCmd) : Bool := false

/-- A B command is in progress. -/
def beginB (h : Nat) (c : Cmd) (obj : Nat) (s : State) : State :=
  let p := hostPort s h
  setHost h { p with running := p.running ++ [⟨c.code, c.tag, c.flags % 2 == 1, obj, c.buf⟩] } s

/-- A B command of a host completes: the first in progress with the code and object. -/
def endB (h code obj status : Nat) (result : List Byte) (s : State) : State :=
  let p := hostPort s h
  match p.running.find? fun b => b.code == code && b.obj == obj with
  | some b => completeRaw h b.tag b.code status result 0 (b2n b.irq) (setHost h { p with running := p.running.erase b } s)
  | none => s

/-! ## Staged commands (R494) -/

/-- The epoch whose boundary takes what is staged now. -/
def effectiveEpoch (s : State) : Nat := epochNow s + (if s.clk.cutoff then 2 else 1)

/-- Stage a command that has passed its checks, and complete it. -/
def stageCmd (h : Nat) (c : Cmd) (obj : Nat) (bytes : List Byte) (s : State) : State :=
  let lapsed := c.code == 0x20 && s.pool.leases.any fun l => l.2.node == leAt c.args 4 2 && l.2.state == 2
  let x : StagedCmd := ⟨c.code, obj, c.tag, hostSource h, c.args, bytes, lapsed⟩
  complete h c stOK [] (effectiveEpoch s) { s with rf := { s.rf with stagedCmds := s.rf.stagedCmds ++ [x] } }

end Sys2Proof.Machine
end

