-- ==== Sys2Proof/Machine/Insn.lean ====
section
/-! DEFINITION. The Seedcode instruction word, the check of every word of an image, and the check of an image
(R97, R98, R141 to R147, with the fields that each instruction's description names). -/
namespace Sys2Proof.Machine

/-- The fields of an instruction word (R141). -/
structure Insn where
  op : Nat
  fmt : Nat
  d : Nat
  a : Nat
  b : Nat
  pneg : Bool
  psel : Nat
  fn : Nat
  imm : Nat
  deriving DecidableEq, Repr

/-- Split a word. -/
def Insn.of (w : Nat) : Insn :=
  ⟨bitsOf w 58 6, bitsOf w 54 4, bitsOf w 50 4, bitsOf w 46 4, bitsOf w 42 4, bitAt w 41, bitsOf w 38 3, bitsOf w 32 6, bitsOf w 0 32⟩

/-- sext(`IMM`). -/
def Insn.sext (i : Insn) : Int := signed 32 i.imm

/-- The element format; one that no valid word names reads as FP64. -/
def Insn.format (i : Insn) : Fmt := (Fmt.ofCode i.fmt).getD .fp64

/-- Bit n of `FN`. -/
def Insn.fnBit (i : Insn) (n : Nat) : Bool := bitAt i.fn n

/-! ## The check of a word (R98, R142) -/

/-- No governing predicate is read. -/
def Insn.noGov (i : Insn) : Bool := !i.pneg && i.psel == 0

/-- Neither a format nor a governing predicate is read. -/
def Insn.plain (i : Insn) : Bool := i.fmt == 0 && i.noGov

/-- A direct branch target of an instruction at `pc` (R149). -/
def Insn.targetOk (i : Insn) (textLen pc : Nat) : Bool :=
  i.imm % 8 == 0 && decide (0 ≤ (pc : Int) + i.sext) && decide ((pc : Int) + i.sext < textLen)

/-- `IMM` holds one element of the format (R145, `BSRC` 2). -/
def Insn.immElem (i : Insn) : Bool := decide (i.format.width ≥ 32) || decide (i.imm < 2 ^ i.format.width)

/-- The second operand of R145. -/
def Insn.bsrcOk (i : Insn) : Bool :=
  match i.fn / 16 with
  | 0 => i.imm == 0
  | 1 => i.imm == 0
  | 2 => i.b == 0 && i.immElem
  | _ => false

/-- `RM` of R146: `div` allows a mode on an integer format. -/
def Insn.rmOk (i : Insn) (div : Bool) : Bool :=
  let rm := i.fn % 8
  if i.format.isInt && !div then rm == 0 else decide (rm ≤ 4)

def okBr (i : Insn) (textLen pc : Nat) : Bool :=
  let cond := i.fn % 16
  let ind := i.fnBit 5
  let usesA := ind || (decide (1 ≤ cond) && decide (cond ≤ 4))
  let usesG := decide (5 ≤ cond)
  i.fmt == 0 && i.b == 0 && decide (cond ≤ 7) && (i.fnBit 4 || i.d == 0) && (usesA || i.a == 0) && (usesG || i.noGov)
    && (!ind || cond == 0) && (ind || i.targetOk textLen pc)

def okWaite (i : Insn) : Bool :=
  i.plain && i.b == 0 && (match i.fn with
    | 0 => i.a == 0 && i.imm != 0 && decide (i.imm < 256)
    | 1 => i.a == 0 && decide (i.imm < 4096)
    | 2 => i.imm == 0
    | 3 => i.a == 0 && i.imm == 0
    | _ => false)

def okRaise (i : Insn) : Bool :=
  i.plain && i.d == 0 && i.b == 0 && (match i.fn with
    | 0 => i.a == 0 && decide (i.imm < 256)
    | 1 => i.imm == 0
    | _ => false)

def okStream (i : Insn) : Bool :=
  let carry := i.fnBit (if i.op = 8 then 0 else 1)
  let reg := if i.op = 8 then i.d else i.a
  i.noGov && (if carry then i.fmt == 0 && decide (reg ≤ 3) else decide (i.fmt ≤ 9))
    && (if i.op = 8 then i.a == 0 && i.b == 0 && decide (i.fn ≤ 1) && decide (i.imm < 4096) && i.imm / 8 % 32 == 0
        else i.d == 0 && decide (i.fn ≤ 3) && decide (i.imm < 8))

def okMove (i : Insn) : Bool :=
  let n := i.format.elems
  decide (i.fmt ≤ 9) && (match i.fn with
    | 0 => i.b == 0 && i.imm == 0
    | 1 => i.b == 0 && i.imm == 0
    | 2 => i.a == 0 && i.b == 0 && i.immElem
    | 3 => i.a == 0 && i.b == 0 && i.imm == 0 && [8, 9, 2, 3, 1, 0].contains i.fmt
    | 4 => i.b == 0 && decide (i.imm < n)
    | 5 => i.b == 0 && decide (i.imm < n) && i.noGov
    | _ => false)

def okScalar (i : Insn) : Bool :=
  let f := i.fn % 32
  let immb := i.fnBit 5
  i.plain && decide (f ≤ 17) && (if immb then i.b == 0 else i.imm == 0)
    && (f != 16 || i.a == 0) && (f != 17 || (immb && i.a == 0))

def okPred (i : Insn) : Bool :=
  i.plain && (match i.fn with
    | 4 => decide (i.d < 8) && decide (i.a < 8) && i.b == 0 && i.imm == 0
    | 5 => decide (i.d < 8) && i.a == 0 && i.b == 0 && decide (i.imm < 65536)
    | 6 => decide (i.d < 8) && i.b == 0 && i.imm == 0
    | 7 => decide (i.a < 8) && i.b == 0 && i.imm == 0
    | 8 => decide (i.a < 8) && i.b == 0 && i.imm == 0
    | f => decide (f ≤ 3) && decide (i.d < 8) && decide (i.a < 8) && decide (i.b < 8) && i.imm == 0)

def okUnary (i : Insn) : Bool :=
  let int := i.format.isInt
  decide (i.fmt ≤ 9) && i.b == 0 && i.imm == 0 && (match i.fn / 16 with
    | 2 => !int && decide (i.fn % 8 ≤ 4)
    | 3 => false
    | _ => if int then i.fn % 8 == 0 else i.fn % 16 == 0)

def okAcc (i : Insn) : Bool :=
  let block := i.fnBit 1
  decide (1 ≤ i.fmt) && decide (i.fmt ≤ 9) && decide (i.d ≤ 3) && decide (i.fn ≤ 3)
    && (!i.fnBit 0 || i.format.elems == 32) && (!block || i.format.mx)
    && (if i.op = 0x28 then i.imm == 0 && (block || i.b == 0) else (if block then decide (i.imm < 16) else i.imm == 0))

def okRnd (i : Insn) : Bool :=
  let rm := i.fn % 8
  let part := i.fn / 16
  let report := bitAt i.imm 3
  let block := bitAt i.imm 4
  decide (i.fmt ≤ 9) && decide (i.a ≤ 3) && decide (rm ≤ 5) && !(rm == 5 && i.fmt == 0)
    && (if rm = 5 then decide (i.b ≤ 13) else i.b == 0)
    && (report || i.imm % 8 == 0) && (block || i.imm / 256 % 16 == 0) && i.imm / 64 % 4 == 0 && decide (i.imm < 4096)
    && (if block then i.format.mx && i.a % 2 == 0 && part == 0 && i.noGov
        else if i.format.elems = 16 then part == 0 else decide (part ≤ 1))

/-- The ratio of elements per register of two formats. -/
def elemRatio (x y : Fmt) : Nat := max x.elems y.elems / min x.elems y.elems

def okCvt (i : Insn) : Bool :=
  let block := bitAt i.imm 4
  let part := i.fn / 16
  match Fmt.ofCode (i.imm % 16) with
  | none => false
  | some src =>
    decide (i.fmt ≤ 9) && i.b == 0 && decide (i.fn % 8 ≤ 4) && i.imm / 32 % 8 == 0 && decide (i.imm < 4096)
      && (block || i.imm / 256 % 16 == 0)
      && (if block then i.format.mx && part == 0 && i.noGov && (src.elems == 32 || (src.elems == 16 && i.a % 2 == 0))
          else decide (part < elemRatio src i.format))

/-- The pairs that `XPND` accepts (R186). -/
def xpndTargets : Fmt → List Fmt
  | .fp32 => [.fp64]
  | .fp16 => [.fp32, .fp64]
  | .bf16 => [.fp32, .fp64]
  | .e4m3 => [.fp16, .bf16, .fp32, .fp64]
  | .e5m2 => [.fp16, .bf16, .fp32, .fp64]
  | .e3m2 => [.e4m3, .e5m2, .fp16, .bf16, .fp32, .fp64]
  | .e2m1 => [.e4m3, .e5m2, .e3m2, .fp16, .bf16, .fp32, .fp64]
  | .int8 => [.int32, .fp16, .bf16, .fp32, .fp64]
  | .int32 => [.fp64]
  | .fp64 => []

def okXpnd (i : Insn) : Bool :=
  let block := bitAt i.imm 4
  match Fmt.ofCode (i.imm % 16) with
  | none => false
  | some src =>
    decide (i.fmt ≤ 9) && i.b == 0 && i.fn % 16 == 0 && i.imm / 32 % 8 == 0 && decide (i.imm < 4096)
      && (block || i.imm / 256 % 16 == 0) && decide (i.fn / 16 < elemRatio src i.format)
      && (if block then src.mx && (i.format == .fp32 || i.format == .fp64) else (xpndTargets src).contains i.format)

/-- Whether a word at a text offset is valid for version 1.0. -/
def Insn.ok (i : Insn) (w textLen pc : Nat) : Bool :=
  let none3 := i.d == 0 && i.a == 0 && i.b == 0
  let int32fp32 := i.fmt == 1 || i.fmt == 9
  match i.op with
  | 0x00 => w == 0
  | 0x01 => okBr i textLen pc
  | 0x02 => i.plain && i.d == 0 && i.b == 0 && i.fn == 0 && i.targetOk textLen pc
  | 0x03 => okWaite i
  | 0x04 => i.plain && none3 && i.fn == 0 && i.imm == 0
  | 0x05 => i.plain && none3 && decide (1 ≤ i.fn) && decide (i.fn ≤ 3) && i.imm == 0
  | 0x06 => okRaise i
  | 0x07 => i.plain && none3 && i.fn == 0 && i.imm == 0
  | 0x08 => okStream i
  | 0x09 => okStream i
  | 0x0A => i.plain && i.a == 0 && i.b == 0 && i.fn == 0 && decide (i.imm < 128) && i.imm / 8 % 2 == 0
  | 0x0B => i.plain && i.d == 0 && i.b == 0 && i.fn == 0 && decide (1 ≤ i.imm % 256) && decide (i.imm < 2048)
  | 0x10 => decide (i.fmt ≤ 9) && i.b == 0 && i.fn == 0
  | 0x11 => decide (i.fmt ≤ 9) && i.b == 0 && decide (i.fn ≤ 1)
  | 0x12 => i.plain && i.b == 0 && decide (i.fn < 8)
  | 0x13 => i.plain && i.b == 0 && decide (i.fn < 16) && i.fn / 4 % 2 == 0
  | 0x14 => int32fp32 && i.fn == 0 && decide (i.imm ≤ 12)
  | 0x15 => int32fp32 && i.fn == 0 && decide (i.imm ≤ 12)
  | 0x16 => i.plain && decide (i.fn < 16)
  | 0x17 => i.plain && i.b == 0 && decide (i.fn ≤ 1) && i.imm == 0
  | 0x18 | 0x19 | 0x1A | 0x1B | 0x1D | 0x1E => decide (i.fmt ≤ 9) && i.bsrcOk && i.rmOk false
  | 0x1C => decide (i.fmt ≤ 9) && i.bsrcOk && i.rmOk true
  | 0x1F => decide (i.fmt ≤ 9) && i.bsrcOk && decide (i.fn % 8 ≤ 6) && !i.fnBit 3 && decide (i.d < 8)
      && (i.format.elems != 32 || i.d % 2 == 0)
  | 0x20 => decide (i.fmt ≤ 9) && i.fn == 0 && i.imm == 0
  | 0x21 => (i.fmt == 8 || i.fmt == 9) && i.bsrcOk && !i.fnBit 3 && (i.fn % 8 != 4 || (i.fn / 16 == 0 && i.b == 0))
  | 0x22 => okMove i
  | 0x23 => okScalar i
  | 0x24 => okPred i
  | 0x25 => okUnary i
  | 0x28 => okAcc i
  | 0x29 => okAcc i
  | 0x2A => okRnd i
  | 0x2B => i.fmt == 0 && decide (i.d ≤ 3) && i.a == 0 && i.b == 0 && i.fn == 0 && i.imm == 0
  | 0x30 => int32fp32 && i.b == 0 && i.fn == 0 && decide (i.imm < 16)
  | 0x31 => int32fp32 && i.b == 0 && i.fn == 0 && decide (i.imm < 16)
  | 0x32 => int32fp32 && i.d % 2 == 0 && decide (i.fn ≤ 1) && i.imm == 0
  | 0x38 => okCvt i
  | 0x39 => okXpnd i
  | _ => false

/-- Every word of a text is valid; `pc` is the offset of the first. -/
def textOk (textLen : Nat) : Nat → List (List Byte) → Bool
  | _, [] => true
  | pc, w :: t => (Insn.of (leNat w)).ok (leNat w) textLen pc && textOk textLen (pc + 8) t

/-! ## Images (R97, R98) -/

/-- The image in some bytes, where it passes the checks of R98. -/
def imageOf (bs : List Byte) : Option Image :=
  let textLen := leAt bs 8 4
  let dataLen := leAt bs 12 4
  let gsLen := leAt bs 16 4
  let psLen := leAt bs 20 4
  let pips := leAt bs 24 1
  let strands := leAt bs 25 1
  let limit := leAt bs 28 4
  let entry := leAt bs 32 4
  let text := (bs.drop 64).take textLen
  let fields :=
    decide (64 ≤ bs.length) && leAt bs 0 4 == 0x44454553 && leAt bs 4 1 == 1 && leAt bs 5 1 == 0 && decide (leAt bs 6 2 < 4)
      && textLen % 8 == 0 && decide (8 ≤ textLen) && decide (textLen ≤ 524288)
      && dataLen % 64 == 0 && decide (dataLen ≤ 1048576) && gsLen % 4096 == 0 && decide (gsLen ≤ 7340032)
      && psLen % 1024 == 0 && decide (psLen ≤ 114688) && decide (1 ≤ pips) && decide (pips ≤ 128)
      && decide (1 ≤ strands) && decide (strands ≤ 8) && leAt bs 26 2 == 0
      && (limit == 0 || (decide (10 ≤ limit) && decide (limit ≤ 100000)))
      && entry % 8 == 0 && decide (entry < textLen) && (slice bs 36 24).all (· == 0#8)
      && decide (textLen + dataLen + gsLen ≤ 7340032) && bs.length == 64 + textLen + dataLen
  if fields && crc32c (bs.take 60 ++ List.replicate 4 0#8 ++ bs.drop 64) == leAt bs 60 4
      && textOk textLen 0 (chunksOf 8 textLen text) then
    some ⟨leAt bs 6 2, textLen, dataLen, gsLen, psLen, pips, strands, limit, entry, text, bs.drop (64 + textLen)⟩
  else none

end Sys2Proof.Machine
end

