-- ==== Sys2Proof/Machine/Granule.lean ====
section
/-! DEFINITION. Granules, frames and slots, the choice of a place for a granule, extents, the checks of a pool access,
and holder leases (R254 to R263, R267, R270 to R274, R297 to R303, R307, R311, R312, R415 to R417). -/
namespace Sys2Proof.Machine

/-! ## Engine settings (R274) -/

/-- `PROFILE` of the Placement Engine: 0 `THROUGHPUT`, 1 `ENERGY`, 2 `QUIET`, 3 `EXPERT`. -/
def profile (s : State) : Nat := rget s R.PLACE_PROFILE_PROFILE 0

/-- A setting that the profile fixes, or that its field decides under `EXPERT`. -/
def setting (s : State) (normal energy : Nat) (f : Fld) : Nat :=
  match profile s with
  | 1 => energy
  | 3 => rget s f 0
  | _ => normal

def promoteHeat (s : State) : Nat := setting s 16 16 R.PLACE_HEAT_PROMOTE_HEAT
def promoteEpochs (s : State) : Nat := setting s 1 2 R.PLACE_HEAT_PROMOTE_EPOCHS
def freeLow (s : State) : Nat := setting s 2048 2048 R.PLACE_FREE_FREE_LOW
def freeHigh (s : State) : Nat := setting s 4096 4096 R.PLACE_FREE_FREE_HIGH
def demoteAge (s : State) : Nat := setting s 1000 100 R.PLACE_HEAT_S1_DEMOTE_AGE

/-! ## Granules and frames -/

/-- An `UNBACKED` granule that nothing has touched. -/
def Granule.unbacked : Granule := ⟨3, 0, false, false, 0, 0, 0, 0, 0, 0, 0, 0, [], false⟩

/-- The placement map entry of a granule. -/
def granuleOf (s : State) (g : Nat) : Granule := tgetD s.pool.map g Granule.unbacked

/-- Change the placement map entry of a granule. -/
def setGranule (g : Nat) (x : Granule) (s : State) : State :=
  { s with pool := { s.pool with map := tput s.pool.map g Granule.unbacked x } }

/-- Granules that an access touches, each with the first byte in it and the bytes it touches there. -/
def granulePieces (off len : Nat) : List (Nat × Nat × Nat) :=
  if len = 0 then [] else
  (upTo ((off + len - 1) / 2 ^ 20 - off / 2 ^ 20 + 1)).map fun i =>
    let g := off / 2 ^ 20 + i
    let lo := max off (g * 2 ^ 20)
    let hi := min (off + len) ((g + 1) * 2 ^ 20)
    (g, lo - g * 2 ^ 20, hi - lo)

/-- Wing of a frame directory entry (R260). -/
def wingOf (entry : Nat) : Nat := entry / 2 ^ 18 % 4

/-- Good pseudo-channels of a wing, in ascending order (R258). -/
def goodChannels (s : State) (w : Nat) : List Nat := ((upTo 320).map (· + 320 * w)).filter fun c => !s.boot.pchBad.contains c

/-- Where byte b of frame f of a wing lies: its pseudo-channel, and the byte of that channel (R258). -/
def framePlace (s : State) (w f b : Nat) : Nat × Nat :=
  let cs := goodChannels s w
  let q := f * 1024 + b / 1024
  (cs.getD (q % cs.length) 0, q / cs.length * 1024 + b % 1024)

/-- The stacks on which n bytes from byte b of a frame lie, the frame given by its directory entry (R8, R10, R258). -/
def frameStacks (s : State) (entry b n : Nat) : List Nat :=
  if n = 0 then [] else
  dedup' ((upTo ((b + n - 1) / 1024 - b / 1024 + 1)).map fun i =>
    (framePlace s (wingOf entry) (entry % 2 ^ 18) ((b / 1024 + i) * 1024)).1 / 64)

/-- What the system frames of a wing hold (R259). -/
inductive SysUse where
  | answers | programs | placement
  deriving DecidableEq, Repr

/-- The use of a frame of a wing, none for one that holds granules (R259). -/
def sysFrame (f : Nat) : Option SysUse :=
  if f < 128 then some .answers else if f < 640 then some .programs else if f < 896 then some .placement else none

/-- The wing that holds the placement map entry of a granule (R259). -/
def mapWing (g : Nat) : Nat := g % 4

/-- Frame directory entries that hold something: granules, destinations, frames to be freed, plan buffers. -/
def heldEntries (s : State) : List Nat :=
  (s.pool.map.filterMap fun p => if p.2.stair = 0 then some p.2.loc else none)
    ++ (s.pool.map.filterMap fun p => if p.2.moving ∧ p.2.destStair = 0 then some p.2.dest else none)
    ++ (s.pool.freeing.filterMap fun f => if f.stair = 0 then some f.loc else none)
    ++ (s.ws.plans.map fun p => p.2.frames).foldl (· ++ ·) []

/-- Granule frames of a wing: all but the 896 system frames (R259). -/
def granuleFrames (s : State) (w : Nat) : Nat := rget s R.S0_WING_FRAMES_TOTAL w - 896

/-- Free granule frames of a wing. -/
def freeFrames (s : State) (w : Nat) : Nat :=
  granuleFrames s w - ((heldEntries s).filter fun e => wingOf e == w).length

/-- A partition's granules and buffer frames on Stair 0 (R270): each granule once. -/
def s0Use (s : State) (p : Nat) : Nat :=
  let inMap := s.pool.map.filterMap fun x => if x.2.part = p ∧ (x.2.stair = 0 ∨ (x.2.moving ∧ x.2.destStair = 0)) then some x.1 else none
  let leaving := s.pool.freeing.filterMap fun f => if f.part = p ∧ f.stair = 0 then some f.granule else none
  (inMap ++ (dedup' leaving).filter fun g => !inMap.contains g).length
    + sumN (s.ws.plans.map fun q => if rget s R.PLAN_PART q.1 = p then q.2.frames.length else 0)

/-- Stair 0 quota of a partition in granules. -/
def s0Quota (s : State) (p : Nat) : Nat := rget s R.S0_QUOTA_QUOTA_GIB p * 1024

/-- The partition's quota is a reservation (R272). -/
def reserves (s : State) (p : Nat) : Bool := isQuiet s p || profile s == 2

/-- Frames of a wing that a partition holds. -/
def framesOn (s : State) (p w : Nat) : Nat :=
  (s.pool.map.filter fun x => x.2.part == p && ((x.2.stair == 0 && wingOf x.2.loc == w) || (x.2.moving && x.2.destStair == 0 && wingOf x.2.dest == w))).length

/-- Frames that a quota of so many GiB reserves on each wing: a quarter of it, rounded up to whole GiB (R272, log 37). -/
def reserveFrames (gib : Nat) : Nat := ceilDiv gib 4 * 1024

/-- Reserved frames of a partition on a wing that it does not use yet. -/
def unusedReserve (s : State) (p w : Nat) : Nat :=
  if reserves s p then reserveFrames (rget s R.S0_QUOTA_QUOTA_GIB p) - framesOn s p w else 0

/-- Free frames of a wing that no reservation claims. -/
def unreservedFree (s : State) (w : Nat) : Nat := freeFrames s w - sumN ((upTo 64).map fun p => unusedReserve s p w)

/-- The entry with the largest key, the first one on a tie. -/
def bestOf (l : List (Nat × Nat)) : Option (Nat × Nat) :=
  l.foldl (fun b x => match b with | none => some x | some y => if y.2 < x.2 then some x else some y) none

/-- Search upwards, cyclically, for a free number. -/
def searchFree (used : Nat → Bool) (n : Nat) : Nat → Nat → Option Nat
  | 0, _ => none
  | k + 1, i => if used (i % n) then searchFree used n k (i + 1) else some (i % n)

/-- A free frame of a wing: the manual leaves open which one. -/
def pickFrame (w : Nat) (s : State) : Option Nat × State :=
  let n := granuleFrames s w
  if n = 0 then (none, s) else
  let (v, s1) := fresh s
  let held := heldEntries s1
  (((searchFree (fun i => held.contains (w * 2 ^ 18 + 896 + i)) n n (v % n)).map fun i => w * 2 ^ 18 + 896 + i), s1)

/-! ## Stripe sets (R261 to R263, R267) -/

/-- `PROT` of a set is `PARITY`. -/
def isParity (s : State) (k : Nat) : Bool := rbit s R.SET_PROT k

/-- Data units per row. -/
def dataUnits (s : State) (k : Nat) : Nat := rget s R.SET_NTRAYS k - 1

/-- `SLOTS` of a set. -/
def setSlots (s : State) (k : Nat) : Nat :=
  if !rbit s R.SET_VALID k then 0
  else if isParity s k then
    let n := dataUnits s k
    if n = 0 then 0 else rget s R.SET_TRAY_BYTES k / 4096 / ceilDiv 256 n
  else rget s R.SET_NTRAYS k / 2 * rget s R.SET_TRAY_BYTES k / 2 ^ 20

/-- Slots of a set that hold something. `LOC` and `DEST` of the lower stairs: [31:26] set, [25:0] slot. -/
def heldSlots (s : State) (k : Nat) : List Nat :=
  let mine (loc : Nat) : Option Nat := if loc / 2 ^ 26 = k then some (loc % 2 ^ 26) else none
  (s.pool.map.filterMap fun p => if p.2.stair = 1 ∨ p.2.stair = 2 then mine p.2.loc else none)
    ++ (s.pool.map.filterMap fun p => if p.2.moving ∧ (p.2.destStair = 1 ∨ p.2.destStair = 2) then mine p.2.dest else none)
    ++ (s.pool.freeing.filterMap fun f => if f.stair = 0 then none else mine f.loc)

/-- Free slots of a set. -/
def slotsFree (s : State) (k : Nat) : Nat := setSlots s k - (heldSlots s k).length

/-- The destination set of a lower stair: valid, not draining, with the most free slots, the lower number on a tie. -/
def destSet (s : State) (stair : Nat) (ok : Nat → Bool) : Option Nat :=
  match bestOf ((upTo 64).filterMap fun k =>
      if rbit s R.SET_VALID k ∧ rget s R.SET_STAIR k = stair ∧ !rbit s R.SET_DRAIN k ∧ ok k then some (k, slotsFree s k) else none) with
  | some (k, n) => if n = 0 then none else some k
  | none => none

/-- A free slot of a set: the manual leaves open which one. -/
def pickSlot (k : Nat) (s : State) : Option Nat × State :=
  let n := setSlots s k
  if n = 0 then (none, s) else
  let (v, s1) := fresh s
  let held := heldSlots s1 k
  ((searchFree (fun i => held.contains i) n n (v % n)).map fun i => k * 2 ^ 26 + i, s1)

/-- The wing with the most free frames, the lower number on a tie. -/
def freestWing (s : State) : Nat := ((bestOf ((upTo 4).map fun w => (w, freeFrames s w))).getD (0, 0)).1

/-- The wing of step 1 of R271 for a partition, if one qualifies. -/
def allocWing (s : State) (p : Nat) : Option Nat :=
  (bestOf ((upTo 4).filterMap fun w =>
    let own := min (unusedReserve s p w) (freeFrames s w)
    let open_ := unreservedFree s w
    if freeLow s < open_ ∨ 0 < own then some (w, open_ + own) else none)).map (·.1)

/-- The directory area of a table: entries, then slot tags from the next 4 KiB boundary (R230). -/
def dirArea (s : State) (t : Nat) : Nat × Nat :=
  let base := rget s R.TBL_DIR_BASE t
  let tags := (base + 8 * rget s R.TBL_NROWS t + 4095) / 4096 * 4096
  (base, tags + 16 * rget s R.TBL_NSLOTS t)

/-- Some valid table's directory area is touched (step 6 of R299). -/
def touchesDirectory (s : State) (off len : Nat) : Bool :=
  s.tbl.run.any fun t => rbit s R.TBL_VALID t.1 && decide (off < (dirArea s t.1).2) && decide ((dirArea s t.1).1 < off + len)

/-- Some extent pins its Stair 0 granules (R255, R297), or a table's directory area lies there (R232). -/
def pinsS0 (s : State) (g : Nat) : Bool :=
  touchesDirectory s (g * 2 ^ 20) (2 ^ 20) || s.pool.extents.any fun e => e.2.state != 0 && e.2.pinS0 && decide (e.2.baseG ≤ g) && decide (g < e.2.baseG + e.2.lenG)

/-- The units of a slot hold what is written there from now on: none is skipped any longer (R300, R423). -/
def clearSkips (loc : Nat) (s : State) : State :=
  { s with pool := { s.pool with skipped := s.pool.skipped.filter fun q => !(q.1 == loc / 2 ^ 26 && q.2 / 256 == loc % 2 ^ 26) } }

/-- Place a granule on a lower stair in a set chosen by R267. -/
def allocLower (g part stair : Nat) (ok : Nat → Bool) (s : State) : Bool × State :=
  match destSet s stair ok with
  | none => (false, s)
  | some k =>
    match pickSlot k s with
    | (some loc, s1) =>
      (true, clearSkips loc
        (setGranule g { granuleOf s1 g with stair := stair, loc := loc, homeWing := freestWing s1, part := part } s1))
    | (none, s1) => (false, s1)

/-- Place a granule on Stair 0. -/
def allocS0 (g part w : Nat) (s : State) : Bool × State :=
  match pickFrame w s with
  | (some e, s1) =>
    (true, setGranule g { granuleOf s1 g with stair := 0, loc := e, homeWing := w, part := part, pinned := pinsS0 s1 g } s1)
  | (none, s1) => (false, s1)

/-- Steps 2 and 3 of R271: a slot in Stair 1, else in Stair 2. -/
def allocBelow (g part : Nat) (s : State) : Bool × State :=
  match allocLower g part 1 (fun _ => true) s with
  | (true, s1) => (true, s1)
  | (false, s1) => allocLower g part 2 (fun _ => true) s1

/-- The first write to an `UNBACKED` granule: the first place of R271 that has room, or none. -/
def allocate (g part : Nat) (s : State) : Bool × State :=
  if (granuleOf s g).stair ≠ 3 then (true, s)
  else
    let below := decide (s0Use s part < s0Quota s part)
    match (if below then allocWing s part else none) with
    | some w => (match allocS0 g part w s with
      | (true, s1) => (true, s1)
      | (false, s1) => allocBelow g part s1)
    | none => allocBelow g part s

/-- Settings of a partition's meters: bytes read or written on a stair (R40). -/
def meterStair (part stair : Nat) (write : Bool) (n : Nat) (s : State) : State :=
  match stair with
  | 0 => meter part 6 n s
  | 1 => meter part 7 n s
  | 2 => if write then s else meter part 8 n s
  | _ => s

/-! ## Extents (R297 to R303) -/

/-- An extent holds a byte. -/
def Extent.holds (e : Extent) (off : Nat) : Bool :=
  e.state != 0 && decide (e.baseG * 2 ^ 20 ≤ off) && decide (off < (e.baseG + e.lenG) * 2 ^ 20)

/-- The extent that is not `FREE` and holds a byte. -/
def extentAt (s : State) (off : Nat) : Option (Nat × Extent) := tfind s.pool.extents fun _ e => e.holds off

/-- Change an extent. -/
def setExtent (e : Nat) (x : Extent) (s : State) : State := { s with pool := { s.pool with extents := tset s.pool.extents e x } }

/-- Extent use of a partition in granules (R302). -/
def extUse (s : State) (p : Nat) : Nat :=
  sumN (s.pool.extents.map fun e => if e.2.state ≠ 0 ∧ e.2.part = p then e.2.lenG else 0)

/-- Blocks of the block map of a `STREAM` extent (R311). -/
def mapBlocks (e : Extent) : Nat :=
  let bs := 2 ^ e.blockLog2
  ceilDiv (ceilDiv (8 * e.lenG * 2 ^ 20) bs) bs

/-- `LSTATE` of the context whose block an offset lies in; none for a block of no stream. -/
def blockState (s : State) (e : Extent) (off : Nat) : Option (Nat × StreamCtx) :=
  let bs := 2 ^ e.blockLog2
  match tget s.pool.blocks (off / bs * bs) with
  | some (c, _) => (tget s.pool.streams c).map fun x => (c, x)
  | none => none

/-- Blocks of an extent that an access touches, by offset. -/
def blocksTouched (e : Extent) (off len : Nat) : List Nat :=
  let bs := 2 ^ e.blockLog2
  if len = 0 then [] else (upTo ((off + len - 1) / bs - off / bs + 1)).map fun i => (off / bs + i) * bs

/-- Step 5 of R299. -/
def streamStatus (s : State) (e : Extent) (off len : Nat) (write : Bool) : Option Nat :=
  if off < e.baseG * 2 ^ 20 + mapBlocks e * 2 ^ e.blockLog2 then some stDenied
  else if (blocksTouched e off len).all fun b => match blockState s e b with
      | none => true
      | some (_, c) => c.lstate == 0 || (!write && c.lstate == 1)
    then none else some stStreamLost

/-- What step 4 of R299 must know of an access to a `LEDGER` extent. -/
inductive LedgerForm where
  | allowed | other
  deriving DecidableEq, Repr

/-- The accesses that a `LEDGER` extent allows (step 4 of R299). -/
def ledgerForm (k : PKind) (off len : Nat) : LedgerForm :=
  match k with
  | .load => if len = 8 then .allowed else .other
  | .bulkGet => if len = 4096 ∧ off % 4096 = 0 then .allowed else .other
  | .atomic op w _ _ => if op = 1 ∧ w = 8 ∧ off % 16 = 0 then .allowed else .other
  | _ => .other

/-- An access writes. -/
def PKind.writes : PKind → Bool
  | .store | .bulkPut | .bulkPutMasked | .atomic .. | .wbDirty => true
  | _ => false

/-- The checks of R254 and R299 in their order: the number of the extent, or the failing status. `own` is 1 for a table
request and the engines' accesses for a table, which step 6 lets pass, and 2 for the writes of a token stream's own
engine into its blocks, which are closed to everyone else (R312, R318). -/
def poolCheck (s : State) (k : PKind) (pkey off len own : Nat) : Except Nat Nat :=
  if 2 ^ 46 < off + len then .error stUnsupported
  else match extentAt s off, extentAt s (off + len - 1) with
    | some (e, x), some (e', _) =>
      if e ≠ e' then .error stDenied
      else if keyPart s pkey ≠ some x.part then .error stDenied
      else if x.state ≠ 1 then .error stRevoked
      else if x.ledger && ledgerForm k off len == .other then .error stUnsupported
      else match (if x.stream ∧ own ≠ 2 then streamStatus s x off len k.writes else none) with
        | some st => .error st
        | none => if touchesDirectory s off len && own != 1 then .error stDenied else .ok e
    | _, _ => .error stRevoked

/-! ## Holder leases (R307, R323) -/

/-- The lease of a node. -/
def leaseOf (s : State) (node : Nat) : Option (Nat × Lease) := tfind s.pool.leases fun _ l => l.node == node && l.state != 0

/-- `LEASE_MS` in µs. -/
def leaseUs (s : State) : Nat := 1000 * rget s R.EXT_CFG_LEASE_MS 0

/-- A lease can be held for a node: it has one, or the table of 512 has room. -/
def leaseRoom (s : State) (node : Nat) : Bool := (leaseOf s node).isSome || decide (s.pool.leases.length < 512)

/-- Lowest number that a table of n places does not list. -/
def lowestFree {α : Type} (t : Tab α) (n : Nat) : Option Nat := (upTo n).find? fun i => !thas t i

/-- Start or refresh the lease of a node. -/
def leaseStart (node us : Nat) (s : State) : State :=
  match leaseOf s node with
  | some (i, l) => { s with pool := { s.pool with leases := tset s.pool.leases i { l with state := 1, expiryUs := us + leaseUs s } } }
  | none =>
    match lowestFree s.pool.leases 512 with
    | some i => { s with pool := { s.pool with leases := tset s.pool.leases i ⟨node, 1, us + leaseUs s⟩ } }
    | none => s

/-- A node needs its lease: it holds an extent, or its pool cache is registered. -/
def leaseNeeded (s : State) (node : Nat) : Bool :=
  s.pool.extents.any (fun e => e.2.state != 0 && e.2.holder == node) || s.coh.slots.any (fun c => c.2.state != 0 && c.2.node == node)

/-- A lease whose node needs none any more goes to `NONE`. -/
def leaseSweep (s : State) : State :=
  { s with pool := { s.pool with leases := tfilter s.pool.leases fun _ l => leaseNeeded s l.node } }

/-! ## Detection of a failed member (R415, R417) -/

/-- The lowest key of the key set of the port by which a node is reached: the key of this switch's own CTL messages and
snoops (log 31). -/
def keyFor (s : State) (port : Nat) : Nat :=
  match keySet s port with
  | [] => 0
  | k :: t => t.foldl min k

/-- The port by which a frame for a node leaves, or 255. -/
def portTo (s : State) (node : Nat) : Nat :=
  match nodePort s node with
  | some p => p
  | none => match routeOf s { mkCtl 0xF7 node (nodeSelf s) 0 0 0 [] with g := genLive s } with
    | .unit u => if u < 128 then u else 255
    | _ => 255

/-- Send a CTL message of this switch. -/
def sendCtl (opc dst : Nat) (payload : List Byte) (s : State) : State :=
  sendRaw 134 none .own_ (mkCtl opc dst (nodeSelf s) (keyFor s (portTo s dst)) 0 0 payload) s

/-- The 32 bytes of a `SUB_ASK`. -/
def askBytes (a : Ask) : List Byte :=
  toLE 2 a.group ++ toLE 2 a.failed ++ toLE 1 a.cause ++ toLE 3 0 ++ toLE 8 a.tD ++ toLE 16 0

/-- The failure of a member bound to a port is detected: the ask is sent and kept until its answer. -/
def detectFailure (port cause : Nat) (s : State) : State :=
  if !rbit s R.PSPARE_EN port || s.res.asks.any (·.port == port) then s
  else
    match portNode s port with
    | none => s
    | some node =>
      let g := rget s R.PSPARE_GROUP port
      let a : Ask := ⟨port, g, node, cause, s.clk.now, s.clk.now⟩
      sendCtl 0xF7 (rget s R.GRP_SPARE_SW g) (askBytes a) { s with res := { s.res with asks := s.res.asks ++ [a] } }

end Sys2Proof.Machine
end

