-- ==== Sys2Proof/Machine/Husk.lean ====
section
/-! DEFINITION. The Husk format: a block of a stream decodes to exactly one raw form, or fails (R290 to R295). -/
namespace Sys2Proof.Machine

/-- The header of a block (R290). -/
structure HuskHead where
  fmt : Fmt
  mx : Bool
  rawblk : Bool
  nelem : Nat
  bodyLen : Nat
  planes : List Nat
  deriving DecidableEq, Repr

/-- Bytes of the raw form: the elements packed by R120, then the scale bytes in MX form. -/
def HuskHead.rawLen (h : HuskHead) : Nat := h.nelem * h.fmt.width / 8 + (if h.mx then h.nelem / 32 else 0)

/-- Widths of the planes of a format (R291), without the scale plane. -/
def planeWidths : Fmt → List Nat
  | .fp32 => [8, 8, 16]
  | .fp16 => [5, 11]
  | .bf16 => [8, 8]
  | .e3m2 => [6]
  | .e2m1 => [4]
  | _ => [8]

/-- An element from its plane symbols (R291). -/
def elemOfPlanes (f : Fmt) (syms : List Nat) : Nat :=
  let a := syms.getD 0 0
  let b := syms.getD 1 0
  match f with
  | .fp32 => b / 2 ^ 7 % 2 * 2 ^ 31 + a * 2 ^ 23 + b % 2 ^ 7 * 2 ^ 16 + syms.getD 2 0
  | .fp16 => b / 2 ^ 10 % 2 * 2 ^ 15 + a * 2 ^ 10 + b % 2 ^ 10
  | .bf16 => b / 2 ^ 7 % 2 * 2 ^ 15 + a * 2 ^ 7 + b % 2 ^ 7
  | _ => a

/-- The header of a block, where every field is in its range (R290, R295). -/
def huskHead (b : List Byte) : Option HuskHead :=
  let c3 := leAt b 3 1
  match Fmt.ofCode (c3 % 16) with
  | none => none
  | some f =>
    let h : HuskHead := ⟨f, bitAt c3 4, bitAt c3 5, leAt b 4 4, leAt b 8 4, [leAt b 16 4, leAt b 20 4, leAt b 24 4]⟩
    let n := (planeWidths f).length + b2n h.mx
    let lens := sumPlanes h.planes
    if leAt b 0 2 = 0x4B48 ∧ leAt b 2 1 = 1 ∧ c3 / 64 = 0 ∧ leAt b 28 4 = 0 ∧ f ≠ .fp64 ∧ f ≠ .int32
        ∧ (!h.mx || f.mx) ∧ h.nelem % 32 = 0 ∧ 32 ≤ h.nelem ∧ h.rawLen ≤ 65536
        ∧ (if h.rawblk then h.planes.all (· == 0) else (h.planes.drop n).all (· == 0))
        ∧ h.bodyLen = (if h.rawblk then h.rawLen else lens)
      then some h else none
where
  /-- The sum of the plane lengths. -/
  sumPlanes : List Nat → Nat
    | [] => 0
    | p :: t => p / 2 ^ 15 + sumPlanes t

/-- The bits of bytes, bit 0 of the first byte first. -/
def bitsOfBytes : List Byte → List Bool
  | [] => []
  | b :: t => (upTo 8).map (fun i => b.toNat.testBit i) ++ bitsOfBytes t

/-- n symbols of width w packed by R120. -/
def unpackSyms (w n : Nat) (bs : List Byte) : List Nat :=
  let v := leNat bs
  (upTo n).map fun k => v / 2 ^ (k * w) % 2 ^ w

/-- Canonical codes of R293: (length, code, symbol), in the order of assignment. -/
def huffCodes (lens : List Nat) : List (Nat × Nat × Nat) :=
  ((upTo 15).foldl (fun (st : Nat × List (Nat × Nat × Nat)) i =>
    let len := i + 1
    let (code, acc) := (enum' lens).foldl (fun (c : Nat × List (Nat × Nat × Nat)) p =>
      if p.2 = len then (c.1 + 1, c.2 ++ [(len, c.1, p.1)]) else c) st
    (code * 2, acc)) (0, [])).2

/-- Decode n symbols from bits (R294): `len` and `code` are the bits read of the code in progress. None where the stream
is short or long, or where a bit that remains is not zero. -/
def huffRead (codes : List (Nat × Nat × Nat)) (len code n : Nat) : List Bool → Option (List Nat)
  | [] => if n = 0 then some [] else none
  | b :: bs =>
    if n = 0 then (if bs.length < 7 ∧ (b :: bs).all (· == false) then some [] else none)
    else
      let l := len + 1
      let c := code * 2 + b2n b
      match codes.find? fun x => x.1 == l && x.2.1 == c with
      | some x => (huffRead codes 0 0 (n - 1) bs).map (x.2.2 :: ·)
      | none => huffRead codes l c n bs

/-- The n symbols of width w of a plane, from its entry and its body (R292). -/
def planeSyms (w n entry : Nat) (body : List Byte) : Option (List Nat) :=
  let sym := bitsOf entry 2 8
  if bitsOf entry 10 5 ≠ 0 then none
  else match entry % 4 with
    | 0 => if sym = 0 ∧ body.length = ceilDiv (n * w) 8 then some (unpackSyms w n body) else none
    | 1 =>
      let t := 2 ^ w / 2
      if 8 < w ∨ sym ≠ 0 ∨ body.length < t then none
      else
        let lens : List Nat := (body.take t).foldl (fun a b => a ++ [b.toNat % 16, b.toNat / 16]) []
        let kraft : Nat := (lens.filter (· != 0)).foldl (fun (a l : Nat) => a + 2 ^ (15 - l)) 0
        if kraft ≠ 2 ^ 15 then none else huffRead (huffCodes lens) 0 0 n (bitsOfBytes (body.drop t))
    | 2 => if w ≤ 8 ∧ body.isEmpty ∧ sym < 2 ^ w then some (List.replicate n sym) else none
    | _ => none

/-- Decode the planes one after another. -/
def planesOf (nelem : Nat) : List (Nat × Nat × Nat) → List Byte → Option (List (List Nat))
  | [], _ => some []
  | (w, n, entry) :: t, body =>
    let len := entry / 2 ^ 15
    match planeSyms w n entry (body.take len) with
    | none => none
    | some x => (planesOf nelem t (body.drop len)).map (x :: ·)

/-- Elements from planes. -/
def joinPlanes (f : Fmt) : List (List Nat) → List Nat
  | [a] => a.map fun x => elemOfPlanes f [x]
  | [a, b] => (a.zip b).map fun x => elemOfPlanes f [x.1, x.2]
  | [a, b, c] => (a.zip (b.zip c)).map fun x => elemOfPlanes f [x.1, x.2.1, x.2.2]
  | _ => []

/-- The raw form of a block body. -/
def huskBody (h : HuskHead) (body : List Byte) : Option (List Byte) :=
  if h.rawblk then some body
  else
    let ws := planeWidths h.fmt
    let spec := ((ws.map fun w => (w, h.nelem)) ++ (if h.mx then [(8, h.nelem / 32)] else [])).zip h.planes
    match planesOf h.nelem (spec.map fun p => (p.1.1, p.1.2, p.2)) body with
    | none => none
    | some ps =>
      let elems := joinPlanes h.fmt (ps.take ws.length)
      let scales := if h.mx then (ps.getD ws.length []).map (BitVec.ofNat 8) else []
      some (toLE (h.nelem * h.fmt.width / 8) (packBits (elems.map fun e => (h.fmt.width, e))) ++ scales)

/-- What the decoder makes of the start of a stream. -/
inductive HuskStep where
  | more                               -- bytes of the block are missing yet
  | bad                                -- the block fails its decode
  | block (used : Nat) (raw : List Byte)
  deriving DecidableEq, Repr

/-- Decode the block at the start of `b`. `left` is what remains of the stream, `room` what remains of `OUT_LEN`. -/
def huskStep (b : List Byte) (left room : Nat) : HuskStep :=
  if left < 32 then .bad
  else if b.length < 32 then .more
  else match huskHead b with
    | none => .bad
    | some h =>
      let used := (32 + h.bodyLen + 63) / 64 * 64
      if left < used then .bad
      else if b.length < used then .more
      else
        let blk := b.take (32 + h.bodyLen)
        let pad := (b.take used).drop (32 + h.bodyLen)
        if crc32c (blk.take 12 ++ [0#8, 0#8, 0#8, 0#8] ++ blk.drop 16) ≠ leAt b 12 4 ∨ !(pad.all (· == 0#8)) then .bad
        else if room < h.rawLen ∨ (left = used ∧ room ≠ h.rawLen) ∨ (left ≠ used ∧ room = h.rawLen) then .bad
        else match huskBody h (blk.drop 32) with
          | none => .bad
          | some raw => .block used raw

/-- Decode every whole block: the fuel is the number of 64-byte pieces held. Gives the bytes used, the raw form, and
whether a block failed. -/
def huskRun : Nat → List Byte → Nat → Nat → Nat × List Byte × Bool
  | 0, _, _, _ => (0, [], false)
  | n + 1, b, left, room =>
    if left = 0 then (0, [], false)
    else match huskStep b left room with
      | .more => (0, [], false)
      | .bad => (0, [], true)
      | .block used raw =>
        let (u, r, f) := huskRun n (b.drop used) (left - used) (room - raw.length)
        (used + u, raw ++ r, f)

end Sys2Proof.Machine
end

