-- ==== Sys2Proof/Machine/Plan.lean ====
section
/-! DEFINITION. A run of a stream plan between its source reads and its stores: the buffer, the decoder, the delivery
(R25, R281, R285 to R289, R295, R296). -/
namespace Sys2Proof.Machine

/-! ## Slots of the live timetable (R25) -/

/-- The boundary at which the current epoch began. -/
def boundaryNow (s : State) : Nat := s.clk.nextB - epochLen s

/-- Start of slot k of an epoch, from its boundary. -/
def slotOffset (s : State) (k : Nat) : Nat := k * epochLen s / rget s R.TT_STATUS_NSLOTS 0

/-- A timetable runs (R24). -/
def ttRuns (s : State) : Bool := rbit s R.TT_STATUS_LIVE 0 && s.col.live.isSome && rget s R.TT_STATUS_NSLOTS 0 != 0

/-- Entries of the live timetable that act. -/
def ttEntries (s : State) : List TtEntry :=
  if ttRuns s then match s.col.live with
    | some t => t.entries.filter fun e => !e.disabled
    | none => []
  else []

/-- Slots of the live timetable with a `WEIGHT_STREAM` entry for a plan. -/
def planSlots (s : State) (p : Nat) : List Nat := ((ttEntries s).filter fun e => e.kind == 2 && e.ref == p).map (·.slot)

/-! ## Plans -/

/-- Change a plan. -/
def setPlan (p : Nat) (x : Plan) (s : State) : State := { s with ws := { s.ws with plans := tset s.ws.plans p x } }

/-- The descriptor of a plan as its runs use it. -/
def planCfg (get : Fld → Nat) : PlanCfg :=
  ⟨get R.PLAN_PART, get R.PLAN_EXPAND, get R.PLAN_PKEY, get R.PLAN_DST_NODE, get R.PLAN_SRC_OFF, get R.PLAN_SRC_LEN,
   get R.PLAN_OUT_LEN, get R.PLAN_DST_OFF, get R.PLAN_FLAG_OFF, get R.PLAN_ESC_US⟩

/-- Frames of the buffer (R281). -/
def PlanCfg.frames (c : PlanCfg) : Nat := ceilDiv (if c.expand = 1 then c.outLen else c.srcLen) (2 ^ 20)

/-- A plan with a buffer and no run. -/
def Plan.idle (frames : List Nat) (c : PlanCfg) : Plan :=
  ⟨frames, c, 0, none, [], [], 0, [], 0, [], none, none, none, false, false, false, 0, none, false⟩

/-- `STATE` of a plan: 0 `IDLE`, 1 `PREFETCH`, 2 `READY`, 3 `DELIVER`. -/
def planState (s : State) (p : Nat) : Nat := rget s R.WS_STATE_STATE p

/-- The whole source has been copied. -/
def Plan.copied (x : Plan) : Bool := decide (x.cfg.srcLen ≤ x.bytes.length)

/-- The level rises, and never falls within a run (R288). -/
def raiseLevel (p l : Nat) (s : State) : State := rset R.WS_STATE_LEVEL p (max (rget s R.WS_STATE_LEVEL p) l) s

/-- Bring the decoder as far as the copied bytes allow: at load under `AT_LOAD`, during delivery under `AT_USE`. -/
def Plan.decode (delivering : Bool) (x : Plan) : Plan :=
  if x.failed.isSome then x
  else if x.cfg.expand = 1 ∨ (x.cfg.expand = 2 ∧ delivering) then
    let b := x.bytes.drop x.used
    let (u, r, bad) := huskRun (b.length / 64 + 1) b (x.cfg.srcLen - x.used) (x.cfg.outLen - x.raw.length)
    { x with used := x.used + u, raw := x.raw ++ r, failed := if bad then some stDecode else none }
  else if x.cfg.expand = 0 then { x with used := x.bytes.length, raw := x.raw ++ x.bytes.drop x.used }
  else x

/-- Absorb reads whose turn has come; the fuel is the number of reads held. -/
def Plan.absorb : Nat → Plan → Plan
  | 0, x => x
  | n + 1, x =>
    match tget x.reads x.bytes.length with
    | some d => Plan.absorb n { x with reads := tdel x.reads x.bytes.length, bytes := x.bytes ++ d }
    | none => x

/-- `DST_NODE`'s port holds REQ off towards the switch. -/
def reqOff (s : State) (dst : Nat) : Bool :=
  match nodePort s dst with
  | some n => bitAt (tgetD s.hall.peerOff n 0) 4
  | none => false

/-- The length of the next data store, 0 when its bytes are not there. It ends at a multiple of 4,096 or where its endpoint's
`MAX_PAYLOAD` ends it (R51, R285, R522); a `MAX_PAYLOAD` of 0 is no bound on it (DESIGN CHOICE: the manual gives no smaller size to
cut at, log 167). -/
def Plan.piece (s : State) (x : Plan) : Nat :=
  let cap := match nodePort s x.cfg.dst with
    | some n => if n < 128 ∧ isEndpointPort s n ∧ !isEth s n then maxPayload s n else 4096
    | none => 4096
  let n := min (min (4096 - x.sent % 4096) (if cap = 0 then 4096 else cap)) (x.cfg.outLen - x.sent)
  if x.sent + n ≤ x.raw.length then n else 0

/-- A run that delivers waits for bytes that are not yet in the buffer or not yet decoded, or is delivered again (R287). -/
def Plan.starves (s : State) (x : Plan) : Bool :=
  x.repeating || (x.redo && x.failed.isNone && x.flag.isNone) || (x.failed.isNone && decide (x.sent < x.cfg.outLen) && x.piece s == 0)

/-- Begin or end the wait in progress: a wait counts only while the port takes REQ. -/
def planWait (p : Nat) (s : State) : State :=
  match tget s.ws.plans p with
  | none => s
  | some x =>
    let waits := x.starves s && planState s p == 3 && !reqOff s x.cfg.dst
    match x.waiting with
    | none => if waits then setPlan p { x with waiting := some s.clk.now } s else s
    | some w => if waits then s else setPlan p { x with waiting := none, late := x.late + (s.clk.now - w) } s

/-- A store of a delivery. -/
def planStore (s : State) (x : Plan) (off : Nat) (of_ : Bool) (data : List Byte) : Frame :=
  { mkFrame 4 0x02 x.cfg.dst (nodeSelf s) x.cfg.pkey (s.nextId % 2 ^ 20) 0 off data.length data with of_ := of_ }

/-- Send the data stores whose bytes are in the buffer; the fuel bounds their number. -/
def planSend (p : Nat) : Nat → State → State
  | 0, s => s
  | n + 1, s =>
    match tget s.ws.plans p with
    | none => s
    | some x =>
      let k := x.piece s
      if x.failed.isSome ∨ x.repeating ∨ k = 0 ∨ x.flag.isSome then s
      else
        let (id, s1) := issue (.plan p) (planStore s x (x.cfg.dstOff + x.sent) false ((x.raw.drop x.sent).take k)) s
        let s2 := setPlan p { x with sent := x.sent + k, stores := x.stores ++ [id] } s1
        planSend p n (rset R.WS_SENT_BYTES p (x.sent + k) (sendTracked id s2))

/-- The flag: `RUN` and a status. -/
def planFlagData (x : Plan) (status : Nat) : List Byte := toLE 7 x.run ++ toLE 1 status

/-- Send the ordered flag after the last data store. It leaves once every earlier store of its pair has ended (R54). -/
def planFlag (p : Nat) (x : Plan) (s : State) : State :=
  let f := planStore s x x.cfg.flagOff true (planFlagData x stOK)
  let (id, s1) := issue (.flag p) f s
  let s2 := setPlan p { x with flag := some id, errSent := false } s1
  if pairClear s2 id f then (if pairFailed s2 id f then closeTrackError id stWithheld 3 s2 else sendTracked id s2)
  else { s2 with track := { s2.track with reqs := tmod s2.track.reqs id fun t => { t with held := true } } }

/-- The plain flag of a run that ended in error, with its fault record (R286). -/
def planErrFlag (p status : Nat) (x : Plan) (s : State) : State :=
  let f := planStore s x x.cfg.flagOff false (planFlagData x status)
  let (id, s1) := issue (.flag p) f s
  let s2 := setPlan p { x with flag := some id, errSent := true } s1
  let rec_ := mkFrame 4 0x02 x.cfg.dst (nodeSelf s) x.cfg.pkey 0 0 x.cfg.dstOff 0 []
  sendTracked id (rbump R.WS_FAILED_RUNS_FAILED p (faultRec rec_ status 3 0xFF 0 s2))

/-- Let a delivery go on as far as it can. A run that has failed before its delivery has only its error flag left to deliver
(R286, log 168). -/
def planGo (p : Nat) (s : State) : State :=
  match tget s.ws.plans p with
  | none => s
  | some x0 =>
    if planState s p = 1 ∧ x0.failed.isSome then finish (rset R.WS_STATE_STATE p 3 s)
    else if planState s p ≠ 3 then s
    else
      let x := x0.decode true
      let quiet := x.stores.isEmpty && x.flag.isNone
      if x.repeating ∧ quiet then
        let y := { x with repeating := false, sent := 0 }
        let s1 := planSend p (x.cfg.outLen + 1) (rset R.WS_SENT_BYTES p 0 (setPlan p y s))
        planWait p (finish s1)
      else planWait p (finish (planSend p (x.cfg.outLen + 1) (setPlan p x s)))
where
  /-- After the stores: the error flag of a failed run, or the ordered flag after the last store. -/
  finish (s : State) : State :=
    match tget s.ws.plans p with
    | none => s
    | some x =>
      if x.repeating ∨ x.flag.isSome then s
      else match x.failed with
        | some st => if x.stores.isEmpty then planErrFlag p st x s else s
        | none => if x.cfg.outLen ≤ x.sent then planFlag p x s else s

/-- A source read of a run is answered. One of an earlier run of the plan says nothing about this one (R283). -/
def planRead (p run off status : Nat) (data : List Byte) (s : State) : State :=
  match tget s.ws.plans p with
  | none => s
  | some x =>
    if (planState s p ≠ 1 ∧ planState s p ≠ 3) ∨ run ≠ x.run % 2 ^ 20 then s
    else if status ≠ stOK then planGo p (setPlan p { x with failed := some (x.failed.getD status) } s)
    else
      let y := Plan.absorb (x.reads.length + 1) { x with reads := tset x.reads (off - x.cfg.srcOff) data }
      planGo p (radd R.WS_COPIED_BYTES p data.length (setPlan p (y.decode false) s))

/-- The REQ class of a port was turned on or off: the waits of its plans begin or end (R289). -/
def planPort (n : Nat) (s : State) : State :=
  each (s.ws.plans.map (·.1)) (fun p t => match tget t.ws.plans p with
    | some x => if nodePort t x.cfg.dst = some n then planWait p t else t
    | none => t) s

end Sys2Proof.Machine
end

