-- ==== Sys2Proof/Machine/TablePins.lean ====
section
/-! DEFINITION. Pins of embedding tables: versions held and their holders (R168, R250, R251). -/
namespace Sys2Proof.Machine

/-- What a table holds beyond its registers. -/
def tblOf (s : State) (t : Nat) : Table := tgetD s.tbl.run t ⟨0, [], [], []⟩

/-- Change a table. -/
def setTbl (t : Nat) (x : Table) (s : State) : State := { s with tbl := { s.tbl with run := tset s.tbl.run t x } }

/-- `LIVE_VER`. -/
def liveVer (s : State) (t : Nat) : Nat := rget s R.TBL_VER_LIVE_VER t

/-- The distinct versions held, lowest first. -/
def pinned (x : Table) : List Nat := sortBy id (dedup' (x.holds.map (·.1)))

/-- Bring the pin registers of a table up to date. -/
def syncPins (t : Nat) (s : State) : State :=
  let vs := pinned (tblOf s t)
  let regs := [R.TBL_PIN0_VER, R.TBL_PIN1_VER, R.TBL_PIN2_VER, R.TBL_PIN3_VER]
  (enum' regs).foldl (fun st p => rset p.2 t (vs.getD p.1 0) st) (rset R.TBL_STATUS_NPINS t (min 4 vs.length) s)

/-- Enter a hold. -/
def addHold (t ver : Nat) (h : Holder) (s : State) : State :=
  let x := tblOf s t
  syncPins t (setTbl t { x with holds := x.holds ++ [(ver, h)] } s)

/-- Drop the holds of a table that meet a test. -/
def dropHolds (t : Nat) (f : Nat → Holder → Bool) (s : State) : State :=
  match tget s.tbl.run t with
  | none => s
  | some x => syncPins t (setTbl t { x with holds := x.holds.filter fun h => !f h.1 h.2 } s)

/-- A further version can be pinned: it is held already, or fewer than four are. -/
def pinRoom (s : State) (t ver : Nat) : Bool :=
  let vs := pinned (tblOf s t)
  vs.contains ver || decide (vs.length < 4)

/-- Every pin of an instance is released when it ends (R168). -/
def dropInstPins (i : Nat) (s : State) : State :=
  each (s.tbl.run.map (·.1)) (fun t st => dropHolds t (fun _ h => h == .inst i) st) s

/-- A read of a gather batch is answered: the answer waits for the row that takes it. -/
def batchRead (b id status : Nat) (data : List Byte) (s : State) : State :=
  let put (y : Batch) : Batch := { y with fetch := tmod y.fetch id fun f => { f with ans := some (status, data) } }
  { s with tbl := { s.tbl with batches := tmod s.tbl.batches b put } }

/-- A row read or written by a write of a table is answered. -/
def tableRead (t id status : Nat) (data : List Byte) (s : State) : State :=
  let upd (w : TWrite) : TWrite := { w with io := tmod w.io id fun x => (x.1, some (status, data)) }
  { s with tbl := { s.tbl with run := tmod s.tbl.run t fun x => { x with writes := x.writes.map upd } } }

/-- Every hold of a node is released when a boundary remaps it (R251). -/
def dropNodePins (n : Nat) (s : State) : State :=
  each (s.tbl.run.map (·.1)) (fun t st => dropHolds t (fun _ h => match h with | .node m _ => m == n | _ => false) st) s

end Sys2Proof.Machine
end

