-- ==== Sys2Proof/Machine/Snoop.lean ====
section
/-! DEFINITION. The snoop filter: tags, snoops, stale lines, the loss of an endpoint and the lost-line log
(R322, R327 to R332, R336, R338 to R344). -/
namespace Sys2Proof.Machine

/-- The registered slot of a node (R320). -/
def regSlot (s : State) (node : Nat) : Option (Nat × CSlot) := tfind s.coh.slots fun _ c => c.node == node && c.state == 1

/-- The tag of a slot for a line. -/
def tagAt (s : State) (slot line : Nat) : Option CTag := s.coh.tags.find? fun t => t.slot == slot && t.line == line

/-- Change the list of tags. -/
def setTags (ts : List CTag) (s : State) : State := { s with coh := { s.coh with tags := ts } }

/-- Drop the tag of a slot for a line. -/
def dropTag (slot line : Nat) (s : State) : State :=
  setTags (s.coh.tags.filter fun t => !(t.slot == slot && t.line == line)) s

/-- A grant: the tag of a slot for a line, with the grant's `TAG`, newest in the order of grants. -/
def grantTag (slot line state gtag : Nat) (s : State) : State :=
  let s1 := dropTag slot line s
  let n := s1.coh.nextOrder
  { s1 with coh := { s1.coh with tags := s1.coh.tags ++ [⟨slot, line, state, gtag, n⟩], nextOrder := n + 1 } }

/-- A tag changes its state. -/
def retag (slot line state : Nat) (s : State) : State :=
  setTags (s.coh.tags.map fun t => if t.slot = slot ∧ t.line = line then { t with state := state } else t) s

/-- Lines that an access touches, by offset. -/
def linesOf (off len : Nat) : List Nat :=
  if len = 0 then [] else (upTo ((off + len - 1) / 128 - off / 128 + 1)).map fun i => (off / 128 + i) * 128

/-- Holders of a line in state `S` or `M`. -/
def holders (s : State) (line : Nat) : List CTag := s.coh.tags.filter fun t => t.line == line && (t.state == 1 || t.state == 2)

/-- A line is stale (R341). -/
def isStale (s : State) (line : Nat) : Bool := s.coh.tags.any fun t => t.line == line && t.state == 3

/-- Set of a line in every slot (R327). -/
def tagSet (line : Nat) : Nat := line / 128 % 4096

/-- Tags of a slot in the set of a line. -/
def setTagsOf (s : State) (slot line : Nat) : List CTag :=
  s.coh.tags.filter fun t => t.slot == slot && tagSet t.line == tagSet line

/-- A dead slot without stale tags is free again, and its lease ends where nothing else needs it (R339, R323). -/
def freeDeadSlots (s : State) : State :=
  let keep (i : Nat) (c : CSlot) : Bool := c.state != 3 || s.coh.tags.any fun t => t.slot == i && t.state == 3
  leaseSweep { s with coh := { s.coh with slots := tfilter s.coh.slots keep } }

/-- Clear the stale tags that a test picks (R341). -/
def clearStale (pick : CTag → Bool) (s : State) : State :=
  freeDeadSlots (setTags (s.coh.tags.filter fun t => !(t.state == 3 && pick t)) s)

/-! ## Snoops -/

/-- The snoop frame of R329 for an outstanding snoop. -/
def snoopFrame (s : State) (stag : Nat) (n : Snoop) (node port : Nat) : Frame :=
  let after := match tagAt s n.slot n.line with
    | some t => t.gtag + 2 ^ 20
    | none => 0
  mkFrame 3 (if n.inv then 0x50 else 0x51) node (nodeSelf s) (keyFor s port) stag 0 n.line 8 (toLE 8 after)

/-- Time that a snoop may stay unanswered, in ns. -/
def snoopWait (s : State) : Nat := 1000 * rget s R.COH_CFG_SNOOP_TIMEOUT_US 0

/-- Send an outstanding snoop. -/
def emitSnoop (stag : Nat) (n : Snoop) (s : State) : State :=
  match tget s.coh.slots n.slot with
  | some c => sendRaw 128 none .transit (snoopFrame s stag n c.node c.port) s
  | none => s

/-- Send a snoop to a slot: `purpose` 0 for pool request `req`, 1 a release, 2 the drain of extent `req`, 3 a victim for
request `req`, 4 an access of the Stair engine. -/
def sendSnoop (slot line : Nat) (inv : Bool) (req purpose : Nat) (s : State) : State :=
  let (k, s1) := takeId s
  let stag := k % 2 ^ 20
  let n : Snoop := ⟨slot, line, inv, req, purpose, 1, s1.clk.now + snoopWait s1⟩
  emitSnoop stag n { s1 with coh := { s1.coh with snoops := tset s1.coh.snoops stag n } }

/-- Some snoop of a purpose is outstanding for a request. -/
def snoopsFor (s : State) (req purpose : Nat) : Bool := s.coh.snoops.any fun n => n.2.req == req && n.2.purpose == purpose

/-- The tags that an access of the switch's own engines to some bytes must snoop first (R333): those in `M`, and for a write
those in `S` too. -/
def engineTags (s : State) (off len : Nat) (write : Bool) : List CTag :=
  s.coh.tags.filter fun t => decide (off < t.line + 128) && decide (t.line < off + len) && (t.state == 2 || (write && t.state == 1))

/-- An engine may use some bytes now: no holder is to be snooped, and no transaction of their lines is in progress (R331,
R333). -/
def linesQuiet (s : State) (off len : Nat) (write : Bool) : Bool :=
  (engineTags s off len write).isEmpty
    && !(s.coh.snoops.any fun n => decide (off < n.2.line + 128) && decide (n.2.line < off + len))
    && !(s.pool.reqs.any fun q => q.2.phase != .replay && decide (off / 128 ≤ (q.2.off + q.2.len - 1) / 128)
      && decide (q.2.off / 128 * 128 < off + len))

/-- Send the snoops that an engine's access needs, to holders that have none yet. -/
def askLines (off len : Nat) (write : Bool) (s : State) : State :=
  each (engineTags s off len write) (fun t u =>
    if u.coh.snoops.any fun n => n.2.slot == t.slot && n.2.line == t.line then u else sendSnoop t.slot t.line write 0 4 u) s

/-- Take a snoop off the list. -/
def endSnoop (stag : Nat) (s : State) : State := { s with coh := { s.coh with snoops := tdel s.coh.snoops stag } }

/-- The answer `CACHE_STATE` (R321). -/
def cacheState (node state slot ways reason : Nat) (freshReg : Bool) (s : State) : State :=
  sendCtl 0xF5 node (toLE 1 state ++ toLE 1 slot ++ toLE 1 ways ++ toLE 1 reason ++ toLE 1 (b2n freshReg) ++ toLE 3 0) s

/-- A released slot whose snoops are all answered is free (R339). -/
def freeReleasing (slot : Nat) (s : State) : State :=
  match tget s.coh.slots slot with
  | some c =>
    if c.state = 2 ∧ !(s.coh.snoops.any fun n => n.2.slot == slot) then
      leaseSweep { s with coh := { s.coh with slots := tdel s.coh.slots slot } }
    else s
  | none => s

/-! ## Loss of an endpoint (R338 to R340, R344) -/

/-- The partition of the extent that holds a line. -/
def linePart (s : State) (line : Nat) : Nat := match extentAt s line with | some (_, e) => e.part | none => 0

/-- Write a line to the lost-line log. -/
def logLost (node slot cause line : Nat) (s : State) : State :=
  let b := recBytes 16 [(48, line), (15, node), (1, 0), (6, linePart s line), (6, slot), (4, cause), (48, nowUs s)]
  ringCount lostRing 0 { s with rings := { s.rings with lost := tset s.rings.lost (ringNext lostRing 0 s % 4096) b } }

/-- The `REASON` that goes with a `CAUSE` of loss. -/
def lossReason (cause : Nat) : Nat := match cause with | 1 => 6 | 2 => 5 | _ => 7

/-- A registration ends by loss: outstanding snoops end as `I`, `S` tags are dropped, `M` tags become `STALE` and are
logged, the endpoint is told if it can be reached, and the loss is reported. -/
def slotLoss (slot cause : Nat) (s : State) : State :=
  match tget s.coh.slots slot with
  | none => s
  | some c =>
    let s1 := { s with coh := { s.coh with snoops := tfilter s.coh.snoops fun _ n => n.slot != slot } }
    let lost := s1.coh.tags.filter fun t => t.slot == slot && t.state == 2
    let s2 := each lost (fun t => logLost c.node slot cause t.line) s1
    let s3 := setTags ((s2.coh.tags.filter fun t => !(t.slot == slot && t.state == 1)).map fun t =>
      if t.slot = slot ∧ t.state = 2 then { t with state := 3 } else t) s2
    let s4 := { s3 with coh := { s3.coh with slots := tset s3.coh.slots slot { c with state := 3 } } }
    let s5 := if portUp s4 c.port then cacheState c.node 3 slot c.ways (lossReason cause) false s4 else s4
    freeDeadSlots (report ⟨0x0E, 0, portPart s5 c.port, c.port, c.node, cause, lost.length, 0⟩ s5)

end Sys2Proof.Machine
end

