-- ==== Sys2Proof/Machine/Tier.lean ====
section
/-! DEFINITION. Accesses to the lower stairs: where a unit lies, the states of trays, the attempts of a read and the
copies of a write (R263 to R266, R422, R423). -/
namespace Sys2Proof.Machine

/-- A tray of which nothing is known. -/
def Tray.up : Tray := ⟨.up, 0, none, [], 0, 0, 0⟩

/-- The state of a tray of a set. -/
def trayOf (s : State) (set t : Nat) : Tray := tgetD s.pool.trays (set * 32 + t) Tray.up

/-- Change the state of a tray. -/
def setTray (set t : Nat) (x : Tray) (s : State) : State :=
  { s with pool := { s.pool with trays := tput s.pool.trays (set * 32 + t) Tray.up x } }

/-- Where a unit of a slot lies (R263): its own tray, the tray of its copy or parity, the trays from which it can be had
otherwise, its offset on them, and the row or pair that orders its writes. -/
structure Place where
  data : Nat
  other : Nat
  peers : List Nat
  off : Nat
  lane : Nat
  deriving DecidableEq, Repr

/-- The place of unit `u` of slot `slot`. -/
def placeOf (s : State) (set slot u : Nat) : Place :=
  if isParity s set then
    let n := dataUnits s set
    let nt := n + 1
    let row := slot * ceilDiv 256 n + u / n
    let p := n - row % nt
    let tray (j : Nat) : Nat := (p + 1 + j) % nt
    ⟨tray (u % n), p, ((upTo n).filter (· != u % n)).map tray ++ [p], row * 4096, row⟩
  else
    let pairs := rget s R.SET_NTRAYS set / 2
    let q := slot * 256 + u
    ⟨2 * (q % pairs), 2 * (q % pairs) + 1, [2 * (q % pairs) + 1], q / pairs * 4096, q % pairs⟩

/-- A tray can be read: it is UP or SLOW (R265, R422). -/
def trayReads (s : State) (set t : Nat) : Bool := let x := (trayOf s set t).state; x == .up || x == .slow

/-- The rebuild of a tray has passed a place: the units there are read from it as from an UP tray (R422). -/
def rebuiltAt (s : State) (set : Nat) (p : Place) (t : Nat) : Bool :=
  let x := trayOf s set t
  x.state == .rebuilding && decide (p.off / 4096 < x.rebuildAt)

/-- A tray serves reads at a place. -/
def readsAt (s : State) (set : Nat) (p : Place) (t : Nat) : Bool := trayReads s set t || rebuiltAt s set p t

/-- A tray takes writes: it has not FAILED. -/
def trayWrites (s : State) (set t : Nat) : Bool := (trayOf s set t).state != .failed

/-- Reads outstanding at a tray. -/
def trayReadsOut (s : State) (set t : Nat) : Nat :=
  (s.pool.ops.filter fun o => o.2.set == set && o.2.kind != .write && o.2.trays.contains t).length

/-- An operation reads for the run of a stream plan at level 2 or above: copies are chosen by latency alone (R288). -/
def latencyOnly (s : State) (o : TierOp) : Bool :=
  match (tget s.pool.reqs o.req).map (·.origin) with
  | some (Origin.plan p) => decide (2 ≤ rget s R.WS_STATE_LEVEL p)
  | _ => false

/-- The first attempt of a read: the chosen copy or data tray, or the peers where it is steered away. The granules of a
partition in quiet mode are read from the even tray of a pair that is UP (R386). -/
def firstTrays (s : State) (o : TierOp) (p : Place) : List Nat :=
  let up (t : Nat) : Bool := (trayOf s o.set t).state == .up || rebuiltAt s o.set p t
  if isParity s o.set then
    if up p.data then [p.data]
    else if p.peers.all (readsAt s o.set p) then p.peers
    else if readsAt s o.set p p.data then [p.data]
    else []
  else if up p.data && up p.other then
    let cost (t : Nat) : Nat := (if latencyOnly s o then 1 else trayReadsOut s o.set t) * (trayOf s o.set t).latency
    if cost p.other < cost p.data && !isQuiet s (granuleOf s o.granule).part then [p.other] else [p.data]
  else if up p.data then [p.data]
  else if up p.other then [p.other]
  else if readsAt s o.set p p.data then [p.data]
  else if readsAt s o.set p p.other then [p.other]
  else []

/-- The attempt that a read begins with: a tray of its unit that cannot be read has failed the first one (R266). -/
def firstAttempt (s : State) (set : Nat) (p : Place) : Nat :=
  if readsAt s set p p.data && (isParity s set || readsAt s set p p.other) then 1 else 2

/-- The second attempt of a read: the other copy, or the row's peers. -/
def secondTrays (s : State) (set : Nat) (p : Place) (tried : List Nat) : List Nat :=
  let fromPeers := if p.peers.all (readsAt s set p) then p.peers else []
  let fromData := if readsAt s set p p.data then [p.data] else []
  if tried.contains p.data then fromPeers
  else if tried.isEmpty then []
  else fromData

/-- The timeout of the stair of a set, in ns (R266). -/
def tierWait (s : State) (set : Nat) : Nat :=
  1000 * (if rget s R.SET_STAIR set = 2 then rget s R.TIER_CFG_S2_TIMEOUT_US 0 else rget s R.TIER_CFG_S1_TIMEOUT_US 0)

/-- The row's parity over a piece of its units: their exclusive or. -/
def parityBytes (m : Mem) (n base u piece len : Nat) : List Byte :=
  let row := u / n * n
  let unit (j : Nat) : List Byte := if row + j < 256 then mread m (base + (row + j) * 4096 + piece) len else List.replicate len 0#8
  (upTo n).foldl (fun acc j => (acc.zip (unit j)).map fun p => p.1 ^^^ p.2) (List.replicate len 0#8)

/-- The access leaves for a tray. -/
def emitTray (set t off len : Nat) (write : Bool) (bytes : List Byte) (s : State) : State :=
  emit (.tray (rget s R.TRAY_NODE (set * 32 + t)) (rget s R.TRAY_BASE (set * 32 + t) + off) len write bytes) s

/-- The value that an atomic writes (R56): op, width in bytes, old value, operand, compare value. -/
def atomicNew (op w old operand compare : Nat) : Nat :=
  let o := operand % 2 ^ (8 * w)
  match op with
  | 0 => o
  | 1 => if old = compare % 2 ^ (8 * w) then o else old
  | 2 => (old + o) % 2 ^ (8 * w)
  | 3 => old &&& o
  | 4 => old ||| o
  | 5 => old ^^^ o
  | 6 => if signed (8 * w) old < signed (8 * w) o then o else old
  | _ => if signed (8 * w) o < signed (8 * w) old then o else old

/-- The memory after the write that a pool request asks for. -/
def writeMem (r : PoolReq) (m : Mem) : Mem :=
  match r.kind with
  | .store | .bulkPut | .wbDirty => mwrite m r.off r.data
  | .bulkPutMasked => mwriteMasked m r.off r.data r.mask
  | .atomic op w operand compare => mwrite m r.off (toLE w (atomicNew op w (leNat (mread m r.off w)) operand compare))
  | _ => m

/-- The memory as it is to stand after the request that an operation serves. -/
def memFor (s : State) (req : Nat) : Mem :=
  match tget s.pool.reqs req with
  | some r => writeMem r s.pool.mem
  | none => s.pool.mem

/-- The move of a granule is over: what it has still to copy is dropped, and held writes go on. -/
def endMove (g : Nat) (x : Granule) (s : State) : State :=
  let s1 := setGranule g { x with moving := false, destStair := 0, dest := 0 } s
  { s1 with pool := { s1.pool with
    moves := tdel s1.pool.moves g
    ops := tfilter s1.pool.ops fun _ o => !(o.copy && o.granule == g) } }

/-- Abandon a move: its destination is free again. -/
def abandonMove (g : Nat) (s : State) : State :=
  if thas s.pool.moves g then endMove g (granuleOf s g) s else s

/-- Change or remove an operation. -/
def setOp (k : Nat) (o : TierOp) (s : State) : State := { s with pool := { s.pool with ops := tset s.pool.ops k o } }
def dropOp (k : Nat) (s : State) : State := { s with pool := { s.pool with ops := tdel s.pool.ops k } }

/-- The outcome of an operation reaches its request: the first failure is kept. A copy that fails ends its move (R269). -/
def opEnded (k status : Nat) (s : State) : State :=
  match tget s.pool.ops k with
  | none => s
  | some o =>
    let s1 := dropOp k s
    if status = stOK then s1
    else if o.copy then abandonMove o.granule s1
    else { s1 with pool := { s1.pool with reqs := tmod s1.pool.reqs o.req fun r => if r.status = stOK then { r with status := status } else r } }

/-- Send an attempt to its trays. -/
def sendAttempt (k : Nat) (o : TierOp) (trays : List Nat) (attempt : Nat) (s : State) : State :=
  let p := placeOf s o.set o.slot o.unit
  let base := o.granule * 2 ^ 20
  let m := memFor s o.req
  let out (t : Nat) (st : State) : State :=
    let bytes := if o.kind = .write then
        (if t = p.other ∧ isParity st o.set then parityBytes m (dataUnits st o.set) base o.unit o.piece o.len
         else mread m (base + o.unit * 4096 + o.piece) o.len) else []
    emitTray o.set t (p.off + o.piece) o.len (o.kind == .write) bytes st
  each trays out (setOp k { o with trays := trays, attempt := attempt, deadline := s.clk.now + tierWait s o.set } s)

/-- Begin the writes of an operation: every copy on a tray that has not FAILED. -/
def startWrite (k : Nat) (o : TierOp) (s : State) : State :=
  let p := placeOf s o.set o.slot o.unit
  match [p.data, p.other].filter (trayWrites s o.set) with
  | [] => opEnded k (if o.last = stOK then stTierError else o.last) (setOp k { o with trays := [] } s)
  | ts => sendAttempt k { o with kind := .write, okSeen := false, last := stOK } ts 1 s

/-- How a write to a set begins: `PARITY` reads the old data and the old parity first (R264). -/
def writeKind (s : State) (set : Nat) : TierKind := if isParity s set then .rmwRead else .write

/-- A unit has been read for a move: it is written at the destination, where that is a lower stair (R269). -/
def copyOut (k : Nat) (o : TierOp) (s : State) : State :=
  let x := granuleOf s o.granule
  if x.moving ∧ x.destStair ≠ 0 then
    let set := x.dest / 2 ^ 26
    setOp k { o with kind := writeKind s set, set := set, slot := x.dest % 2 ^ 26, attempt := 0, trays := [] } s
  else opEnded k stOK s

/-- A read has ended well: the bytes are there, or the write that they were read for begins. -/
def readDone (k : Nat) (o : TierOp) (s : State) : State :=
  if o.kind = .rmwRead then startWrite k o s else if o.copy then copyOut k o s else opEnded k stOK s

/-- Begin the second attempt of a read, or end it where no peer is left. -/
def secondAttempt (k : Nat) (o : TierOp) (tried : List Nat) (s : State) : State :=
  match secondTrays s o.set (placeOf s o.set o.slot o.unit) tried with
  | [] => opEnded k stTierError s
  | ts => sendAttempt k o ts 2 s

/-- Earlier writes of the same row or pair remain (R264). -/
def laneBusy (s : State) (k : Nat) (o : TierOp) : Bool :=
  let lane := (placeOf s o.set o.slot o.unit).lane
  s.pool.ops.any fun q => decide (q.1 < k) && q.2.set == o.set && (q.2.kind == .write || q.2.kind == .rmwRead)
    && (placeOf s q.2.set q.2.slot q.2.unit).lane == lane

/-- A unit without a readable source (R423). -/
def unitSkipped (s : State) (o : TierOp) : Bool := s.pool.skipped.contains (o.set, o.slot * 256 + o.unit)

/-! ## The rebuild of a tray (R422, R423) -/

/-- The granules that lie on a set, with their slots. -/
def granulesOn (s : State) (set : Nat) : List (Nat × Nat) :=
  s.pool.map.filterMap fun q => if (q.2.stair = 1 ∨ q.2.stair = 2) ∧ q.2.loc / 2 ^ 26 = set then some (q.1, q.2.loc % 2 ^ 26) else none

/-- The units of a set's granules that lie on a tray, in ascending offset: granule, slot and unit. The parity unit of a row goes
by the row's first unit. -/
def traysUnits (s : State) (set tray : Nat) : List (Nat × Nat × Nat) :=
  let on (slot u : Nat) : Bool :=
    let p := placeOf s set slot u
    p.data == tray || (p.other == tray && (!isParity s set || u % dataUnits s set == 0))
  sortBy (fun x => (placeOf s set x.2.1 x.2.2).off)
    ((granulesOn s set).map fun q => ((upTo 256).filter (on q.2)).map fun u => (q.1, q.2, u)).flatten

/-- The trays from which the unit of a tray at a place is rebuilt: the other of its pair, or the others of its row. -/
def rebuildTrays (p : Place) (tray : Nat) : List Nat := (p.data :: p.peers).filter (· != tray)

/-- A unit on a rebuilding tray has a readable source. -/
def rebuildSource (s : State) (set tray slot u : Nat) : Bool :=
  let p := placeOf s set slot u
  (rebuildTrays p tray).all (readsAt s set p)

/-- The units that are skipped where a tray's unit has no source: itself, or for a parity unit those of its row that their own
trays do not serve. -/
def skipsOf (s : State) (set tray slot u : Nat) : List (Nat × Nat) :=
  let p := placeOf s set slot u
  let us := if p.data = tray ∨ !isParity s set then [u] else
    ((upTo (dataUnits s set)).map (u + ·)).filter fun v => let q := placeOf s set slot v; decide (v < 256) && !readsAt s set q q.data
  us.map fun v => (set, slot * 256 + v)

/-- Copy one unit to the spare, or skip it (R422, R423). -/
def rebuildUnit (set tray : Nat) (x : Nat × Nat × Nat) (s : State) : State :=
  let p := placeOf s set x.2.1 x.2.2
  let y := trayOf s set tray
  if rebuildSource s set tray x.2.1 x.2.2 then
    let base := x.1 * 2 ^ 20
    let bytes := if p.data = tray ∨ !isParity s set then mread s.pool.mem (base + x.2.2 * 4096) 4096
      else parityBytes s.pool.mem (dataUnits s set) base x.2.2 0 4096
    let s1 := each (rebuildTrays p tray) (fun t => emitTray set t p.off 4096 false []) s
    emitTray set tray p.off 4096 true bytes (setTray set tray { y with rebuilt := y.rebuilt + 1 } s1)
  else
    let lost := (skipsOf s set tray x.2.1 x.2.2).filter fun q => !s.pool.skipped.contains q
    setTray set tray { y with rebuildLost := y.rebuildLost + 1 } { s with pool := { s.pool with skipped := s.pool.skipped ++ lost } }

/-- A write of a row or pair is on its way. -/
def laneWriting (s : State) (set lane : Nat) : Bool :=
  s.pool.ops.any fun q => q.2.set == set && (q.2.kind == .write || q.2.kind == .rmwRead) && q.2.attempt != 0
    && (placeOf s q.2.set q.2.slot q.2.unit).lane == lane

/-- The units that the walk has still to pass. -/
def unitsAhead (s : State) (set tray : Nat) : List (Nat × Nat × Nat) :=
  (traysUnits s set tray).filter fun x => decide ((trayOf s set tray).rebuildAt ≤ (placeOf s set x.2.1 x.2.2).off / 4096)

/-- Those that it may pass now: up to the first that a write of its row or pair keeps waiting (R264, R422). -/
def unitsOpen (s : State) (set tray : Nat) : List (Nat × Nat × Nat) :=
  (unitsAhead s set tray).takeWhile fun x => !laneWriting s set (placeOf s set x.2.1 x.2.2).lane

/-- The walk passes some units. -/
def walkOn (set tray : Nat) (units : List (Nat × Nat × Nat)) (s : State) : State :=
  each units (fun x t =>
    let u := rebuildUnit set tray x t
    setTray set tray { trayOf u set tray with rebuildAt := (placeOf s set x.2.1 x.2.2).off / 4096 + 1 } u) s

/-- How far the rebuild of a tray has come is open: a free number of the units that it may pass now are passed (log 185). -/
def walkSome (set tray : Nat) (s : State) : State :=
  if (trayOf s set tray).state = .rebuilding then
    let us := unitsOpen s set tray
    let (v, s1) := fresh s
    walkOn set tray (us.take (v % (us.length + 1))) s1
  else s

/-- Begin an operation in its turn. -/
def startOpNow (k : Nat) (o : TierOp) (s : State) : State :=
  if o.attempt ≠ 0 ∨ o.kind = .mirror then s
  else if o.kind ≠ .read ∧ laneBusy s k o then s
  else if o.kind ≠ .write ∧ unitSkipped s o ∧ (o.kind = .read ∨ o.len ≠ 4096) then opEnded k stTierError s
  else if o.kind = .write then startWrite k o s
  else
    let p := placeOf s o.set o.slot o.unit
    let first := firstTrays s o p
    -- a PARITY write also reads the old parity
    let ts := if o.kind = .rmwRead ∧ isParity s o.set ∧ first = [p.data] ∧ readsAt s o.set p p.other then [p.data, p.other] else first
    match ts with
    | [] => secondAttempt k o [] s
    | _ => sendAttempt k o ts (firstAttempt s o.set p) s

/-- Begin an operation that waits for its turn; trays of its unit that are being rebuilt have come some way by then. -/
def startOp (k : Nat) (s : State) : State :=
  match tget s.pool.ops k with
  | none => s
  | some o =>
    let p := placeOf s o.set o.slot o.unit
    startOpNow k o (each (dedup' (p.data :: p.peers)) (walkSome o.set) s)

/-- A tray becomes FAILED: reported, and for a member of a spare group detected (R265, R415). -/
def trayFail (set t : Nat) (s : State) : State :=
  let x := trayOf s set t
  if x.state = .failed then s
  else
    let node := rget s R.TRAY_NODE (set * 32 + t)
    let port := (nodePort s node).getD 0xFF
    let s1 := report ⟨0x06, 0, portPart s port, port, node, set, 0, 0⟩ (setTray set t { x with state := .failed } s)
    if port < 128 ∧ rbit s1 R.GRP_KIND (rget s1 R.PSPARE_GROUP port) then detectFailure port 2 s1 else s1

/-- An uncorrectable error of a tray: 16 within 1 ms make it FAILED. -/
def trayError (set t : Nat) (s : State) : State :=
  let x := trayOf s set t
  let errs := x.errs.filter (fun e => decide (s.clk.now ≤ e + 1000000)) ++ [s.clk.now]
  let s1 := setTray set t { x with errs := errs } s
  if 16 ≤ errs.length then trayFail set t s1 else s1

/-- Every copy of a write has acknowledged, failed or been given up. -/
def writeCheck (k : Nat) (o : TierOp) (s : State) : State :=
  if !o.trays.isEmpty then setOp k o s
  else opEnded k (if o.okSeen then stOK else if o.last = stOK then stTierError else o.last) (setOp k o s)

/-- A tray answers an attempt. -/
def opAnswer (k t : Nat) (ok : Bool) (s : State) : State :=
  match tget s.pool.ops k with
  | none => s
  | some o =>
    if !o.trays.contains t then s
    else
      let left := o.trays.erase t
      let s1 := if ok then s else trayError o.set t s
      match o.kind, ok with
      | .write, true => writeCheck k { o with trays := left, okSeen := true } s1
      | .write, false => writeCheck k { o with trays := left, last := stTierError } s1
      | _, true => if left.isEmpty then readDone k o s1 else setOp k { o with trays := left } s1
      | _, false => if o.attempt = 1 then secondAttempt k o o.trays s1 else opEnded k stTierError s1

/-- An attempt has not been answered in time: trays that owe a write's answer become FAILED. -/
def opTimeout (k : Nat) (s : State) : State :=
  match tget s.pool.ops k with
  | none => s
  | some o =>
    match o.kind with
    | .mirror => s
    | .write =>
      let s1 := each o.trays (fun t => trayFail o.set t) s
      writeCheck k { o with trays := [], last := stTierTimeout } s1
    | _ =>
      if o.attempt = 1 then secondAttempt k o o.trays (each o.trays (trayError o.set) s)
      else opEnded k stTierTimeout s

/-- Some unit of a granule has a source that can be read, and its destination can be written (R269). -/
def unitReadable (s : State) (stair loc u : Nat) : Bool :=
  if stair = 0 then true
  else
    let set := loc / 2 ^ 26
    let p := placeOf s set (loc % 2 ^ 26) u
    !(s.pool.skipped.contains (set, loc % 2 ^ 26 * 256 + u))
      && (readsAt s set p p.data || p.peers.all (readsAt s set p))

/-- Some copy of a unit can be written. -/
def unitWritable (s : State) (stair loc u : Nat) : Bool :=
  if stair = 0 then true
  else
    let set := loc / 2 ^ 26
    let p := placeOf s set (loc % 2 ^ 26) u
    trayWrites s set p.data || trayWrites s set p.other

end Sys2Proof.Machine
end

