-- ==== Sys2Proof/Machine/Pool.lean ====
section
/-! DEFINITION. Requests to the pool window: order by line, snoops, the access itself on its stair, mirror writes, and
the answer (R53, R254 to R257, R264 to R271, R299, R300, R313, R316, R327 to R334, R341). Every command that could let a
request go on runs one pass over the requests in their order of acceptance. -/
namespace Sys2Proof.Machine

/-! ## Requests in progress -/

/-- Change a request. -/
def setReq (id : Nat) (r : PoolReq) (s : State) : State := { s with pool := { s.pool with reqs := tset s.pool.reqs id r } }

/-- Remove a request. -/
def dropReq (id : Nat) (s : State) : State := { s with pool := { s.pool with reqs := tdel s.pool.reqs id } }

/-- A request moves to a phase. -/
def toPhase (id : Nat) (p : PPhase) (s : State) : State :=
  { s with pool := { s.pool with reqs := tmod s.pool.reqs id fun r => { r with phase := p } } }

/-- A coherent request. -/
def PKind.coherent : PKind → Bool
  | .rdShared | .rdOwn | .upgrade | .wbDirty | .evictClean => true
  | _ => false

/-- A request whose answer carries a grant. -/
def PKind.grants : PKind → Bool
  | .rdShared | .rdOwn | .upgrade => true
  | _ => false

/-- The byte of a line is written by the request. -/
def writesByte (r : PoolReq) (a : Nat) : Bool :=
  decide (r.off ≤ a) && decide (a < r.off + r.len) && (match r.kind with
    | .bulkPutMasked => r.mask.getD (a - r.off) false
    | .store | .bulkPut => true
    | _ => false)

/-- All 128 bytes of a line are written by the request (R341). -/
def coversLine (r : PoolReq) (line : Nat) : Bool := (upTo 128).all fun i => writesByte r (line + i)

/-- A line is stale for the request (R341). -/
def staleHit (s : State) (r : PoolReq) : Bool :=
  match r.kind with
  | .wbDirty | .evictClean => false
  | .store | .bulkPut | .bulkPutMasked =>
    (linesOf r.off r.len).any fun l => isStale s l && !coversLine r l && (upTo 128).any fun i => writesByte r (l + i)
  | _ => (linesOf r.off r.len).any (isStale s)

/-- Two requests share a line. -/
def shareLine (a b : PoolReq) : Bool := decide (a.off / 128 ≤ (b.off + b.len - 1) / 128) && decide (b.off / 128 ≤ (a.off + a.len - 1) / 128)

/-- An earlier transaction of one of its lines is in progress (R331). -/
def orderBlocked (s : State) (id : Nat) (r : PoolReq) : Bool :=
  s.pool.reqs.any (fun q => q.1 != id && decide (q.2.seq < r.seq) && q.2.phase != .replay && shareLine q.2 r)
    || s.coh.snoops.any fun n => n.2.purpose != 0 && (linesOf r.off r.len).contains n.2.line

/-- A line has a transaction in progress. -/
def lineBusy (s : State) (line : Nat) : Bool :=
  s.pool.reqs.any (fun q => q.2.phase != .order && q.2.phase != .replay && (linesOf q.2.off q.2.len).contains line)
    || s.coh.snoops.any fun n => n.2.line == line

/-! ## The end of a request -/

/-- Give a request its answer: a read of one of this switch's engines to that engine, any other through its tracker entry
at its first switch, else as a frame. -/
def deliver (id : Nat) (r : PoolReq) (status : Nat) (data : List Byte) (s : State) : State :=
  let s1 := dropReq id s
  if let .plan p := r.origin then planRead p r.frame.tag r.off status data s1
  else if let .batch b := r.origin then batchRead b id status data s1
  else if let .table t := r.origin then tableRead t id status data s1
  else if let .revert _ := r.origin then s1
  else if r.tracked then
    if thas s1.track.reqs id then closeTrack id status data 1 s1 else rbump R.LATE_ANSWERS_COUNT 0 s1
  else
    let s2 := if status = stOK ∨ status = stReplayed then s1 else faultRec r.frame status 1 0xFF 0 s1
    answer r.frame status data s2

/-- The answer memory entry of an atomic. -/
def entryOf (s : State) (src tag : Nat) : Option AnswerEntry := s.track.answers.find? fun e => e.src == src && e.tag == tag

/-- The status that a repeat of an answered atomic gets (R59). -/
def repeatStatus (st : Nat) : Nat := if st = stOK then stReplayed else st

/-- Store the answer of an atomic, in the entry made for it if that still stands (R61), and answer the repeats that wait for
it. -/
def storeAnswer (id status old : Nat) (s : State) : State :=
  match s.track.answers.find? fun e => e.req == id with
  | none => s
  | some e =>
    let upd (x : AnswerEntry) : AnswerEntry :=
      if x.req = id then { x with pending := false, old := old, status := status, waiting := [] } else x
    let s1 := { s with track := { s.track with answers := s.track.answers.map upd } }
    each e.waiting (fun w t => match tget t.pool.reqs w with
      | some q => deliver w q (repeatStatus status) (toLE 8 old) t
      | none => t) s1

/-- A request ends with a status and, where it is `OK`, its data. -/
def poolFinish (id status : Nat) (data : List Byte) (s : State) : State :=
  match tget s.pool.reqs id with
  | none => s
  | some r =>
    match r.kind with
    | .atomic .. =>
      let (v, s1) := if status = stOK then (leNat data, s) else let (x, t) := fresh s; (x % 2 ^ 64, t)
      deliver id r status (toLE 8 v) (storeAnswer id status v s1)
    | _ => deliver id r status (if status = stOK then data else errorData r.frame) s

/-! ## The access -/

/-- Count a request to the granules that it touches: heat, and the wing of the gallery that asked (R256, R267). -/
def heatAt (wing : Option Nat) (off len : Nat) (s : State) : State :=
  each (granulePieces off len) (fun p t =>
    let x := granuleOf t p.1
    let gr := match wing with
      | some w => let l := if x.galReq.isEmpty then [0, 0, 0, 0] else x.galReq; l.set w (l.getD w 0 + 1)
      | none => x.galReq
    setGranule p.1 { x with heat := min (x.heat + 1) 65535, galReq := gr } t) s

/-- The place from which a request is served: one accepted before the flip of a move is served from the source, unless the
move held it (R269). -/
def servedFrom (s : State) (r : PoolReq) (g : Nat) : Granule :=
  let x := granuleOf s g
  match s.pool.freeing.find? fun f => f.granule == g && decide (r.seq < f.before) with
  | some f => if r.held then x else { x with stair := f.stair, loc := f.loc }
  | none => x

/-- The stacks on which the pieces of an access lie that are on Stair 0 (R258). -/
def accessStacks (s : State) (r : PoolReq) (pieces : List (Nat × Nat × Nat)) : List Nat :=
  dedup' ((pieces.map fun p => let x := servedFrom s r p.1; if x.stair = 0 then frameStacks s x.loc p.2.1 p.2.2 else []).foldl (· ++ ·) [])

/-- Of those, the ones that are not awake. -/
def asleepStacks (s : State) (r : PoolReq) (pieces : List (Nat × Nat × Nat)) : List Nat := (accessStacks s r pieces).filter fun k => sleeps s (.stack k)

/-- An access uses its stacks now. -/
def useStacks (ks : List Nat) (s : State) : State := each ks (fun k => noteUse (.stack k)) s

/-- A request waits in the Hall buffer while stacks wake for it (R35): on its partition's landing if that has room or the request
did not arrive on a port; else it stays on its port's landing (R350). -/
def waitWake (id : Nat) (r : PoolReq) (ks : List Nat) (s : State) : State :=
  let p := (keyPart s r.frame.pkey).getD 0
  let landed := partRoom s p (frameCells r.frame) || (match r.origin with | .port _ => false | _ => true)
  let s1 := each ks (fun k => beginWake (.stack k)) (toPhase id (.wake landed) s)
  if landed then chargePart p (frameCells r.frame) s1 else s1

/-- Its stacks are awake. -/
def endWake (landed : Bool) (r : PoolReq) (s : State) : State :=
  if landed then releasePart ((keyPart s r.frame.pkey).getD 0) (frameCells r.frame) s else s

/-- A write during COPY sets the dirty bits of those of its units that have been copied already. How far the pass has come is
open (log 164): a free value says which further units are. -/
def markMove (g : Nat) (bits : Mask256) (s : State) : State :=
  match tget s.pool.moves g with
  | none => s
  | some m =>
    let (v, s1) := fresh s
    let todo := m.todo &&& BitVec.ofNat 256 v
    { s1 with pool := { s1.pool with moves := tset s1.pool.moves g { m with todo := todo, dirty := m.dirty ||| (bits &&& ~~~todo) } } }

/-- A write marks the units of a move; a store on Stair 2 makes the granule first in line for promotion (R264, R269). -/
def markWrite (r : PoolReq) (s : State) : State :=
  each (granulePieces r.off r.len) (fun p t =>
    let x := granuleOf t p.1
    let t1 := if x.stair = 2 then setGranule p.1 { x with hotRun := 3, stored := true } t else t
    let bits := (upTo ((p.2.1 + p.2.2 - 1) / 4096 - p.2.1 / 4096 + 1)).foldl
      (fun m i => m ||| ((1#256) <<< (p.2.1 / 4096 + i))) (0#256)
    markMove p.1 bits t1) s

/-- Meter the bytes of an access by stair. -/
def meterAccess (r : PoolReq) (write : Bool) (s : State) : State :=
  match keyPart s r.frame.pkey with
  | none => s
  | some part => each (granulePieces r.off r.len) (fun p t => meterStair part (servedFrom t r p.1).stair write p.2.2 t) s

/-- Add a lower-stair operation. -/
def addOp (o : TierOp) (s : State) : State := let (k, s1) := takeId s; setOp k o s1

/-- The operations that read a piece of a granule on a lower stair: one per 256 bytes (R266). -/
def readOps (req : Nat) (x : Granule) (p : Nat × Nat × Nat) : List TierOp :=
  if x.stair = 1 ∨ x.stair = 2 then
    (upTo ((p.2.1 + p.2.2 - 1) / 256 - p.2.1 / 256 + 1)).map fun i =>
      let b := (p.2.1 / 256 + i) * 256
      ⟨req, p.1, .read, x.loc / 2 ^ 26, x.loc % 2 ^ 26, b / 4096, b % 4096, 256, 0, [], false, 0, 0, false⟩
  else []

/-- The operations that write a piece of a granule on a lower stair: one per 4 KiB unit; `PARITY`, Stair 2 and atomics
read first (R264). -/
def writeOps (s : State) (req : Nat) (rmw : Bool) (x : Granule) (p : Nat × Nat × Nat) : List TierOp :=
  if x.stair = 1 ∨ x.stair = 2 then
    let set := x.loc / 2 ^ 26
    (upTo ((p.2.1 + p.2.2 - 1) / 4096 - p.2.1 / 4096 + 1)).map fun i =>
      let u := p.2.1 / 4096 + i
      let lo := max p.2.1 (u * 4096)
      let hi := min (p.2.1 + p.2.2) ((u + 1) * 4096)
      let (b, n) := if x.stair = 2 then (0, 4096) else (lo - u * 4096, hi - lo)
      ⟨req, p.1, if rmw ∨ x.stair = 2 ∨ isParity s set then .rmwRead else .write, set, x.loc % 2 ^ 26, u, b, n, 0, [], false, 0, 0, false⟩
  else []

/-- Whether bytes of a Stair 0 chunk with an uncorrectable error are touched (R424). -/
def badChunk (s : State) (r : PoolReq) : Bool :=
  (granulePieces r.off r.len).any fun p => (servedFrom s r p.1).stair == 0 && s.pool.bad.any fun c =>
    c / 1024 == p.1 && decide (p.2.1 / 1024 ≤ c % 1024) && decide (c % 1024 ≤ (p.2.1 + p.2.2 - 1) / 1024)

/-- The 64-byte mask of a `BULK_PUT_MASKED`: bit i marks byte i of the block. The bytes from 512 on have no place in 512
bits: what a mask that must mark one of them holds is open (R62, log 32). -/
def maskBytes (marks : List Bool) : List Byte :=
  let bits (l : List Bool) : Nat := packBits (l.map fun b => (1, b2n b))
  toLE 64 (if (marks.drop 512).any id then Config.wideMask (bits marks) % 2 ^ 512 else bits (marks.take 512))

/-- The marks that a mask gives to the 4,096 bytes of its block. The manual gives the bytes from 512 on no place in the
64 bytes of the mask: whether they are marked is open (log 32). -/
def maskMarks (mask : List Byte) (s : State) : List Bool × State :=
  let (v, s1) := fresh s
  let m := leNat (mask.take 64)
  ((upTo 4096).map fun i => if i < 512 then m.testBit i else v.testBit i, s1)

/-- The mirror writes of a store to `OPEN` blocks: one `BULK_PUT_MASKED` for each 4 KiB (R313). -/
def mirrorWrites (s : State) (r : PoolReq) : List Frame :=
  match extentAt s r.off with
  | some (_, e) =>
    if !e.stream then [] else
    let m := writeMem r s.pool.mem
    (upTo ((r.off + r.len - 1) / 4096 - r.off / 4096 + 1)).filterMap fun i =>
      let a := (r.off / 4096 + i) * 4096
      let bs := 2 ^ e.blockLog2
      match blockState s e a, tget s.pool.blocks (a / bs * bs) with
      | some (_, c), some (_, idx) =>
        if c.lstate ≠ 0 ∨ c.mirror / 2 ^ 48 % 2 ^ 15 = 0x7FFF then none
        else
          let marks := (upTo 4096).map fun j => match r.kind with
            | .atomic .. => decide (r.off ≤ a + j) && decide (a + j < r.off + r.len)
            | .wbDirty => decide (r.off ≤ a + j) && decide (a + j < r.off + r.len)
            | _ => writesByte r (a + j)
          some (mkFrame 5 0xA2 (c.mirror / 2 ^ 48 % 2 ^ 15) (nodeSelf s) c.pkey 0 0
            (c.mirror % 2 ^ 48 + idx * bs + a % bs) 4160 (maskBytes marks ++ mread m a 4096))
      | _, _ => none
  | none => []

/-- Send a mirror write for a request: an operation under its tracker number waits for its answer. -/
def sendMirror (req : Nat) (f : Frame) (s : State) : State :=
  let (k, s1) := issue (.tier req) { f with tag := s.nextId % 2 ^ 20 } s
  sendTracked k (setOp k ⟨req, 0, .mirror, 0, 0, 0, 0, 0, 1, [], false, 0, 0, false⟩ s1)

/-- The write of an access is done: lines written whole are no longer stale, chunks and units written whole are good
again, ledger words are stamped. -/
def applyWrite (r : PoolReq) (s : State) : State :=
  let s1 := { s with pool := { s.pool with mem := writeMem r s.pool.mem } }
  let s2 := if s1.coh.tags.any (fun t => t.state == 3) then clearStale (fun t => coversLine r t.line) s1 else s1
  let bad := s2.pool.bad.filter fun c => !((upTo 1024).all fun i => writesByte r (c * 1024 + i))
  let skipped := s2.pool.skipped.filter fun q =>
    !((granulePieces r.off r.len).any fun p => let x := servedFrom s2 r p.1
        x.loc / 2 ^ 26 == q.1 && x.loc % 2 ^ 26 == q.2 / 256 && x.stair != 0 && x.stair != 3
          && (upTo 4096).all fun i => writesByte r (p.1 * 2 ^ 20 + q.2 % 256 * 4096 + i))
  { s2 with pool := { s2.pool with bad := bad, skipped := skipped } }

/-- A failed write leaves each byte old or new (R266). -/
def applyTorn (r : PoolReq) (s : State) : State :=
  let (v, s1) := fresh s
  let new := mread (writeMem r s1.pool.mem) r.off r.len
  { s1 with pool := { s1.pool with mem := mwriteMasked s1.pool.mem r.off new ((upTo r.len).map fun i => v.testBit i) } }

/-- The state of a ledger word 0 (R314). -/
def ledgerState (w : Nat) : Nat := bitsOf w 32 2

/-- What an applied `CAS` on a ledger word does beside the word: into `HANDING` it stamps the deadline (R316). -/
def ledgerApply (off old new : Nat) (s : State) : State :=
  if ledgerState new = 2 ∧ old ≠ new then
    let d := nowUs s + 1000 * rget s R.STREAM_CFG_HANDOFF_MS 0
    { s with pool := { s.pool with mem := mwrite s.pool.mem (off + 8) (toLE 8 (d % 2 ^ 48)), handing := tset s.pool.handing off d } }
  else if old ≠ new then { s with pool := { s.pool with handing := tdel s.pool.handing off } }
  else s

/-- The request lies in a `LEDGER` extent. -/
def inLedger (s : State) (r : PoolReq) : Bool := match tget s.pool.extents r.ent with | some e => e.ledger | none => false

/-- A `CAS` into `HANDING` beyond the 4,096 entries held (R316). -/
def handingFull (s : State) (r : PoolReq) : Bool :=
  match r.kind with
  | .atomic op w operand compare =>
    let old := leNat (mread s.pool.mem r.off w)
    inLedger s r && ledgerState (atomicNew op w old operand compare) == 2 && old == compare
      && !thas s.pool.handing r.off && decide (4096 ≤ s.pool.handing.length)
  | _ => false

/-- The grant of a finished coherent request to its registered endpoint. -/
def grantTo (r : PoolReq) (state : Nat) (s : State) : State :=
  match regSlot s r.frame.src with
  | some (i, _) => grantTag i (r.off / 128 * 128) state r.frame.tag s
  | none => s

/-- The accesses of a request are over: its effect, its answer. -/
def completeReq (id : Nat) (s : State) : State :=
  match tget s.pool.reqs id with
  | none => s
  | some r =>
    if r.status ≠ stOK then poolFinish id r.status [] (if r.kind.writes then applyTorn r s else s)
    else
      match r.kind with
      | .load | .bulkGet => poolFinish id stOK (mread s.pool.mem r.off r.len) s
      | .store | .bulkPut | .bulkPutMasked => poolFinish id stOK [] (applyWrite r s)
      | .atomic op w operand compare =>
        let old := leNat (mread s.pool.mem r.off w)
        if handingFull s r then poolFinish id stQuota [] s
        else
          let s1 := applyWrite r s
          let s2 := if inLedger s r then ledgerApply r.off old (atomicNew op w old operand compare) s1 else s1
          poolFinish id stOK (toLE 8 old) s2
      | .rdShared => poolFinish id stOK (mread s.pool.mem r.off 128 ++ toLE 8 1) (grantTo r 1 s)
      | .rdOwn => poolFinish id stOK (mread s.pool.mem r.off 128 ++ toLE 8 2) (grantTo r 2 s)
      | .upgrade =>
        -- `grantOk` marks a requester that was listed as holding `S` (R332)
        poolFinish id stOK (if r.grantOk then toLE 8 2 else mread s.pool.mem r.off 128 ++ toLE 8 2) (grantTo r 2 s)
      | .wbDirty =>
        let s1 := applyWrite r s
        poolFinish id stOK [] (match regSlot s1 r.frame.src with | some (i, _) => dropTag i r.off s1 | none => s1)
      | .evictClean => poolFinish id stOK [] (match regSlot s r.frame.src with | some (i, _) => dropTag i r.off s | none => s)

/-- Operations of a request remain. -/
def opsFor (s : State) (id : Nat) : Bool := s.pool.ops.any fun o => o.2.req == id

/-- A move of one of the granules holds new writes (R269). -/
def moveHolds (s : State) (r : PoolReq) : Bool :=
  r.kind.writes && (granulePieces r.off r.len).any fun p => match tget s.pool.moves p.1 with | some m => m.holdSince.isSome | none => false

/-- Begin operations in their order. -/
def startOps (s : State) : State := each (s.pool.ops.map (·.1)) startOp s

/-- Allocate what a write needs; false where no place has room. -/
def allocateAll (part : Nat) : List (Nat × Nat × Nat) → State → Bool × State
  | [], s => (true, s)
  | p :: t, s =>
    match allocate p.1 part s with
    | (true, s1) => allocateAll part t s1
    | (false, s1) => (false, s1)

/-- A write that marks no byte allocates and stores nothing. -/
def emptyWrite (r : PoolReq) : Bool := r.kind == .bulkPutMasked && !(r.mask.contains true)

/-- The operations on trays and the mirror writes of an access that has its places; one that needs none completes. -/
def tierOps (id : Nat) (r : PoolReq) (pieces : List (Nat × Nat × Nat)) (s : State) : State :=
  let rmw := match r.kind with | .atomic .. => true | _ => false
  let ops := (pieces.map fun p => if r.kind.writes then writeOps s id rmw (servedFrom s r p.1) p else readOps id (servedFrom s r p.1) p).foldl (· ++ ·) []
  let mirrors := if r.kind.writes then mirrorWrites s r else []
  if ops.isEmpty ∧ mirrors.isEmpty then completeReq id s
  else startOps (each mirrors (sendMirror id) (each ops addOp (toPhase id .tier s)))

/-- An access that has its places: it is counted, and meets a chunk that is lost, or goes to its stairs. -/
def tierAccess (id : Nat) (r : PoolReq) (pieces : List (Nat × Nat × Nat)) (s : State) : State :=
  let s1 := meterAccess r r.kind.writes (useStacks (accessStacks s r pieces) s)
  if badChunk s1 r && (!r.kind.writes || (match r.kind with | .atomic .. => true | _ => false)) then poolFinish id stTierError [] s1
  else tierOps id r pieces (if r.kind.writes then markWrite r s1 else s1)

/-- The access of a request whose turn has come and whose snoops are answered. -/
def accessReq (id : Nat) (s : State) : State :=
  match tget s.pool.reqs id with
  | none => s
  | some r =>
    let mine := match regSlot s r.frame.src with | some (i, _) => tagAt s i r.off | none => none
    let holdsM := match mine with | some t => t.state == 2 | none => false
    if r.kind = .evictClean ∨ (r.kind = .upgrade ∧ r.grantOk) then completeReq id s
    else if r.kind.coherent ∧ (regSlot s r.frame.src).isNone then poolFinish id stUnsupported [] s
    else if r.kind = .wbDirty ∧ !holdsM then poolFinish id stOK [] s
    else if staleHit s r then poolFinish id stStaleLine [] s
    else if moveHolds s r then toPhase id .hold s
    else if emptyWrite r then completeReq id s
    else
      let part := (keyPart s r.frame.pkey).getD 0
      let pieces := granulePieces r.off r.len
      match (if r.kind.writes then allocateAll part pieces s else (true, s)) with
      | (true, s1) =>
        match asleepStacks s1 r pieces with
        | [] => tierAccess id r pieces s1
        | ks => waitWake id r ks s1
      | (false, s1) => poolFinish id stQuota [] s1

/-! ## Snoops of a request -/

/-- The snoops that a request needs (R332, R333): slot, line, and whether `SNP_INV`. -/
def snoopTargets (s : State) (r : PoolReq) : List (Nat × Nat × Bool) :=
  let own := match regSlot s r.frame.src with | some (i, _) => some i | none => none
  let others (l : Nat) : List CTag := (holders s l).filter fun t => !(r.kind.coherent && some t.slot == own)
  ((linesOf r.off r.len).map fun l =>
    match r.kind with
    | .wbDirty | .evictClean => []
    | .load | .bulkGet | .rdShared => ((others l).filter fun t => t.state == 2).map fun t => (t.slot, l, false)
    | _ => (others l).map fun t => (t.slot, l, true)).foldl (· ++ ·) []

/-- The victim of R328 in the set of a line: the oldest `S` tag, else the oldest `M` tag, of a line without a transaction. -/
def victimOf (s : State) (slot line : Nat) : Option CTag :=
  let c := (setTagsOf s slot line).filter fun t => !lineBusy s t.line
  let oldest (l : List CTag) : Option CTag := (sortBy (fun t => t.order) l).head?
  match oldest (c.filter fun t => t.state == 1) with
  | some t => some t
  | none => oldest (c.filter fun t => t.state == 2)

/-- Ways of a set that requests in progress will fill with tags of lines that the slot does not hold yet. -/
def waysDue (s : State) (slot : Nat) (r : PoolReq) : Nat :=
  (s.pool.reqs.filter fun q => q.2.seq != r.seq && q.2.kind.grants && q.2.phase != .order && q.2.phase != .victim
    && q.2.frame.src == r.frame.src && tagSet q.2.off == tagSet r.off && (tagAt s slot q.2.off).isNone).length

/-- A grant needs a tag in a set whose ways are all in use, or promised to grants in progress (R327, R328). -/
def needsVictim (s : State) (r : PoolReq) : Option Nat :=
  if !r.kind.grants then none
  else match regSlot s r.frame.src with
    | none => none
    | some (i, c) =>
      if (tagAt s i r.off).isNone ∧ c.ways ≤ (setTagsOf s i r.off).length + waysDue s i r then some i else none

/-- A request whose turn has come: a victim, then snoops, then the access. -/
def beginReq (id : Nat) (s : State) : State :=
  match tget s.pool.reqs id with
  | none => s
  | some r =>
    match needsVictim s r with
    | some i =>
      match victimOf s i r.off with
      | some t => rbump R.BACK_INVAL_COUNT 0 (sendSnoop i t.line true id 3 (toPhase id .victim s))
      | none => toPhase id .order s
    | none =>
      let listed := match regSlot s r.frame.src with
        | some (i, _) => (match tagAt s i r.off with | some t => t.state == 1 | none => false)
        | none => false
      let s1 := setReq id { r with grantOk := listed && r.kind == .upgrade } s
      match snoopTargets s1 r with
      | [] => accessReq id s1
      | ts => each ts (fun t => sendSnoop t.1 t.2.1 t.2.2 id 0) (toPhase id .snoop s1)

/-- Let a request go on as far as it can. -/
def advance (id : Nat) (s : State) : State :=
  match tget s.pool.reqs id with
  | none => s
  | some r =>
    match r.phase with
    | .order => if orderBlocked s id r then s else beginReq id s
    | .victim => if snoopsFor s id 3 || opsFor s id then s else beginReq id s
    | .wake landed => if (asleepStacks s r (granulePieces r.off r.len)).isEmpty then accessReq id (endWake landed r s) else s
    | .snoop => if snoopsFor s id 0 || opsFor s id then s else accessReq id s
    | .hold => if moveHolds s r then s else accessReq id (setReq id { r with held := true } s)
    | .tier => if opsFor s id then s else completeReq id s
    | .replay => s

/-- One pass over the requests, in their order of acceptance. -/
def poolPass (s : State) : State := each ((sortBy (fun q => q.2.seq) s.pool.reqs).map (·.1)) advance (startOps s)

/-! ## Acceptance at the Stair engine -/

/-- A request with nothing done yet. -/
def newReq (k : PKind) (f : Frame) (origin : Origin) (tracked : Bool) (off len : Nat) (data : List Byte) (mask : List Bool) : PoolReq :=
  ⟨k, .order, f, origin, tracked, off, len, data, mask, stOK, false, none, 0, 0, false⟩

/-- Enter a request that has passed its checks: it takes its place in the order, and counts for its granules. -/
def enterReq (id : Nat) (r : PoolReq) (e : Nat) (s : State) : State :=
  let (n, s1) := takeId s
  heatAt r.wing r.off r.len (setReq id { r with ent := e, seq := n } s1)

/-- Accept a request under its number: the checks of R299, then its turn. -/
def submit (id : Nat) (r : PoolReq) (own : Nat) (s : State) : State :=
  match poolCheck s r.kind r.frame.pkey r.off r.len own with
  | .error st => poolFinish id st [] (setReq id r s)
  | .ok e => poolPass (enterReq id r e s)

/-- Bytes that the switch's own engine writes within one granule: data returned by a snoop, a pulled block, a ledger word.
False where the granule has no place. -/
def engineWrite (req off part : Nat) (data : List Byte) (s : State) : Bool × State :=
  let g := off / 2 ^ 20
  match allocate g part s with
  | (false, s1) => (false, s1)
  | (true, s1) =>
    let r : PoolReq := newReq .store (mkFrame 4 0x02 0 0 0 0 0 off data.length data) (.mgmt 0) false off data.length data []
    let s2 := markWrite r { s1 with pool := { s1.pool with mem := mwrite s1.pool.mem off data } }
    let s3 := each (writeOps s2 req false (granuleOf s2 g) (g, off % 2 ^ 20, data.length)) addOp s2
    (true, startOps (each (mirrorWrites s3 r) (sendMirror req) s3))

/-- Data returned by a snoop reaches the line's stair. -/
def writeBack (req line : Nat) (data : List Byte) (s : State) : State := (engineWrite req line (linePart s line) data s).2

end Sys2Proof.Machine
end

