-- ==== Sys2Proof/Machine/Xact.lean ====
section
/-! DEFINITION. Loads, stores, atomics, bulk transfers and the tracker at their switch (R51 to R64, R69, R254, R299). -/
namespace Sys2Proof.Machine

/-! ## Serving a request of the inbox -/

/-- The tracker's origin for a port or host port. -/
def originOf (port : Nat) : Origin := if port < 128 then .port port else .host (port - 128)

/-- A request has entered from an endpoint or host of this switch. -/
def fromEdge (s : State) (i : Inbox) : Bool := i.port == 128 || i.port == 129 || (decide (i.port < 128) && !isSidePort s i.port)

/-- Take a request out of the inbox: its number, whether this switch tracks it, and the state in which it does. -/
def mayEnter (id : Nat) (i : Inbox) (s : State) : Nat × Bool × State :=
  let s1 := takeInbox id s
  if i.port = 255 then
    match trackOfFrame s1 i.frame with
    | some (k, _) => (k, true, s1)
    | none => (id, false, s1)
  else if fromEdge s i then (id, true, addTrack id (originOf i.port) i.frame i.frame i.arrived i.port false s1)
  else (id, false, s1)

/-- End an admitted request with an error. -/
def refuse (n : Nat) (tracked : Bool) (f : Frame) (status from_ : Nat) (s : State) : State :=
  if tracked then closeTrackError n status from_ s else answerFree f status (faultRec f status from_ 0xFF 0 s)

/-- Serve an inbox request of some kind that is at the head of its order. -/
def serve (id : Nat) (ok : Frame → Bool) (act : Nat → Bool → Frame → State → State) (s : State) : Out :=
  whenRunning (fun t =>
    match tget t.hall.inbox id with
    | none => t
    | some i =>
      if isAnswer i.frame.cls || i.host.isSome || !ok i.frame || !isHead t id i then t
      else let (n, tracked, t1) := mayEnter id i t; act n tracked i.frame t1) s

/-- Send on the request of a tracker entry in another form. -/
def sendAs (n : Nat) (f : Frame) (s : State) : State :=
  sendTracked n { s with track := { s.track with reqs := tmod s.track.reqs n fun t => { t with sent := f } } }

/-! ## Loads and stores (R51 to R54, R62) -/

/-- The `BULK_GET` of the 4 KiB block that holds a load (R62). -/
def blockGet (f : Frame) : Frame :=
  { f with cls := 5, opc := 0xA1, offset := f.offset / 4096 * 4096, len := 4096, payload := [], pcrc := 0, rsv := 0 }

/-- The `BULK_PUT_MASKED` of a store (R62). -/
def maskedPut (f : Frame) : Frame :=
  let base := f.offset / 4096 * 4096
  let at_ := f.offset - base
  let marks := (upTo 4096).map fun i => decide (at_ ≤ i) && decide (i < at_ + f.len)
  let block := List.replicate at_ 0#8 ++ f.payload
  let p := maskBytes marks ++ slice block 0 4096
  { f with cls := 5, opc := 0xA2, of_ := false, offset := base, len := 4160, payload := p, pcrc := pcrcOf p, rsv := 0 }

/-- A load of this switch's window, of the one-hop domain, or beyond it. -/
def loadAct (n : Nat) (tracked : Bool) (f : Frame) (s : State) : State :=
  if !tracked then refuse n tracked f stUnsupported 1 s
  else if f.dst = nodeSelf s then submit n (newReq .load f (.mgmt 0) true f.offset f.len [] []) 0 s
  else if oneHop s f.dst then sendTracked n s
  else if f.je then refuse n tracked f stUnsupported 0 s
  else sendAs n (blockGet f) s

/-- A store whose turn in the order of its pair has come. -/
def storeGo (n : Nat) (f : Frame) (s : State) : State :=
  if f.dst = nodeSelf s then submit n (newReq .store f (.mgmt 0) true f.offset f.len f.payload []) 0 s
  else if oneHop s f.dst then sendTracked n s
  else sendAs n (maskedPut f) s

/-- An ordered-flag store after every earlier store of its pair has ended (R54). -/
def ofGo (n : Nat) (f : Frame) (s : State) : State :=
  if pairFailed s n f then closeTrackError n stWithheld 3 s else storeGo n f s

/-- A store; an `OF` store waits for the earlier stores of its pair. -/
def storeAct (n : Nat) (tracked : Bool) (f : Frame) (s : State) : State :=
  if !tracked then refuse n tracked f stUnsupported 1 s
  else if f.je ∧ !oneHop s f.dst then refuse n tracked f stUnsupported 0 s
  else if !f.of_ then storeGo n f s
  else if pairClear s n f then ofGo n f s
  else { s with track := { s.track with reqs := tmod s.track.reqs n fun t => { t with held := true } } }

/-- The strand that a tracked request comes from, a source of its own (R95); none for an endpoint or host. -/
def strandOf (o : Origin) : Option Nat := match o with | .strand k _ => some k | _ => none

/-- A store that a load of the same bytes could pass on its way: one that is held (R54), one that travels or was sent again
in another class or form, so that the order of its queue does not keep it first. In this switch's own window the order of R331
does. -/
def mayBePassed (s : State) (t : Track) : Bool :=
  isStoreOpc t.orig.opc && (t.held || (t.orig.dst != nodeSelf s && (t.orig.cls == 5 || converted t || decide (0 < t.repeats))))

/-- An earlier store of the same source to bytes of the same node that a load reads has not ended and could be passed (R53). -/
def loadBlocked (s : State) (id : Nat) (strand : Option Nat) (f : Frame) : Bool :=
  s.track.reqs.any fun p => decide (p.1 < id) && mayBePassed s p.2 && p.2.orig.src == f.src && p.2.orig.dst == f.dst
    && strandOf p.2.origin == strand
    && decide (f.offset < p.2.orig.offset + (if p.2.orig.opc = 0xA2 then 4096 else p.2.orig.len)) && decide (p.2.orig.offset < f.offset + f.len)

/-- A load of the inbox may not pass an earlier store of its bytes (R53). -/
def loadWaits (s : State) (id : Nat) : Bool :=
  match tget s.hall.inbox id with
  | none => false
  | some i =>
    match trackOfFrame s i.frame with
    | some (n, t) => if i.port = 255 then loadBlocked s n (strandOf t.origin) i.frame else loadBlocked s id none i.frame
    | none => loadBlocked s id none i.frame

/-- `LOAD` (R51); it waits behind an earlier store of the same bytes that it could pass. -/
def execLoad (id : Nat) (s : State) : Out :=
  if loadWaits s id then .next s else serve id (fun f => f.opc == 0x01) loadAct s

/-- `STORE` (R51). -/
def execStore (id : Nat) (s : State) : Out := serve id (fun f => f.opc == 0x02) storeAct s

/-- `OF_STORE_RELEASE` (R54): the earlier stores of a held `OF` store have all ended. -/
def execOfStoreRelease (id : Nat) (s : State) : Out :=
  whenRunning (fun t =>
    match tget t.track.reqs id with
    | some e =>
      if e.held ∧ pairClear t id e.orig then
        ofGo id e.orig { t with track := { t.track with reqs := tset t.track.reqs id { e with held := false } } }
      else t
    | none => t) s

/-! ## Atomics and the answer memory (R56 to R61, R63) -/

/-- The check over an atomic (R58): its `OPC`, offset, operand and compare value. -/
def atomicCheck (aopc : Nat) (f : Frame) : Nat :=
  crc32c (toLE 1 aopc ++ toLE 6 f.offset ++ slice f.payload 0 16)

/-- The window of the age test (R60). -/
def ageWindow (s : State) : Nat :=
  let l := rget s R.ANSWER_CFG_ANSWER_RETAIN_US 0
  (s.rf.retainHist.filter fun h => decide (nowUs s < h.2 + l)).foldl (fun m h => min m h.1) l

/-- Age of an atomic (R58). -/
def atomicAge (s : State) (f : Frame) : Int := signed 32 ((nowUs s + 2 ^ 32 - leAt f.payload 16 4) % 2 ^ 32)

/-- The µs of first issue, from its age. -/
def issuedUs (s : State) (f : Frame) : Nat := ((nowUs s : Int) - atomicAge s f).toNat

/-- An atomic issued before the start or the remap that R60 and R61 name. -/
def issuedTooEarly (s : State) (f : Frame) : Bool :=
  decide (issuedUs s f < s.track.acceptFrom) || s.track.barred.any fun b => b.1 == f.src && decide (issuedUs s f < b.2)

/-- The pool request of an atomic. -/
def atomicReq (aopc : Nat) (f : Frame) (tracked : Bool) : PoolReq :=
  newReq (.atomic (aopc % 8) (atomicWidth aopc) (leAt f.payload 0 8) (leAt f.payload 8 8)) f (.mgmt 0) tracked f.offset (atomicWidth aopc) [] []

/-- Answer memory entries not free. -/
def entriesLive (s : State) : Nat := s.track.answers.length

/-- An atomic that no entry answers and that passes the tests of R59: entered as `PENDING` and applied. -/
def atomicApply (n : Nat) (tracked : Bool) (aopc : Nat) (f : Frame) (s : State) : State :=
  let e : AnswerEntry := ⟨f.src, f.tag, true, atomicCheck aopc f, 0, 0, max (nowUs s) (issuedUs s f) + rget s R.ANSWER_CFG_ANSWER_RETAIN_US 0, n, []⟩
  submit n (atomicReq aopc f tracked) 0 { s with track := { s.track with answers := s.track.answers ++ [e] } }

/-- The table of R59 at the home switch. -/
def homeAtomic (n : Nat) (tracked : Bool) (aopc : Nat) (f : Frame) (s : State) : State :=
  let give (r : PoolReq) (st old : Nat) (t : State) : State := deliver n r st (toLE 8 old) t
  if aopc < 0x10 ∨ 0x1F < aopc ∨ f.len ≠ 24 ∨ f.offset % atomicWidth aopc ≠ 0 then refuse n tracked f stIllegal 1 s
  else
    let r := atomicReq aopc f tracked
    match entryOf s f.src f.tag with
    | some e =>
      if e.check ≠ atomicCheck aopc f then refuse n tracked f stTagReused 1 s
      else if e.pending then
        let upd (x : AnswerEntry) : AnswerEntry := if x.src = e.src ∧ x.tag = e.tag then { x with waiting := x.waiting ++ [n] } else x
        setReq n { r with phase := .replay } { s with track := { s.track with answers := s.track.answers.map upd } }
      else give r (repeatStatus e.status) e.old s
    | none =>
      let age := atomicAge s f
      if age < -1000 then refuse n tracked f stIllegal 1 s
      else if (ageWindow s : Int) ≤ age ∨ issuedTooEarly s f then refuse n tracked f stExpired 1 s
      else if 16777216 ≤ entriesLive s then refuse n tracked f stAnswerFull 1 s
      else atomicApply n tracked aopc f s

/-- The `BULK_ATOMIC` of an atomic (R63). -/
def bulkAtomicOf (f : Frame) : Frame :=
  let p := slice f.payload 0 20 ++ [BitVec.ofNat 8 f.opc] ++ slice f.payload 21 3
  { f with cls := 5, opc := 0xA3, payload := p, pcrc := pcrcOf p, rsv := 0 }

/-- An atomic: one for this switch is handled by R59 wherever it came from. -/
def atomicAct (n : Nat) (tracked : Bool) (f : Frame) (s : State) : State :=
  if f.dst = nodeSelf s then homeAtomic n tracked f.opc f s
  else if !tracked then refuse n tracked f stUnsupported 1 s
  else if f.je then (if oneHop s f.dst then sendTracked n s else refuse n tracked f stUnsupported 0 s)
  else if f.len ≠ 24 ∨ f.offset % atomicWidth f.opc ≠ 0 then refuse n tracked f stIllegal 0 s
  else if oneHop s f.dst then sendTracked n s
  else sendAs n (bulkAtomicOf f) s

/-- `ATOMIC` (R59). -/
def execAtomic (id : Nat) (s : State) : Out := serve id (fun f => isAtomicOpc f.opc) atomicAct s

/-- `BULK_ATOMIC` (R63): at the home the op and width of `AOPC` are applied; elsewhere it is sent on unchanged. -/
def execBulkAtomic (id : Nat) (s : State) : Out :=
  serve id (fun f => f.opc == 0xA3) (fun n tracked f t =>
    if f.dst = nodeSelf t then homeAtomic n tracked (leAt f.payload 20 1) f t else sendTracked n t) s

/-- `ANSWER_ENTRY_EXPIRE` (R59): an answered entry is free at its expiry. -/
def execAnswerEntryExpire (src tag : Nat) (s : State) : Out :=
  whenRunning (fun t =>
    match entryOf t src tag with
    | some e =>
      if e.pending then t
      else
        let t1 := atTime (e.expiry * 1000) t
        { t1 with track := { t1.track with answers := t1.track.answers.filter fun x => !(x.src == src && x.tag == tag) } }
    | none => t) s

/-! ## Bulk transfers (R64) -/

/-- How `poolCheck` takes a tracked request: 2 for the writes of a token stream's engine into its own blocks (R312). -/
def ownRight (s : State) (n : Nat) : Nat :=
  match tget s.track.reqs n with
  | some t => (match t.origin with | .stream _ => 2 | _ => 0)
  | none => 0

/-- A bulk transfer: served in this switch's window, sent on otherwise. -/
def bulkAct (k : PKind) (n : Nat) (tracked : Bool) (f : Frame) (s : State) : State :=
  if f.dst ≠ nodeSelf s then sendTracked n s
  else
    match k with
    | .bulkPutMasked =>
      let (marks, s1) := maskMarks (f.payload.take 64) s
      submit n (newReq k f (.mgmt 0) tracked f.offset 4096 (slice f.payload 64 4096) marks) 0 s1
    | _ => submit n (newReq k f (.mgmt 0) tracked f.offset f.len f.payload []) (ownRight s n) s

/-- `BULK_PUT` (R64). -/
def execBulkPut (id : Nat) (s : State) : Out := serve id (fun f => f.opc == 0xA0) (bulkAct .bulkPut) s

/-- `BULK_GET` (R64). -/
def execBulkGet (id : Nat) (s : State) : Out := serve id (fun f => f.opc == 0xA1) (bulkAct .bulkGet) s

/-- `BULK_PUT_MASKED` (R62). -/
def execBulkPutMasked (id : Nat) (s : State) : Out := serve id (fun f => f.opc == 0xA2) (bulkAct .bulkPutMasked) s

/-! ## The tracker (R64, R69) -/

/-- The data of the original request's answer: a load takes its bytes out of the returned block. -/
def answerData (t : Track) (a : Frame) : List Byte :=
  if t.orig.opc = 0x01 ∧ t.sent.opc = 0xA1 then
    if a.status = stOK then slice a.payload (t.orig.offset % 4096) t.orig.len else onesBytes t.orig.len
  else a.payload

/-- The request went on as its source sent it, so that its answer is passed on as it is. -/
def passes (t : Track) : Bool := t.orig.opc == t.sent.opc && (match t.origin with | .port _ => true | _ => false)

/-- Close a tracker entry with an answer that goes to the source unchanged, its generation with it (R370, R412, R522). -/
def closeForwarded (id : Nat) (t : Track) (a : Frame) (s : State) : State :=
  let s1 := pairEnd id (a.status == stOK) (dropTrack id s)
  let s2 := if a.status = stOK ∨ a.status = stReplayed then s1 else faultRec t.orig a.status 1 t.port 0 s1
  let input := match nodePort s2 a.src with | some n => (if n < 128 then n else n + 4) | none => 128
  sendAlong input t.part ⟨false, t.orig.cls == 7⟩ a s2

/-- An answer reaches its first switch. -/
def takeAnswer (a : Frame) (s : State) : State :=
  match findTrack s a with
  | none => rbump R.LATE_ANSWERS_COUNT 0 { s with track := { s.track with late := s.track.late.filter (· != (a.src, a.dst, a.tag)) } }
  | some (id, t) =>
    if a.status = stRouteStale ∧ converted t ∧ t.repeats < 3 then
      repeatTrack id t s
    else if !converted t && (payloadBound s t.orig.src).any (fun b => decide (b < a.payload.length)) then
      countRefused ((nodePort s t.orig.src).getD 255) s
    else if a.je ∨ passes t then closeForwarded id t a s
    else closeTrack id a.status (answerData t a) 1 s

/-- The answer to a mirror write (R313). -/
def mirrorAnswer (k status : Nat) (s : State) : State :=
  match tget s.pool.ops k with
  | some o => if o.kind = .mirror then poolPass (opEnded k status s) else s
  | none => s

/-- `TRACKER_ANSWER` (R69): an answer of the inbox closes its tracker entry; the answer to a mirror write reaches the
write that waits for it. -/
def execTrackerAnswer (id : Nat) (s : State) : Out :=
  whenRunning (fun t =>
    match tget t.hall.inbox id with
    | none => t
    | some i =>
      if !isAnswer i.frame.cls || i.host.isSome then t
      else if i.port = 255 then
        match tget t.pool.ops i.frame.rsv with
        | some o => if o.kind = .mirror then mirrorAnswer i.frame.rsv i.frame.status (takeInbox id t) else t
        | none => t
      else takeAnswer i.frame (takeInbox id t)) s

/-- The last tick of the tracker's grid at or before the limit of a request. -/
def timeoutTick (s : State) (t : Track) : Nat := (t.accepted + 1000 * rget s R.XACT_CFG_REMOTE_TIMEOUT_US 0) / 1000 * 1000

/-- A request that still waits for a tag of its endpoint leaves the Hall: the tracker bounds the wait (R522). -/
def dropWaiting (f : Frame) (s : State) : State :=
  let waits (h : HFrame) : Bool := h.frame.src == f.src && h.frame.dst == f.dst && h.frame.tag == f.tag && h.frame.opc == f.opc
    && !h.moved && h.outs.all fun o => tagsFull s h.frame o.unit
  { s with hall := { s.hall with frames := s.hall.frames.filter (!waits ·) } }

/-- `TRACKER_TIMEOUT` (R69): no answer has come by the tick. -/
def execTrackerTimeout (req : Nat) (s : State) : Out :=
  whenRunning (fun t =>
    match tget t.track.reqs req with
    | some e =>
      let key := (e.sent.dst, e.sent.src, e.sent.tag)
      let t1 := atTime (timeoutTick t e) t
      closeTrackError req (timeoutStatus e.orig) 2 (dropWaiting e.sent { t1 with track := { t1.track with late := key :: t1.track.late.filter (· != key) } })
    | none => t) s

end Sys2Proof.Machine
end

