-- ==== Sys2Proof/Machine/Coherence.lean ====
section
/-! DEFINITION. The commands of coherence: registration, coherent requests, snoop answers and timeouts, stale lines
(R320 to R344). -/
namespace Sys2Proof.Machine

/-! ## Registration (R320 to R323, R339) -/

/-- A CTL message of the inbox with a given `OPC`. -/
def ctlOf (s : State) (id opc : Nat) : Option Inbox :=
  match tget s.hall.inbox id with
  | some i => if i.frame.opc = opc ∧ i.frame.cls = 0 ∧ isHead s id i then some i else none
  | none => none

/-- Run an action on a CTL message and take it out of the inbox. -/
def onCtl (id opc : Nat) (act : Inbox → State → State) (s : State) : Out :=
  whenRunning (fun t => match ctlOf t id opc with
    | some i => act i (takeInbox id t)
    | none => t) s

/-- A registration of a node that is not `FREE`. -/
def slotOfNode (s : State) (node : Nat) : Option (Nat × CSlot) := tfind s.coh.slots fun _ c => c.node == node && c.state != 3

/-- A `CACHE_DECLARE` from a port (R322). -/
def declareCache (port : Nat) (eth : Bool) (node lines : Nat) (s : State) : State :=
  let no (slot reason : Nat) (t : State) : State := cacheState node 2 slot 0 reason false t
  if eth ∨ 128 ≤ port ∨ !bitAt (rget s R.PEER_CAPS_CAPS port) 10 then no 0xFF 3 s
  else
    match slotOfNode s node with
    | some (i, c) =>
      if c.state ≠ 1 then no 0xFF 1 s
      else if c.lines ≠ lines then no i 4 s
      else cacheState node 1 i c.ways 0 false s
    | none =>
      if lines = 0 ∨ 65536 < lines then no 0xFF 4 s
      else if !leaseRoom s node then no 0xFF 2 s
      else
        match lowestFree s.coh.slots 64 with
        | none => no 0xFF 1 s
        | some i =>
          let ways := min 16 (ceilDiv lines 4096)
          let s1 := { s with coh := { s.coh with slots := tset s.coh.slots i ⟨node, 1, ways, lines, port⟩ } }
          -- a lapsed lease starts afresh with the registration (R323, R339)
          let s2 := if (leaseOf s1 node).any (fun l => l.2.state == 1) then s1 else leaseStart node (nowUs s1) s1
          cacheState node 1 i ways 0 true s2

/-- `CACHE_DECLARE` (R322). -/
def execCacheDeclare (id : Nat) (s : State) : Out :=
  onCtl id 0xF4 (fun i t => declareCache i.port i.eth i.frame.src (leAt i.frame.payload 0 4) t) s

/-- `CACHE_RELEASE` (R339): `M` lines are snooped out, every tag is dropped, the slot is releasing until all snoops are
answered. -/
def releaseCache (node : Nat) (s : State) : State :=
  match regSlot s node with
  | none => cacheState node 0 0xFF 0 0 false s
  | some (i, c) =>
    let dirty := s.coh.tags.filter fun t => t.slot == i && t.state == 2
    let s1 := { s with coh := { s.coh with slots := tset s.coh.slots i { c with state := 2 } } }
    let s2 := each dirty (fun t => sendSnoop i t.line true 0 1) s1
    let s3 := setTags (s2.coh.tags.filter fun t => !(t.slot == i && t.state != 2)) s2
    freeReleasing i (cacheState node 0 i c.ways 8 false s3)

def execCacheRelease (id : Nat) (s : State) : Out := onCtl id 0xF6 (fun i t => poolPass (releaseCache i.frame.src t)) s

/-! ## Coherent requests (R329, R332) -/

/-- A coherent request from an endpoint of this switch. -/
def coherentAct (k : PKind) (n : Nat) (tracked : Bool) (f : Frame) (s : State) : State :=
  let form := decide (f.offset % 128 = 0) && decide (f.len = if k = .wbDirty then 128 else 0)
  if !tracked ∨ f.dst ≠ nodeSelf s then refuse n tracked f stUnsupported 0 s
  else if !form then refuse n tracked f stIllegal 1 s
  else if (regSlot s f.src).isNone then refuse n tracked f stUnsupported 1 s
  else submit n (newReq k f (.mgmt 0) true f.offset 128 f.payload []) 0 s

/-- `RD_SHARED` (R332). -/
def execRdShared (id : Nat) (s : State) : Out := serve id (fun f => f.opc == 0x40) (coherentAct .rdShared) s
/-- `RD_OWN` (R332). -/
def execRdOwn (id : Nat) (s : State) : Out := serve id (fun f => f.opc == 0x41) (coherentAct .rdOwn) s
/-- `UPGRADE` (R332). -/
def execUpgrade (id : Nat) (s : State) : Out := serve id (fun f => f.opc == 0x42) (coherentAct .upgrade) s
/-- `WB_DIRTY` (R332). -/
def execWbDirty (id : Nat) (s : State) : Out := serve id (fun f => f.opc == 0x43) (coherentAct .wbDirty) s
/-- `EVICT_CLEAN` (R332). -/
def execEvictClean (id : Nat) (s : State) : Out := serve id (fun f => f.opc == 0x44) (coherentAct .evictClean) s

/-! ## Snoop answers and timeouts (R331, R334, R336) -/

/-- A snoop is over: its tag follows, returned data is written but for a drain, and what waits goes on. -/
def snoopOver (stag : Nat) (n : Snoop) (data : Option (List Byte)) (s : State) : State :=
  let s1 := endSnoop stag s
  let s2 := if n.inv then dropTag n.slot n.line s1
            else match tagAt s1 n.slot n.line with
              | some t => if t.state = 2 then retag n.slot n.line 1 s1 else s1
              | none => s1
  let s3 := match data with
    | some d => if n.purpose = 2 then s2 else writeBack (if n.purpose = 0 ∨ n.purpose = 3 then n.req else 0) n.line d s2
    | none => s2
  poolPass (freeReleasing n.slot s3)

/-- `SNOOP_ANSWER` (R331): the answer of an endpoint to a snoop of this switch. -/
def execSnoopAnswer (id : Nat) (s : State) : Out :=
  whenRunning (fun t =>
    match tget t.hall.inbox id with
    | none => t
    | some i =>
      let f := i.frame
      if !isAnswer f.cls || f.dst != nodeSelf t || i.port == 255 then t
      else
        match tget t.coh.snoops f.tag with
        | none => t
        | some n =>
          if (match tget t.coh.slots n.slot with | some c => c.node != f.src | none => true) then t
          else snoopOver f.tag n (if f.opc = 0x90 ∧ 128 ≤ f.payload.length ∧ f.status = stOK then some (f.payload.take 128) else none) (takeInbox id t)) s

/-- `SNOOP_TIMEOUT` (R336): sent once more, then the registration is revoked. -/
def execSnoopTimeout (stag : Nat) (s : State) : Out :=
  whenRunning (fun t =>
    match tget t.coh.snoops stag with
    | none => t
    | some n =>
      let t1 := rbump R.SNOOP_TIMEOUTS_COUNT 0 (atTime n.deadline t)
      if n.sends = 1 then
        let n' := { n with sends := 2, deadline := t1.clk.now + snoopWait t1 }
        emitSnoop stag n' { t1 with coh := { t1.coh with snoops := tset t1.coh.snoops stag n' } }
      else poolPass (slotLoss n.slot 2 t1)) s

/-! ## Stale lines (R341, R344, R493) -/

/-- `STALE_CLEAR` (R341): for a line or a slot. -/
def execStaleClear (h : Nat) (s : State) : Out :=
  withCmd h 0x31 neverBusy (fun c t =>
    let v := c.arg 8 8
    match c.arg 0 1 with
    | 0 => if v % 128 = 0 ∧ v < 2 ^ 46 then completeWith h c stOK (clearStale (fun g => g.line == v) t) else completeWith h c stIllegal t
    | 1 => if v < 64 then completeWith h c stOK (clearStale (fun g => g.slot == v) t) else completeWith h c stIllegal t
    | _ => completeWith h c stIllegal t) s

/-- `STALE_QUERY` (R344): offsets of stale lines to the buffer, as many as it holds. -/
def execStaleQuery (h : Nat) (s : State) : Out :=
  withCmd h 0x32 neverBusy (fun c t =>
    let slot := c.arg 0 1
    if 64 ≤ slot ∧ slot ≠ 0xFF then completeWith h c stIllegal t
    else
      let lines := sortBy id (dedup' ((t.coh.tags.filter fun g => g.state == 3 && (slot == 0xFF || g.slot == slot)).map (·.line)))
      let some_ := lines.take (c.bufLen / 8)
      let bytes := (some_.map fun l => toLE 8 l).foldl (· ++ ·) []
      let t1 := if some_.isEmpty then t else emit (.dmaWrite h c.buf bytes) t
      complete h c stOK (toLE 8 some_.length ++ toLE 8 lines.length) 0 t1) s

end Sys2Proof.Machine
end

