-- ==== Sys2Proof/Machine/Stairs.lean ====
section
/-! DEFINITION. Moves between stairs and wings, the states of trays, and what the Stair engines do at an epoch boundary
(R256, R260, R265 to R273, R422, R423). -/
namespace Sys2Proof.Machine

/-! ## Moves (R269) -/

/-- The accesses that copy some units of a granule: a unit of a lower stair is read, and then written where the destination
is a lower stair; Stair 0 needs no access to a tray. -/
def copyOps (s : State) (g : Nat) (units : Mask256) : List TierOp :=
  let x := granuleOf s g
  let op (kind : TierKind) (loc u : Nat) : TierOp := ⟨0, g, kind, loc / 2 ^ 26, loc % 2 ^ 26, u, 0, 4096, 0, [], false, 0, 0, true⟩
  let us := (upTo 256).filter fun u => units.getLsbD u
  if x.stair ≠ 0 then us.map (op .read x.loc)
  else if x.destStair ≠ 0 then us.map (op (writeKind s (x.dest / 2 ^ 26)) x.dest)
  else []

/-- A pass of a move begins: its accesses wait for their turn. -/
def beginPass (g : Nat) (m : Move) (s : State) : State :=
  each (copyOps s g m.todo) addOp { s with pool := { s.pool with moves := tset s.pool.moves g m } }

/-- Begin a move towards a place. -/
def startMove (g : Nat) (kind : MoveKind) (stair dest : Nat) (s : State) : State :=
  let s1 := setGranule g { granuleOf s g with moving := true, destStair := stair, dest := dest } s
  beginPass g ⟨kind, 1, 0, none, BitVec.allOnes 256⟩ s1

/-- Copies of a move are still on their way. -/
def copying (s : State) (g : Nat) : Bool := s.pool.ops.any fun o => o.2.copy && o.2.granule == g

/-- Flip: requests accepted from now on are served from the destination; the source waits to be freed. -/
def flipMove (g : Nat) (s : State) : State :=
  let x := granuleOf s g
  let y := { x with
    stair := x.destStair, loc := x.dest
    homeWing := if x.destStair = 0 then wingOf x.dest else x.homeWing
    pinned := x.destStair == 0 && pinsS0 s g }
  let ended := endMove g y s
  let s1 := if x.destStair = 0 then ended else clearSkips x.dest ended
  { s1 with pool := { s1.pool with freeing := s1.pool.freeing ++ [⟨x.stair, x.loc, g, x.part, s1.nextId⟩] } }

/-- Every unit of a granule in a move can be read at its source and written at its destination. -/
def moveCopies (s : State) (g : Nat) : Bool :=
  let x := granuleOf s g
  !(x.stair == 0 && s.pool.bad.any fun c => c / 1024 == g)
    && (upTo 256).all fun u => unitReadable s x.stair x.loc u && unitWritable s x.destStair x.dest u

/-- A pass of a move ends, once every unit that it copies has been read and written: the granule flips, or the units written
meanwhile are copied again, at the fourth pass with new writes held. -/
def passEnd (g : Nat) (s : State) : State :=
  match tget s.pool.moves g with
  | none => s
  | some m =>
    if copying s g then s
    else if !moveCopies s g then poolPass (abandonMove g s)
    else if m.holdSince.isSome ∨ m.dirty = 0 then poolPass (flipMove g s)
    else if m.pass < 4 then startOps (beginPass g { m with pass := m.pass + 1, dirty := 0, todo := m.dirty } s)
    else startOps (beginPass g { m with dirty := 0, holdSince := some s.clk.now, todo := m.dirty } s)

/-- `MOVE_PASS_END` (R269). -/
def execMovePassEnd (g : Nat) (s : State) : Out := whenRunning (passEnd g) s

/-- Timeout of a stair in ns; Stair 0 has none. -/
def stairWait (s : State) (stair : Nat) : Nat :=
  match stair with
  | 1 => 1000 * rget s R.TIER_CFG_S1_TIMEOUT_US 0
  | 2 => 1000 * rget s R.TIER_CFG_S2_TIMEOUT_US 0
  | _ => 0

/-- `MOVE_HOLD_TIMEOUT` (R269): the hold has lasted the source stair's timeout and 16 µs. -/
def execMoveHoldTimeout (g : Nat) (s : State) : Out :=
  whenRunning (fun t =>
    match tget t.pool.moves g with
    | some m =>
      (match m.holdSince with
       | some t0 => poolPass (abandonMove g (atTime (t0 + stairWait t (granuleOf t g).stair + 16000) t))
       | none => t)
    | none => t) s

/-- `MOVE_SOURCE_FREE` (R269): every request accepted before the flip has been answered. -/
def execMoveSourceFree (g : Nat) (s : State) : Out :=
  whenRunning (fun t =>
    let waits (f : Freeing) : Bool := t.pool.reqs.any fun q => q.2.phase != .replay && decide (q.2.seq < f.before)
      && (granulePieces q.2.off q.2.len).any fun p => p.1 == g
    { t with pool := { t.pool with freeing := t.pool.freeing.filter fun f => f.granule != g || waits f } }) s

/-! ## Lower-stair attempts (R266) -/

/-- `TIER_ANSWER` (R266). -/
def execTierAnswer (op tray : Nat) (ok : Bool) (s : State) : Out := whenRunning (fun t => poolPass (opAnswer op tray ok t)) s

/-- `TIER_ATTEMPT_TIMEOUT` (R266). -/
def execTierAttemptTimeout (op : Nat) (s : State) : Out :=
  whenRunning (fun t => match tget t.pool.ops op with
    | some o => if o.attempt = 0 ∨ o.kind = .mirror then t else poolPass (opTimeout op (atTime o.deadline t))
    | none => t) s

/-! ## Trays (R265, R422, R423) -/

/-- Middle of a list of numbers: the mean of the two middle ones where their count is even. -/
def median (l : List Nat) : Nat :=
  let a := sortBy id l
  let n := a.length
  if n % 2 = 1 then a.getD (n / 2) 0 else (a.getD (n / 2 - 1) 0 + a.getD (n / 2) 0) / 2

/-- Trays of a set in a state. -/
def traysIn (s : State) (set : Nat) (st : TrayState) : List Nat :=
  (upTo (rget s R.SET_NTRAYS set)).filter fun t => (trayOf s set t).state == st

/-- The mean read latency of a tray over 100 µs is known. -/
def latencyWindow (set tray ns : Nat) (s : State) : State :=
  let s1 := setTray set tray { trayOf s set tray with latency := ns } s
  let x := trayOf s1 set tray
  let med := median ((traysIn s1 set .up).map fun t => (trayOf s1 set t).latency)
  let pct := rget s1 R.TIER_CFG_SLOW_PCT 0
  let node := rget s1 R.TRAY_NODE (set * 32 + tray)
  let port := (nodePort s1 node).getD 0xFF
  match x.state with
  | .up =>
    if med * pct < ns * 100 then
      report ⟨0x05, 0, portPart s1 port, port, node, set, if med = 0 then 2 ^ 32 else ns * 100 / med, 0⟩
        (setTray set tray { x with state := .slow, belowSince := none } s1)
    else s1
  | .slow =>
    -- below 80 % of the threshold
    if ns * 10000 < med * pct * 80 then
      (match x.belowSince with
       | some _ => s1
       | none => setTray set tray { x with belowSince := some s1.clk.now } s1)
    else setTray set tray { x with belowSince := none } s1
  | _ => s1

/-- `TRAY_LATENCY_WINDOW` (R265). -/
def execTrayLatencyWindow (set tray ns : Nat) (s : State) : Out :=
  whenRunning (fun t => if rbit t R.SET_VALID set ∧ set < 64 ∧ tray < rget t R.SET_NTRAYS set then latencyWindow set tray ns t else t) s

/-- `TRAY_SLOW_CLEAR` (R265): a slow tray has stayed below 80 % of the threshold for 1 ms. -/
def execTraySlowClear (set tray : Nat) (s : State) : Out :=
  whenRunning (fun t =>
    let x := trayOf t set tray
    match x.state, x.belowSince with
    | .slow, some t0 => setTray set tray { x with state := .up, belowSince := none } (atTime (t0 + 1000000) t)
    | _, _ => t) s

/-- The rebuild of a tray onto the spare of its node begins (R422, R425). -/
def rebuildBegin (set tray : Nat) (s : State) : State :=
  let node := rget s R.TRAY_NODE (set * 32 + tray)
  let port := (nodePort s node).getD 0xFF
  report ⟨0x07, 1, portPart s port, port, node, set, 0, 0⟩
    (setTray set tray { trayOf s set tray with state := .rebuilding, rebuildAt := 0, rebuilt := 0, rebuildLost := 0 } s)

/-- The walk of a rebuild has passed every unit: the tray is UP (R422, R423). -/
def rebuildDone (set tray : Nat) (s : State) : State :=
  let x := trayOf s set tray
  let node := rget s R.TRAY_NODE (set * 32 + tray)
  let port := (nodePort s node).getD 0xFF
  report ⟨0x07, 2, portPart s port, port, node, set, x.rebuildLost, 4096 * x.rebuilt⟩
    (setTray set tray { x with state := .up, errs := [], rebuildAt := 0, rebuilt := 0, rebuildLost := 0 } s)

/-- `TRAY_REBUILD_DONE` (R422): the walk passes what is left, unless a write of a row or pair ahead of it is on its way. -/
def execTrayRebuildDone (set tray : Nat) (s : State) : Out :=
  whenRunning (fun t =>
    if (trayOf t set tray).state = .rebuilding ∧ unitsOpen t set tray = unitsAhead t set tray then
      rebuildDone set tray (walkOn set tray (unitsAhead t set tray) t)
    else t) s

/-! ## The frame directory (R260) -/

/-- The 8 bytes of a frame directory entry. -/
def dirEntry (s : State) (e : Nat) : List Byte :=
  let total := rget s R.S0_WING_FRAMES_TOTAL (wingOf e)
  let frame := e % 2 ^ 18
  let pack (g st mv p : Nat) : List Byte := recBytes 8 [(26, g), (2, st), (1, mv), (6, p), (29, 0)]
  if total ≤ frame then pack 0 3 0 0
  else if frame < 896 then pack 0 2 0 0
  else match s.pool.map.find? fun x => x.2.stair == 0 && x.2.loc == e with
    | some x => pack x.1 1 0 x.2.part
    | none => match s.pool.map.find? fun x => x.2.moving && x.2.destStair == 0 && x.2.dest == e with
      | some x => pack x.1 1 1 x.2.part
      | none => match s.pool.freeing.find? fun f => f.stair == 0 && f.loc == e with
        | some f => pack f.granule 1 0 f.part
        | none => match s.ws.plans.find? fun p => p.2.frames.contains e with
          | some p => pack 0 1 0 (rget s R.PLAN_PART p.1)
          | none => pack 0 0 0 0

/-- `S0_QUERY` (R260): entries to the buffer. -/
def execS0Query (h : Nat) (s : State) : Out :=
  withCmd h 0x30 neverBusy (fun c t =>
    let first := c.arg 0 4
    let n := c.arg 4 4
    if 2 ^ 20 < first + n ∨ c.bufLen < 8 * n then completeWith h c stIllegal t
    else
      let bytes := ((upTo n).map fun i => dirEntry t (first + i)).foldl (· ++ ·) []
      completeWith h c stOK (if n = 0 then t else emit (.dmaWrite h c.buf bytes) t)) s

/-! ## The epoch boundary (R256, R267, R268, R272, R273) -/

/-- Heat, age and hot run of a granule at a boundary (R256). The 3 that a store on Stair 2 gave `HOT_RUN` stands at the
boundary after it, so that the granule is first in line for promotion there (R264, log 165). -/
def rollGranule (s : State) (x : Granule) : Granule :=
  { x with
    age := if 0 < x.heat then 0 else min (x.age + 1) 65535
    hotRun := if promoteHeat s ≤ x.heat then min (x.hotRun + 1) 3 else if x.stored then 3 else 0
    heatLast := x.heat, heat := 0, stored := false }

/-- Heat of every granule. -/
def heatRollover (s : State) : State := { s with pool := { s.pool with map := tmap s.pool.map fun _ x => rollGranule s x } }

/-- A granule may be chosen for a move (R267, R301). -/
def movable (s : State) (g : Nat) (x : Granule) : Bool :=
  !x.pinned && !x.moving && (match extentAt s (g * 2 ^ 20) with
    | some (_, e) => e.state == 1 && !e.ledger
    | none => false)

/-- A granule that may be moved down: no directory area of a table lies in it (R232). -/
def demotable (s : State) (g : Nat) (x : Granule) : Bool := movable s g x && !touchesDirectory s (g * 2 ^ 20) (2 ^ 20)

/-- Order of promotions and wing moves: larger `HEAT_LAST`, then lower granule number. -/
def hotOrder (p : Nat × Granule) : Nat := (65535 - p.2.heatLast) * 2 ^ 26 + p.1

/-- Order of evictions and demotions: larger `AGE`, smaller `HEAT_LAST`, lower granule number. -/
def coldOrder (p : Nat × Granule) : Nat := ((65535 - p.2.age) * 65536 + p.2.heatLast) * 2 ^ 26 + p.1

/-- Moves of a kind in progress that meet a test. -/
def movesOf (s : State) (k : MoveKind) (ok : Granule → Bool) : Nat :=
  (s.pool.moves.filter fun m => m.2.kind == k && ok (granuleOf s m.1)).length

/-- Bytes that a rate lets moves copy in an epoch, with what earlier epochs left of it. -/
def epochBytes (s : State) (gbps left : Nat) : Nat := left + gbps * epochLen s

/-- Moves begun so far and the state. -/
abbrev Moving := Nat × State

/-- Try a move of each candidate in order, while fewer than `limit` have begun. -/
def tryMoves (limit : Nat) (cands : List (Nat × Granule)) (one : Nat × Granule → State → Option State) (m : Moving) : Moving :=
  cands.foldl (fun m c => if limit ≤ m.1 then m else match one (c.1, granuleOf m.2 c.1) m.2 with | some s => (m.1 + 1, s) | none => m) m

/-- Move a granule to a lower stair, if a set has a free slot. -/
def moveLower (k : MoveKind) (stair : Nat) (ok : Nat → Bool) (g : Nat) (s : State) : Option State :=
  match destSet s stair ok with
  | none => none
  | some set => match pickSlot set s with
    | (some loc, s1) => some (startMove g k stair loc s1)
    | (none, _) => none

/-- Move a granule to a frame of a wing. -/
def moveS0 (k : MoveKind) (w g : Nat) (s : State) : Option State :=
  match pickFrame w s with
  | (some e, s1) => some (startMove g k 0 e s1)
  | (none, _) => none

/-- A granule of a lower stair is hot enough for promotion. -/
def promotable (s : State) (x : Granule) : Bool := (x.stair == 1 || x.stair == 2) && decide (promoteEpochs s ≤ x.hotRun)

/-- A promotion (R267). -/
def promote (c : Nat × Granule) (s : State) : Option State :=
  if movable s c.1 c.2 ∧ promotable s c.2 ∧ s0Use s c.2.part < s0Quota s c.2.part then
    match allocWing s c.2.part with
    | some w => moveS0 .promote w c.1 s
    | none => none
  else none

/-- The wings from which evictions take granules: from below `FREE_LOW` until `FREE_HIGH` is reached (R267). -/
def evictWings (s : State) : State :=
  let on (w : Nat) : Bool := decide (freeFrames s w < freeLow s) || (s.pool.evicting.contains w && decide (freeFrames s w < freeHigh s))
  { s with pool := { s.pool with evicting := (upTo 4).filter on } }

/-- Granules that evictions have still to take from a wing. -/
def evictWanted (s : State) (w : Nat) : Nat :=
  if s.pool.evicting.contains w then freeHigh s - freeFrames s w - movesOf s .evict (fun x => wingOf x.loc == w) else 0

/-- Granules that a partition with a reservation has to evict to make room for its own (R272): those that wait for promotion
beyond what its quota still holds, less the evictions in progress. -/
def ownRoom (s : State) (p : Nat) : Nat :=
  (s.pool.map.filter fun x => x.2.part == p && promotable s x.2).length - (s0Quota s p - s0Use s p) - movesOf s .evict (fun x => x.part == p)

/-- An eviction (R267, R272): a granule under a reservation leaves only for a hotter one of its own partition (log 166). -/
def evict (w : Nat) (c : Nat × Granule) (s : State) : Option State :=
  let wanted := if reserves s c.2.part then decide (0 < ownRoom s c.2.part) && decide (c.2.hotRun < promoteEpochs s) else decide (0 < evictWanted s w)
  if demotable s c.1 c.2 ∧ c.2.stair = 0 ∧ wingOf c.2.loc = w ∧ wanted then
    match moveLower .evict 1 (fun _ => true) c.1 s with
    | some t => some t
    | none => moveLower .evict 2 (fun _ => true) c.1 s
  else none

/-- Granules that a partition still has to demote under a cut (R273): `DEMOTE_PENDING`. -/
def demotePending (s : State) (p : Nat) : Nat := s0Use s p - s0Quota s p

/-- A quota demotion. -/
def cutMove (c : Nat × Granule) (s : State) : Option State :=
  if demotable s c.1 c.2 ∧ c.2.stair = 0 ∧ movesOf s .cut (fun x => x.part == c.2.part) < demotePending s c.2.part then
    moveLower .cut 1 (fun _ => true) c.1 s
  else none

/-- No Stair 1 set has a free slot. -/
def stair1Full (s : State) : Bool := (destSet s 1 fun _ => true).isNone

/-- A demotion from Stair 1 to Stair 2. -/
def demote (c : Nat × Granule) (s : State) : Option State :=
  let old := decide (demoteAge s ≠ 0) && decide (demoteAge s ≤ c.2.age)
  if demotable s c.1 c.2 ∧ c.2.stair = 1 ∧ (old || stair1Full s) then moveLower .demote 2 (fun _ => true) c.1 s else none

/-- The wing from whose galleries more than 75 % of the requests came. -/
def requestWing (x : Granule) : Option Nat :=
  let total := sumN x.galReq
  (upTo 4).find? fun w => decide (w ≠ wingOf x.loc) && decide (3 * total < 4 * x.galReq.getD w 0)

/-- A wing move within Stair 0. -/
def wingMove (c : Nat × Granule) (s : State) : Option State :=
  match requestWing c.2 with
  | some w => if movable s c.1 c.2 ∧ c.2.stair = 0 ∧ freeHigh s < freeFrames s w then moveS0 .wing w c.1 s else none
  | none => none

/-- A granule leaves a draining set for another set of its stair. -/
def drainMove (c : Nat × Granule) (s : State) : Option State :=
  if movable s c.1 c.2 ∧ (c.2.stair = 1 ∨ c.2.stair = 2) ∧ rbit s R.SET_DRAIN (c.2.loc / 2 ^ 26) then
    moveLower .drain c.2.stair (fun _ => true) c.1 s
  else none

/-- Evictions that cannot take place are reported once (R268). -/
def reportFull (s : State) : State :=
  let waiting := (upTo 4).filter fun w => 0 < evictWanted s w
  let full := !waiting.isEmpty && stair1Full s && (destSet s 2 fun _ => true).isNone
  let s1 := { s with pool := { s.pool with stairFull := full } }
  if full && !s.pool.stairFull then report ⟨0x0B, 0, none, 0xFF, waiting.headD 0, 0, sumN (waiting.map (evictWanted s)), 0⟩ s1 else s1

/-- Pinned granules and buffer frames of a partition on Stair 0. -/
def pinnedUse (s : State) (p : Nat) : Nat :=
  (s.pool.map.filter fun x => x.2.part == p && x.2.stair == 0 && x.2.pinned).length
    + sumN (s.ws.plans.map fun q => if rget s R.PLAN_PART q.1 = p then q.2.frames.length else 0)

/-- Pinned granules that alone exceed a quota are reported once (R273). -/
def reportPinned (s : State) : State :=
  each (upTo 64) (fun p t =>
    let beyond := decide (s0Quota t p < pinnedUse t p)
    let was := t.pool.quotaPinned.contains p
    let t1 := { t with pool := { t.pool with quotaPinned := if beyond then (if was then t.pool.quotaPinned else t.pool.quotaPinned ++ [p]) else t.pool.quotaPinned.filter (· != p) } }
    if beyond && !was then report ⟨0x0C, 0, some p, 0xFF, 0, 0, (pinnedUse t p - s0Quota t p) / 1024, 0⟩ t1 else t1) s

/-- The moves chosen at a boundary: quota demotions at `CUT_GBPS`, all others at `MIGRATE_GBPS`, together at most 256 GB/s
(R267, R268). -/
def chooseMoves (s : State) : State :=
  let cold := sortBy coldOrder s.pool.map
  let hot := sortBy hotOrder s.pool.map
  let bySlot := sortBy (fun p : Nat × Granule => p.2.loc % 2 ^ 26) s.pool.map
  let cuts := (upTo 64).any fun p => 0 < demotePending s p
  let cutRate := if cuts then rget s R.PLACE_RATE_CUT_GBPS 0 else 0
  let moveRate := min (rget s R.PLACE_RATE_MIGRATE_GBPS 0) (256 - cutRate)
  let cutBytes := epochBytes s cutRate s.pool.cutLeft
  let moveBytes := epochBytes s moveRate s.pool.moveLeft
  let limit := moveBytes / 2 ^ 20
  let (cutN, s1) := tryMoves (cutBytes / 2 ^ 20) cold cutMove (0, evictWings s)
  let m1 := tryMoves limit hot promote (0, s1)
  let m2 := (upTo 4).foldl (fun m w => tryMoves limit cold (evict w) m) m1
  let m3 := tryMoves limit cold demote m2
  let m4 := tryMoves limit hot wingMove m3
  let m5 := tryMoves limit bySlot drainMove m4
  let s2 := startOps (reportPinned (reportFull m5.2))
  { s2 with pool := { s2.pool with
    map := tmap s2.pool.map fun _ x => { x with galReq := [] }
    cutLeft := (cutBytes - cutN * 2 ^ 20) % 2 ^ 20
    moveLeft := (moveBytes - m5.1 * 2 ^ 20) % 2 ^ 20 } }

/-- Count the granules held in Stair 0 at a boundary (R40). -/
def meterGranules (s : State) : State := each (upTo 64) (fun p t => meter p 5 (s0Use t p) t) s

end Sys2Proof.Machine
end

