-- ==== Sys2Proof/Machine/Extents.lean ====
section
/-! DEFINITION. Extents and holder leases: grants, fencing, draining, scrubbing, lapse (R297 to R309, R342). -/
namespace Sys2Proof.Machine

/-! ## Token-stream contexts that an extent takes with it (R306, R312) -/

/-- Change a token-stream context. -/
def setCtx (c : Nat) (x : StreamCtx) (s : State) : State := { s with pool := { s.pool with streams := tset s.pool.streams c x } }

/-- The command in progress for a context completes: `RESULT` byte 0 is the context's `LSTATE`. -/
def streamCmdDone (c status : Nat) (s : State) : State :=
  match tget s.pool.streams c with
  | none => s
  | some x =>
    match x.cmd with
    | none => s
    | some (h, tag) =>
      let p := hostPort s h
      let s1 := setCtx c { x with cmd := none } s
      match p.running.find? fun b => b.tag == tag && b.obj == x.sid with
      | some b => completeRaw h b.tag b.code status (toLE 1 x.lstate) 0 (b2n b.irq) (setHost h { p with running := p.running.erase b } s1)
      | none => s1

/-- A context becomes `LOST`. -/
def ctxLost (c : Nat) (s : State) : State :=
  match tget s.pool.streams c with
  | some x => streamCmdDone c stOK (rbump R.STREAMS_LOST_COUNT 0 (setCtx c { x with lstate := 4, step := .idle } s))
  | none => s

/-- Contexts with a block in an extent. -/
def ctxIn (s : State) (e : Extent) : List Nat := dedup' ((s.pool.blocks.filter fun b => e.holds b.1).map fun b => b.2.1)

/-! ## Fencing (R304, R306) -/

/-- The granules of an extent that the map lists. -/
def granulesIn (s : State) (e : Extent) : List (Nat × Granule) := s.pool.map.filter fun p => decide (e.baseG ≤ p.1) && decide (p.1 < e.baseG + e.lenG)

/-- Fence an extent: marked everywhere, its moves abandoned, its stream contexts lost. -/
def fenceExtent (e : Nat) (s : State) : State :=
  match tget s.pool.extents e with
  | none => s
  | some x =>
    if x.state ≠ 1 then s
    else
      let s1 := setExtent e { x with state := 2, markId := s.nextId } s
      let s2 := each (granulesIn s1 x) (fun p => abandonMove p.1) s1
      each (ctxIn s2 x) (fun c t => match tget t.pool.streams c with
        | some y => if y.lstate = 4 then t else ctxLost c t
        | none => t) s2

/-- Tags of lines of an extent that an endpoint may still hold. -/
def heldIn (s : State) (x : Extent) : List CTag := s.coh.tags.filter fun g => x.holds g.line && (g.state == 1 || g.state == 2)

/-- The filter is walked for lines of an extent: every endpoint that may hold one is sent `SNP_INV` (R342). -/
def walkFilter (e : Nat) (x : Extent) (s : State) : State := each (heldIn s x) (fun g => sendSnoop g.slot g.line true e 2) s

/-- `FENCE_CONFIRMED` (R304): every engine and port has the mark; the filter is walked for lines of the extent (R342). -/
def execFenceConfirmed (e : Nat) (s : State) : Out :=
  whenRunning (fun t =>
    match tget t.pool.extents e with
    | none => t
    | some x =>
      if x.state ≠ 2 then t
      else walkFilter e x (setExtent e { x with state := 3, tD := t.clk.now } t)) s

/-- Requests to an extent that were accepted before its mark and are not answered. -/
def drainLeft (s : State) (e : Nat) (x : Extent) : List Nat :=
  (s.pool.reqs.filter fun q => q.2.ent == e && decide (q.2.seq < x.markId)).map (·.1)

/-- The extent is free: granules return to `UNBACKED`, every byte reads zero again, stale tags are cleared, and a lease
that nothing needs ends. -/
def freeExtent (e : Nat) (s : State) : State :=
  match tget s.pool.extents e with
  | none => s
  | some x =>
    let gone (off : Nat) : Bool := decide (x.baseG * 2 ^ 20 ≤ off) && decide (off < (x.baseG + x.lenG) * 2 ^ 20)
    let inside (g : Nat) : Bool := decide (x.baseG ≤ g) && decide (g < x.baseG + x.lenG)
    let p := s.pool
    let p' := { p with
      map := tfilter p.map fun g _ => !inside g
      moves := tfilter p.moves fun g _ => !inside g
      mem := mzero p.mem (x.baseG * 2 ^ 20) (x.lenG * 2 ^ 20)
      bad := p.bad.filter fun c => !inside (c / 1024)
      blocks := tfilter p.blocks fun b _ => !gone b
      handing := tfilter p.handing fun b _ => !gone b
      extents := tset p.extents e ⟨0, false, false, false, false, 0, 0x7FFF, 0, 0, 0, x.grants, 0, 0, []⟩ }
    let s1 := setTags (s.coh.tags.filter fun t => !gone t.line) { s with pool := p' }
    poolPass (freeDeadSlots s1)

/-- The drain is over: scrub from now on, or free. -/
def leaveDraining (e : Nat) (s : State) : State :=
  match tget s.pool.extents e with
  | none => s
  | some x => if x.scrub then setExtent e { x with state := 4, tD := s.clk.now, scrubbed := [] } s else freeExtent e s

/-- Every request accepted before the mark is answered and every snoop of the walk is over: lines that those requests granted
meanwhile are walked again, and then the drain is over (R304, R342). -/
def drainOver (e : Nat) (x : Extent) (s : State) : State :=
  if snoopsFor s e 2 then s
  else if (heldIn s x).isEmpty then leaveDraining e s
  else walkFilter e x s

/-- `DRAIN_DONE` (R304, R342). -/
def execDrainDone (e : Nat) (s : State) : Out :=
  whenRunning (fun t =>
    match tget t.pool.extents e with
    | none => t
    | some x => if x.state = 3 ∧ (drainLeft t e x).isEmpty then drainOver e x t else t) s

/-- Drop a request's answer: its operations and snoops end with it. -/
def abandonReq (id : Nat) (s : State) : State :=
  let s1 := dropReq id s
  { s1 with
    pool := { s1.pool with ops := tfilter s1.pool.ops fun _ o => o.req != id }
    coh := { s1.coh with snoops := tfilter s1.coh.snoops fun _ n => !(n.req == id && (n.purpose == 0 || n.purpose == 3)) } }

/-- `DRAIN_TIMEOUT` (R304): requests still unanswered after `REMOTE_TIMEOUT_US` are abandoned and counted. -/
def execDrainTimeout (e : Nat) (s : State) : Out :=
  whenRunning (fun t =>
    match tget t.pool.extents e with
    | none => t
    | some x =>
      if x.state ≠ 3 then t
      else
        let t1 := atTime (x.tD + 1000 * rget t R.XACT_CFG_REMOTE_TIMEOUT_US 0) t
        let left := drainLeft t1 e x
        drainOver e x (poolPass (radd R.DRAIN_ABANDONED_COUNT 0 left.length (each left abandonReq t1)))) s

/-! ## Scrubbing (R305, R306) -/

/-- Backed granules of an extent that are not zeroed yet. -/
def scrubLeft (s : State) (x : Extent) : List Nat :=
  ((granulesIn s x).filter fun p => p.2.stair != 3 && !x.scrubbed.contains p.1).map (·.1)

/-- Time that zeroing n granules takes at `SCRUB_GBPS`, in ns; a rate of 0 counts as 1. -/
def scrubNs (s : State) (n : Nat) : Nat := ceilDiv (n * 2 ^ 20) (max 1 (rget s R.EXT_CFG_SCRUB_GBPS 0))

/-- Zero one unit of a slot on every tray that holds it: both copies, or the data and the parity of its row. -/
def scrubUnit (set slot u : Nat) (s : State) : State :=
  let p := placeOf s set slot u
  let zeros : List Byte := List.replicate 4096 0#8
  each (([p.data, p.other]).filter (trayWrites s set)) (fun t => emitTray set t p.off 4096 true zeros) s

/-- Zero a backed granule on its stair. -/
def scrubGranule (g : Nat) (s : State) : State :=
  let x := granuleOf s g
  let s1 := meterStair x.part x.stair true (2 ^ 20) s
  if x.stair = 0 then useWing (wingOf x.loc) s1
  else each (upTo 256) (scrubUnit (x.loc / 2 ^ 26) (x.loc % 2 ^ 26)) s1

/-- What a scrub has zeroed by now, in the order of the granules: so far a reset finds it (R306). -/
def scrubSoFar (e : Nat) (x : Extent) (s : State) : State :=
  let done := (scrubLeft s x).take ((s.clk.now - x.tD) * rget s R.EXT_CFG_SCRUB_GBPS 0 / 2 ^ 20)
  setExtent e { x with scrubbed := x.scrubbed ++ done } (each done scrubGranule s)

/-- `SCRUB_DONE` (R305): every backed granule is zeroed at the rate set, and the extent is free. -/
def execScrubDone (e : Nat) (s : State) : Out :=
  whenRunning (fun t =>
    match tget t.pool.extents e with
    | some x =>
      if x.state = 4 then
        let left := scrubLeft t x
        freeExtent e (each left scrubGranule (atTime (x.tD + scrubNs t left.length) t))
      else t
    | none => t) s

/-! ## Grants and revocations (R298) -/

/-- What a grant asks for. -/
def grantOf (args : List Byte) : Extent :=
  let f := leAt args 2 1
  ⟨1, bitAt f 0, bitAt f 1, bitAt f 2, bitAt f 3, leAt args 3 1, leAt args 4 2, leAt args 8 4, leAt args 12 4, leAt args 16 1, 0, 0, 0, []⟩

/-- The checks of a grant that need no live state. -/
def grantForm (args : List Byte) : Bool :=
  let x := grantOf args
  decide (leAt args 2 1 < 16) && decide (x.part < 64) && decide (x.holder < 2 ^ 15) && decide (leAt args 6 2 = 0)
    && decide (1 ≤ x.lenG) && decide (x.lenG ≤ 2 ^ 26) && decide (x.baseG < 2 ^ 26) && decide (x.baseG + x.lenG ≤ 2 ^ 26)
    && !(x.ledger && x.stream)
    && (if x.stream then decide (12 ≤ x.blockLog2) && decide (x.blockLog2 ≤ 17) else x.blockLog2 == 0)
    && (args.drop 17).all (· == 0#8)

/-- `EXT_GRANT` (R298): staged. -/
def execExtGrant (h : Nat) (s : State) : Out :=
  withCmd h 0x20 neverBusy (fun c t => if grantForm c.args then stageCmd h c (c.arg 0 2) [] t else completeWith h c stIllegal t) s

/-- `EXT_REVOKE` (R298): staged. -/
def execExtRevoke (h : Nat) (s : State) : Out :=
  withCmd h 0x21 neverBusy (fun c t => if c.restZero 2 then stageCmd h c (c.arg 0 2) [] t else completeWith h c stIllegal t) s

/-- Two ranges of granules overlap. -/
def overlaps (a b : Extent) : Bool := decide (a.baseG < b.baseG + b.lenG) && decide (b.baseG < a.baseG + a.lenG)

/-- The set on which a `LEDGER` extent is placed: `MIRROR2`, with room for all of it (R298, R301). -/
def ledgerSet (s : State) (n : Nat) : Option Nat := destSet s 1 fun k => !isParity s k && decide (n ≤ slotsFree s k)

/-- The checks of a grant at its boundary: the status of a refusal. -/
def grantStatus (s : State) (e : Nat) (x : Extent) : Option Nat :=
  if (match tget s.pool.extents e with | some y => y.state != 0 | none => false) then some stIllegal
  else if s.pool.extents.any (fun y => y.2.state != 0 && overlaps x y.2) then some stIllegal
  else if x.holder ≠ 0x7FFF ∧ (!oneHop s x.holder || x.holder == nodeSelf s || !leaseRoom s x.holder
      || (match leaseOf s x.holder with | some (_, l) => l.state == 2 | none => false)) then some stIllegal
  else if x.ledger ∧ (ledgerSet s x.lenG).isNone then some stIllegal
  else if rget s R.EXT_QUOTA_QUOTA_GIB x.part * 1024 < extUse s x.part + x.lenG then some stQuota
  else none

/-- Allocate the granules of a `LEDGER` extent in full on one set. -/
def allocLedger (x : Extent) (s : State) : State :=
  match ledgerSet s x.lenG with
  | none => s
  | some k => each (upTo x.lenG) (fun i t => (allocLower (x.baseG + i) x.part 1 (fun j => j == k) t).2) s

/-- A grant takes effect. -/
def makeExtent (e : Nat) (x : Extent) (s : State) : State :=
  let grants := match tget s.pool.extents e with | some y => y.grants | none => 0
  let s1 := setExtent e { x with grants := (grants + 1) % 2 ^ 16 } s
  let s2 := if x.holder ≠ 0x7FFF ∧ (leaseOf s1 x.holder).isNone then leaseStart x.holder (nowUs s1) s1 else s1
  if x.ledger then allocLedger x s2 else s2

/-- A stage report entry about an object (R497). -/
def reportObject (addr kind : Nat) (src : Source) (status written : Nat) (s : State) : State :=
  stageEntry (stageBytes (epochNow s) addr 0 0 kind src status written 0) s

/-- The staged grants and revocations at their boundary, judged on the entries' states before it. -/
def commitExtents (cmds : List StagedCmd) (s : State) : State :=
  let mine := cmds.filter fun c => c.code == 0x20 || c.code == 0x21
  let before (e : Nat) : Nat := match tget s.pool.extents e with | some x => x.state | none => 0
  let has (code e : Nat) : Bool := mine.any fun c => c.code == code && c.obj == e
  let addr (e : Nat) : Nat := 0x01000000 + e * 16
  each mine (fun c t =>
    let refuse_ (st : Nat) : State := reportObject (addr c.obj) 2 c.source st c.tag t
    if before c.obj = 0 ∧ has 0x20 c.obj ∧ has 0x21 c.obj then reportObject (addr c.obj) 4 c.source 0 c.tag t
    else if c.code = 0x20 then
      if before c.obj ≠ 0 ∨ c.lapsed then refuse_ stIllegal
      else match grantStatus t c.obj (grantOf c.args) with
        | some st => refuse_ st
        | none => makeExtent c.obj (grantOf c.args) t
    else if before c.obj = 1 then fenceExtent c.obj t
    else refuse_ stIllegal) s

end Sys2Proof.Machine
end

