-- ==== Sys2Proof/Machine/TokenStreams.lean ====
section
/-! DEFINITION. Token streams: contexts, the ownership ledger, handoff, takeover and polling (R310 to R319). -/
namespace Sys2Proof.Machine

/-! ## Own requests -/

/-- Send a request of one of this switch's own units on its way, whatever its kind and target. -/
def routeOwn (n : Nat) (f : Frame) (s : State) : State :=
  if f.opc = 0x01 then loadAct n true f s
  else if f.opc = 0x02 then storeAct n true f s
  else if isAtomicOpc f.opc then atomicAct n true f s
  else if f.opc = 0xA3 then (if f.dst = nodeSelf s then homeAtomic n true (leAt f.payload 20 1) f s else sendTracked n s)
  else if f.opc = 0xA0 then bulkAct .bulkPut n true f s
  else if f.opc = 0xA1 then bulkAct .bulkGet n true f s
  else if f.opc = 0xA2 then bulkAct .bulkPutMasked n true f s
  else sendTracked n s

/-- Issue a request of an own unit with a `TAG` of its own: its tracker number and the state. -/
def ask (origin : Origin) (f : Frame) (s : State) : Nat × State :=
  let g := { f with tag := s.nextId % 2 ^ 20 }
  let (n, s1) := issue origin g s
  (n, routeOwn n g s1)

/-! ## Context records (R310) -/

/-- Node and offset of a fabric address (R41). -/
def addrNode (a : Nat) : Nat := bitsOf a 48 15
def addrOff (a : Nat) : Nat := a % 2 ^ 48

/-- The fields of a context record. -/
def ctxOf (b : List Byte) : StreamCtx where
  sid := leAt b 0 4
  part := leAt b 4 1 % 64
  lstate := 5
  pkey := leAt b 6 2
  nblocks := leAt b 8 4
  gen := leAt b 12 4
  list := leAt b 16 8
  ledger := leAt b 24 8
  mirror := leAt b 32 8
  peerList := leAt b 40 8
  peer := leAt b 48 2
  step := .idle
  pulled := 0
  fromMirror := false
  srcBlocks := []
  part4k := 0
  casCmp := 0
  casNew := 0
  casTag := 0
  casIssue := 0
  casId := none
  casTries := 0
  pollId := none
  pollOld := false
  pullId := none
  since := 0
  nextPoll := 0
  cmd := none

/-- The 64 bytes of a context's record. -/
def ctxBytes (x : StreamCtx) : List Byte :=
  toLE 4 x.sid ++ toLE 1 x.part ++ toLE 1 x.lstate ++ toLE 2 x.pkey ++ toLE 4 x.nblocks ++ toLE 4 x.gen ++ toLE 8 x.list
    ++ toLE 8 x.ledger ++ toLE 8 x.mirror ++ toLE 8 x.peerList ++ toLE 2 x.peer ++ toLE 14 0

/-- The form of a record for a command; only `STREAM_ACCEPT` names a list of the peer. -/
def ctxForm (accepts : Bool) (b : List Byte) : Bool :=
  let x := ctxOf b
  decide (b.length = 64) && decide (leAt b 4 1 < 64) && decide (leAt b 5 1 < 8) && decide (1 ≤ x.nblocks) && decide (x.nblocks ≤ 65536)
    && decide (x.list < 2 ^ 63) && decide (x.ledger < 2 ^ 63) && decide (x.mirror < 2 ^ 63) && decide (x.peerList < 2 ^ 63)
    && decide (x.ledger % 16 = 0) && decide (x.peer < 2 ^ 15) && (accepts || x.peerList == 0) && (b.drop 50).all (· == 0#8)

/-- The context of a stream. -/
def ctxBySid (s : State) (sid : Nat) : Option (Nat × StreamCtx) := tfind s.pool.streams fun _ x => x.sid == sid

/-- Change the context under a number where it exists. -/
def modCtx (c : Nat) (f : StreamCtx → StreamCtx) (s : State) : State :=
  { s with pool := { s.pool with streams := tmod s.pool.streams c f } }

/-- The offsets that a block list names, from entry `from_` on. -/
def listBlocks (s : State) (x : StreamCtx) (from_ : Nat) : List Nat :=
  (upTo (x.nblocks - from_)).map fun i => leNat (mread s.pool.mem (addrOff x.list + 8 * (from_ + i)) 8)

/-- The checks of a block list and its blocks (R299, R311): the failing status. -/
def listStatus (s : State) (x : StreamCtx) (from_ : Nat) : Option Nat :=
  if addrNode x.list ≠ nodeSelf s then some stIllegal
  else if keyPart s x.pkey ≠ some x.part then some stDenied
  else match poolCheck s .load x.pkey (addrOff x.list) (8 * x.nblocks) 0 with
    | .error st => some st
    | .ok _ =>
      if (linesOf (addrOff x.list) (8 * x.nblocks)).any (isStale s) then some stStaleLine
      else
        let bs := listBlocks s x from_
        let good (b : Nat) : Bool := match extentAt s b with
          | some (_, e) => e.stream && e.state == 1 && e.part == x.part && decide (b % 2 ^ e.blockLog2 = 0)
              && decide (e.baseG * 2 ^ 20 + mapBlocks e * 2 ^ e.blockLog2 ≤ b) && !thas s.pool.blocks b
          | none => false
        if bs.all good ∧ (dedup' bs).length = bs.length then none else some stIllegal

/-- Enter the blocks of a context in the block map, from index `from_` on. -/
def mapCtx (c from_ : Nat) (x : StreamCtx) (s : State) : State :=
  each (enum' (listBlocks s x from_)) (fun p t =>
    { t with pool := { t.pool with blocks := tset t.pool.blocks p.2 (c, from_ + p.1) } }) s

/-- Make a context for a command, or end the command with the failing status. -/
def newCtx (h : Nat) (c : Cmd) (x : StreamCtx) (go : Nat → State → State) (s : State) : State :=
  if (ctxBySid s x.sid).isSome then completeWith h c stIllegal s
  else match listStatus s x 0 with
    | some st => completeWith h c st s
    | none =>
      if 262144 ≤ s.pool.streams.length then completeWith h c stQuota s
      else match lowestFree s.pool.streams 262144 with
        | none => completeWith h c stQuota s
        | some n => go n (mapCtx n 0 x (setCtx n { x with cmd := some (h, c.tag) } (beginB h c x.sid s)))

/-- Free a context: its blocks belong to no stream. -/
def freeCtx (c : Nat) (s : State) : State :=
  { s with pool := { s.pool with streams := tdel s.pool.streams c, blocks := tfilter s.pool.blocks fun _ b => b.1 != c } }

/-! ## The ledger (R314 to R316) -/

/-- A ledger word 0. -/
def ledgerWord (gen state owner target : Nat) : Nat := packBits [(32, gen), (2, state), (15, owner), (15, target)]

/-- The `CAS` frame of a context: an atomic at home, `BULK_ATOMIC` elsewhere. -/
def casFrame (s : State) (x : StreamCtx) : Frame :=
  let node := addrNode x.ledger
  let self := node = nodeSelf s
  let p := toLE 8 x.casNew ++ toLE 8 x.casCmp ++ toLE 4 x.casIssue ++ toLE 1 (if self then 0 else 0x19) ++ toLE 3 0
  mkFrame (if self then 4 else 5) (if self then 0x19 else 0xA3) node (nodeSelf s) x.pkey x.casTag 0 (addrOff x.ledger) 24 p

/-- Send the `CAS` of a context. -/
def sendCasFrame (c : Nat) (s : State) : State :=
  match tget s.pool.streams c with
  | none => s
  | some x =>
    let f := casFrame s x
    let (n, s1) := issue (.ledger c) f s
    routeOwn n f (modCtx c (fun y => { y with casId := some n }) s1)

/-- Begin a `CAS` from one ledger word to another. -/
def startCas (c : Nat) (step : StreamStep) (cmp new : Nat) (s : State) : State :=
  let tag := s.nextId % 2 ^ 20
  sendCasFrame c (modCtx c (fun x => { x with step := step, casCmp := cmp, casNew := new, casTag := tag, casIssue := nowUs s % 2 ^ 32, casTries := 0 }) s)

/-- Read ledger word 0: an 8-byte `LOAD` at home, the 4 KiB block elsewhere. -/
def readLedger (c : Nat) (s : State) : State :=
  match tget s.pool.streams c with
  | none => s
  | some x =>
    let node := addrNode x.ledger
    let off := addrOff x.ledger
    let f := if node = nodeSelf s then mkFrame 4 0x01 node (nodeSelf s) x.pkey 0 0 off 8 []
             else mkFrame 5 0xA1 node (nodeSelf s) x.pkey 0 0 (off / 4096 * 4096) 4096 []
    let (n, s1) := ask (.poll c) f s
    modCtx c (fun y => { y with pollId := some n, pollOld := false, nextPoll := s1.clk.now + 1000 * rget s1 R.STREAM_CFG_POLL_US 0 }) s1

/-- The word in the answer of a ledger read. -/
def wordOf (x : StreamCtx) (a : Frame) : Nat := if a.payload.length = 8 then leAt a.payload 0 8 else leAt a.payload (addrOff x.ledger % 4096) 8

/-- A handoff has ended without a claim at one of its parties: 0 source, 1 target. -/
def reverted (party : Nat) (x : StreamCtx) (s : State) : State :=
  report ⟨0x0F, 0, some x.part, 0xFF, x.sid, party, 0, x.gen⟩ (rbump R.HANDOFF_REVERTED_COUNT 0 s)

/-- A context settles in a state, and its command completes. -/
def settle (c lstate status : Nat) (s : State) : State :=
  streamCmdDone c status (modCtx c (fun x => { x with lstate := lstate, step := .idle }) s)

/-- The target gives up: its blocks stay closed. -/
def targetGone (c : Nat) (x : StreamCtx) (s : State) : State := settle c 3 stOK (reverted 1 x s)

/-- The source's handoff fails: its blocks are open again. -/
def sourceBack (c status : Nat) (x : StreamCtx) (s : State) : State := settle c 0 status (reverted 0 x s)

/-! ## Pulls of the target (R318) -/

/-- Block size of a context's blocks, from the extent of one of them. -/
def blockSize (s : State) (c : Nat) : Nat :=
  match s.pool.blocks.find? fun b => b.2.1 == c with
  | some b => (match extentAt s b.1 with | some (_, e) => 2 ^ e.blockLog2 | none => 4096)
  | none => 4096

/-- Ask for the next 4 KiB of the list, or of the block in progress, from the source or the mirror. -/
def pullNext (c : Nat) (s : State) : State :=
  match tget s.pool.streams c with
  | none => s
  | some x =>
    let claim := startCas c .claimCas x.casNew (ledgerWord ((x.gen + 1) % 2 ^ 32) 1 (nodeSelf s) 0)
    let lose := startCas c .lostCas x.casNew (ledgerWord ((x.gen + 1) % 2 ^ 32) 3 (nodeSelf s) 0)
    let get (node off : Nat) (st : StreamStep) : State :=
      let (n, s1) := ask (.stream c) (mkFrame 5 0xA1 node (nodeSelf s) x.pkey 0 0 off 4096 []) s
      modCtx c (fun y => { y with pullId := some n, step := st }) s1
    if x.nblocks ≤ x.pulled then claim s
    else if x.fromMirror then
      if addrNode x.mirror = 0x7FFF then lose s
      else get (addrNode x.mirror) (addrOff x.mirror + x.pulled * blockSize s c + x.part4k) .pull
    else if x.srcBlocks.length < x.nblocks then
      get (addrNode x.peerList) ((addrOff x.peerList + 8 * x.srcBlocks.length) / 4096 * 4096) .list
    else get (addrNode x.peerList) (x.srcBlocks.getD x.pulled 0 + x.part4k) .pull

/-- The entries of the source's list in a 4 KiB block of it. -/
def listEntries (x : StreamCtx) (bytes : List Byte) : List Nat :=
  let at_ := (addrOff x.peerList + 8 * x.srcBlocks.length) % 4096
  (upTo (min (x.nblocks - x.srcBlocks.length) ((4096 - at_) / 8))).map fun i => leAt bytes (at_ + 8 * i) 6

/-- Write a pulled piece to its place in the context's own block: a bulk write of this switch's own window, ordered and snooped
as any other (R331, R333). -/
def putPiece (c off : Nat) (x : StreamCtx) (bytes : List Byte) (s : State) : State :=
  let (n, s1) := ask (.stream c) (mkFrame 5 0xA0 (nodeSelf s) (nodeSelf s) x.pkey 0 0 off 4096 bytes) s
  modCtx c (fun y => { y with pullId := some n, step := .put }) s1

/-- A piece is written: the next one, of this block or the next, is pulled. -/
def pieceDone (c : Nat) (x : StreamCtx) (s : State) : State :=
  if x.part4k + 4096 < blockSize s c then pullNext c (modCtx c (fun y => { y with part4k := x.part4k + 4096 }) s)
  else pullNext c (modCtx c (fun y => { y with part4k := 0, pulled := x.pulled + 1 }) s)

/-- A pull, or the write of what it brought, has been answered. -/
def pullAnswer (c : Nat) (x : StreamCtx) (a : Frame) (s : State) : State :=
  let s0 := modCtx c (fun y => { y with pullId := none }) s
  if x.step = .put then (if a.status = stOK then pieceDone c x s0 else targetGone c x s0)
  else if a.status ≠ stOK then
    if x.fromMirror then
      startCas c .lostCas x.casNew (ledgerWord ((x.gen + 1) % 2 ^ 32) 3 (nodeSelf s) 0) s0
    else pullNext c (modCtx c (fun y => { y with fromMirror := true, part4k := 0 }) s0)
  else if x.step = .list then pullNext c (modCtx c (fun y => { y with srcBlocks := y.srcBlocks ++ listEntries x a.payload }) s0)
  else
    match s0.pool.blocks.find? fun b => b.2 == (c, x.pulled) with
    | none => targetGone c x s0
    | some (own, _) => putPiece c (own + x.part4k) x (slice a.payload 0 4096) s0

/-- Begin pulling: `casNew` keeps the `HANDING` word that the claim will compare with. -/
def beginPull (c : Nat) (handing : Nat) (s : State) : State :=
  pullNext c (modCtx c (fun x => { x with step := .pull, casNew := handing }) s)

/-! ## Answers of the ledger -/

/-- The `CAS` into `HANDING` that opens the handoff at the source. -/
def sendHandCas (c : Nat) (s : State) : State :=
  match tget s.pool.streams c with
  | some x => startCas c .handCas (ledgerWord x.gen 1 (nodeSelf s) 0) (ledgerWord x.gen 2 (nodeSelf s) x.peer) s
  | none => s

/-- Writes to a context's blocks are in flight (step 1 of R316). -/
def writesInFlight (s : State) (c : Nat) : Bool :=
  s.pool.reqs.any fun q => q.2.kind.writes && (match extentAt s q.2.off with
    | some (_, e) => e.stream && (blocksTouched e q.2.off q.2.len).any fun b => match tget s.pool.blocks b with | some (k, _) => k == c | none => false
    | none => false)

/-- What a context does on the outcome of its `CAS`. -/
def casOutcome (c : Nat) (x : StreamCtx) (applied : Bool) (old status : Nat) (s : State) : State :=
  match x.step with
  | .openCas =>
    if applied ∨ old = x.casNew then settle c 0 stOK s
    else if status ≠ stOK ∧ status ≠ stReplayed then
      freeCtx c (streamCmdDone c status s)
    else settle c 3 stOK s
  | .handCas =>
    if applied then streamCmdDone c stOK (modCtx c (fun y => { y with step := .waitClaim, nextPoll := s.clk.now }) s)
    else if status = stNoAnswer then streamCmdDone c status (modCtx c (fun y => { y with step := .waitClaim, nextPoll := s.clk.now }) s)
    else sourceBack c (if status = stReplayed then stOK else status) x s
  | .takeCas =>
    if applied then beginPull c x.casNew s else targetGone c x s
  | .claimCas =>
    if applied then
      settle c 0 stOK (rbump R.HANDOFF_DONE_COUNT 0 (modCtx c (fun y => { y with gen := (x.gen + 1) % 2 ^ 32 }) s))
    else targetGone c x s
  | .lostCas =>
    if applied then ctxLost c (modCtx c (fun y => { y with gen := (x.gen + 1) % 2 ^ 32 }) s)
    else targetGone c x s
  | .closeCas => freeCtx c (streamCmdDone c stOK s)
  | _ => s

/-- A `CAS` whose outcome the ledger decides where its repeats end in `NO_ANSWER` (R318). -/
def casStep (p : StreamStep) : Bool := p == .claimCas || p == .lostCas || p == .takeCas || p == .openCas

/-- A `CAS` has been answered; one whose answer is lost is sent again with the same `TAG` up to three times (R318). -/
def casAnswer (c : Nat) (x : StreamCtx) (a : Frame) (s : State) : State :=
  let s0 := modCtx c (fun y => { y with casId := none, pollOld := y.pollId.isSome }) s
  let old := leAt a.payload 0 8
  if a.status = stNoAnswer ∧ x.casTries < 3 then sendCasFrame c (modCtx c (fun y => { y with casTries := x.casTries + 1 }) s0)
  else if a.status = stNoAnswer ∧ casStep x.step then (if x.pollId.isSome then s0 else readLedger c s0)
  else
    let good := a.status == stOK || a.status == stReplayed
    casOutcome c x (good && old == x.casCmp) (if good then old else 2 ^ 64) a.status s0

/-- A read of the ledger has been answered. One that a `CAS` has overtaken, or may yet, says nothing; where the ledger is to
decide the `CAS`, it is read again. -/
def ledgerRead (c : Nat) (x : StreamCtx) (a : Frame) (s : State) : State :=
  let s0 := modCtx c (fun y => { y with pollId := none, pollOld := false }) s
  if x.casId.isSome then s0
  else if x.pollOld then (if casStep x.step then readLedger c s0 else s0)
  else if a.status ≠ stOK then
    (if x.step = .takeRead ∨ x.step = .closeRead then freeCtx c (streamCmdDone c a.status s0) else s0)
  else
    let w := wordOf x a
    let self := nodeSelf s0
    match x.step with
    | .verify => settle c (if w = ledgerWord x.gen 1 self 0 then 0 else 3) stOK s0
    | .openCas | .takeCas | .claimCas | .lostCas =>
      -- the repeats of a CAS ended in `NO_ANSWER`: the ledger decides
      casOutcome c x (w == x.casNew) w stOK s0
    | .waitClaim | .handCas =>
      if w = ledgerWord x.gen 1 self 0 then sourceBack c stOK x s0
      else if bitsOf w 0 32 = (x.gen + 1) % 2 ^ 32 ∧ (ledgerState w = 1 ∨ ledgerState w = 3) ∧ bitsOf w 34 15 = x.peer then settle c 3 stOK s0
      else s0
    | .waitHanding => if w = ledgerWord x.gen 2 x.peer self then beginPull c w s0 else s0
    | .takeRead =>
      if w = ledgerWord x.gen 1 x.peer 0 then startCas c .takeCas w (ledgerWord x.gen 2 x.peer self) s0
      else freeCtx c (streamCmdDone c stIllegal s0)
    | .closeRead =>
      if ledgerState w = 3 then startCas c .closeCas w (ledgerWord ((bitsOf w 0 32 + 1) % 2 ^ 32) 0 0 0) s0
      else freeCtx c (streamCmdDone c stOK s0)
    | _ => s0

/-! ## The commands of the host (R310, R311, R317, R318) -/

/-- A B command on the same stream is in progress (R491). -/
def streamBusy (sid : Nat) (_ : Cmd) (running : List BCmd) : Bool :=
  running.any fun b => decide (0x28 ≤ b.code) && decide (b.code ≤ 0x2D) && b.obj == sid

/-- A stream command with its record. -/
def streamCmd (h code : Nat) (buf : Option (List Byte)) (act : Cmd → StreamCtx → State → State) (s : State) : Out :=
  withCmd h code (streamBusy (leAt (buf.getD []) 0 4)) (fun c t =>
    match buf with
    | none => completeWith h c stLoadFailed t
    | some b =>
      if c.bufLen ≠ 64 ∨ !c.restZero 0 ∨ !ctxForm (code == 0x2B) b then completeWith h c stIllegal t
      else act c (ctxOf b) t) s

/-- The command's block list lies where an endpoint may hold newer bytes, or a transaction of its lines is in progress: the
engine waits for it (R331, R333). -/
def listBusy (s : State) (h code : Nat) (x : StreamCtx) : Bool :=
  isOwner s h && ((hostPort s h).queue.head?.map fun e => (cmdOf e.bytes).code) == some code && addrNode x.list == nodeSelf s
    && decide (x.nblocks ≤ 65536) && (match poolCheck s .load x.pkey (addrOff x.list) (8 * x.nblocks) 0 with | .ok _ => true | .error _ => false)
    && !linesQuiet s (addrOff x.list) (8 * x.nblocks) false

/-- A stream command whose record names a list of blocks: its command stays where it is until the list can be read. -/
def listCmd (h code : Nat) (buf : Option (List Byte)) (act : Cmd → StreamCtx → State → State) (s : State) : Out :=
  let x := ctxOf (buf.getD [])
  if listBusy s h code x then whenRunning (askLines (addrOff x.list) (8 * x.nblocks) false) s else streamCmd h code buf act s

/-- `STREAM_OPEN` (R316): the stream is created by a `CAS` from `FREE`. -/
def execStreamOpen (h : Nat) (buf : Option (List Byte)) (s : State) : Out :=
  listCmd h 0x28 buf (fun c x t =>
    newCtx h c x (fun n => startCas n .openCas (ledgerWord ((x.gen + 2 ^ 32 - 1) % 2 ^ 32) 0 0 0) (ledgerWord x.gen 1 (nodeSelf t) 0)) t) s

/-- `STREAM_GROW` (R311): an owned stream gets more blocks. -/
def execStreamGrow (h : Nat) (buf : Option (List Byte)) (s : State) : Out :=
  listCmd h 0x29 buf (fun c x t =>
    match ctxBySid t x.sid with
    | none => completeWith h c stIllegal t
    | some (n, y) =>
      if y.lstate ≠ 0 ∨ x.nblocks < y.nblocks ∨ x.part ≠ y.part then completeWith h c stIllegal t
      else
        let z := { y with nblocks := x.nblocks, list := x.list }
        match listStatus t z y.nblocks with
        | some st => completeWith h c st t
        | none => complete h c stOK (toLE 1 0) 0 (mapCtx n y.nblocks z (setCtx n z t))) s

/-- `STREAM_HANDOFF` (R318): blocks become `READ_ONLY`, writes in flight are awaited, then the `CAS` is sent. -/
def execStreamHandoff (h : Nat) (buf : Option (List Byte)) (s : State) : Out :=
  streamCmd h 0x2A buf (fun c x t =>
    match ctxBySid t x.sid with
    | none => completeWith h c stIllegal t
    | some (n, y) =>
      if y.lstate ≠ 0 then completeWith h c stIllegal t
      else
        let t1 := setCtx n { y with lstate := 1, peer := x.peer, step := .drainWrites, cmd := some (h, c.tag) } (beginB h c x.sid t)
        if writesInFlight t1 n then t1 else sendHandCas n t1) s

/-- `STREAM_ACCEPT` (R318): the target waits for `HANDING`. -/
def execStreamAccept (h : Nat) (buf : Option (List Byte)) (s : State) : Out :=
  listCmd h 0x2B buf (fun c x t =>
    newCtx h c { x with lstate := 2, step := .waitHanding, since := t.clk.now, nextPoll := t.clk.now } (fun n u => readLedger n u) t) s

/-- The source cannot be reached, or a substitution of it is under way (R317). -/
def sourceGone (s : State) (node : Nat) : Bool :=
  (match routeOf s { mkCtl 0 node (nodeSelf s) 0 0 0 [] with g := genLive s } with | .nowhere => true | _ => false)
    || s.res.staged.any (·.failed == node) || s.res.asks.any (·.failed == node)

/-- `STREAM_TAKEOVER` (R317): the ledger is read first. -/
def execStreamTakeover (h : Nat) (buf : Option (List Byte)) (s : State) : Out :=
  listCmd h 0x2C buf (fun c x t =>
    if !sourceGone t x.peer then completeWith h c stIllegal t
    else newCtx h c { x with lstate := 2, step := .takeRead, fromMirror := true } (fun n u => readLedger n u) t) s

/-- `STREAM_CLOSE` (R312, R316): the context is freed. A lost stream is first retired in the ledger, by the pool that lost it, or
by one that it has gone from and that finds it `LOST` there. -/
def execStreamClose (h : Nat) (buf : Option (List Byte)) (s : State) : Out :=
  streamCmd h 0x2D buf (fun c x t =>
    match ctxBySid t x.sid with
    | none => completeWith h c stIllegal t
    | some (n, y) =>
      if y.lstate = 4 then
        startCas n .closeCas (ledgerWord y.gen 3 (nodeSelf t) 0) (ledgerWord ((y.gen + 1) % 2 ^ 32) 0 0 0)
          (setCtx n { y with cmd := some (h, c.tag) } (beginB h c x.sid t))
      else if y.lstate = 3 then
        readLedger n (setCtx n { y with step := .closeRead, cmd := some (h, c.tag) } (beginB h c x.sid t))
      else complete h c stOK (toLE 1 y.lstate) 0 (freeCtx n t)) s

/-- `STREAM_QUERY` (R310): the record of a context to the buffer. -/
def execStreamQuery (h : Nat) (s : State) : Out :=
  withCmd h 0x2E (fun c r => streamBusy (c.arg 0 4) c r) (fun c t =>
    match ctxBySid t (c.arg 0 4) with
    | some (_, x) =>
      if c.bufLen < 64 ∨ !c.restZero 4 then completeWith h c stIllegal t
      else completeWith h c stOK (emit (.dmaWrite h c.buf (ctxBytes x)) t)
    | none => completeWith h c stIllegal t) s

/-! ## Events -/

/-- A context polls the ledger: the source while handing out, the target while pulling, and one that is `UNVERIFIED`. -/
def polls (x : StreamCtx) : Bool := x.lstate == 1 || x.lstate == 2 || x.lstate == 5

/-- `LEDGER_POLL` (R318): an answer to the context's read of the ledger is acted on; else, at its time, the next read is
sent. A source whose writes have all been answered sends its `CAS`. -/
def execLedgerPoll (ctx : Nat) (s : State) : Out :=
  whenRunning (fun t =>
    match tget t.pool.streams ctx with
    | none => t
    | some x =>
      match x.pollId with
      | some k =>
        (match ownAnswer t k with
         | some (i, m) => ledgerRead ctx x m.frame (takeInbox i t)
         | none => t)
      | none =>
        if x.step = .drainWrites ∧ !writesInFlight t ctx then sendHandCas ctx t
        else if polls x then
          readLedger ctx (atTime x.nextPoll (if x.lstate = 5 ∧ x.step = .idle then modCtx ctx (fun y => { y with step := .verify }) t else t))
        else t) s

/-- `LEDGER_CAS_ANSWER` (R318). -/
def execLedgerCasAnswer (id : Nat) (s : State) : Out :=
  whenRunning (fun t =>
    match tget t.hall.inbox id with
    | none => t
    | some i =>
      if i.port ≠ 255 ∨ !isAnswer i.frame.cls then t
      else match tfind t.pool.streams fun _ x => x.casId == some i.frame.rsv with
        | some (c, x) => casAnswer c x i.frame (takeInbox id t)
        | none => t) s

/-- `STREAM_PULL_ANSWER` (R318). -/
def execStreamPullAnswer (id : Nat) (s : State) : Out :=
  whenRunning (fun t =>
    match tget t.hall.inbox id with
    | none => t
    | some i =>
      if i.port ≠ 255 ∨ !isAnswer i.frame.cls then t
      else match tfind t.pool.streams fun _ x => x.pullId == some i.frame.rsv with
        | some (c, x) => if x.lstate = 2 then pullAnswer c x i.frame (takeInbox id t) else takeInbox id t
        | none => t) s

/-- `STREAM_ACCEPT_TIMEOUT` (R318): `HANDOFF_MS` without seeing `HANDING`. -/
def execStreamAcceptTimeout (ctx : Nat) (s : State) : Out :=
  whenRunning (fun t =>
    match tget t.pool.streams ctx with
    | some x =>
      if x.step = .waitHanding then
        targetGone ctx x (atTime (x.since + 1000000 * rget t R.STREAM_CFG_HANDOFF_MS 0) t)
      else t
    | none => t) s

/-- Revert one entry in `HANDING` whose deadline has passed: a `CAS` of the home's own, in order with those that arrive (R316,
R331). -/
def revertEntry (off : Nat) (s : State) : State :=
  match extentAt s off with
  | none => s
  | some (e, x) =>
    if s.pool.reqs.any fun q => q.2.origin == .revert off then s
    else
      let w := leNat (mread s.pool.mem off 8)
      let new := ledgerWord (bitsOf w 0 32) 1 (bitsOf w 34 15) 0
      let (id, s1) := takeId s
      let f := mkFrame 4 0x19 (nodeSelf s) (nodeSelf s) (partKey s x.part) 0 0 off 24 (toLE 8 new ++ toLE 8 w ++ toLE 8 0)
      poolPass (enterReq id (newReq (.atomic 1 8 new w) f (.revert off) false off 8 [] []) e s1)

/-- `LEDGER_REVERT_TICK` (R316): the next multiple of 100 µs. -/
def execLedgerRevertTick (s : State) : Out :=
  whenRunning (fun t =>
    let t1 := atTime ((t.clk.now / 100000 + 1) * 100000) t
    let late := t1.pool.handing.filter fun e => decide (e.2 ≤ nowUs t1)
    each late (fun e => revertEntry e.1) t1) s

end Sys2Proof.Machine
end

