-- ==== Sys2Proof/Machine/SeedCore.lean ====
section
/-! DEFINITION. What a strand sees: its registers, its address spaces, its fabric requests (R84 to R92, R160, R161). -/
namespace Sys2Proof.Machine

/-! ## Galleries, instances, strands -/

/-- A gallery. -/
def galOf (s : State) (g : Nat) : Gallery := s.seed.gals.getD g Gallery.empty

/-- Change a gallery, noting when its queue or its last pooling share went. -/
def setGal (g : Nat) (x : Gallery) (s : State) : State :=
  let old := galOf s g
  let y := if x.queue.isEmpty && !old.queue.isEmpty then { x with queueEmptyAt := s.clk.now } else x
  let z := if y.batches.isEmpty && !old.batches.isEmpty then { y with emptySince := some s.clk.now } else y
  { s with seed := { s.seed with gals := s.seed.gals.set g z } }

/-- Change a strand. -/
def setStrand (k : Nat) (x : Strand) (s : State) : State := { s with seed := { s.seed with strands := tset s.seed.strands k x } }

/-- Change an instance. -/
def setInst (n : Nat) (i : Inst) (s : State) : State := { s with seed := { s.seed with insts := tset s.seed.insts n i } }

/-- Global strand number of position `pos` and strand number `j` of an instance (R82). -/
def Inst.strandAt (i : Inst) (pos j : Nat) : Nat := i.pipsAt.getD pos 0 * 8 + j

/-- The strands of an instance in the order of their index. -/
def Inst.strands (i : Inst) : List Nat :=
  ((upTo i.image.pips).map fun p => (upTo i.image.strands).map fun j => i.strandAt p j).foldl (· ++ ·) []

/-- Number of strands of an instance. -/
def Inst.count (i : Inst) : Nat := i.image.pips * i.image.strands

/-- Every fabric request of the instance is answered. -/
def instQuiet (s : State) (i : Inst) : Bool := i.strands.all fun k => match tget s.seed.strands k with | some x => x.reqs.isEmpty | none => true

/-- Every strand has executed `HALT`. -/
def instHalted (s : State) (i : Inst) : Bool := i.strands.all fun k => match tget s.seed.strands k with | some x => x.halted | none => true

/-- The instruction word at a text offset. -/
def Image.wordAt (m : Image) (pc : Nat) : Option Nat := if pc % 8 = 0 ∧ pc < m.textLen then some (leAt m.text pc 8) else none

/-! ## Registers of a strand (R84) -/

def Strand.sr (x : Strand) (n : Nat) : Word64 := x.s.getD n 0
def Strand.vr (x : Strand) (n : Nat) : Vec := x.v.getD n 0
def Strand.pr (x : Strand) (n : Nat) : Pred := x.p.getD n 0
def Strand.ar (x : Strand) (n : Nat) : List Lane := x.a.getD n (List.replicate 16 Lane.init)
def Strand.putS (x : Strand) (n : Nat) (v : Word64) : Strand := { x with s := x.s.set n v }
def Strand.putSN (x : Strand) (n v : Nat) : Strand := x.putS n (BitVec.ofNat 64 v)
def Strand.putV (x : Strand) (n : Nat) (v : Vec) : Strand := { x with v := x.v.set n v }
def Strand.putP (x : Strand) (n : Nat) (v : Pred) : Strand := { x with p := x.p.set n v }
def Strand.putA (x : Strand) (n : Nat) (v : List Lane) : Strand := { x with a := x.a.set n v }

/-! ## Address spaces (R86, R87) -/

/-- What a strand's address names. -/
inductive Space where
  | pip (off : Nat)
  | gal (off : Nat)
  | fabric
  | outside
  deriving DecidableEq, Repr

/-- The space of n bytes at an address. -/
def spaceOf (i : Inst) (a n : Nat) : Space :=
  let x := a % 2 ^ 32
  if a < 2 ^ 63 then .fabric
  else if a / 2 ^ 32 = 0x80000000 ∧ x + n ≤ i.image.psLen then .pip x
  else if a / 2 ^ 32 = 0x80000001 ∧ x + n ≤ i.image.dataLen + i.image.gsLen then .gal x
  else .outside

/-- Key of a byte of an instance's region in the gallery stores. -/
def Inst.galKey (i : Inst) (off : Nat) : Nat := i.gallery * 2 ^ 23 + i.pages.getD (off / 4096) 0 * 4096 + off % 4096

/-- Key of a byte of a strand's pip store. -/
def pipKey (k off : Nat) : Nat := k / 8 * 0x20000 + off

/-- Read local bytes. -/
def localRead (s : State) (i : Inst) (k : Nat) (sp : Space) (n : Nat) : List Byte :=
  match sp with
  | .pip x => mread s.seed.pipMem (pipKey k x) n
  | .gal x => (upTo n).map fun j => mget s.seed.galMem (i.galKey (x + j))
  | _ => []

/-- Write local bytes. -/
def localWrite (i : Inst) (k : Nat) (sp : Space) (bs : List Byte) (s : State) : State :=
  match sp with
  | .pip x => { s with seed := { s.seed with pipMem := mwrite s.seed.pipMem (pipKey k x) bs } }
  | .gal x => { s with seed := { s.seed with galMem := (enum' bs).foldl (fun m p => mset m (i.galKey (x + p.1)) p.2) s.seed.galMem } }
  | _ => s

/-- Address sA + sext(`IMM`), modulo 2^64 (R160). -/
def Insn.address (i : Insn) (x : Strand) : Nat := (x.sr i.a + BitVec.ofInt 64 i.sext).toNat

/-! ## Fabric requests of a strand (R90, R161) -/

/-- Requests of all strands of a gallery that await an answer. -/
def galOutstanding (s : State) (g : Nat) : Nat :=
  sumN (s.seed.strands.map fun p => if p.1 / 1024 = g then p.2.reqs.length else 0)

/-- A strand may issue n more fabric requests. -/
def fabRoom (s : State) (k : Nat) (x : Strand) (n : Nat) : Bool :=
  decide (x.reqs.length + n ≤ 16) && decide (galOutstanding s (k / 1024) + n ≤ 4096)

/-- Steps 1, 2 and 4 of R66, with the node numbers of R42, for a strand's request: the failing status. -/
def strandStatus (s : State) (f : Frame) : Option Nat :=
  match formOrNode f with
  | some st => some st
  | none =>
    match keyPart s f.pkey with
    | none => some stPkey
    | some p =>
      match rightOf f with
      | some (r, len) => if windowCovers s p r f.dst f.offset len then none else some stDenied
      | none => none

/-- Issue a fabric request of a strand, under its `TAG`, and enter it among the strand's requests. -/
def sendStrand (k : Nat) (r : FabReq) (s : State) : State :=
  match tget s.seed.strands k with
  | none => s
  | some x =>
    let (n, s1) := issue (.strand k 0) r.frame s
    let s2 := setStrand k { x with reqs := x.reqs ++ [{ r with n := n, pc := if r.repeats = 0 then x.pc else r.pc }] } s1
    match strandStatus s2 r.frame with
    | some st => closeTrackError n st 0 s2
    | none =>
      -- a load that could pass an earlier store of the strand waits for its row (R53, R91)
      if r.frame.opc = 0x01 ∧ loadBlocked s2 n (some k) r.frame then toOwn r.frame (keyPart s2 r.frame.pkey) s2
      else routeOwn n r.frame s2

/-- A new fabric request of a strand with a `TAG` of its own (R90). -/
def strandReq (i : Inst) (opc a len : Nat) (payload : List Byte) (of_ isLoad isAtomic : Bool) (dReg : Option Nat) (width : Nat)
    (s : State) : FabReq :=
  let f := { mkFrame 4 opc (addrNode a) (nodeSelf s) i.launch.pkey (s.nextId % 2 ^ 20) 0 (addrOff a) len payload with of_ := of_ }
  ⟨0, f.tag, isLoad, isAtomic, dReg, width, 0, f, 0⟩

/-- Pieces of a fabric access, cut at 4 KiB boundaries: address and bytes (R162). -/
def fabPieces (a n : Nat) : List (Nat × Nat) :=
  if a % 4096 + n ≤ 4096 then [(a, n)] else [(a, 4096 - a % 4096), (a + (4096 - a % 4096), a % 4096 + n - 4096)]

/-- Send the loads of an instruction; the strand is held until they are answered. -/
def sendLoads (k : Nat) (i : Inst) (ps : List (Nat × Nat)) (s : State) : State :=
  let s1 := each ps (fun p t => sendStrand k (strandReq i 0x01 p.1 p.2 [] false true false none 0 t) t) s
  match tget s1.seed.strands k with
  | some x => setStrand k { x with wait := .load ((x.reqs.filter (·.isLoad)).map (·.n)), buf := [] } s1
  | none => s1

/-- The scalar registers that an instruction reads or writes (R161). -/
def Insn.scalars (i : Insn) : List Nat :=
  let bs := if i.fn / 16 = 1 then [i.b] else []
  match i.op with
  | 0x01 => (if i.fnBit 4 then [i.d] else []) ++ (if i.fnBit 5 || (decide (1 ≤ i.fn % 16) && decide (i.fn % 16 ≤ 4)) then [i.a] else [])
  | 0x02 => [i.a]
  | 0x03 => i.d :: (if i.fn = 2 then [i.a] else [])
  | 0x06 => if i.fn = 1 then [i.a] else []
  | 0x07 => [0]
  | 0x08 => [i.imm / 256 % 16]
  | 0x09 => [i.b]
  | 0x0A => [i.d]
  | 0x0B => [i.a]
  | 0x10 | 0x11 | 0x14 | 0x15 => [i.a]
  | 0x12 | 0x13 | 0x17 => [i.d, i.a]
  | 0x16 => [i.d, i.a, i.b]
  | 0x18 | 0x19 | 0x1A | 0x1B | 0x1C | 0x1D | 0x1E | 0x1F | 0x21 => bs
  | 0x22 => if i.fn = 1 ∨ i.fn = 4 then [i.a] else if i.fn = 5 then [i.d] else []
  | 0x23 => i.d :: (if i.fn % 32 < 16 then [i.a] else []) ++ (if i.fnBit 5 then [] else [i.b])
  | 0x24 => if i.fn = 6 then [i.a] else if i.fn = 7 ∨ i.fn = 8 then [i.d] else []
  | 0x28 => if i.fnBit 1 then [i.b] else []
  | 0x29 => i.b :: (if i.fnBit 1 then [i.imm % 16] else [])
  | 0x2A => (if i.fn % 8 = 5 then [i.b, i.b + 1, i.b + 2] else []) ++ (if bitAt i.imm 4 then [i.imm / 256 % 16] else [])
  | 0x30 | 0x31 => [i.imm % 16]
  | 0x38 | 0x39 => if bitAt i.imm 4 then [i.imm / 256 % 16] else []
  | _ => []

/-- An atomic whose old value the instruction depends on is unanswered (R161). -/
def scalarBusy (x : Strand) (i : Insn) : Bool := x.reqs.any fun r => match r.dReg with | some d => i.scalars.contains d | none => false

end Sys2Proof.Machine
end

