-- ==== Sys2Proof/Machine/Place.lean ====
section
/-! DEFINITION. Where a launch goes: allowed galleries, the choice among them, the dispatch queues (R27, R38, R102 to
R104, R275). -/
namespace Sys2Proof.Machine

/-- Non-defective pips of a gallery. -/
def goodPips (s : State) (g : Nat) : List Nat := (upTo 128).filter fun p => !s.boot.pipBad.contains (g * 128 + p)

/-- Pips of a gallery that an instance occupies. -/
def busyPips (s : State) (g : Nat) : List Nat :=
  (s.seed.insts.map fun p => if p.2.gallery = g then p.2.pipsAt.map (· - g * 128) else []).foldl (· ++ ·) []

/-- Free non-defective pips of a gallery, lowest first. -/
def freePips (s : State) (g : Nat) : List Nat := let b := busyPips s g; (goodPips s g).filter fun p => !b.contains p

/-- The partition that a gallery is granted to (R38). -/
def galGrant (s : State) (g : Nat) : Option Nat := (upTo 64).find? fun p => bitAt (rget s R.GALLERY_GRANT_MASK p) g

/-- No instance and no pooling share is on a gallery. -/
def galIdle (s : State) (g : Nat) : Bool := !(s.seed.insts.any fun p => p.2.gallery == g) && (galOf s g).batches.isEmpty

/-- A gallery that a partition may use: granted to it, or of the shared set while the partition is not in quiet mode;
neither defective nor worn; with enough good pips (R27, R38, R429). -/
def galAllowed (s : State) (part pips g : Nat) : Bool :=
  decide (g < 32) && !s.boot.galleryBad.contains g && !rbit s R.AGE_STATUS_WORN g && decide (pips ≤ (goodPips s g).length)
    && (match galGrant s g with
      | some p => p == part
      | none => !isQuiet s part)

/-- Clock frequency of a point in units of 10 MHz (R30); a gated gallery counts as at 0.8 GHz (log 40). -/
def pointFreq (p : Nat) : Nat := [80, 80, 120, 165, 240, 330].getD p 330

/-- Weight of a gallery's queue (R275), as a fraction. -/
def galCost (s : State) (g : Nat) : Nat × Nat := ((galOf s g).queue.length + 1, pointFreq (galOf s g).point)

/-- The wing of the data that `ARG0` names (R101). -/
def dataWing (s : State) (arg0 : Nat) : Option Nat :=
  if arg0 < 2 ^ 63 ∧ addrNode arg0 = nodeSelf s then
    let x := granuleOf s (addrOff arg0 / 2 ^ 20)
    some (if x.stair = 0 then wingOf x.loc else x.homeWing)
  else none

/-- Gallery a is the better candidate: the lighter queue, then the wing of the data, then more free pips, then the lower
number (log 40). -/
def galBetter (s : State) (wing : Option Nat) (a b : Nat) : Bool :=
  let (qa, fa) := galCost s a
  let (qb, fb) := galCost s b
  let near (g : Nat) : Bool := wing == some (g / 8)
  let fp (g : Nat) : Nat := (freePips s g).length
  if qa * fb ≠ qb * fa then decide (qa * fb < qb * fa)
  else if near a != near b then near a
  else if fp a ≠ fp b then decide (fp b < fp a)
  else decide (a < b)

/-- The gallery for a launch of a partition with so many pips: the best candidate whose queue has room, or the hint
where its queue is no longer, queues being weighed as R275 says (R103). -/
def chooseGallery (s : State) (part pips hint : Nat) (wing : Option Nat) : Option Nat :=
  let cands := (upTo 32).filter fun g => galAllowed s part pips g && decide ((galOf s g).queue.length < 256)
  match cands with
  | [] => none
  | c :: t =>
    let best := t.foldl (fun b g => if galBetter s wing g b then g else b) c
    let (qh, fh) := galCost s hint
    let (qb, fb) := galCost s best
    if cands.contains hint ∧ qh * fb ≤ qb * fh then some hint else some best

/-- The live image of a slot. -/
def progSlot (s : State) (n : Nat) : Option ProgSlot := tget s.seed.slots n

/-- Pips that a launch needs: those of its slot's image, or of the pooling program of R242 (log 41). -/
def LaunchRec.pips (s : State) (r : LaunchRec) : Nat :=
  match r.by_ with
  | .pool _ => 1
  | _ => match progSlot s r.slot with | some p => p.image.pips | none => 1

/-- Join the queue of a gallery, waking it (R104, R35). -/
def joinQueue (g : Nat) (r : LaunchRec) (s : State) : State :=
  let x := galOf s g
  beginWake (.gallery g) (setGal g { x with queue := x.queue ++ [r], emptySince := none } s)

/-- The gallery that a launch would join now. -/
def placeFor (s : State) (r : LaunchRec) : Option Nat :=
  if r.fixed then (if (galOf s r.gallery).queue.length < 256 then some r.gallery else none)
  else chooseGallery s r.part (r.pips s) r.gallery (dataWing s ((r.args.getD 0 0).toNat))

/-- Place a launch on a gallery's queue, or let it wait in the Hall buffer, charged to its partition (R104). -/
def placeLaunch (r : LaunchRec) (s : State) : State :=
  match placeFor s r with
  | some g => joinQueue g r s
  | none => chargePart r.part 1 { s with seed := { s.seed with held := s.seed.held ++ [r] } }

/-- Launches in the Hall buffer join queues that have room, in their order. -/
def placeHeld (s : State) : State :=
  each s.seed.held (fun r t => match placeFor t r with
    | some g => joinQueue g r (releasePart r.part 1 { t with seed := { t.seed with held := t.seed.held.erase r } })
    | none => t) s

/-- The status with which a launch ends before dispatch (R102), after its form is checked. -/
def launchStatus (s : State) (r : LaunchRec) : Option Nat :=
  match progSlot s r.slot with
  | none => some stIllegal
  | some p =>
    if keyPart s r.pkey ≠ some p.part then some stDenied
    else if r.fixed ∧ !galAllowed s p.part p.image.pips r.gallery then some stDenied
    else none

/-- The form of a `LAUNCH` payload (R101, first row of R102). -/
def launchForm (b : List Byte) : Bool :=
  b.length == 72 && decide (leAt b 0 2 < 1024) && decide (leAt b 2 1 < 4) && leAt b 4 4 == 0
    && (decide (leAt b 3 1 < 32) || (leAt b 3 1 == 0xFF && leAt b 2 1 % 2 == 0))

/-- The launch that a payload asks for. -/
def launchOf (b : List Byte) (by_ : LaunchBy) (part pkey src dst tag port : Nat) (deadline : Option Nat) : LaunchRec where
  by_ := by_
  slot := leAt b 0 2
  part := part
  pkey := pkey
  src := src
  dst := dst
  tag := tag
  gallery := leAt b 3 1
  fixed := leAt b 2 1 % 2 == 1
  early := bitAt (leAt b 2 1) 1
  args := (upTo 8).map fun i => BitVec.ofNat 64 (leAt b (8 + 8 * i) 8)
  deadline := deadline
  port := port

end Sys2Proof.Machine
end

