-- ==== Sys2Proof/Machine/ColCore.lean ====
section
/-! DEFINITION. Collective contexts: records, channels, results, runs and aborts (R189 to R222). -/
namespace Sys2Proof.Machine

/-! ## Records (R192, R193) -/

/-- Read a record of 384 bytes. -/
def colRecOf (b : List Byte) : ColRec where
  num := leAt b 0 2
  op := leAt b 2 1 % 16
  mean := bitAt (leAt b 2 1) 4
  mxin := bitAt (leAt b 2 1) 5
  ifmt := leAt b 3 1 % 16
  rfmt := leAt b 3 1 / 16
  rm := leAt b 4 1 % 8
  sat := bitAt (leAt b 4 1) 3
  carry := leAt b 4 1 / 16 % 4
  chbuf := leAt b 5 1
  slot := leAt b 6 2
  elems := leAt b 8 4
  segelems := leAt b 12 4
  mcgroup := if bitAt (leAt b 16 2) 15 then none else some (leAt b 16 2 % 8192)
  nlocal := leAt b 18 2
  idxBase := leAt b 20 2
  ntotal := leAt b 22 2
  root := leAt b 24 2
  parent := leAt b 26 2
  children := (upTo (min 8 (leAt b 28 1))).map fun i =>
    let v := leAt b (48 + 8 * i) 8
    ⟨bitsOf v 0 15, bitsOf v 16 14, bitsOf v 32 15⟩
  pkey := leAt b 30 2
  straggle := leAt b 32 2
  abortMs := leAt b 34 2
  seed := leAt b 40 8
  nodes := (upTo (min 128 (leAt b 18 2))).map fun i => leAt b (128 + 2 * i) 2
  raw := b

/-- Element format of a code; a record that passed its checks names one. -/
def fmtOf (c : Nat) : Fmt := (Fmt.ofCode c).getD .fp64

/-- Bytes of an input segment of n positions. -/
def ColRec.inBytes (r : ColRec) (n : Nat) : Nat := n * (fmtOf r.ifmt).width / 8 + (if r.mxin then n / 32 else 0)

/-- Bytes of the elements of a result segment of n positions. -/
def ColRec.outBytes (r : ColRec) (n : Nat) : Nat := n * (fmtOf r.rfmt).width / 8

/-- Positions of the segment that begins at a position. -/
def ColRec.segAt (r : ColRec) (pos : Nat) : Nat := min r.segelems (r.elems - pos)

/-- Bytes that a grant reserves for one segment of a receive channel. -/
def ColRec.chanLen (r : ColRec) (ch : Nat) : Nat :=
  let n := match ch with
    | 0 => r.inBytes r.segelems
    | 1 => if r.op = 5 then 0 else 8192
    | _ => if r.op = 2 ∨ r.op = 3 then 8192 else if r.op = 5 then 0 else r.outBytes r.segelems + r.segelems / 8
  max 256 (min 8192 (ceilDiv n 256 * 256))

/-- SHARE of R189. -/
def ColRec.share (r : ColRec) : Nat := if r.ntotal = 0 then 0 else r.elems / r.ntotal

/-- A contributor index belongs to a local contributor. -/
def ColRec.isLocal (r : ColRec) (idx : Nat) : Bool := decide (r.idxBase ≤ idx) && decide (idx < r.idxBase + r.nlocal)

/-- The child whose subtree holds a contributor. -/
def ColRec.childOf (r : ColRec) (idx : Nat) : Option ColChild := r.children.find? fun c => decide (c.base ≤ idx) && decide (idx < c.base + c.size)

/-- A contributor lies in this switch's subtree. -/
def ColRec.inTree (r : ColRec) (idx : Nat) : Bool := r.isLocal idx || (r.childOf idx).isSome

/-- Node of a local contributor. -/
def ColRec.nodeOf (r : ColRec) (idx : Nat) : Nat := r.nodes.getD (idx - r.idxBase) 0x7FFF

def ColRec.isRoot (r : ColRec) : Bool := r.parent == 0x7FFF

/-- The receive channel is bound for the operation and role (R208). -/
def ColRec.recvBound (r : ColRec) (ch : Nat) : Bool :=
  match ch with
  | 0 => decide (0 < r.nlocal) && (r.op != 3 || r.isLocal r.root)
  | 1 => !r.children.isEmpty && (r.op != 3 || (r.childOf r.root).isSome)
  | 2 => !r.isRoot && (match r.op with
      | 3 => !r.inTree r.root
      | 4 => r.inTree r.root
      | _ => true)
  | _ => false

/-- Some local contributor receives results on send channel 2 (R189, R208): through `MCGROUP`, or for codes 1 and 4 one node. -/
def ColRec.feedsLocal (r : ColRec) : Bool :=
  match r.op with
  | 1 => decide (0 < r.nlocal)
  | 4 => r.isLocal r.root
  | 3 => r.mcgroup.isSome && decide (b2n (r.isLocal r.root) < r.nlocal)
  | _ => r.mcgroup.isSome && decide (0 < r.nlocal)

/-- Some child switch is sent items on send channel 3 (R208, R216). -/
def ColRec.feedsChild (r : ColRec) : Bool :=
  match r.op with
  | 4 => (r.childOf r.root).isSome
  | 3 => r.children.any fun c => !(decide (c.base ≤ r.root) && decide (r.root < c.base + c.size))
  | 2 => !r.children.isEmpty && (!r.isRoot || decide (0 < r.nlocal) || decide (1 < r.children.length))
  | _ => !r.children.isEmpty

/-- The send channel is bound for the operation and role (R208, R214, R215). -/
def ColRec.sendBound (r : ColRec) (ch : Nat) : Bool :=
  let copies := r.op == 2 || r.op == 3
  match ch with
  | 0 => if r.isRoot then !copies else (r.op == 0 || r.op == 1 || r.op == 4) && r.carry == 2
  | 1 => !r.isRoot && (match r.op with
      | 3 => r.inTree r.root
      | 2 => true
      | 5 => true
      | _ => r.carry == 1)
  | 2 => (copies || !r.isRoot) && r.feedsLocal
  | 3 => (copies || !r.isRoot) && r.feedsChild
  | _ => false

/-! ## Contexts -/

/-- `STATE` of a context: 0 `FREE`, 2 `ARMED`, 3 `RUNNING`, 4 `ABORTED`. -/
def colState (s : State) (c : Nat) : Nat := rget s R.COL_CTX_STATE c

/-- Change a context that is not `FREE`. -/
def setCol (c : Nat) (x : ColCtx) (s : State) : State := { s with col := { s.col with ctx := tset s.col.ctx c x } }

def modCol (c : Nat) (f : ColCtx → ColCtx) (s : State) : State := { s with col := { s.col with ctx := tmod s.col.ctx c f } }

/-- Channels with nothing in them. -/
def freshRecv : List RChan := List.replicate 3 ⟨[], 0⟩
def freshSend : List SChan := List.replicate 4 ⟨[], [], [], [], 0⟩

/-- Key of a sender towards this switch: its kind of R202 and its index (a contributor, or a child's `IDX_BASE`). -/
def senderKey (kind idx : Nat) : Nat := kind * 65536 + idx

/-- Key of the credit that a neighbour has given this switch for the run of a parity. Credit of the other parity is for
the run to come (R203, log 45). -/
def outKey (kind node rp : Nat) : Nat := rp * 2 ^ 30 + (kind + 1) * 2 ^ 20 + node

/-- What remains of the senders when a run of a parity ends: credit for the next run. -/
def nextCredit (rp : Nat) (t : Tab Sender) : Tab Sender := tfilter t fun k _ => decide (2 ^ 20 ≤ k) && k / 2 ^ 30 != rp

/-- Cells of a number of bytes. -/
def cellsOf (n : Nat) : Nat := ceilDiv n 256

/-- Cells that the receive channels hold. -/
def ColCtx.cells (x : ColCtx) : Nat := sumN (x.recv.map fun c => cellsOf c.used)

/-- Partition of a context. -/
def colPart (s : State) (x : ColCtx) : Nat := (keyPart s x.record.pkey).getD 0

/-- The instance's number of strands, once it is dispatched. -/
def colStrands (s : State) (x : ColCtx) : Nat :=
  match x.inst with
  | some n => (match tget s.seed.insts n with | some i => i.count | none => 1)
  | none => 1

/-- The strand that takes what begins at a position (R209). -/
def colStrand (s : State) (x : ColCtx) (pos : Nat) : Nat := if x.record.segelems = 0 then 0 else pos / x.record.segelems % colStrands s x

/-! ## Idle senders (R217) -/

/-- Idle time so far of an interval that began at `st`, on a port that COL is off towards since `off`. -/
def idleFor (s : State) (st : Nat) (off : Option Nat) : Nat := (match off with | some t => t | none => s.clk.now) - st

/-- Since when COL is off towards the port of a contributor. -/
def colOff (s : State) (x : ColCtx) (k : Nat) : Option Nat :=
  if k < 65536 then match nodePort s (x.record.nodeOf k) with
    | some n => tget s.col.offSince n
    | none => none
  else none

/-- End the idle interval of a sender: it counts in full once it has lasted 2 µs. -/
def endIdle (s : State) (x : ColCtx) (k : Nat) (y : Sender) : Sender :=
  match y.idle with
  | none => y
  | some st =>
    let d := idleFor s st (colOff s x k)
    { y with idle := none, late := y.late + (if 2000 ≤ d then d else 0) }

/-- `STRAGGLE_US` in ns. -/
def straggleNs (x : ColCtx) : Nat := 1000 * (if x.record.straggle = 0 then 50 else x.record.straggle)

/-- A straggler event. -/
def stragglerEvent (c k phase late : Nat) (x : ColCtx) (s : State) : State :=
  let port := if k < 65536 then (nodePort s (x.record.nodeOf k)).getD 0xFF else 0xFF
  report ⟨0x01, phase, keyPart s x.record.pkey, port, c, k % 65536, late / 1000, x.runNo - 1⟩ s

/-! ## Frames of a context -/

/-- `OFFSET` of a COL frame (R200). -/
def colOffset (c pos : Nat) (last special : Bool) (rp : Nat) : Nat :=
  packBits [(13, c), (32, pos), (1, b2n last), (1, b2n special), (1, rp)]

/-- Send a frame of a send channel; a result makes progress as its copies leave (`departPort`). -/
def colSend (c : Nat) (x : ColCtx) (o : ColOut) (s : State) : State :=
  let opc := match o.kind with | some 1 => 0xC1 | _ => 0xC2
  let off := colOffset c o.pos o.last o.special (rget s R.COL_CTX_RP c)
  let f := { mkFrame 6 opc o.dst (nodeSelf s) x.record.pkey 0 0 off o.payload.length o.payload with mc := o.mc }
  sendRaw 128 (keyPart s x.record.pkey) .transit f s

/-- A frame of a collective exceeds the payload bound of an endpoint that it is for (R522). -/
def colTooBig (s : State) (o : ColOut) : Bool :=
  let ports := if o.mc then groupOutputs s (o.dst % 8192) 255 else match nodePort s o.dst with | some n => [n] | none => []
  ports.any fun n => decide (n < 128) && isEndpointPort s n && !isEth s n && decide (maxPayload s n < o.payload.length)

/-- Send the frames of a channel that have credit. -/
def colFlush (c ch : Nat) : Nat → State → State
  | 0, s => s
  | n + 1, s =>
    match tget s.col.ctx c with
    | none => s
    | some x =>
      let q := x.send.getD ch ⟨[], [], [], [], 0⟩
      match q.queue with
      | [] => s
      | o :: rest =>
        if colTooBig s o then s else
        let drop (y : ColCtx) : ColCtx := { y with send := y.send.set ch { q with queue := rest } }
        match o.kind with
        | none => colFlush c ch n (colSend c x o (setCol c (drop x) s))
        | some k =>
          let key := outKey k o.dst (rget s R.COL_CTX_RP c)
          let snd := tgetD x.senders key ⟨0, none, 0, false⟩
          if snd.credit = 0 then s
          else
            let y := drop { x with senders := tset x.senders key { snd with credit := snd.credit - 1 } }
            colFlush c ch n (colSend c x o (setCol c y s))

/-! ## Results and parts (R201, R209 to R216) -/

/-- An FP64 element rounded for send channel 0. At the root a mean is first divided by `NTOTAL`: in the context's mode where
the terms are FP64, in `RNE` where they are not (R140, R210, R215, log 56). From FP64 to FP64 a number keeps its bits. -/
def fp64Out (r : ColRec) (f : Fmt) (rm : RMode) (sat mean : Bool) (rnd bits : Nat) : Nat :=
  let b := if mean then fp64DivNat (if fmtOf r.ifmt = .fp64 then rm else .rne) sat rnd bits r.ntotal else bits
  let v := valOf .fp64 b
  if f = .fp64 ∧ v ≠ .nan then b else roundVal f rm sat rnd v

/-- The lanes or elements of an item, rounded for send channel 0: bits, and whether the position is reported. -/
def roundItem (r : ColRec) (epoch : Nat) (it : SItem) : List (Nat × Bool) :=
  let f := if r.isRoot then fmtOf r.rfmt else .fp64
  let rm := if r.isRoot then (RMode.ofCode r.rm).getD .rne else .rne
  let sat := r.isRoot && r.sat
  let mean := r.isRoot && r.mean
  let rnd (i : Nat) : Nat := if rm = .sr then philoxWord r.seed (it.pos + i) epoch else 0
  if it.carry then
    (enum' (((Lane.readMany 16 it.bytes).map (·.1)).getD [])).map fun p => (p.2.round f rm sat mean (rnd p.1), p.2.reported mean)
  else
    let src := fmtOf it.fmt
    let v := unpackReg src it.bytes
    (upTo src.elems).map fun i =>
      let x := valOf src (el src v i)
      (if src = .fp64 then fp64Out r f rm sat mean (rnd i) (el src v i) else roundVal f rm sat (rnd i) x, x == .nan)

/-- Elements packed by R120. -/
def packElems (f : Fmt) (es : List Nat) : List Byte := toLE (es.length * f.width / 8) (packBits (es.map fun e => (f.width, e)))

/-- Positions of an item on a channel that passes items on unchanged. -/
def itemElems (r : ColRec) (it : SItem) : Nat :=
  if r.op = 5 then 0 else if it.carry then 16 else (fmtOf it.fmt).elems

/-- Positions that a channel sends in a run (R212). -/
def colExpected (r : ColRec) (ch : Nat) : Nat :=
  let below := sumN (r.children.map (·.size))
  match ch with
  | 1 => if r.op = 2 then (r.nlocal + below) * r.share else r.elems
  | 2 => if r.op = 1 then r.nlocal * r.share else r.elems
  | 3 => if r.op = 1 then below * r.share else r.elems
  | _ => r.elems

/-- The local recipients of a result at a position (R189, R208): target node or group. -/
def localDest (r : ColRec) (pos : Nat) : Option (Nat × Bool) :=
  match r.op with
  | 1 => let o := if r.share = 0 then 0 else pos / r.share
         if r.isLocal o then some (r.nodeOf o, false) else none
  | 4 => if r.isLocal r.root then some (r.nodeOf r.root, false) else none
  | _ => r.mcgroup.map fun g => (g, true)

/-- The children that a result at a position goes to. -/
def childDests (r : ColRec) (pos : Nat) : List Nat :=
  let owner := if r.share = 0 then 0 else pos / r.share
  match r.op with
  | 1 => match r.childOf owner with | some c => [c.node] | none => []
  | 4 => match r.childOf r.root with | some c => [c.node] | none => []
  | 2 => (r.children.filter fun c => !(decide (c.base ≤ owner) && decide (owner < c.base + c.size))).map (·.node)
  | 3 => (r.children.filter fun c => !(decide (c.base ≤ r.root) && decide (r.root < c.base + c.size))).map (·.node)
  | _ => r.children.map (·.node)

/-- Items of a `COL_PART` as its body: position, body, and how many items of the channel end with it (R157). -/
def partBody (its : List (Nat × List Byte × Nat)) : List Byte := (its.map fun p => toLE 4 p.1 ++ p.2.1).foldl (· ++ ·) []

/-- The FP64 items of a partial rounded at a switch below the root: 8 elements each. -/
def fp64Parts (r : ColRec) (epoch : Nat) (it : SItem) : List (Nat × List Byte × Nat) :=
  let es := (roundItem r epoch it).map (·.1)
  let n := es.length / 8
  (upTo n).map fun i => (it.pos + 8 * i, packElems .fp64 ((es.drop (8 * i)).take 8), b2n (i + 1 == n))

/-- Cut items into bodies of at most 8,192 bytes. -/
def cutParts : List (Nat × List Byte × Nat) → List (Nat × List Byte × Nat) → List (List (Nat × List Byte × Nat))
  | acc, [] => if acc.isEmpty then [] else [acc]
  | acc, p :: t =>
    if acc.isEmpty ∨ (partBody (acc ++ [p])).length ≤ 8192 then cutParts (acc ++ [p]) t else acc :: cutParts [p] t

/-- The report bitmap of flags (R211). -/
def reportBits (fs : List Bool) : List Byte := toLE (fs.length / 8) (packBits (fs.map fun b => (1, b2n b)))

/-- Count items with the last of the frames that carry them: they are sent once it is (R157). -/
def countLast (n : Nat) (fs : List ColOut) : List ColOut :=
  (enum' fs).map fun p => { p.2 with items := if p.1 + 1 = fs.length then n else 0 }

/-- The frames that whole items of a strand make on a channel, with the positions they cover and what the rounding
reports. A child switch sends the report bitmap of a segment on unchanged, however its items were moved (R211). -/
def colFrames (r : ColRec) (ch epoch sent : Nat) (reports : Tab (List Byte)) (its : List SItem) : List ColOut × Nat × List Nat :=
  let pos := match its with | i :: _ => i.pos | [] => 0
  let copies := r.op = 2 ∨ r.op = 3
  let n := sumN (its.map (itemElems r))
  let last (k : Nat) : Bool := r.op == 5 || decide (colExpected r ch ≤ sent + k)
  let results (payload : List Byte) (special : Bool) (toLocal toKids : Bool) : List ColOut :=
    countLast its.length
      ((if toLocal then match localDest r pos with | some d => [⟨none, d.1, d.2, pos, last n, special, payload, 0⟩] | none => [] else [])
        ++ (if toKids then (childDests r pos).map fun d => ⟨some 2, d, false, pos, last n, special, payload, 0⟩ else []))
  let parts (items : List (Nat × List Byte × Nat)) (dsts : List Nat) : List ColOut :=
    if r.op = 5 then countLast its.length (dsts.map fun d => ⟨some 1, d, false, 0, true, false, [], 0⟩)
    else
      let bodies := cutParts [] items
      ((enum' bodies).map fun b => countLast (sumN (b.2.map (·.2.2))) (dsts.map fun d =>
        (⟨some 1, d, false, (b.2.head?.map (·.1)).getD 0, last n && decide (b.1 + 1 = bodies.length), false, partBody b.2, 0⟩ : ColOut))).foldl (· ++ ·) []
  if ch = 0 ∧ r.isRoot then
    if r.op = 5 then (results [] false true true, 0, [])
    else
      let es := (its.map (roundItem r epoch)).foldl (· ++ ·) []
      let bad := (enum' es).filterMap fun p => if p.2.2 then some (pos + p.1) else none
      let special := !bad.isEmpty
      let payload := packElems (fmtOf r.rfmt) (es.map (·.1)) ++ (if special then reportBits (es.map (·.2)) else [])
      (results payload special true true, n, bad)
  else if ch = 0 then (parts ((its.map (fp64Parts r epoch)).foldl (· ++ ·) []) [r.parent], n, [])
  else if ch = 1 then (parts (its.map fun i => (i.pos, i.bytes, 1)) [r.parent], n, [])
  else if ch = 3 ∧ copies then (parts (its.map fun i => (i.pos, i.bytes, 1)) (childDests r pos), n, [])
  else
    let moved := (its.map (·.report)).foldl (· ++ ·) []
    let report := if moved.isEmpty && !copies then tgetD reports pos [] else moved
    let payload := if r.op = 5 then [] else (its.map (·.bytes)).foldl (· ++ ·) [] ++ report
    (results payload (!report.isEmpty) (ch == 2) (ch == 3), n, [])

/-- Put an item into its strand's segment; an item with `LAST` completes it, and its frames join the queue. -/
def colTake (c ch : Nat) (it : SItem) (s : State) : State :=
  match tget s.col.ctx c with
  | none => s
  | some x =>
    let q := x.send.getD ch ⟨[], [], [], [], 0⟩
    let its := tgetD q.parts it.strand [] ++ [it]
    if !it.last then setCol c { x with send := x.send.set ch { q with parts := tset q.parts it.strand its } } s
    else
      let (fs, n, bad) := colFrames x.record ch x.epoch q.sent x.reports its
      let q' := { q with parts := tdel q.parts it.strand, queue := q.queue ++ fs, sent := q.sent + n }
      let first := bad.foldl min (if x.special = 0 then 2 ^ 32 - 1 else x.firstSpecial)
      let y := { x with send := x.send.set ch q', special := x.special + bad.length
                        firstSpecial := if bad.isEmpty then x.firstSpecial else first }
      colFlush c ch q'.queue.length (setCol c y s)

/-- Items that wait enter their segments while no frame waits before them; the fuel is their number. -/
def colDrain (c ch : Nat) : Nat → State → State
  | 0, s => s
  | n + 1, s =>
    match tget s.col.ctx c with
    | none => s
    | some x =>
      let q := x.send.getD ch ⟨[], [], [], [], 0⟩
      match q.queue, q.unsent with
      | [], it :: rest => colDrain c ch n (colTake c ch it (setCol c { x with send := x.send.set ch { q with unsent := rest } } s))
      | _, _ => s

/-- Credit or room has come: the channels go on. -/
def colPump (c : Nat) (s : State) : State :=
  each (upTo 4) (fun ch t =>
    match tget t.col.ctx c with
    | none => t
    | some x =>
      let q := x.send.getD ch ⟨[], [], [], [], 0⟩
      colDrain c ch q.unsent.length (colFlush c ch q.queue.length t)) s

/-- Items that a send channel holds unsent (R157): those that wait, and those whose last frame waits. The items of a segment
that is not whole yet do not count (log 175). -/
def colUnsent (x : ColCtx) (ch : Nat) : Nat :=
  let q := x.send.getD ch ⟨[], [], [], [], 0⟩
  q.unsent.length + sumN (q.queue.map (·.items))

/-! ## Runs (R197 to R199) -/

/-- Galleries that a context may use. -/
def colGalleryOk (s : State) (x : ColCtx) (g : Nat) : Bool :=
  match progSlot s x.record.slot with
  | some p => galAllowed s (colPart s x) p.image.pips g
  | none => galAllowed s (colPart s x) 1 g

/-- The gallery that the Placement Engine chooses for a context. -/
def colChoose (s : State) (x : ColCtx) : Option Nat :=
  match (upTo 32).filter (colGalleryOk s x) with
  | [] => none
  | g :: t => some (t.foldl (fun b g => if galBetter s none g b then g else b) g)

/-- Count a trigger that cannot start a run. -/
def colPend (c : Nat) (s : State) : State :=
  let n := rget s R.COL_CTX_PENDING c
  let s1 := rsat R.COL_CTX_PENDING c 1 s
  if n = 65534 then
    let part := match tget s.col.ctx c with | some x => keyPart s x.record.pkey | none => none
    report ⟨0x12, 0, part, 0xFF, c, 0, 0, 0⟩ s1
  else s1

/-- A context whose gallery a boundary found no longer allowed takes a new one where there is one (R195). -/
def colMove (c : Nat) (s : State) : State :=
  match tget s.col.ctx c with
  | none => s
  | some x =>
    if !x.away then s
    else match colChoose s x with
      | none => rset R.COL_CTX_NO_GALLERY c 1 s
      | some g => rset R.COL_CTX_GALLERY c g (rset R.COL_CTX_NO_GALLERY c 0 (setCol c { x with away := false } s))

/-- Start a run of an `ARMED` context on its gallery, or on a new one where a boundary found its own no longer allowed
(R195). False where no gallery is allowed. -/
def colStart (c : Nat) (s0 : State) : Bool × State :=
  let s := colMove c s0
  match tget s.col.ctx c with
  | none => (false, s)
  | some x =>
    if x.away then (false, s)
    else
      let g := rget s R.COL_CTX_GALLERY c
      let r := x.record
      let y := { x with recv := freshRecv, send := freshSend, dead := false, progress := s.clk.now, abortAt := none
                        special := 0, firstSpecial := 0, inst := none, runNo := x.runNo + 1, reports := [] }
      let args := [r.nlocal + r.children.length, r.elems, r.segelems, x.runNo, r.num, 0, 0, 0].map (BitVec.ofNat 64)
      let l : LaunchRec := ⟨.col c, r.slot, colPart s x, r.pkey, 0x7FFF, nodeSelf s, 0, g, true, false, args, none, 0xFF⟩
      let s2 := rset R.COL_CTX_RP c (1 - rget s R.COL_CTX_RP c) (rset R.COL_CTX_STATE c 3 (setCol c y s))
      (true, placeLaunch l s2)

/-- A trigger of a context; `slot` where a timetable slot gave it. -/
def colTrigger (c : Nat) (slot : Bool) (s : State) : State :=
  match colState s c with
  | 2 => let (ok, s1) := colStart c s; if ok then s1 else colPend c s1
  | 3 => colPend c (if slot then rbump R.TT_OVERRUNS_COUNT 0 s else s)
  | 4 => colPend c s
  | _ => s

/-- A context opens: its channels are bound and its gallery chosen. -/
def colOpenAt (r : ColRec) (byTable : Bool) (s : State) : State :=
  let c := r.num
  let x : ColCtx := { record := r, byTable := byTable, epoch := epochNow s, inst := none, runNo := 0
                      recv := freshRecv, send := freshSend, dead := false, senders := [], progress := 0, abortAt := none
                      next := none, special := 0, firstSpecial := 0, away := true, reports := [] }
  let zero := [R.COL_CTX_RP, R.COL_CTX_CLOSE_PENDING, R.COL_CTX_NO_GALLERY, R.COL_CTX_PENDING, R.COL_CTX_RUNS_DONE, R.COL_CTX_RUNS_ABORTED,
    R.COL_CTX_LAST_REASON, R.COL_CTX_SPECIAL_LANES, R.COL_CTX_FIRST_SPECIAL_POS, R.COL_CTX_STRETCH_US, R.COL_CTX_STRETCH_IDX]
  let s1 := rset R.COL_CTX_STATE c 2 (setCol c x (zero.foldl (fun t f => rset f c 0 t) s))
  let s2 := colMove c s1
  if byTable then s2 else colTrigger c false s2

/-- A context becomes `FREE`; a record that waited for it opens (R227). -/
def colFree (c : Nat) (s : State) : State :=
  match tget s.col.ctx c with
  | none => s
  | some x =>
    let s1 := rset R.COL_CTX_STATE c 0 (rset R.COL_CTX_CLOSE_PENDING c 0 { s with col := { s.col with ctx := tdel s.col.ctx c } })
    match x.next with
    | some r => colOpenAt r true s1
    | none => s1

/-- An `ARMED` context serves a trigger that waits, where a gallery is allowed (R195, R197). -/
def colServe (c : Nat) (s : State) : State :=
  let n := rget s R.COL_CTX_PENDING c
  if n = 0 then s else let (ok, s1) := colStart c s; if ok then rset R.COL_CTX_PENDING c (n - 1) s1 else s1

/-- A context enters `ARMED` after a run, or becomes `FREE` where a close is pending. -/
def colArm (c : Nat) (s : State) : State :=
  match tget s.col.ctx c with
  | none => s
  | some x =>
    if rbit s R.COL_CTX_CLOSE_PENDING c then colFree c s
    else
      let s1 := colMove c (rset R.COL_CTX_STATE c 2 s)
      if x.byTable then colServe c s1 else colTrigger c false s1

/-- At a boundary: a context whose gallery is no longer allowed is to move; one that is `ARMED` chooses at once, and serves
the triggers that waited (R195). -/
def colRegallery (c : Nat) (s : State) : State :=
  match tget s.col.ctx c with
  | none => s
  | some x =>
    let away := x.away || !colGalleryOk s x (rget s R.COL_CTX_GALLERY c)
    let s1 := setCol c { x with away := away } s
    if !away || colState s1 c != 2 then s1 else colServe c (colMove c s1)

/-- The figures of a run that has ended: reported lanes, final lateness (R211, R217). -/
def colFigures (c : Nat) (s : State) : State :=
  match tget s.col.ctx c with
  | none => s
  | some x =>
    let ended := (x.senders.filter fun p => decide (p.1 < 2 * 65536)).map fun p => (p.1, endIdle s x p.1 p.2)
    let worst := bestOf (ended.map fun p => (p.1, p.2.late))
    let s1 := ended.foldl (fun t p => if p.2.told then stragglerEvent c p.1 2 p.2.late x t else t) s
    let s2 := match worst with
      | some (k, l) => rset R.COL_CTX_STRETCH_IDX c (k % 65536) (rset R.COL_CTX_STRETCH_US c (min (l / 1000) (2 ^ 32 - 1)) s1)
      | none => rset R.COL_CTX_STRETCH_IDX c 0 (rset R.COL_CTX_STRETCH_US c 0 s1)
    rset R.COL_CTX_FIRST_SPECIAL_POS c x.firstSpecial (rset R.COL_CTX_SPECIAL_LANES c (min x.special (2 ^ 32 - 1)) s2)

/-- Free the cells of the receive channels and void the credit. -/
def colClear (c : Nat) (s : State) : State :=
  match tget s.col.ctx c with
  | none => s
  | some x => releasePart (colPart s x) x.cells (setCol c { x with recv := freshRecv, send := freshSend, senders := nextCredit (rget s R.COL_CTX_RP c) x.senders } s)

/-- A run has ended without an abort (R197). -/
def colRunEnd (c : Nat) (s : State) : State :=
  let s1 := modCol c (fun x => { x with inst := none }) (colClear c (colFigures c s))
  colArm c (rbump R.COL_CTX_RUNS_DONE c s1)

/-! ## Aborts (R218, R219) -/

/-- The send channels hold nothing that has yet to leave. -/
def ColCtx.drained (x : ColCtx) : Bool := x.send.all fun q => q.queue.isEmpty && q.unsent.isEmpty

/-- The instance of a run has ended without a fault and everything it sent has left: the run ends, and an abort that comes at
the same time is ignored (R221). -/
def colOver (s : State) (x : ColCtx) : Bool :=
  match x.inst with
  | none => false
  | some n =>
    match tget s.seed.insts n with
    | some i => i.fault.isNone && instHalted s i && instQuiet s i && x.drained
    | none => false

/-- A context is `RUNNING` and its run is not at its end. -/
def colRuns (s : State) (c : Nat) : Bool := colState s c == 3 && (match tget s.col.ctx c with | some x => !colOver s x | none => false)

/-- `COL_ABORT` to a node. -/
def sendAbort (c rp reason first dst : Nat) (s : State) : State :=
  sendCtl 0xF1 dst (toLE 2 (c + 32768 * rp) ++ toLE 1 reason ++ [0#8] ++ toLE 2 first ++ toLE 2 0) s

/-- A run aborts, unless it is at its end; `first` is the node that aborted first, `skip` the neighbour from which the abort came. -/
def colAbort (c reason first : Nat) (skip : Option Nat) (s : State) : State :=
  match tget s.col.ctx c with
  | none => s
  | some x =>
    if !colRuns s c then s
    else
      let r := x.record
      let others := r.nodes ++ (((if r.isRoot then [] else [r.parent]) ++ r.children.map (·.node)).filter fun n => skip != some n)
      let rp := rget s R.COL_CTX_RP c
      let s1 := each others (sendAbort c rp reason first) s
      let s2 := modCol c (fun y => { y with dead := true, abortAt := some s.clk.now }) (colClear c (colFigures c s1))
      rset R.COL_CTX_STATE c 4 (rset R.COL_CTX_LAST_REASON c reason (rbump R.COL_CTX_RUNS_ABORTED c s2))

/-- The channels go on. A segment that waits for an endpoint which cannot take it aborts the run (R522). -/
def colGoOn (c : Nat) (s : State) : State :=
  let s1 := colPump c s
  match tget s1.col.ctx c with
  | none => s1
  | some x =>
    if (upTo 4).any fun ch => match (x.send.getD ch ⟨[], [], [], [], 0⟩).queue with
      | o :: _ => colTooBig s1 o
      | [] => false
    then colAbort c 5 (nodeSelf s1) none s1 else s1

/-- A strand sends an item: the carry position of R209, then the channel. An item that `FWD` moves keeps its position
(R158). -/
def colPut (c ch : Nat) (fwd : Bool) (it : SItem) (s : State) : State :=
  match tget s.col.ctx c with
  | none => s
  | some x =>
    let q := x.send.getD ch ⟨[], [], [], [], 0⟩
    let (p0, m) := tgetD q.lastPos it.strand (2 ^ 33, 0)
    let m' := if p0 = it.pos then m else 0
    let it' := if it.carry && !fwd then { it with pos := it.pos + 16 * m' } else it
    let last := if fwd then q.lastPos else tset q.lastPos it.strand (it.pos, m' + b2n it.carry)
    let q' := { q with lastPos := last, unsent := q.unsent ++ [it'] }
    colGoOn c (setCol c { x with send := x.send.set ch q' } s)

/-- No route is left to the parent or to a child of a context (R218). -/
def colCutOff (s : State) (x : ColCtx) : Bool :=
  ((if x.record.isRoot then [] else [x.record.parent]) ++ x.record.children.map (·.node)).any fun m =>
    routeOf s (mkFrame 6 0xC1 m (nodeSelf s) x.record.pkey 0 0 0 0 []) == .nowhere

/-- Contexts with a local contributor on a port that goes down, or with a tree neighbour that no route reaches (R218). -/
def colPortDown (n : Nat) (s : State) : State :=
  each (s.col.ctx.map (·.1)) (fun c t =>
    match tget t.col.ctx c with
    | none => t
    | some x =>
      let here := x.record.nodes.any fun m => nodePort t m == some n
      if here || colCutOff t x then colAbort c 3 (nodeSelf t) none t else t) s

/-- A flip of the routes leaves a tree neighbour of a context without a route (R218). -/
def colLost (s : State) : State :=
  each (s.col.ctx.map (·.1)) (fun c t =>
    match tget t.col.ctx c with
    | none => t
    | some x => if colCutOff t x then colAbort c 3 (nodeSelf t) none t else t) s

/-- A boundary remaps a node (R218). -/
def colRemap (node : Nat) (s : State) : State :=
  each (s.col.ctx.map (·.1)) (fun c t =>
    match tget t.col.ctx c with
    | some x => if x.record.nodes.contains node then colAbort c 4 (nodeSelf t) none t else t
    | none => t) s

end Sys2Proof.Machine
end

