-- ==== Sys2Proof/Machine/Instance.lean ====
section
/-! DEFINITION. Instances: how a launch is answered, how a fault ends one, how its resources are freed, and how a strand
issues an instruction (R83, R96, R105 to R113). -/
namespace Sys2Proof.Machine

/-! ## Answers of a launch -/

/-- A launch ends with a status and a result; `from_` is the origin of its fault record (R105, R107). -/
def launchEnd (r : LaunchRec) (status result from_ : Nat) (s : State) : State :=
  match r.by_ with
  | .request n => closeTrack n status (toLE 8 result) from_ s
  | .host h tag => endB h 0x11 tag status (toLE 8 result) s
  | .slot _ => s
  | .col c => if status = stOK then s else colAbort c 6 (nodeSelf s) none s
  | .pool _ => s

/-! ## Faults (R109 to R113) -/

/-- `LAUNCHED_BY` of R113. -/
def LaunchBy.code : LaunchBy → Nat
  | .request _ => 0 | .host _ _ => 1 | .slot _ => 2 | .col _ => 3 | .pool _ => 3

/-- The launch came as a request. -/
def LaunchRec.isRequest (r : LaunchRec) : Bool := match r.by_ with | .request _ => true | _ => false

/-- The bytes of a strand fault record. -/
def sfaultBytes (n : Nat) (i : Inst) (f : FaultInfo) : List Byte :=
  let r := i.launch
  let tag := if r.isRequest then r.tag else 0
  let src := if r.isRequest then r.src else 0x7FFF
  recBytes 64 [(64, f.time), (8, f.cause), (8, f.status), (5, i.gallery), (3, f.strand % 8), (7, f.strand / 8 % 128), (1, 0),
    (10, i.slot), (6, i.part), (16, 0), (32, f.pc), (64, f.insn), (64, f.addr), (20, tag), (2, r.by_.code), (2, 0),
    (15, src), (1, 0), (16, f.more), (40, 0), (64, n), (64, 0)]

/-- Write a strand fault record in the ring of the partition. -/
def sfaultRec (n : Nat) (i : Inst) (f : FaultInfo) (s : State) : State :=
  let k := i.part * 64 + ringNext sfaultRing i.part s % 64
  ringCount sfaultRing i.part { s with rings := { s.rings with sfault := tset s.rings.sfault k (sfaultBytes n i f) } }

/-- The fault record of R110 for a launch that the tracker does not answer. -/
def launchFault (i : Inst) (status : Nat) (s : State) : State :=
  let r := i.launch
  if r.isRequest ∧ !r.early then s
  else faultIn i.part (mkFrame 4 0x30 r.dst r.src r.pkey r.tag 0 0 72 []) status 3 r.port 0 s

/-- A strand raised the fault: `TIME_LIMIT` and `KILLED` come from no strand (R113). -/
def FaultInfo.raised (f : FaultInfo) : Bool := f.cause != 4 && f.cause != 7

/-- Index of a strand in its instance (R82). -/
def strandIndex (s : State) (k : Nat) : Nat := match tget s.seed.strands k with | some x => x.index | none => 0

/-- A later fault takes the place of the one that came before it at the same instant: a strand's that of `TIME_LIMIT`, and
that of a lower strand index another strand's (R111, R112). -/
def FaultInfo.beats (s : State) (f g : FaultInfo) : Bool :=
  f.time == g.time && f.raised && (g.cause == 4 || (g.raised && decide (strandIndex s f.strand < strandIndex s g.strand)))

/-- A strand that has faulted issues nothing more. -/
def stopStrand (k : Nat) (s : State) : State :=
  match tget s.seed.strands k with
  | some x => setStrand k { x with wait := .fault } s
  | none => s

/-- A fault of an instance. The first decides its cause and status; later ones are counted until the record is written
(R110, R111, log 42). -/
def instFault (n cause status strand pc insn addr : Nat) (s : State) : State :=
  match tget s.seed.insts n with
  | none => s
  | some i =>
    let f : FaultInfo := ⟨s.clk.now, cause, status, strand, pc, insn, addr, 0, false⟩
    let s1 := if f.raised then stopStrand strand s else s
    match i.fault with
    | none => setInst n { i with fault := some f } s1
    | some g =>
      if g.told then s1
      else
        let more := min 65535 (g.more + 1)
        setInst n { i with fault := some { (if f.beats s g then f else g) with more := more } } s1

/-- The dispatcher has stopped the strands of an instance that faulted: its launch is answered and its records are written,
once (R110). -/
def instTell (n : Nat) (s : State) : State :=
  match tget s.seed.insts n with
  | none => s
  | some i =>
    match i.fault with
    | none => s
    | some f =>
      if f.told then s
      else
        let s1 := setInst n { i with fault := some { f with told := true } } s
        let s2 := if i.launch.early then s1 else launchEnd i.launch f.status 0 3 s1
        let s3 := match i.launch.by_ with | .col c => colAbort c 6 (nodeSelf s2) none s2 | _ => s2
        sfaultRec n i f (launchFault i f.status s3)

/-- A fault that a strand raises at its instruction. `addr` is the address accessed: for a branch or a step outside the text
the offset that it would go to (log 174), for `RAISE` and an unbound channel zero (R113). -/
def strandFault (k cause status addr : Nat) (s : State) : State :=
  match tget s.seed.strands k with
  | none => s
  | some x =>
    match tget s.seed.insts x.inst with
    | none => s
    | some i => instFault x.inst cause status k x.pc ((i.image.wordAt x.pc).getD 0) addr s

/-- An uncorrectable error in a store or the register file that strand `k` uses (R109). No row of the table reports one
(log 93). -/
def unitError (k : Nat) (s : State) : State := strandFault k 6 stNoAnswer 0 s

/-- The text offset of the instruction that a strand would issue next, or of its `HALT` if it has halted: one that waits for
a load, a barrier or an event has issued its instruction (R113). -/
def Strand.nextPc (x : Strand) : Nat :=
  match x.wait with
  | .load _ | .bar | .event _ => x.pc + 8
  | _ => x.pc

/-- An instance that has not faulted is stopped by what no strand raised: strand index 0 is named (R112, R113). -/
def instStop (n cause : Nat) (s : State) : State :=
  match tget s.seed.insts n with
  | none => s
  | some i =>
    if i.fault.isSome then s
    else
      let k := i.strandAt 0 0
      let pc := match tget s.seed.strands k with | some x => x.nextPc | none => 0
      instFault n cause stNoAnswer k pc ((i.image.wordAt pc).getD 0) 0 s

/-! ## The end of an instance (R96, R105, R108, R110) -/

/-- Resident text that no instance uses and whose slot holds another image is dropped (R100, R108). -/
def dropTexts (g : Nat) (s : State) : State :=
  let x := galOf s g
  let used (t : ResText) : Bool := s.seed.insts.any fun p => p.2.gallery == g && p.2.slot == t.slot && p.2.version == t.version
  let live (t : ResText) : Bool := match progSlot s t.slot with | some p => p.version == t.version | none => false
  setGal g { x with texts := x.texts.filter fun t => used t || live t } s

/-- Free the pips, pages, strands and pins of an instance. -/
def instFree (n : Nat) (i : Inst) (s : State) : State :=
  let s1 := { s with seed := { s.seed with
    insts := tdel s.seed.insts n, strands := tfilter s.seed.strands fun _ x => x.inst != n } }
  let x := galOf s1 i.gallery
  let none_ := !(s1.seed.insts.any fun p => p.2.gallery == i.gallery)
  let s2 := setGal i.gallery { x with needZero := true, emptySince := if none_ then some s1.clk.now else none } s1
  dropTexts i.gallery (dropInstPins n s2)

/-- The run of an instance has sent everything that waits on its channels: each position is delivered (R212, log 177). -/
def runDrained (s : State) (i : Inst) : Bool :=
  match i.launch.by_ with
  | .col c => colState s c != 3 || (match tget s.col.ctx c with | some x => x.drained | none => true)
  | _ => true

/-- An instance whose strands are done and whose requests are answered ends. One that faulted is first answered for. -/
def instEnd (n : Nat) (s0 : State) : State :=
  let s := instTell n s0
  match tget s.seed.insts n with
  | none => s
  | some i =>
    if !instQuiet s i then s
    else if i.fault.isSome then
      let s1 := instFree n i s
      match i.launch.by_ with
      | .col c => modCol c (fun x => { x with inst := none }) s1
      | _ => s1
    else if !instHalted s i || !runDrained s i then s
    else
      let s1 := instFree n i s
      match i.launch.by_ with
      | .col c => if colState s1 c = 3 then colRunEnd c s1 else modCol c (fun x => { x with inst := none }) s1
      | _ => if i.launch.early then s1 else launchEnd i.launch stOK i.result.toNat 3 s1

/-! ## Issue (R83, R161) -/

/-- The strands of an instance may still issue: it has not faulted, or the 100 ns in which the dispatcher stops them run
(R110). -/
def Inst.issues (i : Inst) (now : Nat) : Bool :=
  match i.fault with
  | none => true
  | some f => !f.told && decide (now ≤ f.time + 100)

/-- A strand may issue: its instance lives, issue on its gallery is not paused, it waits for nothing. -/
def canIssue (s : State) (k : Nat) (x : Strand) : Bool :=
  !x.halted && x.wait == .none && (galOf s (k / 1024)).paused.isNone && !sleeps s (.gallery (k / 1024))
    && (match tget s.seed.insts x.inst with | some i => i.issues s.clk.now | none => false)

/-- Move a strand to a text offset. An offset past the text faults `LOCAL_RANGE`; `ADDR` is that offset (R109, log 174). -/
def goTo (k pc : Nat) (s : State) : State :=
  match tget s.seed.strands k with
  | none => s
  | some x =>
    let s1 := setStrand k { x with pc := pc } s
    match tget s.seed.insts x.inst with
    | some i => if i.image.textLen ≤ pc then instFault x.inst 1 stIllegal k pc 0 pc s1 else s1
    | none => s1

/-- The next instruction. -/
def advance_ (k : Nat) (s : State) : State :=
  match tget s.seed.strands k with
  | some x => goTo k (x.pc + 8) s
  | none => s

/-- The strand with its registers changed goes on to its next instruction. -/
def retire (k : Nat) (x : Strand) (s : State) : State := advance_ k (setStrand k x s)

/-- Strand `k` issues its next instruction where that is of the kind asked for and may issue now. `act` answers none where
the instruction waits to issue: it is then offered again, and nothing has changed (R83, R161). -/
def issueInsn (k : Nat) (kind : Insn → Bool) (act : Insn → Strand → Inst → State → Option State) (s : State) : Out :=
  .next (if !running s then s else
    match tget s.seed.strands k with
    | none => s
    | some x =>
      match tget s.seed.insts x.inst with
      | none => s
      | some i =>
        match i.image.wordAt x.pc with
        | none => s
        | some w =>
          let n := Insn.of w
          if canIssue s k x && kind n && !scalarBusy x n then (act n x i (meter i.part 3 1 s)).getD s else s)

/-- An instruction that only changes its strand's registers. -/
def regInsn (k : Nat) (kind : Insn → Bool) (f : Insn → Strand → Strand) (s : State) : Out :=
  issueInsn k kind (fun n x _ t => some (retire k (f n x) t)) s

end Sys2Proof.Machine
end

