-- ==== Sys2Proof/Machine/Launch.lean ====
section
/-! DEFINITION. Launches: requests and host commands, dispatch, limits, kill, and the zeroing of galleries (R39, R98 to
R108). -/
namespace Sys2Proof.Machine

/-! ## Launch requests (R101 to R106) -/

/-- A launch whose form and slot pass is placed; another ends (R102). -/
def launchGo (r : LaunchRec) (s : State) : State :=
  match launchStatus s r with
  | some st => launchEnd r st 0 1 s
  | none => placeLaunch r s

/-- LAUNCH (R101 to R103, R106). -/
def execLaunch (id : Nat) (s : State) : Out :=
  serve id (fun f => f.opc == 0x30) (fun n tracked f t =>
    if !tracked then refuse n tracked f stUnsupported 1 t
    else if f.dst ≠ nodeSelf t then
      if oneHop t f.dst then sendTracked n t else refuse n tracked f stUnsupported 0 t
    else if f.len ≠ 72 ∨ !launchForm f.payload then refuse n tracked f stIllegal 1 t
    else
      let e := tget t.track.reqs n
      let at_ := match e with | some e => e.accepted | none => t.clk.now
      let port := match e with | some e => e.port | none => 0xFF
      let r := launchOf f.payload (.request n) ((keyPart t f.pkey).getD 0) f.pkey f.src f.dst f.tag port
        (some (at_ + 1000 * rget t R.XACT_CFG_REMOTE_TIMEOUT_US 0 - 5000))
      launchGo (if r.early then { r with deadline := none } else r) t) s

/-- LAUNCH_DEADLINE: a launch still undispatched at the second time of R106 leaves its queue. -/
def execLaunchDeadline (req : Nat) (s : State) : Out :=
  whenRunning (fun t =>
    let mine (r : LaunchRec) : Bool := r.by_ == .request req && r.deadline.isSome
    let out (r : LaunchRec) (u : State) : State := launchEnd r stNoAnswer 0 3 (atTime (r.deadline.getD 0) u)
    match t.seed.held.find? mine with
    | some r => out r (releasePart r.part 1 { t with seed := { t.seed with held := t.seed.held.erase r } })
    | none =>
      match (upTo 32).find? fun g => (galOf t g).queue.any mine with
      | none => t
      | some g =>
        let x := galOf t g
        match x.queue.find? mine with
        | some r => placeHeld (out r (setGal g { x with queue := x.queue.erase r } t))
        | none => t) s

/-- HOST_COMMAND_LAUNCH: the host command `LAUNCH` (R106, R493). -/
def execHostCommandLaunch (h : Nat) (buf : Option (List Byte)) (s : State) : Out :=
  withCmd h 0x11 neverBusy (fun c t =>
    match buf with
    | none => completeWith h c stLoadFailed t
    | some b =>
      let p := slice b 0 72
      if c.bufLen ≠ 72 ∨ !c.restZero 2 ∨ !launchForm p then completeWith h c stIllegal t
      else
        let key := c.arg 0 2
        let r := launchOf p (.host h c.tag) ((keyPart t key).getD 0) key 0x7FFF (nodeSelf t) 0 0xFF none
        launchGo { r with early := false } (beginB h c c.tag t)) s

/-- KILL (R109, R112, R493). -/
def execKill (h : Nat) (s : State) : Out :=
  withCmd h 0x12 neverBusy (fun c t =>
    let n := c.arg 0 8
    if !c.restZero 8 ∨ !thas t.seed.insts n then completeWith h c stIllegal t
    else completeWith h c stOK (instStop n 7 t)) s

/-- PROG_LOAD: an image is checked and staged for a slot, or the slot's emptying is (R98, R99, R493). -/
def execProgLoad (h : Nat) (buf : Option (List Byte)) (s : State) : Out :=
  withCmd h 0x10 neverBusy (fun c t =>
    let slot := c.arg 0 2
    if 1024 ≤ slot ∨ 64 ≤ c.arg 2 1 ∨ !c.restZero 3 then completeWith h c stIllegal t
    else if c.bufLen = 0 then stageCmd h c slot [] t
    else match buf with
      | none => completeWith h c stLoadFailed t
      | some b =>
        let bytes := slice b 0 c.bufLen
        if (imageOf bytes).isSome then stageCmd h c slot bytes t else completeWith h c stIllegal t) s

/-! ## Dispatch (R84, R85, R88, R100, R104) -/

/-- Pages of a gallery that instances and resident text hold. -/
def usedPages (s : State) (g : Nat) : List Nat :=
  (s.seed.insts.map fun p => if p.2.gallery = g then p.2.pages else []).foldl (· ++ ·) []
    ++ ((galOf s g).texts.map (·.pages)).foldl (· ++ ·) []

/-- Pages that may be given out: 7 MiB of the gallery store. -/
def openPages (s : State) (g : Nat) : List Nat := let u := usedPages s g; (upTo 1792).filter fun p => !u.contains p

/-- Text that some instance of the gallery runs. -/
def textUsed (s : State) (g : Nat) (t : ResText) : Bool :=
  s.seed.insts.any fun p => p.2.gallery == g && p.2.slot == t.slot && p.2.version == t.version

/-- Drop resident text that nothing runs and that is not of the version to keep, the oldest first, until n pages are free
or none is left (R108). -/
def evictTexts (g n keep : Nat) : Nat → State → State
  | 0, s => s
  | k + 1, s =>
    if n ≤ (openPages s g).length then s
    else match (galOf s g).texts.find? fun t => !textUsed s g t && t.version != keep with
      | some t => evictTexts g n keep k (setGal g { galOf s g with texts := (galOf s g).texts.erase t } s)
      | none => s

/-- The registers of a strand at dispatch (R84, R85). -/
def freshStrand (m : Image) (args : List Word64) (now inst index : Nat) : Strand where
  v := List.replicate 16 0
  a := List.replicate 4 (List.replicate 16 Lane.init)
  s := 0 :: slice8 args ++ [0, 0, 0, 0, BitVec.ofNat 64 now, BitVec.ofNat 64 (m.pips * m.strands), BitVec.ofNat 64 index]
  p := 0xFFFF#16 :: List.replicate 7 0
  pc := m.entry
  wait := .none
  halted := false
  reqs := []
  buf := []
  inst := inst
  index := index
  near := 0
where
  /-- Eight arguments. -/
  slice8 (l : List Word64) : List Word64 := (upTo 8).map fun i => l.getD i 0

/-- Zero a pip store. -/
def zeroPip (p : Nat) (s : State) : State := { s with seed := { s.seed with pipMem := mzero s.seed.pipMem (p * 0x20000) 0x20000 } }

/-- Give a launch its pips and pages, copy its data, set its strands up and start it (R84, R85, R88, R104, R105). -/
def dispatchAt (g : Nat) (r : LaunchRec) (p : ProgSlot) (pips text pages : List Nat) (s : State) : State :=
  let m := p.image
  let n := s.seed.nextInst
  let now := s.clk.now
  let own := now + 1000 * (if m.timeLimit = 0 then rget s R.PROG_CFG_PROG_LIMIT_US 0 else m.timeLimit)
  let limit := match r.deadline with | some d => min own d | none => own
  let i : Inst := ⟨r, m, r.slot, p.version, r.part, g, pips.map (· + g * 128), pages, now, limit, 0, none, []⟩
  let x := galOf s g
  let x' := { x with resident := some r.part, needZero := true, emptySince := none
                     texts := if text.isEmpty then x.texts else x.texts ++ [⟨r.slot, p.version, text⟩] }
  let s1 := setInst n i (setGal g x' { s with seed := { s.seed with nextInst := n + 1 } })
  let ids := enum' i.strands
  let s2 := each ids (fun q t => setStrand q.2 (freshStrand m r.args now n q.1) t) s1
  let s3 := localWrite i 0 (.gal 0) m.data s2
  let s4 := if bitAt m.flags 0 then localWrite i 0 (.gal m.dataLen) (List.replicate m.gsLen 0#8) s3 else s3
  let s5 := if bitAt m.flags 1 then each i.pipsAt zeroPip s4 else s4
  let s6 := rbump R.PROG_STATUS_INSTANCES 0 s5
  match r.by_ with
  | .request _ => if r.early then launchEnd r stOK 0 3 s6 else s6
  | .col c => modCol c (fun y => { y with inst := some n }) s6
  | _ => s6

/-- Another partition's bytes are in the gallery: it is zeroed first (R39). -/
def mustZero (x : Gallery) (part : Nat) : Bool := x.needZero && x.resident.isSome && x.resident != some part

/-- An instance or a pooling share of another partition is on the gallery. -/
def foreign (s : State) (g part : Nat) : Bool :=
  (s.seed.insts.any fun p => p.2.gallery == g && p.2.part != part)
    || (galOf s g).batches.any fun b => match tget s.tbl.batches b with | some y => y.part != part | none => false

/-- Begin to zero a gallery for a partition. -/
def beginZero (g part : Nat) (s : State) : State := setGal g { galOf s g with zeroFor := some part, zeroAt := s.clk.now } s

/-- The head of a queue leaves it. -/
def popQueue (g : Nat) (s : State) : State := setGal g { galOf s g with queue := (galOf s g).queue.drop 1 } s

/-- The head of a queue is a pooling share: an instance that is given all pips of the gallery (R242, log 41). -/
def dispatchShare (g b : Nat) (r : LaunchRec) (s : State) : State :=
  match tget s.tbl.batches b with
  | none => popQueue g s
  | some y =>
    if (freePips s g).length ≠ (goodPips s g).length ∨ !(galOf s g).batches.isEmpty then s
    else
      let n := s.seed.nextInst
      let shares := (enum' y.shares).map fun p => if p.1 = r.slot then { p.2 with started := true, gallery := g, inst := n } else p.2
      let s1 := rbump R.PROG_STATUS_INSTANCES 0 (popQueue g { s with seed := { s.seed with nextInst := n + 1 } })
      let x := galOf s1 g
      setGal g { x with batches := x.batches ++ [b], resident := some r.part, needZero := true, emptySince := none }
        { s1 with tbl := { s1.tbl with batches := tset s1.tbl.batches b { y with shares := shares } } }

/-- GALLERY_DISPATCH: the launch at the head of a gallery's queue is dispatched when it has what it needs (R104). -/
def execGalleryDispatch (gal : Nat) (s : State) : Out :=
  whenRunning (fun t =>
    let x := galOf t gal
    match x.queue with
    | [] => t
    | r :: _ =>
      if sleeps t (.gallery gal) || x.zeroFor.isSome || foreign t gal r.part then t
      else
        let blocked (u : State) : State := if mustZero x r.part && galIdle u gal then beginZero gal r.part u else u
        match r.by_ with
        | .pool b => if mustZero x r.part then blocked t else placeHeld (dispatchShare gal b r t)
        | _ =>
          match progSlot t r.slot with
          | none => placeHeld (launchEnd r stIllegal 0 3 (popQueue gal t))
          | some p =>
            if keyPart t r.pkey ≠ some p.part then placeHeld (launchEnd r stDenied 0 3 (popQueue gal t))
            else if mustZero x r.part then blocked t
            else
              let pips := (freePips t gal).take p.image.pips
              let inText := x.texts.any fun y => y.slot == r.slot && y.version == p.version
              let textPages := if inText then 0 else ceilDiv p.image.textLen 4096
              let need := ceilDiv (p.image.dataLen + p.image.gsLen) 4096
              if pips.length < p.image.pips ∨ !x.batches.isEmpty then t
              else
                let t1 := evictTexts gal (textPages + need) p.version x.texts.length t
                let free := openPages t1 gal
                if free.length < textPages + need then t
                else placeHeld (dispatchAt gal r p pips (free.take textPages) ((free.drop textPages).take need) (popQueue gal t1))) s

/-- GALLERY_ZEROING_DONE: 8 µs after their zeroing began the stores of the gallery and of its pips read zero, and its next
partition may come (R39). -/
def execGalleryZeroingDone (gal : Nat) (s : State) : Out :=
  whenRunning (fun t =>
    let x := galOf t gal
    match x.zeroFor with
    | none => t
    | some p =>
      let t1 := setGal gal { x with zeroFor := none, resident := some p, needZero := false, texts := [] } (atTime (x.zeroAt + 8000) t)
      { t1 with seed := { t1.seed with
          pipMem := mzero t1.seed.pipMem (gal * 128 * 0x20000) (128 * 0x20000)
          galMem := mzero t1.seed.galMem (gal * 2 ^ 23) (2 ^ 23) } }) s

/-! ## The end of an instance (R96, R105, R106) -/

/-- INSTANCE_END (R105, R110). -/
def execInstanceEnd (inst : Nat) (s : State) : Out := whenRunning (instEnd inst) s

/-- INSTANCE_TIME_LIMIT: the instance is stopped at its limit (R106). -/
def execInstanceTimeLimit (inst : Nat) (s : State) : Out :=
  whenRunning (fun t =>
    match tget t.seed.insts inst with
    | some i => if i.fault.isSome then t else instStop inst 4 (atTime i.limitAt t)
    | none => t) s

end Sys2Proof.Machine
end

