-- ==== Sys2Proof/Machine/Operands.lean ====
section
/-! DEFINITION. Operands of the lane-wise Seedcode instructions and the arithmetic on one element
(R144 to R146, R169 to R171, R174, R176, R178, R182, R185). -/
namespace Sys2Proof.Machine

/-! ## Predication (R144) -/

/-- The governing predicate g. -/
def Insn.gov (i : Insn) (x : Strand) : Pred := if i.pneg then ~~~(x.pr i.psel) else x.pr i.psel

/-- The bit of g that governs element e. -/
def govIndex (f : Fmt) (e : Nat) : Nat :=
  match f.elems with
  | 8 => 2 * e
  | 16 => e
  | _ => e / 2

/-- Element e is governed on. -/
def govOn (f : Fmt) (g : Pred) (e : Nat) : Bool := g.getLsbD (govIndex f e)

/-- Write the governed elements of a register; the others keep their values. -/
def putGov (f : Fmt) (g : Pred) (d : Vec) (r : Nat → Nat) : Vec :=
  (upTo f.elems).foldl (fun v e => if govOn f g e then put f v e (r e) else v) d

/-! ## The second operand (R145) and the rounding controls (R146) -/

/-- `IMM` as one element. -/
def Insn.immBits (i : Insn) : Nat := if i.format.width = 64 then i.imm * 2 ^ 32 else i.imm % 2 ^ i.format.width

/-- b(e) of R145. -/
def Insn.bOp (i : Insn) (x : Strand) (e : Nat) : Nat :=
  match i.fn / 16 with
  | 0 => el i.format (x.vr i.b) e
  | 1 => (x.sr i.b).toNat % 2 ^ i.format.width
  | _ => i.immBits

/-- The rounding mode in `FN`[2:0]. -/
def Insn.rm (i : Insn) : RMode := (RMode.ofCode (i.fn % 8)).getD .rne

/-- `SAT` in `FN`[3]. -/
def Insn.sat (i : Insn) : Bool := i.fnBit 3

/-! ## Floating-point results (R169, R170) -/

/-- A sum. A zero of binary64 has the sign of IEEE 754, a zero of another format is +0 (R132, R134). -/
def fSum (f : Fmt) (rm : RMode) : FVal → FVal → FVal
  | .nan, _ => .nan
  | _, .nan => .nan
  | .inf s, .inf t => if s = t then .inf s else .nan
  | .inf s, _ => .inf s
  | _, .inf t => .inf t
  | .fin na p, .fin nb q =>
    let x := Q.add p q
    if x.n = 0 then .fin (decide (f = .fp64) && zeroSumNeg rm na nb) ⟨0, 1⟩ else .fin (decide (x.n < 0)) x

/-- Change the sign of a value. -/
def fNeg : FVal → FVal
  | .nan => .nan
  | .inf s => .inf (!s)
  | .fin s q => .fin (!s) (Q.neg q)

/-- An exact product. -/
def fMul (f : Fmt) : FVal → FVal → FVal
  | .nan, _ => .nan
  | _, .nan => .nan
  | .inf s, .inf t => .inf (s != t)
  | .inf s, .fin t q => if q.n = 0 then .nan else .inf (s != t)
  | .fin s q, .inf t => if q.n = 0 then .nan else .inf (s != t)
  | .fin na p, .fin nb q =>
    if p.n = 0 ∨ q.n = 0 then .fin (decide (f = .fp64) && (na != nb)) ⟨0, 1⟩ else .fin (na != nb) (Q.mul p q)

/-- A quotient. -/
def fDiv (f : Fmt) : FVal → FVal → FVal
  | .nan, _ => .nan
  | _, .nan => .nan
  | .inf _, .inf _ => .nan
  | .inf s, .fin t _ => .inf (s != t)
  | .fin s _, .inf t => .fin (s != t) ⟨0, 1⟩
  | .fin na p, .fin nb q =>
    if q.n = 0 then (if p.n = 0 then .nan else .inf (na != nb))
    else if p.n = 0 then .fin (decide (f = .fp64) && (na != nb)) ⟨0, 1⟩
    else .fin (na != nb) (Q.div p q)

/-- Sign bit of a format. -/
def signBit (f : Fmt) (neg : Bool) : Nat := if neg then 2 ^ (f.width - 1) else 0

/-- Round a result once; a zero that carries a sign keeps it (R132 to R135, R170). -/
def fRound (f : Fmt) (rm : RMode) (sat : Bool) : FVal → Nat
  | .fin neg q => if q.n = 0 then signBit f neg else roundTo f rm sat 0 q
  | v => roundVal f rm sat 0 v

/-- How two values compare; none where one is NaN. +0 equals −0. -/
def fCmp : FVal → FVal → Option Ordering
  | .nan, _ => none
  | _, .nan => none
  | .inf s, .inf t => some (if s = t then .eq else if s then .lt else .gt)
  | .inf s, _ => some (if s then .lt else .gt)
  | _, .inf t => some (if t then .gt else .lt)
  | .fin _ p, .fin _ q => some (if Q.lt p q then .lt else if Q.eqv p q then .eq else .gt)

/-- A zero with its sign set. -/
def isNegZero : FVal → Bool
  | .fin true q => decide (q.n = 0)
  | _ => false

/-- `MAX` or `MIN` of two elements' bits: an operand unchanged, except for NaN; +0 ranks above −0. -/
def fMaxMin (f : Fmt) (max_ : Bool) (a b : Nat) : Nat :=
  let u := valOf f a
  let v := valOf f b
  match fCmp u v with
  | none => f.nanBits
  | some .gt => if max_ then a else b
  | some .lt => if max_ then b else a
  | some .eq => if isNegZero u then (if max_ then b else a) else (if max_ then a else b)

/-! ## Integer results (R171) -/

/-- Keep an exact integer in the format: modulo 2^w, or clamped under `SAT`. -/
def intFit (f : Fmt) (sat : Bool) (x : Int) : Nat :=
  let hi : Int := f.maxBits
  let lo : Int := -hi - 1
  unsigned f.width (if sat then max lo (min hi x) else x)

/-- An integer quotient. -/
def intDiv (f : Fmt) (rm : RMode) (a b : Int) : Nat :=
  if b = 0 then (if a = 0 then 0 else if 0 < a then f.maxBits else 2 ^ (f.width - 1))
  else roundTo f rm true 0 (Q.div ⟨a, 1⟩ ⟨b, 1⟩)

/-- The integer that an element holds. -/
def intOf (f : Fmt) (bits : Nat) : Int := signed f.width bits

/-! ## The arithmetic instructions on one element (R169) -/

/-- One element of an arithmetic instruction: `fp` on a floating-point format, `int` on an integer format. -/
def arith (i : Insn) (fp : FVal → FVal → FVal → FVal) (int : Int → Int → Int → Int) (a b d : Nat) : Nat :=
  let f := i.format
  if f.isInt then intFit f i.sat (int (intOf f a) (intOf f b) (intOf f d))
  else fRound f i.rm i.sat (fp (valOf f a) (valOf f b) (valOf f d))

/-- Apply an element operation of vA, b and vD to the governed elements of vD. -/
def laneWise (i : Insn) (x : Strand) (r : Nat → Nat → Nat → Nat) : Strand :=
  let f := i.format
  let d := x.vr i.d
  x.putV i.d (putGov f (i.gov x) d fun e => r (el f (x.vr i.a) e) (i.bOp x e) (el f d e))

/-- Apply an element operation of vA alone. -/
def unaryWise (i : Insn) (x : Strand) (r : Nat → Nat) : Strand :=
  let f := i.format
  x.putV i.d (putGov f (i.gov x) (x.vr i.d) fun e => r (el f (x.vr i.a) e))

/-! ## Bitwise operations (R174) -/

/-- All ones of an element. -/
def Fmt.ones (f : Fmt) : Nat := 2 ^ f.width - 1

/-- An arithmetic shift right of an element. -/
def sarBits (f : Fmt) (a c : Nat) : Nat := unsigned f.width (intOf f a / (2 ^ c : Int))

/-! ## Scalar operands (R176) -/

/-- b of a scalar operation. -/
def Insn.sOp (i : Insn) (x : Strand) : Word64 := if i.fnBit 5 then BitVec.ofInt 64 i.sext else x.sr i.b

/-- A scalar operation on sA and b. -/
def scalarOp (i : Insn) (x : Strand) (r : Word64 → Word64 → Word64) : Strand := x.putS i.d (r (x.sr i.a) (i.sOp x))

/-- A truth value in a scalar register. -/
def flag64 (b : Bool) : Word64 := if b then 1 else 0

/-! ## Conversions (R182, R185, R186) -/

/-- `PART` in `FN`[5:4]. -/
def Insn.part (i : Insn) : Nat := i.fn / 16

/-- Source element of each target element of a conversion; none where the conversion writes nothing. -/
def cvtSource (src dst : Fmt) (part e : Nat) : Option Nat :=
  if src.elems ≤ dst.elems then
    (if part * src.elems ≤ e ∧ e < (part + 1) * src.elems then some (e - part * src.elems) else none)
  else some (part * dst.elems + e)

/-- Convert the governed elements: `r` gives the target bits of a source element's bits. -/
def cvtWise (i : Insn) (x : Strand) (src : Fmt) (r : Nat → Nat) : Strand :=
  let f := i.format
  let d := x.vr i.d
  x.putV i.d ((upTo f.elems).foldl (fun v e =>
    match cvtSource src f i.part e with
    | some j => if govOn f (i.gov x) e then put f v e (r (el src (x.vr i.a) j)) else v
    | none => v) d)

/-- Elements of a register from a list of bits. -/
def vecOf (f : Fmt) (es : List Nat) : Vec := (enum' es).foldl (fun v p => put f v p.1 p.2) 0

end Sys2Proof.Machine
end

