-- ==== Sys2Proof/Machine/Flags.lean ====
section
/-! DEFINITION. What the Seedcode instructions write into predicates: the results of `CMP` (R172), the lane report of
`RND` (R182), and the conditions of `BR` that read a predicate (R149). -/
namespace Sys2Proof.Machine

/-- Set or clear bit n of a predicate. -/
def Pred.setTo (p : Pred) (n : Nat) (b : Bool) : Pred :=
  if b then p ||| (1#16 <<< n) else p &&& ~~~(1#16 <<< n)

/-- The test of `CMP` under `FN`[2:0] (R172). -/
def cmpTest (code : Nat) (o : Option Ordering) : Bool :=
  match o with
  | none => code == 1 || code == 6
  | some .lt => code == 1 || code == 2 || code == 3
  | some .eq => code == 0 || code == 3 || code == 5
  | some .gt => code == 1 || code == 4 || code == 5

/-- The predicates that `CMP` writes: bits of elements governed off keep their values (R172). -/
def cmpWrite (f : Fmt) (g : Pred) (d : Nat) (r : Nat → Bool) (x : Strand) : Strand :=
  (upTo f.elems).foldl (fun y e =>
    if govOn f g e then
      match f.elems with
      | 8 => y.putP d (Pred.setTo (Pred.setTo (y.pr d) (2 * e) (r e)) (2 * e + 1) (r e))
      | 16 => y.putP d (Pred.setTo (y.pr d) e (r e))
      | _ => let q := d + e % 2; y.putP q (Pred.setTo (y.pr q) (e / 2) (r e))
    else y) x

/-- The lane report of `RND`: one bit per lane (R182). -/
def laneReport (bs : List Bool) : Pred := (enum' bs).foldl (fun p b => Pred.setTo p b.1 b.2) 0

/-- The number of bits set in a predicate (R177). -/
def predCount (p : Pred) : Nat := sumN ((upTo 16).map fun j => b2n (p.getLsbD j))

/-- The condition of a branch (R149). -/
def brTaken (cond : Nat) (a : Word64) (g : Pred) : Bool :=
  match cond with
  | 0 => true
  | 1 => a == 0
  | 2 => a != 0
  | 3 => a.msb
  | 4 => !a.msb
  | 5 => g != 0
  | 6 => g == 0xFFFF#16
  | _ => g == 0

end Sys2Proof.Machine
end

