-- ==== Sys2Proof/Machine/SeedArith.lean ====
section
/-! DEFINITION. Arithmetic, bitwise, move, scalar, predicate and unary Seedcode instructions (R169 to R178). Each row is
one issue of that instruction by a strand: it changes nothing where the strand's next instruction is another one or may
not issue. -/
namespace Sys2Proof.Machine

/-- The instruction has an operation code. -/
def isOp (op : Nat) (i : Insn) : Bool := i.op == op

/-- The instruction has an operation code and function bits. -/
def isOpFn (op mask fn : Nat) (i : Insn) : Bool := i.op == op && i.fn % mask == fn

/-! ## Arithmetic (R169 to R172) -/

/-- ADD (R169 to R171). -/
def execAdd (k : Nat) (s : State) : Out :=
  regInsn k (isOp 0x18) (fun i x => laneWise i x
    (arith i (fun a b _ => fSum i.format i.rm a b) (fun a b _ => a + b))) s

/-- SUB (R169 to R171). -/
def execSub (k : Nat) (s : State) : Out :=
  regInsn k (isOp 0x19) (fun i x => laneWise i x
    (arith i (fun a b _ => fSum i.format i.rm a (fNeg b)) (fun a b _ => a - b))) s

/-- MUL (R169 to R171). -/
def execMul (k : Nat) (s : State) : Out :=
  regInsn k (isOp 0x1A) (fun i x => laneWise i x
    (arith i (fun a b _ => fMul i.format a b) (fun a b _ => a * b))) s

/-- FMA: product and sum are exact before the one rounding (R169 to R171). -/
def execFma (k : Nat) (s : State) : Out :=
  regInsn k (isOp 0x1B) (fun i x => laneWise i x
    (arith i (fun a b d => fSum i.format i.rm (fMul i.format a b) d) (fun a b d => a * b + d))) s

/-- DIV (R169 to R171). -/
def execDiv (k : Nat) (s : State) : Out :=
  regInsn k (isOp 0x1C) (fun i x => laneWise i x (fun a b _ =>
    let f := i.format
    if f.isInt then intDiv f i.rm (intOf f a) (intOf f b) else fRound f i.rm i.sat (fDiv f (valOf f a) (valOf f b)))) s

/-- MAX (R169, R170). -/
def execMax (k : Nat) (s : State) : Out := regInsn k (isOp 0x1D) (fun i x => laneWise i x (fun a b _ => fMaxMin i.format true a b)) s

/-- MIN (R169, R170). -/
def execMin (k : Nat) (s : State) : Out := regInsn k (isOp 0x1E) (fun i x => laneWise i x (fun a b _ => fMaxMin i.format false a b)) s

/-- CMP (R172). -/
def execCmp (k : Nat) (s : State) : Out :=
  regInsn k (isOp 0x1F) (fun i x =>
    let f := i.format
    cmpWrite f (i.gov x) i.d (fun e => cmpTest (i.fn % 8) (fCmp (valOf f (el f (x.vr i.a) e)) (valOf f (i.bOp x e)))) x) s

/-- SEL (R173). -/
def execSel (k : Nat) (s : State) : Out :=
  regInsn k (isOp 0x20) (fun i x =>
    let f := i.format
    let g := i.gov x
    x.putV i.d (vecOf f ((upTo f.elems).map fun e => el f (if govOn f g e then x.vr i.a else x.vr i.b) e))) s

/-! ## Bitwise (R174) -/

/-- A bitwise instruction: `FN`[2:0] is `code`; `r` acts on a, b and the element width. -/
def bitInsn (k code : Nat) (r : Fmt → Nat → Nat → Nat) (s : State) : Out :=
  regInsn k (isOpFn 0x21 8 code) (fun i x => laneWise i x (fun a b _ => r i.format a b)) s

/-- AND (R174). -/
def execAnd (k : Nat) (s : State) : Out := bitInsn k 0 (fun _ a b => a &&& b) s
/-- OR (R174). -/
def execOr (k : Nat) (s : State) : Out := bitInsn k 1 (fun _ a b => a ||| b) s
/-- XOR (R174). -/
def execXor (k : Nat) (s : State) : Out := bitInsn k 2 (fun _ a b => a ^^^ b) s
/-- ANDN (R174). -/
def execAndn (k : Nat) (s : State) : Out := bitInsn k 3 (fun f a b => a &&& (b ^^^ f.ones)) s
/-- NOT (R174). -/
def execNot (k : Nat) (s : State) : Out := bitInsn k 4 (fun f a _ => a ^^^ f.ones) s
/-- SHL (R174). -/
def execShl (k : Nat) (s : State) : Out := bitInsn k 5 (fun f a b => a <<< (b % f.width)) s
/-- SHR (R174). -/
def execShr (k : Nat) (s : State) : Out := bitInsn k 6 (fun f a b => a >>> (b % f.width)) s
/-- SAR (R174). -/
def execSar (k : Nat) (s : State) : Out := bitInsn k 7 (fun f a b => sarBits f a (b % f.width)) s

/-! ## Moves (R175) -/

/-- MOV (R175). -/
def execMov (k : Nat) (s : State) : Out := regInsn k (isOpFn 0x22 64 0) (fun i x => unaryWise i x id) s

/-- BCAST (R175). -/
def execBcast (k : Nat) (s : State) : Out :=
  regInsn k (isOpFn 0x22 64 1) (fun i x => unaryWise i x (fun _ => (x.sr i.a).toNat % 2 ^ i.format.width)) s

/-- BCASTI (R175). -/
def execBcasti (k : Nat) (s : State) : Out := regInsn k (isOpFn 0x22 64 2) (fun i x => unaryWise i x (fun _ => i.immBits)) s

/-- IOTA (R175). -/
def execIota (k : Nat) (s : State) : Out :=
  regInsn k (isOpFn 0x22 64 3) (fun i x =>
    let f := i.format
    x.putV i.d (putGov f (i.gov x) (x.vr i.d) fun e => roundTo f .rne false 0 ⟨e, 1⟩)) s

/-- INS (R175). -/
def execIns (k : Nat) (s : State) : Out :=
  regInsn k (isOpFn 0x22 64 4) (fun i x =>
    let f := i.format
    if govOn f (i.gov x) i.imm then x.putV i.d (put f (x.vr i.d) i.imm ((x.sr i.a).toNat % 2 ^ f.width)) else x) s

/-- EXT (R175). -/
def execExt (k : Nat) (s : State) : Out :=
  regInsn k (isOpFn 0x22 64 5) (fun i x => x.putSN i.d (el i.format (x.vr i.a) i.imm)) s

/-! ## Scalar operations (R176) -/

/-- A scalar instruction: `FN`[4:0] is `code`. -/
def scalarInsn (k code : Nat) (r : Word64 → Word64 → Word64) (s : State) : Out :=
  regInsn k (isOpFn 0x23 32 code) (fun i x => scalarOp i x r) s

/-- SADD (R176). -/
def execSadd (k : Nat) (s : State) : Out := scalarInsn k 0 (fun a b => a + b) s
/-- SSUB (R176). -/
def execSsub (k : Nat) (s : State) : Out := scalarInsn k 1 (fun a b => a - b) s
/-- SMUL (R176). -/
def execSmul (k : Nat) (s : State) : Out := scalarInsn k 2 (fun a b => a * b) s
/-- SAND (R176). -/
def execSand (k : Nat) (s : State) : Out := scalarInsn k 3 (fun a b => a &&& b) s
/-- SOR (R176). -/
def execSor (k : Nat) (s : State) : Out := scalarInsn k 4 (fun a b => a ||| b) s
/-- SXOR (R176). -/
def execSxor (k : Nat) (s : State) : Out := scalarInsn k 5 (fun a b => a ^^^ b) s
/-- SSHL (R176). -/
def execSshl (k : Nat) (s : State) : Out := scalarInsn k 6 (fun a b => a <<< (b.toNat % 64)) s
/-- SSHR (R176). -/
def execSshr (k : Nat) (s : State) : Out := scalarInsn k 7 (fun a b => a >>> (b.toNat % 64)) s
/-- SSAR (R176). -/
def execSsar (k : Nat) (s : State) : Out := scalarInsn k 8 (fun a b => a.sshiftRight (b.toNat % 64)) s
/-- SMIN (R176). -/
def execSmin (k : Nat) (s : State) : Out := scalarInsn k 9 (fun a b => if a.slt b then a else b) s
/-- SMAX (R176). -/
def execSmax (k : Nat) (s : State) : Out := scalarInsn k 10 (fun a b => if a.slt b then b else a) s
/-- SMINU (R176). -/
def execSminu (k : Nat) (s : State) : Out := scalarInsn k 11 (fun a b => if a.ult b then a else b) s
/-- SMAXU (R176). -/
def execSmaxu (k : Nat) (s : State) : Out := scalarInsn k 12 (fun a b => if a.ult b then b else a) s
/-- SLT (R176). -/
def execSlt (k : Nat) (s : State) : Out := scalarInsn k 13 (fun a b => flag64 (a.slt b)) s
/-- SLTU (R176). -/
def execSltu (k : Nat) (s : State) : Out := scalarInsn k 14 (fun a b => flag64 (a.ult b)) s
/-- SEQ (R176). -/
def execSeq (k : Nat) (s : State) : Out := scalarInsn k 15 (fun a b => flag64 (a == b)) s
/-- SMOV (R176). -/
def execSmov (k : Nat) (s : State) : Out := scalarInsn k 16 (fun _ b => b) s

/-- SLIH (R176). -/
def execSlih (k : Nat) (s : State) : Out :=
  regInsn k (isOpFn 0x23 32 17) (fun i x => x.putSN i.d ((x.sr i.d).toNat % 2 ^ 32 + i.imm * 2 ^ 32)) s

/-! ## Predicate operations (R177) -/

/-- A predicate instruction that combines two predicates: `FN`[3:0] is `code`. -/
def predInsn (k code : Nat) (r : Pred → Pred → Pred) (s : State) : Out :=
  regInsn k (isOpFn 0x24 16 code) (fun i x => x.putP i.d (r (x.pr i.a) (x.pr i.b))) s

/-- PAND (R177). -/
def execPand (k : Nat) (s : State) : Out := predInsn k 0 (fun a b => a &&& b) s
/-- POR (R177). -/
def execPor (k : Nat) (s : State) : Out := predInsn k 1 (fun a b => a ||| b) s
/-- PXOR (R177). -/
def execPxor (k : Nat) (s : State) : Out := predInsn k 2 (fun a b => a ^^^ b) s
/-- PANDN (R177). -/
def execPandn (k : Nat) (s : State) : Out := predInsn k 3 (fun a b => a &&& ~~~b) s
/-- PNOT (R177). -/
def execPnot (k : Nat) (s : State) : Out := predInsn k 4 (fun a _ => ~~~a) s
/-- PSET (R177). -/
def execPset (k : Nat) (s : State) : Out := regInsn k (isOpFn 0x24 16 5) (fun i x => x.putP i.d (BitVec.ofNat 16 i.imm)) s
/-- PFROM (R177). -/
def execPfrom (k : Nat) (s : State) : Out :=
  regInsn k (isOpFn 0x24 16 6) (fun i x => x.putP i.d (BitVec.ofNat 16 (x.sr i.a).toNat)) s
/-- PTO (R177). -/
def execPto (k : Nat) (s : State) : Out := regInsn k (isOpFn 0x24 16 7) (fun i x => x.putSN i.d (x.pr i.a).toNat) s
/-- PCNT (R177). -/
def execPcnt (k : Nat) (s : State) : Out := regInsn k (isOpFn 0x24 16 8) (fun i x => x.putSN i.d (predCount (x.pr i.a))) s

/-! ## Unary arithmetic (R178) -/

/-- NEG: a sign change on a floating-point format, R171 on an integer format (R178). -/
def execNeg (k : Nat) (s : State) : Out :=
  regInsn k (fun i => i.op == 0x25 && i.fn / 16 == 0) (fun i x => unaryWise i x (fun a =>
    let f := i.format
    if f.isInt then intFit f i.sat (-(intOf f a))
    else if valOf f a = .nan then f.nanBits else a ^^^ 2 ^ (f.width - 1))) s

/-- ABS (R178). -/
def execAbs (k : Nat) (s : State) : Out :=
  regInsn k (fun i => i.op == 0x25 && i.fn / 16 == 1) (fun i x => unaryWise i x (fun a =>
    let f := i.format
    if f.isInt then intFit f i.sat (intOf f a).natAbs
    else if valOf f a = .nan then f.nanBits else a % 2 ^ (f.width - 1))) s

/-- SQRT: the exact root rounded once; the root of −0 is +0 (R170, R178). -/
def execSqrt (k : Nat) (s : State) : Out :=
  regInsn k (fun i => i.op == 0x25 && i.fn / 16 == 2) (fun i x => unaryWise i x (fun a =>
    let f := i.format
    match valOf f a with
    | .nan => f.nanBits
    | .inf neg => if neg then f.nanBits else infBits f i.sat false
    | .fin _ q => if q.n < 0 then f.nanBits else roundSqrt f i.rm i.sat q)) s

end Sys2Proof.Machine
end

