-- ==== Sys2Proof/Machine/SeedControl.lean ====
section
/-! DEFINITION. Control Seedcode instructions (R148 to R153) and the releases of `WAITE`. -/
namespace Sys2Proof.Machine

/-- NOP (R148). -/
def execNop (k : Nat) (s : State) : Out := regInsn k (isOp 0x00) (fun _ x => x) s

/-! ## Branches (R149, R150) -/

/-- The offset at sext(`IMM`) from the strand's own; a direct target lies in the text. -/
def Insn.target (i : Insn) (x : Strand) : Nat := ((x.pc : Int) + i.sext).toNat

/-- BR (R149): `LINK` is written before an indirect target is read. An indirect target that is not a multiple of 8 faults
`ALIGN`, then one outside the text `LOCAL_RANGE` (log 44); `ADDR` is the target (log 174). -/
def execBr (k : Nat) (s : State) : Out :=
  issueInsn k (isOp 0x01) (fun i x n t =>
    some (if brTaken (i.fn % 16) (x.sr i.a) (i.gov x) then
      let y := if i.fnBit 4 then x.putSN i.d (x.pc + 8) else x
      if i.fnBit 5 then
        let dest := i.address y
        if dest % 8 ≠ 0 then strandFault k 2 stIllegal dest t
        else if n.image.textLen ≤ dest then strandFault k 1 stIllegal dest t
        else goTo k dest (setStrand k y t)
      else goTo k (i.target x) (setStrand k y t)
    else advance_ k t)) s

/-- LOOP (R150). -/
def execLoop (k : Nat) (s : State) : Out :=
  issueInsn k (isOp 0x02) (fun i x _ t =>
    let a := x.sr i.a
    some (if a = 0 then advance_ k t
    else
      let t1 := setStrand k (x.putS i.a (a - 1)) t
      if a - 1 = 0 then advance_ k t1 else goTo k (i.target x) t1)) s

/-! ## Waits (R151) -/

/-- The collective context that binds channels to an instance, and its number (R154, R208). -/
def chanCtx (s : State) (x : Strand) (i : Inst) : Option (Nat × ColCtx) :=
  match i.launch.by_ with
  | .col c => match tget s.col.ctx c with
    | some y => if y.inst = some x.inst then some (c, y) else none
    | none => none
  | _ => none

/-- The items of a receive channel that are delivered to a strand. -/
def chanItems (y : ColCtx) (ch : Nat) (x : Strand) : List RItem :=
  ((y.recv.getD ch ⟨[], 0⟩).items).filter fun it => it.strand == x.index

/-- Lowest receive channel of a mask that holds an item for the strand. -/
def waitedChan (s : State) (x : Strand) (i : Inst) (mask : Nat) : Option Nat :=
  match chanCtx s x i with
  | some (_, y) => (upTo 3).find? fun c => bitAt mask c && !(chanItems y c x).isEmpty
  | none => none

/-- The instants at which a slot of the live timetable starts and ends in this epoch. -/
def slotSpan (s : State) (slot : Nat) : Option (Nat × Nat) :=
  if ttRuns s ∧ slot < rget s R.TT_STATUS_NSLOTS 0 then
    some (boundaryNow s + slotOffset s slot, boundaryNow s + slotOffset s (slot + 1))
  else none

/-- The slot is in progress. -/
def slotNow (s : State) (slot : Nat) : Bool :=
  match slotSpan s slot with
  | some (a, b) => decide (a ≤ s.clk.now) && decide (s.clk.now < b)
  | none => false

/-- WAITE: an event that has come completes it at once; a channel without an item is looked at again; any other event
holds the strand until WAITE_RELEASE (R151). -/
def execWaite (k : Nat) (s : State) : Out :=
  issueInsn k (isOp 0x03) (fun i x n t =>
    let hold (mark : Nat) : State := setStrand k { x with wait := .event mark } t
    match i.fn with
    | 0 => (waitedChan t x n (i.imm % 256)).map fun c => retire k (x.putSN i.d c) t
    | 1 => some (if slotNow t (i.imm % 4096) then retire k (x.putSN i.d (epochNow t)) t else hold t.clk.now)
    | 2 => some (if (x.sr i.a).toNat ≤ t.clk.now then retire k (x.putSN i.d t.clk.now) t else hold t.clk.now)
    | _ => some (hold (epochNow t))) s

/-- WAITE_RELEASE: the event that strand `k` awaits comes; `sD` is written. A time beyond the instance's limit does not
come (R106, R151). -/
def execWaiteRelease (k : Nat) (s : State) : Out :=
  .next (match tget s.seed.strands k with
    | none => s
    | some x =>
      match tget s.seed.insts x.inst, x.wait with
      | some n, .event mark =>
        let i := Insn.of ((n.image.wordAt x.pc).getD 0)
        let go (v : Nat) (t : State) : State := retire k ({ x with wait := .none }.putSN i.d v) t
        if n.fault.isSome then s
        else match i.fn with
          | 1 => match slotSpan s (i.imm % 4096) with
            | some (a, _) =>
              if mark < a ∨ slotNow s (i.imm % 4096) then let t := atTime a s; go (epochNow t) t else s
            | none => s
          | 2 =>
            let at_ := (x.sr i.a).toNat
            if at_ < n.limitAt then let t := atTime at_ s; go t.clk.now t else s
          | _ => if epochNow s ≠ mark then go (epochNow s) s else s
      | _, _ => s)

/-! ## Barrier, fence, end (R93 to R96, R152, R153) -/

/-- When every strand of an instance that has not halted stands at the barrier, each goes on. -/
def barCheck (n : Nat) (s : State) : State :=
  match tget s.seed.insts n with
  | none => s
  | some i =>
    let live := i.strands.filter fun k => match tget s.seed.strands k with | some x => !x.halted | none => false
    if live.all fun k => match tget s.seed.strands k with | some x => x.wait == .bar | none => false then
      each live (fun k t => match tget t.seed.strands k with
        | some x => retire k { x with wait := .none } t
        | none => t) s
    else s

/-- BAR (R93, R94, R152). -/
def execBar (k : Nat) (s : State) : Out :=
  issueInsn k (isOp 0x04) (fun _ x _ t => some (barCheck x.inst (setStrand k { x with wait := .bar } t))) s

/-- FENCE: the gallery store performs its accesses as they issue; scope `FAB` waits for every fabric store and atomic of
the strand (R93, R95, R152). -/
def execFence (k : Nat) (s : State) : Out :=
  issueInsn k (isOp 0x05) (fun i x _ t => if i.fnBit 1 && !x.reqs.isEmpty then none else some (advance_ k t)) s

/-- RAISE (R109, R153). -/
def execRaise (k : Nat) (s : State) : Out :=
  issueInsn k (isOp 0x06) (fun i x _ t =>
    let v := (if i.fnBit 0 then (x.sr i.a).toNat else i.imm) % 256
    some (strandFault k 5 (if 0x10 ≤ v ∧ v ≤ 0x24 then v else stIllegal) 0 t)) s

/-- HALT: the strand ends and leaves the barrier set; s0 of strand index 0 is the result (R85, R94, R153). -/
def execHalt (k : Nat) (s : State) : Out :=
  issueInsn k (isOp 0x07) (fun _ x n t =>
    let t1 := setStrand k { x with halted := true } t
    let t2 := if x.index = 0 then setInst x.inst { n with result := x.sr 0 } t1 else t1
    some (barCheck x.inst t2)) s

end Sys2Proof.Machine
end

