-- ==== Sys2Proof/Machine/SeedStream.lean ====
section
/-! DEFINITION. Stream Seedcode instructions: items received, sent, forwarded, and grants (R154 to R159, R205, R209). -/
namespace Sys2Proof.Machine

/-- The descriptor of an item (R154). -/
def itemDesc (pos idx status : Nat) (last : Bool) : Nat :=
  packBits [(32, pos), (14, idx), (2, 0), (8, status), (7, 0), (1, b2n last)]

/-- The descriptor of a channel whose run has aborted (R156). -/
def abortDesc : Nat := itemDesc 0 0 stColAbort true

/-- What a stream instruction finds at a channel: a fault, an aborted run, or the living context. -/
inductive ChanView where
  | unbound
  | dead (c : Nat)
  | live (c : Nat) (y : ColCtx)

/-- Look at the channels of an instance; `bound` says which of them the instruction names (R154, R156). -/
def chanView (s : State) (x : Strand) (i : Inst) (bound : ColRec → Bool) : ChanView :=
  match chanCtx s x i with
  | none => .unbound
  | some (c, y) => if !bound y.record then .unbound else if y.dead then .dead c else .live c y

/-- Take the next item of a strand out of a receive channel: its bytes of the buffer are freed. -/
def takeItem (c ch : Nat) (y : ColCtx) (it : RItem) (s : State) : State :=
  let q := y.recv.getD ch ⟨[], 0⟩
  let q' : RChan := ⟨q.items.erase it, q.used - it.frees⟩
  releasePart (colPart s y) (cellsOf q.used - cellsOf q'.used) (setCol c { y with recv := y.recv.set ch q' } s)

/-- An item that is received passes through the receive buffers of the strand's pip, which lie in its pip store above
`PS_LEN`; where is open (R89, log 178). -/
def recvBuffer (k : Nat) (i : Inst) (bs : List Byte) (s : State) : State :=
  let (v, s1) := fresh s
  let off := i.image.psLen + v % (0x20000 - i.image.psLen - bs.length + 1)
  { s1 with seed := { s1.seed with pipMem := mwrite s1.seed.pipMem (pipKey k off) bs } }

/-- RECV (R155, R156). An item asked for in carry form that is not 16 whole lane forms is taken as malformed; with `CARRY` 0 the
register takes as many bytes as its format has, zeros after the item's last (log 179). -/
def execRecv (k : Nat) (s : State) : Out :=
  issueInsn k (isOp 0x08) (fun i x n t =>
    let ch := i.imm % 8
    let desc := i.imm / 256 % 16
    match chanView t x n (fun r => r.recvBound ch) with
    | .unbound => some (strandFault k 1 stIllegal 0 t)
    | .dead _ => some (retire k (x.putSN desc abortDesc) t)
    | .live c y =>
      match chanItems y ch x with
      | [] => none
      | it :: _ =>
        let t1 := recvBuffer k n it.bytes (takeItem c ch y it t)
        if i.fnBit 0 then
          match Lane.readMany 16 it.bytes with
          | some (ls, false) =>
            let z := x.putA i.d (((x.ar i.d).zip ls).map fun p => p.1.merge p.2)
            some (retire k (z.putSN desc (itemDesc it.pos it.idx stOK it.last)) t1)
          | _ => some (colAbort c 5 (nodeSelf t1) none (retire k (x.putSN desc (itemDesc it.pos it.idx stIllegal it.last)) t1))
        else
          let f := i.format
          let z := x.putV i.d (unpackReg f (slice it.bytes 0 f.bytes))
          some (retire k (z.putSN desc (itemDesc it.pos it.idx stOK it.last)) t1)) s

/-- SEND (R156, R157). -/
def execSend (k : Nat) (s : State) : Out :=
  issueInsn k (isOp 0x09) (fun i x n t =>
    let ch := i.imm % 8
    match chanView t x n (fun r => r.sendBound ch) with
    | .unbound => some (strandFault k 1 stIllegal 0 t)
    | .dead _ => some (advance_ k t)
    | .live c y =>
      if 64 ≤ colUnsent y ch then none
      else
        let carry := i.fnBit 1
        let bytes := if carry then ((x.ar i.a).map (·.form)).foldl (· ++ ·) [] else packReg i.format (x.vr i.a)
        let it : SItem := ⟨x.index, (x.sr i.b).toNat % 2 ^ 32, i.fnBit 0, carry, i.fmt, bytes, []⟩
        some (colPut c ch false it (advance_ k t))) s

/-- What the items of a receive channel hold: carry form, and the format of those that are not. -/
def ColRec.itemKind (r : ColRec) (ch : Nat) : Bool × Nat :=
  let copies := r.op == 2 || r.op == 3
  match ch with
  | 0 => (false, r.ifmt)
  | 1 => if copies then (false, r.ifmt) else if r.carry = 1 then (true, 0) else (false, 0)
  | _ => (false, if copies then r.ifmt else r.rfmt)

/-- An item of a channel in carry form whose lane forms are malformed (R129). -/
def badLanes (carry : Bool) (bs : List Byte) : Bool :=
  carry && (match Lane.readMany 16 bs with | some (_, false) => false | _ => true)

/-- FWD (R156, R158). A malformed lane form ends the collective that carries it (R129, R218). -/
def execFwd (k : Nat) (s : State) : Out :=
  issueInsn k (isOp 0x0A) (fun i x n t =>
    let rc := i.imm % 8
    let sc := i.imm / 16 % 8
    match chanView t x n (fun r => r.recvBound rc && r.sendBound sc) with
    | .unbound => some (strandFault k 1 stIllegal 0 t)
    | .dead _ => some (retire k (x.putSN i.d abortDesc) t)
    | .live c y =>
      match chanItems y rc x with
      | [] => none
      | it :: _ =>
        if 64 ≤ colUnsent y sc then none
        else
          let (carry, fmt) := y.record.itemKind rc
          if badLanes carry it.bytes then
            let t1 := takeItem c rc y it t
            some (colAbort c 5 (nodeSelf t1) none (retire k (x.putSN i.d (itemDesc it.pos it.idx stIllegal it.last)) t1))
          else
          let out : SItem := ⟨x.index, it.pos, it.last, carry, fmt, it.bytes, it.report⟩
          some (colPut c sc true out (retire k (x.putSN i.d (itemDesc it.pos it.idx stOK it.last)) (takeItem c rc y it t)))) s

/-- The sender that a `GRANT` admits: kind, key and node (R159, R202, R208). -/
def grantee (r : ColRec) (ch idx : Nat) : Option (Nat × Nat × Nat) :=
  match ch with
  | 0 => if r.isLocal idx then some (0, senderKey 0 idx, r.nodeOf idx) else none
  | 1 => (r.children.find? fun c => c.base == idx).map fun c => (1, senderKey 1 idx, c.node)
  | _ => some (if r.op = 2 ∨ r.op = 3 then 1 else 2, senderKey 2 0, r.parent)

/-- GRANT: a contributor that the record does not name is admitted to nothing (log 95). Otherwise reserve the segments in the channel's buffer and in the partition's landing, then send the grant
(R156, R159, R202, R205, R217). -/
def execGrant (k : Nat) (s : State) : Out :=
  issueInsn k (isOp 0x0B) (fun i x n t =>
    let count := i.imm % 256
    let ch := i.imm / 256 % 8
    match chanView t x n (fun r => r.recvBound ch) with
    | .unbound => some (strandFault k 1 stIllegal 0 t)
    | .dead _ => some (advance_ k t)
    | .live c y =>
      let r := y.record
      match grantee r ch ((x.sr i.a).toNat % 16384) with
      | none => some (advance_ k t)
      | some (kind, key, node) =>
        let q := y.recv.getD ch ⟨[], 0⟩
        let need := count * r.chanLen ch
        let cells := cellsOf (q.used + need) - cellsOf q.used
        if r.chbuf * 2 ^ 20 < q.used + need ∨ !partRoom t (colPart t y) cells then none
        else
          let snd := tgetD y.senders key ⟨0, none, 0, false⟩
          let snd' := { snd with credit := snd.credit + count, idle := snd.idle <|> some t.clk.now }
          let y' := { y with recv := y.recv.set ch { q with used := q.used + need }, senders := tset y.senders key snd' }
          let msg := toLE 2 (c + 32768 * rget t R.COL_CTX_RP c) ++ toLE 1 count ++ toLE 1 kind ++ toLE 2 (r.chanLen ch / 256) ++ toLE 2 0
          some (sendCtl 0xF0 node msg (chargePart (colPart t y) cells (setCol c y' (advance_ k t))))) s

end Sys2Proof.Machine
end

