-- ==== Sys2Proof/Machine/ColRows.lean ====
section
/-! DEFINITION. The frames and messages of collectives at this switch, stragglers, and the ends of runs
(R196, R200 to R222). -/
namespace Sys2Proof.Machine

/-! ## Arrival of a COL frame (R196, R200 to R205) -/

/-- Fields of `OFFSET` (R200). -/
def colNum (f : Frame) : Nat := f.offset % 8192
def colPos (f : Frame) : Nat := bitsOf f.offset 13 32
def colLast (f : Frame) : Bool := bitAt f.offset 45
def colSpecial (f : Frame) : Bool := bitAt f.offset 46
def colRp (f : Frame) : Nat := bitsOf f.offset 47 1

/-- The sender of a COL frame: receive channel, key, contributor index (R202, R208). -/
def colSender (r : ColRec) (f : Frame) : Option (Nat × Nat × Nat) :=
  let child := r.children.find? fun c => c.node == f.src
  let parent := !r.isRoot && f.src == r.parent
  let copies := r.op == 2 || r.op == 3
  match f.opc with
  | 0xC0 => (enum' r.nodes).findSome? fun p => if p.2 = f.src then some (0, senderKey 0 (r.idxBase + p.1), r.idxBase + p.1) else none
  | 0xC1 => match child with
    | some c => some (1, senderKey 1 c.base, c.base)
    | none => if parent && copies then some (2, senderKey 2 0, 0) else none
  | _ => if parent && !copies then some (2, senderKey 2 0, 0) else none

/-- Cut the lane forms of one item from the front of a body: its bytes and the rest. -/
def cutLanes : Nat → List Byte → Option (List Byte × List Byte)
  | 0, bs => some ([], bs)
  | n + 1, bs =>
    match Lane.read bs with
    | none => none
    | some (_, _, rest) =>
      match cutLanes n rest with
      | none => none
      | some (a, r) => some (bs.take (bs.length - rest.length) ++ a, r)

/-- The items of a `COL_PART`: (position, body); none where the body is not whole items. The fuel is its length. -/
def partItems (r : ColRec) : Nat → List Byte → Option (List (Nat × List Byte))
  | 0, bs => if bs.isEmpty then some [] else none
  | n + 1, bs =>
    if bs.isEmpty then some []
    else if bs.length < 4 then none
    else
      let pos := leAt bs 0 4
      let body := bs.drop 4
      let fixed := if r.op = 2 ∨ r.op = 3 then (fmtOf r.ifmt).bytes else 64
      let cut := if r.op ≠ 2 ∧ r.op ≠ 3 ∧ r.carry = 1 then cutLanes 16 body
        else if body.length < fixed then none else some (body.take fixed, body.drop fixed)
      match cut with
      | none => none
      | some (a, rest) => (partItems r n rest).map fun t => (pos, a) :: t

/-- Positions of an input segment that begins at a position: for code 2 it also ends with its contributor's share. -/
def ColRec.segIn (r : ColRec) (pos : Nat) : Nat :=
  let n := r.segAt pos
  if r.op = 2 ∧ r.share ≠ 0 then min n (r.share - pos % r.share) else n

/-- Packed registers of a segment: (position, body). -/
def segItems (f : Fmt) (pos n : Nat) (bs : List Byte) : List (Nat × List Byte) :=
  (upTo (n / f.elems)).map fun i => (pos + i * f.elems, slice bs (i * f.bytes) f.bytes)

/-- The scale bytes of an MX segment as items of one register of bytes, each at the first position whose block it scales; a
copying operation has no place for them (log 53). -/
def scaleItems (r : ColRec) (pos n : Nat) (bs : List Byte) : List (Nat × List Byte) :=
  if r.mxin ∧ r.op ≠ 2 ∧ r.op ≠ 3 then
    let ss := bs.drop (n * (fmtOf r.ifmt).width / 8)
    (upTo (ceilDiv ss.length 32)).map fun i => (pos + 1024 * i, slice ss (32 * i) (min 32 (ss.length - 32 * i)))
  else []

/-- The items that a COL frame carries and its report bitmap; none where its length is wrong (R193, R201, R218). -/
def colItems (r : ColRec) (ch : Nat) (f : Frame) : Option (List (Nat × List Byte) × List Byte) :=
  let pos := colPos f
  if r.op = 5 then (if f.payload.isEmpty then some ([(0, [])], []) else none)
  else if f.opc = 0xC1 then
    match partItems r f.payload.length f.payload with
    | some [] => none
    | some l => some (l, [])
    | none => none
  else if r.elems ≤ pos then none
  else if ch = 0 then
    let n := r.segIn pos
    if f.payload.length = r.inBytes n then
      some (segItems (fmtOf r.ifmt) pos n f.payload ++ scaleItems r pos n f.payload, [])
    else none
  else
    let n := r.segAt pos
    let body := r.outBytes n
    let report := if colSpecial f then n / 8 else 0
    if f.payload.length = body + report then
      some (segItems (fmtOf r.rfmt) pos n f.payload, slice f.payload body report)
    else none

/-- Items enter their receive channel; each frees its own bytes of the buffer, the last of a frame what is left of the
segment's (R159, log 97). The last carries `LAST` and the report bitmap. -/
def colDeliver (c ch idx : Nat) (items : List (Nat × List Byte)) (report : List Byte) (seg : Option Nat) (s : State) : State :=
  match tget s.col.ctx c with
  | none => s
  | some x =>
    let q := x.recv.getD ch ⟨[], 0⟩
    let new := (enum' items).map fun p =>
      let last := p.1 + 1 == items.length
      let before := sumN ((items.take (items.length - 1)).map (·.2.length))
      (⟨colStrand s x (seg.getD p.2.1), p.2.1, idx, last, p.2.2, if last then x.record.chanLen ch - before else p.2.2.length,
        if last then report else []⟩ : RItem)
    let reports := if report.isEmpty then x.reports else tset x.reports (seg.getD 0) report
    setCol c { x with recv := x.recv.set ch { q with items := q.items ++ new }, reports := reports, progress := s.clk.now } s

/-- The sender has spent a credit; after the last frame of the run the rest is void (R203, R217). -/
def spendCredit (c key : Nat) (last : Bool) (s : State) : State :=
  match tget s.col.ctx c with
  | none => s
  | some x =>
    let y := endIdle s x key (tgetD x.senders key ⟨0, none, 0, false⟩)
    let credit := if last then 0 else y.credit - 1
    setCol c { x with senders := tset x.senders key { y with credit := credit, idle := if credit = 0 then none else some s.clk.now } } s

/-- A COL frame of this switch's contexts (R196, R204, R218). -/
def colFrame (f : Frame) (port : Nat) (s : State) : State :=
  let c := colNum f
  if !colAllowed s f then faultRec f stDenied 0 port 0 s
  else if colState s c ≠ 3 ∨ colRp f ≠ rget s R.COL_CTX_RP c then rbump R.COL_STALE_COUNT 0 s
  else
    match tget s.col.ctx c with
    | none => rbump R.COL_STALE_COUNT 0 s
    | some x =>
      let ungranted (t : State) : State := faultRec f stIllegal 0 port 0 (rbump R.COL_UNGRANTED_COUNT 0 t)
      match colSender x.record f with
      | none => ungranted s
      | some (ch, key, idx) =>
        if (tgetD x.senders key ⟨0, none, 0, false⟩).credit = 0 then ungranted s
        else
          let s1 := spendCredit c key (colLast f) s
          match colItems x.record ch f with
          | none => colAbort c 5 (nodeSelf s1) none s1
          | some (items, report) => colDeliver c ch idx items report (if f.opc = 0xC1 then none else some (colPos f)) s1

/-- Take a frame of an OPC out of the inbox and act on it. -/
def colTakeFrame (id opc : Nat) (act : Frame → Nat → State → State) (s : State) : Out :=
  whenRunning (fun t =>
    match tget t.hall.inbox id with
    | none => t
    | some i => if i.frame.opc ≠ opc ∨ i.host.isSome ∨ !isHead t id i then t else act i.frame i.port (takeInbox id t)) s

/-- COL_SEG (R196, R204). -/
def execColSeg (id : Nat) (s : State) : Out := colTakeFrame id 0xC0 colFrame s

/-- COL_PART (R201, R214, R216). -/
def execColPart (id : Nat) (s : State) : Out := colTakeFrame id 0xC1 colFrame s

/-- COL_RESULT (R201, R208, R216). -/
def execColResult (id : Nat) (s : State) : Out := colTakeFrame id 0xC2 colFrame s

/-! ## Messages (R202, R203, R219, R221) -/

/-- COL_GRANT: a neighbour admits this switch to send. Credit for the run to come is kept for it (log 45). -/
def execColGrant (id : Nat) (s : State) : Out :=
  colTakeFrame id 0xF0 (fun f _ t =>
    let w := leAt f.payload 0 2
    let c := w % 8192
    let rp := w / 32768
    let count := leAt f.payload 2 1
    let kind := leAt f.payload 3 1
    match tget t.col.ctx c with
    | none => t
    | some x =>
      let r := x.record
      let near := (!r.isRoot && f.src == r.parent) || r.children.any (·.node == f.src)
      let now := rp == rget t R.COL_CTX_RP c
      if !near || count == 0 || (now && colState t c != 3) then t
      else
        let key := outKey kind f.src rp
        let y := tgetD x.senders key ⟨0, none, 0, false⟩
        let t1 := setCol c { x with senders := tset x.senders key { y with credit := y.credit + count } } t
        if now then colGoOn c t1 else t1) s

/-- COL_ABORT (R218, R219, R221). -/
def execColAbort (id : Nat) (s : State) : Out :=
  colTakeFrame id 0xF1 (fun f _ t =>
    let w := leAt f.payload 0 2
    let c := w % 8192
    if !colRuns t c || w / 32768 != rget t R.COL_CTX_RP c then rbump R.COL_STALE_COUNT 0 t
    else
      match tget t.col.ctx c with
      | none => t
      | some x =>
        let r := x.record
        if (!r.isRoot && f.src == r.parent) || r.children.any (·.node == f.src) then colAbort c 7 (leAt f.payload 4 2) (some f.src) t
        else if r.nodes.contains f.src then colAbort c 8 (leAt f.payload 4 2) none t
        else t) s

/-! ## Time (R217, R218, R222) -/

/-- COL_NO_PROGRESS: `ABORT_MS` without progress (R218). -/
def execColNoProgress (c : Nat) (s : State) : Out :=
  whenRunning (fun t =>
    match tget t.col.ctx c with
    | none => t
    | some x =>
      if colState t c ≠ 3 then t
      else
        let ms := if x.record.abortMs = 0 then 10000 else x.record.abortMs
        let t1 := atTime (x.progress + 1000000 * ms) t
        colAbort c 2 (nodeSelf t1) none t1) s

/-- A launch of a context waits on some queue. -/
def colQueued (s : State) (c : Nat) : Bool :=
  let mine (r : LaunchRec) : Bool := r.by_ == .col c
  s.seed.held.any mine || s.seed.gals.any fun g => g.queue.any mine

/-- COL_REARM: the instance has ended and the drain interval has passed since the abort (R197, R222). -/
def execColRearm (c : Nat) (s : State) : Out :=
  whenRunning (fun t =>
    match tget t.col.ctx c with
    | none => t
    | some x =>
      if colState t c ≠ 4 ∨ x.inst.isSome ∨ colQueued t c then t
      else colArm c (atTime (x.abortAt.getD 0 + 1000 * rget t R.ROUTE_CTL_DRAIN_US 0) t)) s

/-- STRAGGLER: a sender's lateness in the run first reaches `STRAGGLE_US` (R217). -/
def execStraggler (c sender : Nat) (s : State) : Out :=
  whenRunning (fun t =>
    match tget t.col.ctx c with
    | none => t
    | some x =>
      match tget x.senders sender with
      | none => t
      | some y =>
        let limit := straggleNs x
        let tell (u : State) : State :=
          let z := endIdle u x sender y
          stragglerEvent c sender 1 z.late x (setCol c { x with senders := tset x.senders sender { y with told := true } } u)
        if colState t c ≠ 3 ∨ 2 * 65536 ≤ sender ∨ y.told then t
        else if limit ≤ y.late then tell t
        else match y.idle with
          | none => t
          | some st =>
            let at_ := st + max 2000 (limit - y.late)
            match colOff t x sender with
            | some off => if at_ ≤ off then tell t else t
            | none => tell (atTime at_ t)) s

end Sys2Proof.Machine
end

