-- ==== Sys2Proof/Machine/LinkState.lean ====
section
/-! DEFINITION. The states of a port: going down, going up, recovering, the lanes that it may use, and going to its next
width (R11, R79, R365, R392 to R399, R415, R465). -/
namespace Sys2Proof.Machine

/-! ## Lanes (R393, R394) -/

/-- A port is the even port of a ganged pair. -/
def ganged (s : State) (n : Nat) : Bool := n % 2 == 0 && rbit s R.LINK_CTL_GANG n

/-- A port whose lanes the port before it runs. -/
def gangedAway (s : State) (n : Nat) : Bool := n % 2 == 1 && rbit s R.LINK_CTL_GANG (n - 1)

/-- Lanes of a port: 4, or 8 when ganged. -/
def laneCount (s : State) (n : Nat) : Nat := if ganged s n then 8 else 4

/-- Lane l of port n is usable: neither defective nor `SLOW`, `ASLEEP` or `FAILED`. -/
def laneGood (s : State) (n l : Nat) : Bool := !s.boot.laneBad.contains (4 * n + l) && rget s R.LANE_STATE (4 * n + l) == 0

/-- Lanes set in a mask. -/
def maskWidth (m : Nat) : Nat := sumN ((upTo 8).map fun i => b2n (bitAt m i))

/-- The mask of w lanes from a lane upwards. -/
def blockMask (w at_ : Nat) : Nat := (2 ^ w - 1) * 2 ^ at_

/-- The widest block of usable lanes no wider than `most`, at a multiple of its width; one lane at least (R394). -/
def bestMask (s : State) (n most : Nat) : Option Nat :=
  let blocks := ([8, 4, 2, 1].filter fun w => decide (w ≤ most) && decide (w ≤ laneCount s n)).map fun w =>
    ((upTo (laneCount s n / w)).map fun b => (w, b * w))
  ((blocks.foldl (· ++ ·) []).find? fun b => (upTo b.1).all fun i => laneGood s n (b.2 + i)).map fun b => blockMask b.1 b.2

/-- Active receive lanes. -/
def rxMask (s : State) (n : Nat) : Nat := rget s R.LINK_STATUS_RX_LANES n

/-- Active transmit lanes. -/
def txMask (s : State) (n : Nat) : Nat := rget s R.LINK_STATUS_TX_LANES n

/-- A link message of a kind with one byte (R405). -/
def linkByte (kind b : Nat) : List Byte := toLE 1 kind ++ toLE 1 b

/-- The receiver asks for a width (R395). -/
def askWidth (n : Nat) (mask : Option Nat) (s : State) : State :=
  match mask with
  | some m => sendLink n (linkByte 2 m) s
  | none => s

/-! ## Down (R365, R398) -/

/-- A frame that is queued for a port loses that output; one that has no other is discarded (R365). -/
def flushFrame (n : Nat) (h : HFrame) (s : State) : State :=
  let outs := h.outs.filter fun o => o.unit != n
  if outs.isEmpty then
    let s1 := { s with hall := { s.hall with frames := s.hall.frames.filter fun x => x.id != h.id } }
    if h.frame.mc then s1
    else
      let s2 := rbump R.PFLUSH_FLUSHED_FRAMES n s1
      match (if isRequest h.frame.cls then trackOfFrame s2 h.frame else none) with
      | some (id, t) => closeTrackError id (timeoutStatus t.orig) 3 s2
      | none => s2
  else { s with hall := { s.hall with frames := s.hall.frames.map fun x => if x.id = h.id then { x with outs := outs } else x } }

/-- The endpoint of a port that went down keeps no request (R522). -/
def freeTags (n : Nat) (s : State) : State :=
  { s with track := { s.track with places := s.track.places.filter fun p => nodePort s p.1 != some n } }

/-- Trays reached by a port (R265). -/
def traysOn (s : State) (n : Nat) : List (Nat × Nat) :=
  ((upTo 64).map fun k => if !rbit s R.SET_VALID k then [] else
    ((upTo (rget s R.SET_NTRAYS k)).filter fun t => nodePort s (rget s R.TRAY_NODE (k * 32 + t)) == some n).map fun t => (k, t)).foldl (· ++ ·) []

/-- What a port keeps while it is down: its saved settings. -/
def downLink (s : State) (n : Nat) (retry : Option Nat) : LinkPort :=
  { LinkPort.down with saved := (linkOf s n).saved, stateSince := s.clk.now, retryAt := retry }

/-- The sleeping lanes of a port are awake: its training begins with every lane. -/
def lanesUp (n : Nat) (s : State) : State :=
  let mine (u : SleepUnit) : Bool := (upTo 8).any fun i => u == .lane (4 * n + i)
  let s1 := each ((upTo 8).filter fun i => rget s R.LANE_STATE (4 * n + i) == 2) (fun i => rset R.LANE_STATE (4 * n + i) 0) s
  { s1 with pkg := { s1.pkg with asleep := s1.pkg.asleep.filter (!mine ·), waking := s1.pkg.waking.filter fun w => !mine w.1 } }

/-- Leave training, or any state in which the Hall has nothing queued for the port. -/
def toDown (n : Nat) (retry : Option Nat) (s : State) : State :=
  let s1 := rset R.LINK_STATUS_TX_LANES n 0 (rset R.LINK_STATUS_RX_LANES n 0 (rset R.LINK_STATUS_LSTATE n 0 (lanesUp n s)))
  let s2 := setLink n (downLink s1 n retry) s1
  { s2 with hall := { s2.hall with peerOff := tset s2.hall.peerOff n 255 }, clk := { s2.clk with peers := tdel s2.clk.peers n } }

/-- A port goes down: what is queued for it is flushed, runs of its contributors abort, its trays fail, and for a member
of a spare group the wait of R415 begins. -/
def portDown (n : Nat) (retry : Option Nat) (s : State) : State :=
  let s1 := toDown n retry s
  let s2 := each (s1.hall.frames.filter fun h => h.outs.any fun o => o.unit == n) (flushFrame n) s1
  let s3 := freeTags n { s2 with hall := { s2.hall with balcony := s2.hall.balcony.filter fun b => b.port != n } }
  let s4 := each (traysOn s3 n) (fun t u => trayFail t.1 t.2 u) (colPortDown n s3)
  if rbit s4 R.PSPARE_EN n then { s4 with res := { s4.res with downSince := tset s4.res.downSince n s4.clk.now } } else s4

/-! ## Up (R79, R398, R444, R465) -/

/-- A port runs hop mode. -/
def hopPort (s : State) (n : Nat) : Bool := (pfPort s n).hop == 1

/-- The version check of R79: `UP` where the peer speaks version 2, `CTL_ONLY` where it does not. A port in Ethernet bulk
personality, which exchanges no capability word, is up once it is aligned (log 60). With no version in common `VER` shows 0, for
which the manual gives no value (DESIGN CHOICE, log 173). -/
def versionCheck (n : Nat) (s : State) : State :=
  let caps := rget s R.PEER_CAPS_CAPS n
  let ok := isEth s n || (decide (bitsOf caps 4 4 ≤ 2) && decide (2 ≤ bitsOf caps 0 4))
  let s1 := rset R.LINK_STATUS_LSTATE n (if ok then 4 else 5) (rset R.LINK_STATUS_VERSION_LOW n (b2n !ok) s)
  let s2 := rset R.LINK_STATUS_VER n (if ok then 2 else 0) s1
  let s3 := { s2 with hall := { s2.hall with peerOff := tdel s2.hall.peerOff n }, res := { s2.res with downSince := if ok then tdel s2.res.downSince n else s2.res.downSince } }
  setLink n { linkOf s3 n with stateSince := s3.clk.now } s3

/-- A port in `EXCHANGE` goes on once `PHASE` is `READY`, the capability word is in and, in hop mode, its first key is in
force. -/
def tryUp (n : Nat) (s : State) : State :=
  let l := linkOf s n
  if lstate s n = 3 ∧ isReady s ∧ (isEth s n ∨ (l.capsGot ∧ (!hopPort s n ∨ l.hop.cur.isSome))) then pumpAll n (versionCheck n s) else s

/-! ## Recovery (R402) -/

/-- `UP` or `CTL_ONLY` is left for `RECOVER`. -/
def toRecover (n : Nat) (s : State) : State :=
  let l := linkOf s n
  let s1 := rbump R.RECOVERIES_COUNT n (rset R.LINK_STATUS_LSTATE n 6 s)
  let s2 := { s1 with hall := { s1.hall with peerOff := tset s1.hall.peerOff n 255 } }
  setLink n { l with former := lstate s n, aligned := false, again := 0, stateSince := s.clk.now, rxBytes := l.rxBytes } s2

/-- Send again every held flit from a place on; eight times in a row without progress lead to `RECOVER` (R401, R402). -/
def sendAgain (n : Nat) (held : List Held) (s : State) : State :=
  if held.isEmpty then s
  else
    let s1 := rbump R.REPLAYS_COUNT n s
    let l := linkOf s1 n
    let again := l.again + 1
    if 8 ≤ again ∧ (lstate s n = 4 ∨ lstate s n = 5) then toRecover n (setLink n { l with again := again } s1)
    else
      let stamp (h : Held) : Held := if held.any (fun x => x.seq == h.seq) then { h with at_ := s1.clk.now } else h
      let s2 := setLink n { l with again := again, held := l.held.map stamp } s1
      each held (fun h t => emit (.flit n (restamp t n false h.bytes)) t) s2

/-! ## Training (R398, R399, R504) -/

/-- A port may train: the boot chain and the self-test are over, the port and a cable are there, and no other port runs
its lanes. -/
def mayTrain (s : State) (n : Nat) : Bool :=
  decide (n < 128) && s.boot.bootDone && s.boot.testDone && rget s R.START_STATUS_PHASE 0 != 5 && !s.boot.portBad.contains n
    && !s.pkg.cabAbsent.contains (n / 4) && !gangedAway s n && !(upTo (laneCount s n)).all fun l => s.boot.laneBad.contains (4 * n + l)

/-- `DOWN` is left for `TRAINING`: from saved settings with a check of 20 µs, or in full. -/
def startTraining (n : Nat) (s : State) : State :=
  let l := linkOf s n
  let s1 := rset R.LINK_STATUS_INCARNATION n (rget s R.LINK_STATUS_INCARNATION n + 1) (rset R.LINK_STATUS_LSTATE n 1 s)
  let s2 := { s1 with hall := { s1.hall with gated := false, lastWork := s1.clk.now } }
  emit (.signal n 1) (setLink n { l with usingSaved := !l.saved.isEmpty, prbs := !l.saved.isEmpty, stateSince := s.clk.now, retryAt := none } s2)

/-- Training has ended well. -/
def toAligning (n : Nat) (s : State) : State :=
  let l := linkOf s n
  setLink n { l with prbs := false, stateSince := s.clk.now }
    (rset R.LINK_STATUS_LSTATE n 2 (rset R.LINK_STATUS_SAVED n (b2n l.usingSaved) s))

/-- The capability word that this switch sends: versions 2 to 2, and what the manual leaves to the part. -/
def ownCapsWord : Nat := 0x22 + 256 * Config.ownCaps.toNat

/-- A link starts at full width: a lane that an earlier link marked `SLOW` or `FAILED` counts as good again (R398). -/
def lanesGood (n : Nat) (s : State) : State :=
  each ((upTo (laneCount s n)).filter fun i => rget s R.LANE_STATE (4 * n + i) != 0) (fun i => rset R.LANE_STATE (4 * n + i) 0) s

/-- Markers are found on every lane of the starting width: both directions start afresh in `EXCHANGE`. `SEQ` and `ACK` 0
stand for the last flit sent and accepted, so that the first flit is numbered 1 (log 61). -/
def toExchange (n : Nat) (s : State) : State :=
  let s0 := lanesGood n s
  let m := (bestMask s0 n 8).getD 1
  let l := linkOf s0 n
  let s1 := rset R.LINK_STATUS_TX_LANES n m (rset R.LINK_STATUS_RX_LANES n m (rset R.LINK_STATUS_LSTATE n 3 s0))
  let s2 := setLink n { downLink s1 n none with usingSaved := l.usingSaved, txSeq := 1, rxSeq := 1 } s1
  let s3 := { s2 with boot := { s2.boot with firstExchange := match s2.boot.firstExchange with | some t => some t | none => some s2.clk.now } }
  if isEth s3 n then tryUp n s3 else sendLink n (toLE 8 1 ++ toLE 8 ownCapsWord) s3

end Sys2Proof.Machine
end

