-- ==== Sys2Proof/Machine/WeightStreams.lean ====
section
/-! DEFINITION. Stream plans: their commit, their runs by slots and prefetch points, answers to their stores, lateness
(R279 to R289). -/
namespace Sys2Proof.Machine

/-! ## A run begins -/

/-- Source reads of a plan: one for each 4 KiB unit of the pool window that the source touches. -/
def planUnits (c : PlanCfg) : List (Nat × Nat) :=
  (upTo ((c.srcOff + c.srcLen - 1) / 4096 - c.srcOff / 4096 + 1)).map fun i =>
    let u := c.srcOff / 4096 + i
    let lo := max c.srcOff (u * 4096)
    (lo, min (c.srcOff + c.srcLen) ((u + 1) * 4096) - lo)

/-- Issue a source read, after the checks of an access by the plan's key (R299). -/
def planIssue (p run : Nat) (c : PlanCfg) (u : Nat × Nat) (s : State) : State :=
  let f := mkFrame 5 0xA1 (nodeSelf s) (nodeSelf s) c.pkey (run % 2 ^ 20) 0 u.1 u.2 []
  match poolCheck s .bulkGet c.pkey u.1 u.2 0 with
  | .error st => planRead p f.tag u.1 st [] s
  | .ok e =>
    let (id, s1) := takeId s
    enterReq id (newReq .bulkGet f (.plan p) false u.1 u.2 [] []) e s1

/-- Take the next run number and start the copy, in a state and at a level (R282, R284). -/
def planStart (p state level : Nat) (slot : Option (Nat × Nat)) (s : State) : State :=
  match tget s.ws.plans p with
  | none => s
  | some x =>
    let c := planCfg fun f => rget s f p
    let run := rget s R.WS_RUNS_RUNS p
    let y : Plan := { Plan.idle x.frames c with run := run, slot := slot }
    let s1 := rset R.WS_COPIED_BYTES p 0 (rset R.WS_SENT_BYTES p 0 (rset R.WS_RUNS_RUNS p (run + 1) (setPlan p y s)))
    let s2 := rset R.WS_STATE_STATE p state (rset R.WS_STATE_LEVEL p level s1)
    let s3 := wakeWing (rget s R.WS_STATE_BUF_WING p) s2
    planGo p (poolPass (each (planUnits c) (planIssue p run c) s3))

/-- `DELIVER` begins: the delivery runs behind the copy, or from the buffer. -/
def planDeliver (p : Nat) (s : State) : State :=
  match tget s.ws.plans p with
  | none => s
  | some x => planGo p (rset R.WS_STATE_STATE p 3 (if x.copied then s else raiseLevel p 2 s))

/-- A slot start that finds the plan busy. -/
def planBusy (p : Nat) (s : State) : State := rbump R.WS_OVERRUNS_COUNT 0 (rsat R.WS_STATE_PENDING p 1 s)

/-- A slot with a `WEIGHT_STREAM` entry for the plan starts (R282). -/
def planSlotStart (p slot : Nat) (s : State) : State :=
  if !rbit s R.PLAN_VALID p then s
  else match tget s.ws.plans p with
    | none => s
    | some x =>
      match planState s p with
      | 0 => planStart p 3 2 none s
      | 3 => planBusy p s
      | _ => if x.slot.any (fun k => k.1 == slot && decide (k.2 ≤ epochNow s)) then planDeliver p s else planBusy p s

/-- The run is voided: the copy stops, the run number is given back. -/
def planVoid (p : Nat) (s : State) : State :=
  match tget s.ws.plans p with
  | none => s
  | some x =>
    let reqs := tfilter s.pool.reqs fun _ r => r.origin != .plan p
    let s1 := setPlan p (Plan.idle x.frames x.cfg) { s with pool := { s.pool with reqs := reqs } }
    rset R.WS_STATE_STATE p 0 (rset R.WS_RUNS_RUNS p (rget s R.WS_RUNS_RUNS p - 1) s1)

/-- At a boundary: runs whose slot no longer comes are voided (R282). -/
def planSweep (s : State) : State :=
  each (s.ws.plans.map (·.1)) (fun p t =>
    match tget t.ws.plans p with
    | none => t
    | some x =>
      let st := planState t p
      let gone := !rbit t R.PLAN_VALID p || (match x.slot with | some k => !(planSlots t p).contains k.1 | none => false)
      if (st = 1 ∨ st = 2) ∧ gone then planVoid p t else t) s

/-- The flag of a run that is still held behind its stores (R54) is taken back. -/
def planUnflag (p : Nat) (x : Plan) (s : State) : State :=
  match x.flag with
  | some id => if (tget s.track.reqs id).any (·.held) then setPlan p { x with flag := none } (dropTrack id s) else s
  | none => s

/-- A boundary remapped a node: its deliveries stop and are repeated to the spare (R287). -/
def planRemap (node : Nat) (s : State) : State :=
  each (s.ws.plans.map (·.1)) (fun p t =>
    match tget t.ws.plans p with
    | none => t
    | some x =>
      if planState t p = 3 ∧ x.cfg.dst = node ∧ !x.errSent ∧ x.failed.isNone then
        planGo p (planWait p (planUnflag p { x with repeating := true, redo := true } (setPlan p { x with repeating := true, redo := true } t)))
      else t) s

/-! ## A run ends -/

/-- Lateness in whole µs, saturating at 32 bits. -/
def lateUs (x : Plan) : Nat := min (x.late / 1000) (2 ^ 32 - 1)

/-- An event about the lateness of a run. -/
def weightLate (p phase mag v2 : Nat) (x : Plan) (s : State) : State :=
  report ⟨0x02, phase, some x.cfg.part, (nodePort s x.cfg.dst).getD 0xFF, p, x.run % 2 ^ 32, mag, v2⟩ s

/-- Keep the frames of the live descriptor, or none where the plan is no longer valid. -/
def planTrim (p : Nat) (s : State) : State :=
  match tget s.ws.plans p with
  | none => s
  | some x =>
    if !rbit s R.PLAN_VALID p then { s with ws := { s.ws with plans := tdel s.ws.plans p } }
    else
      let c := planCfg fun f => rget s f p
      setPlan p { x with frames := x.frames.drop (x.frames.length - c.frames) } s

/-- The flag of a run is answered: the status registers, then the next pending run or `IDLE` (R282). -/
def planEnd (p : Nat) (x : Plan) (s : State) : State :=
  let st := x.failed.getD stOK
  let s1 := if x.first then weightLate p 2 (lateUs x) (rget s R.WS_STATE_LEVEL p) x s else s
  let s2 := rset R.WS_LATE_LATE_US p (lateUs x) (rset R.WS_STATE_LAST_STATUS p st s1)
  let s3 := rset R.WS_LATE_MAX_LATE_US p (max (rget s2 R.WS_LATE_MAX_LATE_US p) (lateUs x)) s2
  let s4 := planTrim p (rset R.WS_STATE_STATE p 0 (setPlan p (Plan.idle x.frames x.cfg) s3))
  let n := rget s4 R.WS_STATE_PENDING p
  if !rbit s4 R.PLAN_VALID p then rset R.WS_STATE_PENDING p 0 s4
  else if n = 0 then s4
  else planStart p 3 2 none (rset R.WS_STATE_PENDING p (n - 1) s4)

/-- The plan whose store or flag a tracker number belongs to. -/
def planOf (s : State) (f : Plan → Bool) : Option (Nat × Plan) := tfind s.ws.plans fun _ x => f x

/-- `WS_STORE_ANSWER` (R286): the answer to a data store; a status other than `OK` ends the run in error. -/
def execWsStoreAnswer (id : Nat) (s : State) : Out :=
  whenRunning (fun t =>
    match tget t.hall.inbox id with
    | none => t
    | some i =>
      match planOf t fun x => i.port == 255 && isAnswer i.frame.cls && x.stores.contains i.frame.rsv with
      | none => t
      | some (p, x) =>
        let st := i.frame.status
        let left := x.stores.filter (· != i.frame.rsv)
        let bad := decide (st ≠ stOK) && !x.repeating
        let y := { x with stores := left, failed := if bad then some (x.failed.getD st) else x.failed
                          storeFail := if bad then some (x.storeFail.getD st) else x.storeFail }
        planGo p (setPlan p y (takeInbox id t))) s

/-- `WS_FLAG_ANSWER` (R282, R286): the flag is answered. A withheld flag is replaced by the plain flag with the status of
the first failed store. -/
def execWsFlagAnswer (id : Nat) (s : State) : Out :=
  whenRunning (fun t =>
    match tget t.hall.inbox id with
    | none => t
    | some i =>
      match planOf t fun x => i.port == 255 && isAnswer i.frame.cls && x.flag == some i.frame.rsv with
      | none => t
      | some (p, x) =>
        let t1 := takeInbox id t
        if x.errSent then planEnd p x t1
        else if x.repeating then planGo p (setPlan p { x with flag := none } t1)
        else if i.frame.status = stWithheld ∨ x.failed.isSome then
          planGo p (setPlan p { x with flag := none, failed := some (x.failed.getD (x.storeFail.getD stWithheld)) } t1)
        else planEnd p x t1) s

/-! ## Prefetch, copy, levels, lateness -/

/-- The slot whose prefetch point comes next for a plan, the epoch it lies in, and that point (R282). -/
def prefetchNext (s : State) (p : Nat) : Option ((Nat × Nat) × Nat) :=
  match s.col.live with
  | none => none
  | some t =>
    let lead := 1000 * rget s R.PLAN_LEAD_US p
    let want := if s.clk.now = t.liveAt then s.clk.now else s.clk.now + lead
    let b := boundaryNow s
    let l := epochLen s
    let starts := (planSlots s p).map fun k =>
      let o := b + slotOffset s k
      let n := if want ≤ o then 0 else (want - o + l - 1) / l
      ((k, epochNow s + n), o + n * l)
    match sortBy (fun x => x.2) starts with
    | [] => none
    | x :: _ => some (x.1, max (x.2 - lead) t.liveAt)

/-- `WS_PREFETCH_POINT` (R282): the copy of a run starts at level 0. -/
def execWsPrefetchPoint (p : Nat) (s : State) : Out :=
  whenRunning (fun t =>
    if rbit t R.PLAN_VALID p ∧ planState t p = 0 then
      match prefetchNext t p with
      | some (k, at_) => planStart p 1 0 (some k) (atTime at_ t)
      | none => t
    else t) s

/-- `WS_COPY_COMPLETE` (R282): every source byte is copied, and decoded where the buffer holds raw form. -/
def execWsCopyComplete (p : Nat) (s : State) : Out :=
  whenRunning (fun t =>
    match tget t.ws.plans p with
    | some x =>
      if planState t p = 1 ∧ x.copied ∧ x.failed.isNone then rset R.WS_STATE_STATE p 2 t else planGo p t
    | none => t) s

/-- Half the lead before the start of a run's slot (R288). -/
def halfLead (s : State) (p : Nat) (slot : Nat × Nat) : Nat :=
  boundaryNow s + (slot.2 - epochNow s) * epochLen s + slotOffset s slot.1 - 500 * rget s R.PLAN_LEAD_US p

/-- `WS_LEVEL_HALF_LEAD` (R288): half the lead before the slot start, less than half the source is copied. -/
def execWsLevelHalfLead (p : Nat) (s : State) : Out :=
  whenRunning (fun t =>
    match tget t.ws.plans p with
    | some x =>
      (match x.slot with
       | some k =>
         if planState t p = 1 ∧ 2 * rget t R.WS_COPIED_BYTES p < x.cfg.srcLen then raiseLevel p 1 (atTime (halfLead t p k) t) else t
       | none => t)
    | none => t) s

/-- `WS_ESCALATE` (R288): the lateness of the run reaches `ESC_US`. -/
def execWsEscalate (p : Nat) (s : State) : Out :=
  whenRunning (fun t =>
    match tget t.ws.plans p with
    | some x =>
      match x.waiting with
      | some w =>
        let esc := 1000 * (if x.cfg.escUs = 0 then 20 else x.cfg.escUs)
        raiseLevel p 3 (atTime (w + (esc - x.late)) t)
      | none => t
    | none => t) s

/-- `WEIGHT_LATE` (R289): the run waits for the first time. -/
def execWeightLate (p : Nat) (s : State) : Out :=
  whenRunning (fun t =>
    match tget t.ws.plans p with
    | some x =>
      if x.waiting.isSome ∧ !x.first then
        weightLate p 1 (lateUs x) (x.cfg.outLen - x.sent) x (setPlan p { x with first := true } t)
      else t
    | none => t) s

/-! ## Commit of a descriptor (R280, R281) -/

/-- The status with which a staged descriptor fails its checks. `get` reads the staged values. -/
def planCheck (s : State) (p : Nat) (get : Fld → Nat) : Option Nat :=
  let c := planCfg get
  let was := rbit s R.PLAN_VALID p
  let valid := get R.PLAN_VALID = 1
  let same := [R.PLAN_PART, R.PLAN_HUSK, R.PLAN_EXPAND, R.PLAN_PKEY, R.PLAN_DST_NODE, R.PLAN_SRC_OFF, R.PLAN_SRC_LEN,
    R.PLAN_OUT_LEN, R.PLAN_DST_OFF, R.PLAN_FLAG_OFF, R.PLAN_LEAD_US, R.PLAN_ESC_US, R.PLAN_RATE_GBPS].all fun f => get f == rget s f p
  if was then (if !valid ∧ same then none else some stIllegal)
  else if 2 < c.expand ∨ c.srcOff % 64 ≠ 0 ∨ c.srcLen % 64 ≠ 0 ∨ c.srcLen < 64 ∨ c.outLen = 0 ∨ (c.expand = 0 ∧ c.outLen ≠ c.srcLen)
      ∨ c.dstOff % 4096 ≠ 0 ∨ c.flagOff % 8 ≠ 0 ∨ 256 < get R.PLAN_RATE_GBPS ∨ (c.expand ≠ 0 ∧ get R.PLAN_HUSK = 0)
      ∨ c.dst = 0x7FFF ∨ !(nodePort s c.dst).any (fun n => decide (n < 128)) then some stIllegal
  else if keyPart s c.pkey ≠ some c.part then some stPkey
  else if !windowCovers s c.part 1 c.dst c.dstOff c.outLen || !windowCovers s c.part 1 c.dst c.flagOff 8
      || !windowCovers s c.part 0 (nodeSelf s) c.srcOff c.srcLen then some stDenied
  else if s0Quota s c.part < s0Use s c.part + c.frames ∨ (valid ∧ freeFrames s (freestWing s) < c.frames) then some stQuota
  else none

/-- A frame that was found, if any, joins the buffer of a plan. -/
def putFrame (p : Nat) (r : Option Nat × State) : State :=
  match r.1 with
  | some e => { r.2 with ws := { r.2.ws with plans := tmod r.2.ws.plans p fun x => { x with frames := x.frames ++ [e] } } }
  | none => r.2

/-- Take n frames of a wing. -/
def takeFrames (p w : Nat) : Nat → State → State
  | 0, s => s
  | n + 1, s => takeFrames p w n (putFrame p (pickFrame w s))

/-- After the descriptor of a plan is committed: a plan that became valid gets its buffer, one that ceased to be valid
loses it unless a run delivers. -/
def planCommitted (p : Nat) (was : Bool) (s : State) : State :=
  let now := rbit s R.PLAN_VALID p
  if now ∧ !was then
    let c := planCfg fun f => rget s f p
    let w := freestWing s
    let s1 := if thas s.ws.plans p then s else setPlan p (Plan.idle [] c) s
    let s2 := [R.WS_RUNS_RUNS, R.WS_LATE_MAX_LATE_US, R.WS_STATE_PENDING].foldl (fun t f => rset f p 0 t) s1
    takeFrames p w c.frames (rset R.WS_STATE_BUF_WING p w s2)
  else if was ∧ !now then (if planState s p = 3 then s else planTrim p (if planState s p = 0 then s else planVoid p s))
  else s

end Sys2Proof.Machine
end

