-- ==== Sys2Proof/Machine/ColTable.lean ====
section
/-! DEFINITION. Opening and closing of collective contexts, timetables, and the start of a slot (R24, R25, R34, R192 to R198,
R216, R223 to R228). -/
namespace Sys2Proof.Machine

/-! ## Checks of a context record that need no live state (R192 to R194, R216) -/

/-- The blocks of contributor indices below this switch: local, then each child (R213). -/
def ColRec.blocks (r : ColRec) : List (Nat × Nat) :=
  (if 0 < r.nlocal then [(r.idxBase, r.nlocal)] else []) ++ r.children.map fun c => (c.base, c.size)

/-- The smallest power of two not below n. -/
def pow2Above (n : Nat) : Nat := 2 ^ ceilLog2 n

/-- R216: every block is of 2^k indices for one k, at a multiple of 2^k, and the subtree starts at a multiple of the
power of two not below its size. -/
def ColRec.fp64Ok (r : ColRec) : Bool :=
  match r.blocks with
  | [] => true
  | b :: t =>
    let size := sumN (r.blocks.map (·.2))
    let start := (t.map (·.1)).foldl min b.1
    decide (0 < b.2) && pow2Above b.2 == b.2 && (b :: t).all (fun x => x.2 == b.2 && x.1 % b.2 == 0)
      && start % pow2Above size == 0

/-- The reserved bits and the ranges of a record (R192). -/
def colForm (b : List Byte) : Bool :=
  let r := colRecOf b
  let barrier := r.op == 5
  b.length == 384 && decide (leAt b 0 2 < 8192) && decide (r.op ≤ 5) && decide (leAt b 2 1 < 64)
    && decide (r.ifmt ≤ 9) && decide (r.rfmt ≤ 9) && decide (leAt b 4 1 < 64) && decide (r.carry ≤ 2)
    && decide (1 ≤ r.chbuf) && decide (r.chbuf ≤ 64) && decide (r.slot < 1024)
    && r.elems % 32 == 0 && (if barrier then r.elems == 0 else decide (32 ≤ r.elems))
    && r.segelems % 32 == 0 && (barrier || decide (32 ≤ r.segelems))
    && leAt b 16 2 / 8192 % 4 == 0 && decide (r.nlocal ≤ 128) && decide (r.idxBase < 16384)
    && decide (1 ≤ r.ntotal) && decide (r.ntotal ≤ 16384)
    && (if r.op = 3 ∨ r.op = 4 then decide (r.root < r.ntotal) else r.root == 0)
    && decide (r.parent < 32768) && decide (leAt b 28 1 ≤ 8) && leAt b 29 1 == 0 && leAt b 36 4 == 0
    && ((upTo 8).all fun i => let v := leAt b (48 + 8 * i) 8
          !bitAt v 15 && bitsOf v 30 2 == 0 && decide (v < 2 ^ 47))
    && ((slice b 112 12).all (· == 0#8))
    && ((upTo 128).all fun i => let v := leAt b (128 + 2 * i) 2
          if i < r.nlocal then decide (v < 32768) else v == 0)

/-- A record that passes every check of R194 that needs no live state. -/
def colStatic (b : List Byte) : Bool :=
  let r := colRecOf b
  let reduces := r.op == 0 || r.op == 1 || r.op == 4
  colForm b && crc32c (b.take 124 ++ List.replicate 4 0#8 ++ b.drop 128) == leAt b 124 4
    && decide (r.inBytes r.segelems ≤ 8192)
    && decide (r.outBytes r.segelems + (if reduces then r.segelems / 8 else 0) ≤ 8192)
    && (!r.mxin || (fmtOf r.ifmt).mx)
    && decide (r.rm ≤ 5) && !(r.rm == 5 && r.rfmt == 0)
    && (!(r.op == 2 || r.op == 3) || r.rfmt == r.ifmt)
    && !(r.ifmt == 0 && r.carry == 1)
    && !(r.carry == 0 && (!r.isRoot || !r.children.isEmpty))
    && (!(r.op == 1 || r.op == 2) || r.elems % (32 * r.ntotal) == 0)
    && (!(reduces && r.ifmt == 0) || r.fp64Ok)

/-! ## Opens and closes (R194, R197) -/

/-- A tree neighbour's port lacks `CAP_EXACT_CARRY`. -/
def lacksCarry (s : State) (node : Nat) : Bool :=
  let p := portTo s node
  !(decide (p < 128) && bitAt (rget s R.PEER_CAPS_CAPS p) 14)

/-- The checks of R194 on live state beside the context itself: the failing status. -/
def colServed (s : State) (r : ColRec) : Option Nat :=
  if r.carry = 1 ∧ (((if r.isRoot then [] else [r.parent]) ++ r.children.map (·.node)).any (lacksCarry s)) then some stUnsupported
  else match progSlot s r.slot with
    | none => some stDenied
    | some p =>
      if keyPart s r.pkey ≠ some p.part then some stDenied
      else if (upTo 32).any (galAllowed s p.part p.image.pips) then none
      else some stDenied

/-- The checks of R194 that need live state: the failing status. -/
def colLive (s : State) (r : ColRec) : Option Nat := if colState s r.num ≠ 0 then some stIllegal else colServed s r

/-- A context closes (R197). -/
def colClose (c : Nat) (s : State) : State :=
  match colState s c with
  | 0 => s
  | 2 => colFree c s
  | _ => rset R.COL_CTX_CLOSE_PENDING c 1 s

/-- Address of a context in the status window. -/
def colAddr (c : Nat) : Nat := 0x240000 + c * 0x40

/-- A staged open or close at its boundary. -/
def colCommit (x : StagedCmd) (s : State) : State :=
  if x.code = 0x18 then
    let r := colRecOf x.bytes
    match colLive s r with
    | some st => reportObject (colAddr r.num) 2 x.source st x.tag s
    | none => colOpenAt r false s
  else colClose x.obj s

/-- COL_OPEN: the host command `COL_OPEN` (R194, R493). -/
def execColOpen (h : Nat) (buf : Option (List Byte)) (s : State) : Out :=
  withCmd h 0x18 neverBusy (fun c t =>
    match buf with
    | none => completeWith h c stLoadFailed t
    | some b =>
      let r := slice b 0 384
      if c.bufLen ≠ 384 ∨ !c.restZero 0 ∨ !colStatic r then completeWith h c stIllegal t
      else stageCmd h c (leAt r 0 2) r t) s

/-- COL_CLOSE: the host command `COL_CLOSE` (R197, R493). -/
def execColClose (h : Nat) (s : State) : Out :=
  withCmd h 0x19 neverBusy (fun c t =>
    if 8192 ≤ c.arg 0 2 ∨ !c.restZero 2 then completeWith h c stIllegal t else stageCmd h c (c.arg 0 2) [] t) s

/-- HOST_COMMAND_COL_ABORT: the host command `COL_ABORT` (R218, R493). -/
def execHostCommandColAbort (h : Nat) (s : State) : Out :=
  withCmd h 0x1A neverBusy (fun c t =>
    let n := c.arg 0 2
    if 8192 ≤ n ∨ !c.restZero 2 then completeWith h c stIllegal t
    else
      let runs := colRuns t n
      let t1 := if runs then colAbort n 1 (nodeSelf t) none t else t
      complete h c stOK (toLE 16 (b2n runs)) 0 t1) s

/-! ## Timetable images (R223 to R225) -/

/-- Read a slot entry. -/
def ttEntryOf (b : List Byte) : TtEntry where
  slot := leAt b 0 2
  kind := leAt b 2 1
  tflags := leAt b 3 1
  ref := leAt b 4 2
  gallery := leAt b 6 1
  pkey := leAt b 8 2
  portWake := leAt b 16 16
  galWake := leAt b 32 4
  stackWake := leAt b 36 4
  args := [leAt b 40 8, leAt b 48 8, leAt b 56 8].map (BitVec.ofNat 64)
  disabled := false

/-- The ranges and reserved bits of an entry (R224). -/
def ttEntryForm (nslots : Nat) (nums : List Nat) (b : List Byte) : Bool :=
  let e := ttEntryOf b
  let launch := e.kind == 1
  decide (e.slot < 4096) && decide (e.slot < nslots) && decide (e.kind ≤ 3) && decide (e.tflags ≤ (if launch then 1 else 0))
    && (match e.kind with
        | 0 => nums.contains e.ref
        | 1 => decide (e.ref < 1024)
        | 2 => decide (e.ref < 1024)
        | _ => e.ref == 0)
    && (if launch then decide (e.gallery < 32) || (e.gallery == 0xFF && e.tflags == 0) else e.gallery == 0xFF)
    && leAt b 7 1 == 0 && (launch || e.pkey == 0) && leAt b 10 6 == 0 && decide (e.stackWake < 2 ^ 20)
    && (launch || e.args.all (· == 0))

/-- Slots that never fall. -/
def ascending : List Nat → Bool
  | [] => true
  | [_] => true
  | a :: b :: t => decide (a ≤ b) && ascending (b :: t)

/-- No number is listed twice. -/
def distinct : List Nat → Bool
  | [] => true
  | a :: t => !t.contains a && distinct t

/-- A `COLNUM` is held by a context that a command opened. -/
def openedByCommand (s : State) (n : Nat) : Bool := match tget s.col.ctx n with | some x => !x.byTable | none => false

/-- The timetable of an image that passes the checks of R225 that need no live context. -/
def timetableOf (s : State) (b : List Byte) : Option Timetable :=
  let nslots := leAt b 6 2
  let lenUs := leAt b 8 4
  let nctx := leAt b 14 2
  let nent := leAt b 16 4
  if b.length < 64 ∨ 8192 < nctx ∨ 65536 < nent ∨ b.length ≠ 64 + 384 * nctx + 64 * nent then none
  else
    let recs := (upTo nctx).map fun i => slice b (64 + 384 * i) 384
    let ents := (upTo nent).map fun i => slice b (64 + 384 * nctx + 64 * i) 64
    let nums := recs.map fun r => (colRecOf r).num
    if leAt b 0 4 == 0x4C425454 && leAt b 4 1 == 1 && leAt b 5 1 == 0 && decide (1 ≤ nslots) && decide (nslots ≤ 4096)
        && decide (10 ≤ lenUs) && decide (lenUs ≤ 100000) && leAt b 12 2 == nodeSelf s && leAt b 20 8 != 0
        && (slice b 28 32).all (· == 0#8) && crc32c (b.take 60 ++ List.replicate 4 0#8 ++ b.drop 64) == leAt b 60 4
        && decide (200 ≤ lenUs * 1000 / nslots) && recs.all colStatic && distinct nums
        && ents.all (ttEntryForm nslots nums) && ascending (ents.map fun e => (ttEntryOf e).slot) then
      some ⟨nslots, lenUs, leAt b 20 8, recs.map colRecOf, ents.map ttEntryOf, 0⟩
    else none

/-- TT_LOAD: the host command `TT_LOAD` (R225, R493). -/
def execTtLoad (h : Nat) (buf : Option (List Byte)) (s : State) : Out :=
  withCmd h 0x1B neverBusy (fun c t =>
    let staged (bytes : List Byte) : State := rset R.TT_STATUS_STAGED 0 1 (stageCmd h c 0 bytes t)
    if !c.restZero 0 then completeWith h c stIllegal t
    else if c.bufLen = 0 then staged []
    else match buf with
      | none => completeWith h c stLoadFailed t
      | some b =>
        let bytes := slice b 0 c.bufLen
        match timetableOf t bytes with
        | some x => if x.recs.any fun r => openedByCommand t r.num then completeWith h c stIllegal t else staged bytes
        | none => completeWith h c stIllegal t) s

/-! ## Commit of a timetable (R24, R226, R227) -/

/-- A context that a timetable opened and that is not free. -/
def ttHolds (s : State) (c : Nat) : Bool := colState s c != 0 && !openedByCommand s c

/-- A record that fails at the commit is disabled and logged (R226). -/
def ttFailed (x : StagedCmd) (r : ColRec) (st : Nat) (s : State) : State := reportObject (colAddr r.num) 2 x.source st x.tag s

/-- A context that the old timetable holds and the new one does not keep: it closes, and the new record of its number, where
it passes its checks, opens once it is free (R227). -/
def ttClose (x : StagedCmd) (next : Option ColRec) (c : Nat) (s : State) : State :=
  if !ttHolds s c then s
  else match next with
    | none => colClose c (modCol c (fun y => { y with next := none }) s)
    | some r =>
      match colServed s r with
      | some st => colClose c (modCol c (fun y => { y with next := none }) (ttFailed x r st s))
      | none => colClose c (modCol c (fun y => { y with next := some r }) s)

/-- A record whose number no context of the old timetable holds opens, or is disabled and logged. -/
def ttOpen (x : StagedCmd) (r : ColRec) (s : State) : State :=
  match colLive s r with
  | some st => ttFailed x r st s
  | none => colOpenAt r true s

/-- One entry of a staged timetable at its commit: a launch that R102 would refuse is disabled and recorded. -/
def ttCheckOne (source : Source) (acc : List TtEntry × State) (p : Nat × TtEntry) : List TtEntry × State :=
  let e := p.2
  let part := (keyPart acc.2 e.pkey).getD 0
  let r : LaunchRec :=
    ⟨.slot p.1, e.ref, part, e.pkey, 0x7FFF, nodeSelf acc.2, 0, e.gallery, e.tflags == 1, false, [], none, 0xFF⟩
  match (if e.kind = 1 then launchStatus acc.2 r else none) with
  | some st => (acc.1 ++ [{ e with disabled := true }], reportObject 0x220018 2 source st p.1 acc.2)
  | none => (acc.1 ++ [e], acc.2)

/-- Entries that fail against live state are disabled and logged (R226). -/
def ttCheck (x : StagedCmd) (es : List TtEntry) (s : State) : List TtEntry × State :=
  (enum' es).foldl (ttCheckOne x.source) ([], s)

/-- A staged timetable becomes live: contexts are kept, closed and opened by R227. -/
def ttCommit (x : StagedCmd) (s : State) : State :=
  let old : List ColRec := match s.col.live with | some t => t.recs | none => []
  let new := timetableOf s x.bytes
  let recs : List ColRec := match new with | some t => t.recs | none => []
  let kept (r : ColRec) : Bool := recs.any fun q => q.raw == r.raw
  let s1 := each old (fun (r : ColRec) (t : State) => if kept r then t else ttClose x (recs.find? fun q => q.num == r.num) r.num t) s
  let stands (r : ColRec) : Bool := old.any fun q => q.num == r.num && (kept q || ttHolds s r.num)
  let s2 := each recs (fun (r : ColRec) (t : State) => if stands r then t else ttOpen x r t) s1
  let (es, s3) := match new with
    | some n => ttCheck x n.entries s2
    | none => ([], s2)
  let live := new.map fun n => { n with entries := es, liveAt := s3.clk.nextB }
  let s4 := { s3 with col := { s3.col with live := live } }
  rset R.TT_STATUS_NSLOTS 0 ((new.map (·.nslots)).getD 0) (rset R.TT_ID_ID 0 ((new.map (·.id)).getD 0) s4)

/-- At each boundary: the timetable runs while its epoch length is the live one (R24). -/
def ttBoundary (s : State) : State :=
  let s1 := { s with col := { s.col with slotsDone := 0 } }
  match s1.col.live with
  | none => rset R.TT_STATUS_MISMATCH 0 0 (rset R.TT_STATUS_LIVE 0 0 s1)
  | some t =>
    let len := rget s1 R.EPOCH_CFG_EPOCH_LEN_US 0
    if t.lenUs = len then rset R.TT_STATUS_MISMATCH 0 0 (rset R.TT_STATUS_LIVE 0 1 s1)
    else
      report ⟨0x11, 0, none, 0xFF, 0, t.lenUs, len, 0⟩
        (rset R.TT_STATUS_MISMATCH 0 1 (rset R.TT_STATUS_LIVE 0 0 s1))

/-! ## Slots (R34, R228) -/

/-- An entry acts at the start of its slot. -/
def slotEntry (k : Nat) (e : TtEntry) (s : State) : State :=
  match e.kind with
  | 0 =>
    match tget s.col.ctx e.ref with
    | some x => if x.byTable && x.next.isNone then colTrigger e.ref true s else s
    | none => s
  | 1 =>
    let args := e.args ++ List.replicate 5 0
    let r : LaunchRec := ⟨.slot k, e.ref, (keyPart s e.pkey).getD 0, e.pkey, 0x7FFF, nodeSelf s, 0, e.gallery, e.tflags == 1, false,
      args, none, 0xFF⟩
    launchGo r s
  | 2 => planSlotStart e.ref e.slot s
  | _ => s

/-- SLOT_START: the entries of the slot act in their order (R228). A slot starts once in an epoch. -/
def execSlotStart (slot : Nat) (s : State) : Out :=
  whenRunning (fun t =>
    if !ttRuns t ∨ rget t R.TT_STATUS_NSLOTS 0 ≤ slot ∨ slot < t.col.slotsDone then t
    else
      let t1 := atTime (boundaryNow t + slotOffset t slot) t
      let t2 := { t1 with col := { t1.col with slotsDone := slot + 1 } }
      each ((enum' (ttEntries t2)).filter fun p => p.2.slot == slot) (fun p u => slotEntry p.1 p.2 u) t2) s

/-- The unit of a kind and number. -/
def sleepUnit (kind unit : Nat) : SleepUnit :=
  match kind with
  | 0 => .gallery unit
  | 1 => .stack unit
  | _ => .lane unit

/-- Wake latency in ns (R32). -/
def wakeNs (kind : Nat) : Nat :=
  match kind with
  | 0 => 2000
  | 1 => 3000
  | _ => 8000

/-- The port that carries a lane (R11). -/
def lanePort (s : State) (l : Nat) : Nat := if gangedAway s (l / 4) then l / 4 - 1 else l / 4

/-- An entry of a timetable uses a unit (R34, R228, R284): those it names, its launch's or its context's gallery, the ports of
the contributors of its context, and the port of its stream plan's `DST_NODE`. `record` is its collective's. -/
def entryUses (s : State) (record : Option ColRec) (e : TtEntry) (kind unit : Nat) : Bool :=
  match kind with
  | 0 => bitAt e.galWake unit || (e.kind == 1 && e.gallery == unit)
      || (record.isSome && colState s e.ref != 0 && rget s R.COL_CTX_GALLERY e.ref == unit)
  | 1 => bitAt e.stackWake unit
  | _ =>
    let p := lanePort s unit
    bitAt e.portWake p || (e.kind == 2 && nodePort s (rget s R.PLAN_DST_NODE e.ref) == some p)
      || (match record with
          | some r => r.nodes.any fun n => nodePort s n == some p
          | none => false)

/-- The record of the context that an entry of the live timetable names. -/
def liveRec (s : State) (e : TtEntry) : Option ColRec := if e.kind = 0 then (tget s.col.ctx e.ref).map (·.record) else none

/-- The timetable that is live from the coming boundary on: the last one staged, else the live one. -/
def comingTable (s : State) : Option Timetable :=
  match ((if s.clk.cutoff then s.rf.frozenCmds else s.rf.stagedCmds).filter fun c => c.code == 0x1B).reverse with
  | c :: _ => timetableOf s c.bytes
  | [] => s.col.live

/-- The epoch length from the coming boundary on, in µs (R23). -/
def comingLen (s : State) : Nat :=
  if s.clk.nextLen ≠ 0 ∧ s.clk.nextAt ≤ s.clk.nextB then s.clk.nextLen else rget s R.EPOCH_CFG_EPOCH_LEN_US 0

/-- Start of the first slot of the coming epoch that uses a unit. -/
def comingUse (s : State) (kind unit : Nat) : Option Nat :=
  match comingTable s with
  | none => none
  | some t =>
    if t.lenUs ≠ comingLen s then none
    else
      let uses (e : TtEntry) : Bool :=
        !e.disabled && entryUses s (if e.kind = 0 then t.recs.find? fun r => r.num == e.ref else none) e kind unit
      (t.entries.find? uses).map fun e => s.clk.nextB + e.slot * (1000 * t.lenUs) / t.nslots

/-- Start of the next slot that uses a unit, in this epoch or in the coming one (R34). -/
def nextUse (s : State) (kind unit : Nat) : Option Nat :=
  match (ttEntries s).find? fun e => decide (s.col.slotsDone ≤ e.slot) && entryUses s (liveRec s e) e kind unit with
  | some e => some (boundaryNow s + slotOffset s e.slot)
  | none => comingUse s kind unit

/-- SLOT_WAKE: the wake of a unit begins its latency and 1 µs before the slot that uses it (R34). -/
def execSlotWake (kind unit : Nat) (s : State) : Out :=
  whenRunning (fun t =>
    match nextUse t kind unit with
    | none => t
    | some at_ =>
      if sleeps t (sleepUnit kind unit) ∧ at_ - wakeNs kind - 1000 < t.clk.nextB then
        beginWake (sleepUnit kind unit) (atTime (at_ - wakeNs kind - 1000) t)
      else t) s

end Sys2Proof.Machine
end

