-- ==== Sys2Proof/Machine/Regs.lean ====
section
/-! DEFINITION. Reading BAR0: the fields that a structure of the state holds, whole registers, and the windows over rings
and tables (18_host_registers.md R485, R495, and the register tables of every chapter). -/
namespace Sys2Proof.Machine

/-! ## Which field lies at an address -/

/-- Index of the array entry whose field begins at a byte address. -/
def Fld.index (f : Fld) (a : Nat) : Option Nat :=
  if a < f.base then none
  else
    let d := a - f.base
    let o := d / f.stride
    let r := d % f.stride
    let i := if f.inner = 1 then o else o * f.inner + r / f.istride
    if i < f.count ∧ f.addr i = a then some i else none

/-- The field in the 64-bit word at an address: its index, and the lowest bit of the field that lies in the word with the
place of that bit in the word. A field wider than a word, or one that lies beyond the first word of its entry, is found
from the entry's address. -/
def Fld.inWord (f : Fld) (a : Nat) : Option (Nat × Nat × Nat) :=
  (upTo ((f.lo + f.w + 63) / 64)).findSome? fun k =>
    if 64 * (k + 1) ≤ f.lo ∨ a < 8 * k then none
    else (f.index (a - 8 * k)).map fun i => (i, 64 * k - f.lo, f.lo - 64 * k)

/-- The fields of a word, with index, first field bit and place. -/
def fieldsAt (a : Nat) : List (Fld × Nat × Nat × Nat) := regFields.filterMap fun f => (f.inWord a).map fun x => (f, x)

/-- `PROFILE` of block 0 is an alias of `PLACE_PROFILE` (R499). -/
def aliasOf (a : Nat) : Nat := if a = 0x100200 then 0xC00000 else a

/-! ## Values that structures hold -/

/-- Cells in use: frames, inbox, copies, what units hold, and what is lost. -/
def cellsUsed (s : State) : Nat :=
  sumN (s.hall.frames.map (·.cells)) + sumN ((s.hall.inbox.filter fun p => !p.2.landed).map fun p => inboxCells p.2) + sumN (s.hall.balcony.map (·.cells))
    + sumN (s.hall.partCells.map (·.2)) + s.hall.lostCells
    + sumN (s.pool.reqs.map fun q => if q.2.phase == .wake false then frameCells q.2.frame else 0)

/-- An entry of the applied frame's access windows. -/
def winField (f : Window → Nat) (s : State) (i : Nat) : Nat := ((s.sec.frame.windows[i]?).map f).getD 0

/-- A field of an extent entry. -/
def extField (d : Nat) (f : Extent → Nat) (s : State) (i : Nat) : Nat := ((tget s.pool.extents i).map f).getD d

/-- A field of a lease. -/
def leaseField (d : Nat) (f : Lease → Nat) (s : State) (i : Nat) : Nat := ((tget s.pool.leases i).map f).getD d

/-- A field of a snoop filter slot. -/
def cslotField (d : Nat) (f : CSlot → Nat) (s : State) (i : Nat) : Nat := ((tget s.coh.slots i).map f).getD d

/-- Tags of a slot in a state. -/
def slotTags (st : Nat) (s : State) (i : Nat) : Nat := (s.coh.tags.filter fun t => t.slot == i && t.state == st).length

/-- A field of a live remap. -/
def remapField (f : Nat × Nat × Nat → Nat) (s : State) (i : Nat) : Nat := ((tget s.res.remaps i).map f).getD 0

/-- The update machine of a kind, by `kind - 1`. -/
def updAt (s : State) (i : Nat) : Upd := s.boot.upd.getD i Upd.idle

/-- The bytes of a bank. -/
def Bank.bytes (kind : Nat) : Bank → List Byte
  | .factory => Config.factoryImage kind
  | .written b => b

/-- Bank number `i`, and the staging bank, which is the one that is not `ACTIVE`. -/
def Upd.bank (u : Upd) (i : Nat) : Bank := u.banks.getD i (.written [])
def Upd.other (u : Upd) : Bank := u.bank (1 - u.active)

/-- Code of the package state (R511): 2 `START`, 3 `IDLE`, 4 `RUN`. -/
def pkgCode (s : State) : Nat :=
  match s.pkg.phase with
  | .start => 2
  | .ready => if (upTo 128).any (portUp s) then 4 else 3
  | _ => 0

/-- The field that a register file key names, with its index. -/
def fieldOfKey (k : Nat) : Option (Fld × Nat) :=
  regFields.findSome? fun f => if f.lo = k % 1024 then (f.index (k / 1024)).map fun i => (f, i) else none

/-- Some staged value differs from its live value (R495). -/
def stagePending (s : State) : Bool :=
  let differs (p : Nat × StagedVal) : Bool :=
    match fieldOfKey p.1 with
    | some (f, i) => rget s f i != p.2.value
    | none => false
  s.rf.staged.any differs || s.rf.frozen.any differs

/-- Fields whose value a structure holds. Every other field is its register file entry. -/
def views : List (Fld × (State → Nat → Nat)) :=
  [(R.TIME_NOW_TIME_NS, fun s _ => s.clk.now),
   (R.WIN_PART, winField (·.part)), (R.WIN_VALID, winField fun w => b2n w.valid),
   (R.WIN_NODE_LO, winField (·.nodeLo)), (R.WIN_NODE_HI, winField (·.nodeHi)),
   (R.WIN_R_READ, winField fun w => bitsOf w.rights 0 1), (R.WIN_R_WRITE, winField fun w => bitsOf w.rights 1 1),
   (R.WIN_R_ATOMIC, winField fun w => bitsOf w.rights 2 1), (R.WIN_R_COHERENT, winField fun w => bitsOf w.rights 3 1),
   (R.WIN_R_LAUNCH, winField fun w => bitsOf w.rights 4 1),
   (R.WIN_BASE_1M, winField (·.base)), (R.WIN_LIMIT_1M, winField (·.limit)),
   (R.ANSWER_STATUS_ENTRIES_LIVE, fun s _ => s.track.answers.length),
   (R.SET_SLOTS, fun s i => min (setSlots s i) (2 ^ 32 - 1)), (R.SET_SLOTS_FREE, fun s i => min (slotsFree s i) 65535),
   (R.S0_WING_FREE_FRAMES, freeFrames),
   (R.GALLERY_CLK_POINT, fun s g => if s.pkg.asleep.contains (.gallery g) then 0 else (galOf s g).point),
   (R.S0_USE_GRANULES, s0Use), (R.S0_USE_DEMOTE_PENDING, demotePending)]
  ++ [(R.EXT_STATE, extField 0 (·.state)), (R.EXT_SCRUB_ON_FREE, extField 0 fun e => b2n e.scrub),
   (R.EXT_PIN_S0, extField 0 fun e => b2n e.pinS0), (R.EXT_LEDGER, extField 0 fun e => b2n e.ledger),
   (R.EXT_STREAM, extField 0 fun e => b2n e.stream), (R.EXT_PART, extField 0 (·.part)),
   (R.EXT_HOLDER, extField 0x7FFF (·.holder)), (R.EXT_BASE_G, extField 0 (·.baseG)), (R.EXT_LEN_G, extField 0 (·.lenG)),
   (R.EXT_BLOCK_LOG2, extField 0 (·.blockLog2)), (R.EXT_GRANTS, extField 0 (·.grants)),
   (R.EXT_USE_GRANULES, extUse), (R.EXT_USE_OVER, fun s p => b2n (decide (rget s R.EXT_QUOTA_QUOTA_GIB p * 1024 < extUse s p))),
   (R.STREAM_STATUS_CONTEXTS, fun s _ => s.pool.streams.length),
   (R.STREAM_STATUS_HANDOFFS, fun s _ => (s.pool.streams.filter fun c => c.2.lstate == 1 || c.2.lstate == 2).length),
   (R.LEASE_NODE, leaseField 0x7FFF (·.node)), (R.LEASE_STATE, leaseField 0 (·.state)),
   (R.LEASE_EXP_EXPIRY_US, leaseField 0 (·.expiryUs))]
  ++ [(R.COH_STATUS_STALE_LINES, fun s _ => (s.coh.tags.filter fun t => t.state == 3).length),
   (R.COH_STATUS_SLOTS_USED, fun s _ => (s.coh.slots.filter fun c => c.2.state != 0).length),
   (R.CSLOT_NODE, cslotField 0x7FFF (·.node)), (R.CSLOT_STATE, cslotField 0 (·.state)), (R.CSLOT_WAYS, cslotField 0 (·.ways)),
   (R.CSLOT_M_TAGS, slotTags 2), (R.CSLOT_S_TAGS, slotTags 1), (R.CSLOT_STALE_TAGS, slotTags 3),
   (R.BUF_STATUS_FREE_CELLS, fun s _ => 524288 - cellsUsed s), (R.BUF_STATUS_SHARED_FREE, fun s _ => sharedFree s),
   (R.PART_LAND_CELLS, partCells), (R.PCELLS_LAND_CELLS, portCells), (R.PCELLS_TRANSIT_CELLS, transitCells),
   (R.PCELLS_OFF_MASK, fun s n => tgetD s.hall.off n 0), (R.PMODE_BALCONY, fun s n => b2n ((pfPort s n).role == 4)),
   (R.TM_STATUS_PATTERN, fun s _ => b2n (quietPattern s)),
   (R.TM_STATUS_FREE_SLOTS, fun s _ => ((upTo 64).filter fun i => !rbit s R.QSLOT_OWNED i).length),
   (R.SUB_CREDIT_CREDIT, fun s p => unsigned 64 ((bucketAt s (256 + p)).credit / 65536))]
  ++ [(R.REMAP_FROM, remapField (·.1)), (R.REMAP_VALID, remapField fun _ => 1), (R.REMAP_TO, remapField (·.2.1)),
   (R.REMAP_GROUP, remapField (·.2.2)),
   (R.SHELL_STATE_VARIANT, fun s _ => (s.sec.licence.map (·.variant)).getD 0),
   (R.SHELL_STATE_FEATURES, fun s _ => (s.sec.licence.map (·.features)).getD 0),
   (R.SHELL_STATE_AUTH_ENROLLED, fun s _ => b2n s.sec.authority.isSome), (R.FRAME_INFO_SERIAL, fun s _ => s.sec.frame.serial),
   (R.MEAS_WORD, fun s i => leAt (s.sec.meas.getD (i / 4) []) (8 * (i % 4)) 8),
   (R.UPD_STATUS_STATE, fun s i => (updAt s i).state), (R.UPD_STATUS_ACTIVE, fun s i => (updAt s i).active),
   (R.UPD_STATUS_RESULT, fun s i => (updAt s i).result), (R.UPD_STATUS_STAGED_VERSION, fun s i => leAt ((updAt s i).other.bytes (i + 1)) 12 4),
   (R.FW_VER_VERSION, fun s i => (updAt s i).runVersion), (R.FW_VER_SVN, fun s i => (updAt s i).runSvn),
   (R.ID_SERIAL_SERIAL, fun _ _ => Config.idSerial.toNat), (R.ID_MAC_ETH_MAC_BASE, fun _ _ => Config.macBaseHigh.toNat * 256),
   (R.HOST_PORT_CAN_OWN, fun s h => b2n (pfHost s h).canOwn), (R.HOST_PORT_CAN_STANDBY, fun s h => b2n (pfHost s h).canStandby),
   (R.HOST_PORT_NODE, fun s h => (pfHost s h).bindNode),
   (R.CMDQ_DEPTH, fun s h => (hostPort s h).queue.length + (hostPort s h).running.length),
   (R.STAGE_STATUS_STAGE_PENDING, fun s _ => b2n (stagePending s)), (R.PKG_STATE_STATE, fun s _ => pkgCode s)]

/-- The live value of a field, wherever it is held. -/
def readLive (s : State) (f : Fld) (i : Nat) : Nat :=
  match views.find? (fun p => p.1 == f) with
  | some p => p.2 s i % 2 ^ f.w
  | none => rget s f i

/-- The staged value of a field, else the one frozen for the coming boundary, else the live one (R495). -/
def readStaged (s : State) (f : Fld) (i : Nat) : Nat :=
  match tget s.rf.staged (f.key i) with
  | some v => v.value
  | none => match tget s.rf.frozen (f.key i) with
    | some v => v.value
    | none => readLive s f i

/-! ## Windows over rings, tables and buffers -/

/-- Byte `off` of an array of records of n bytes. -/
def recByte (n : Nat) (t : Tab (List Byte)) (off : Nat) : Byte := (tgetD t (off / n) []).getD (off % n) 0

/-- Byte `off` of an array of 4-byte words. -/
def wordByte (t : Tab Nat) (off : Nat) : Byte := BitVec.ofNat 8 (tgetD t (off / 4) 0 / 256 ^ (off % 4))

/-- Base, size and bytes of every window, for reads by host h. -/
def windowsFor (h : Nat) : List (Nat × Nat × (State → Nat → Byte)) :=
  [(0x1800, 256, fun s o => mget (hostPort s h).msixTable o), (0x3000, 1024, fun s o => s.boot.fpr.getD o 0),
   (0x101000, 8192, fun s => recByte 32 s.rings.stage), (0x300000, 0x80000, fun s => recByte 32 s.rings.fault),
   (0x380000, 0x20000, fun s => wordByte s.hall.stRoutes), (0x3A0000, 0x40000, fun s => wordByte s.hall.routes),
   (0x3E0000, 0x2000, fun s => recByte 32 s.hall.stSets), (0x3E2000, 0x4000, fun s => recByte 32 s.hall.sets),
   (0x900000, 0x40000, fun s => recByte 64 s.rings.sfault), (0xD80000, 0x40000, fun s => recByte 128 s.rings.gdetail),
   (0x1200000, 0x10000, fun s => recByte 16 s.rings.lost), (0x1440000, 0x10000, fun s => recByte 64 s.rings.evOwner),
   (0x1460000, 0x40000, fun s => recByte 64 s.rings.evPart), (0x1800000, 0x40000, fun s o => mget s.sec.reqBuf o),
   (0x1840000, 0x40000, fun s o => mget s.sec.rspBuf o)]

/-- The 8 bytes of BAR0 from an 8-aligned address, as host h reads them. -/
def readWord (h a0 : Nat) (s : State) : Nat :=
  let a := aliasOf a0
  match (windowsFor h).find? (fun w => decide (w.1 ≤ a) && decide (a < w.1 + w.2.1)) with
  | some w => leNat ((upTo 8).map fun i => w.2.2 s (a - w.1 + i))
  | none =>
    let val (f : Fld) (i : Nat) : Nat := if h ≤ 1 ∧ rbit s R.HOST_CFG_STAGE_VIEW h then readStaged s f i else readLive s f i
    sumN ((fieldsAt a).map fun x => (val x.1 x.2.1 / 2 ^ x.2.2.1 * 2 ^ x.2.2.2) % 2 ^ 64)

/-- Bytes of BAR0 over whole words. -/
def readBytes (h a n : Nat) (s : State) : List Byte :=
  (((upTo (n / 8)).map fun i => toLE 8 (readWord h (a + 8 * i) s)).foldl (· ++ ·) [])

end Sys2Proof.Machine
end

