-- ==== Sys2Proof/Machine/Owner.lean ====
section
/-! DEFINITION. Ownership of the switch, host commands arriving and completing, and the rows of a host's own ring (R486 to
R492, R498, R502). -/
namespace Sys2Proof.Machine

/-- BAR0 and BAR2 of a host port are enabled (R482). -/
def barsOn (s : State) (h : Nat) : Bool := decide (h ≤ 1) && running s && rbit s R.HOST_PORT_BARS_EN h

/-- The control function that a host port presents in its configuration space (R482). -/
structure HostFunction where
  device : Nat             -- device ID
  classCode : Nat
  bar0 : Nat               -- size in bytes: registers, Shell mailbox, command window
  bar2 : Nat               -- size in bytes: the fabric aperture
  vectors : Nat            -- MSI-X
  enabled : Bool           -- BAR0 and BAR2 answer
  deriving DecidableEq, Repr

/-- The configuration space of a host port: it is there once the port has trained, at whatever rate and width; its BARs only
where R5 enables them. -/
def hostFunction (s : State) (h : Nat) : Option HostFunction :=
  if (hostPort s h).linkUp then some ⟨0x0512, 0x058000, 2 ^ 26, 2 ^ 36, 8, rbit s R.HOST_PORT_BARS_EN h⟩ else none

/-- Host work needs the Hall clock (R29). -/
def wakeHall (s : State) : State := { s with hall := { s.hall with gated := false, lastWork := s.clk.now } }

/-- A write that BAR0 takes from a host. -/
def hostWork (h : Nat) (act : State → State) (s : State) : Out := .next (if barsOn s h && rget s R.START_STATUS_PHASE 0 != 5 then act (wakeHall s) else s)

/-! ## The lease (R486, R487) -/

/-- A refused ownership write. -/
def hostDenied (s : State) : State := rbump R.HOST_DENIED_COUNT 0 s

/-- The lease runs for 100 ms from now. -/
def leaseOwner (s : State) : State := rset R.HOST_LEASE_EXPIRY_US 0 (nowUs s + 100000) s

/-- A host becomes the owner. -/
def takeOwner (h : Nat) (s : State) : State :=
  raiseIrq 5 (leaseOwner (rset R.HOST_OWN_OWNER 0 (h + 1) (setHost h { hostPort s h with claimAt := some s.clk.now } s)))

/-- `CLAIM`. Of two claims at one instant that of H0 wins. -/
def claimIn (h : Nat) (s : State) : State :=
  let o := rget s R.HOST_OWN_OWNER 0
  let tie := (hostPort s (1 - h)).claimAt == some s.clk.now
  if !(pfHost s h).canOwn then hostDenied s
  else if o = 0 then takeOwner h s
  else if o = h + 1 then s
  else if tie then (if h = 0 then takeOwner 0 s else s)
  else hostDenied s

/-- `RENEW`. -/
def renewIn (h : Nat) (s : State) : State := if isOwner s h then leaseOwner s else hostDenied s

/-- Ownership ends: the owner's commands that have not begun end `ACCESS_DENIED`. -/
def endOwner (s : State) : State :=
  let o := rget s R.HOST_OWN_OWNER 0
  if o = 0 then s
  else
    let h := o - 1
    let q := (hostPort s h).queue
    let s1 := setHost h { hostPort s h with queue := [] } s
    raiseIrq 5 (rset R.HOST_OWN_OWNER 0 0 (each q (fun c t => completeWith h (cmdOf c.bytes) stDenied t) s1))

/-- `RELEASE`. -/
def releaseIn (h : Nat) (s : State) : State := if isOwner s h then endOwner s else hostDenied s

/-- CLAIM (R486). -/
def execClaim (h : Nat) (s : State) : Out := hostWork h (claimIn h) s

/-- RENEW (R486). -/
def execRenew (h : Nat) (s : State) : Out := hostWork h (renewIn h) s

/-- RELEASE (R487). -/
def execRelease (h : Nat) (s : State) : Out := hostWork h (releaseIn h) s

/-- OWNER_LEASE_EXPIRY (R487): fabric time reaches the expiry. -/
def execOwnerLeaseExpiry (s : State) : Out :=
  whenRunning (fun t =>
    if rget t R.HOST_OWN_OWNER 0 = 0 then t else endOwner (atTime (1000 * rget t R.HOST_LEASE_EXPIRY_US 0) t)) s

/-! ## The PCIe links (R482, R506) -/

/-- The PCIe function of a host port is reset: its link is down and its BARs are disabled. -/
def hostDown (h : Nat) (s : State) : State :=
  let s1 := setHost h { hostPort s h with linkUp := false, msixTable := [] } s
  each [R.HOST_PORT_RATE, R.HOST_PORT_WIDTH, R.HOST_PORT_BARS_EN, R.HOST_PORT_CAUSE] (fun f t => rset f h 0 t) s1

/-- HOST_LINK_DOWN (R506): it ends the ownership of its host (R486). -/
def execHostLinkDown (h : Nat) (s : State) : Out :=
  whenRunning (fun t => if 1 < h then t else hostDown h (if isOwner t h then endOwner t else t)) s

/-! ## The command window (R489) -/

/-- A command arrives. Before `READY` it ends `UNSUPPORTED` (R465). -/
def commandIn (h : Nat) (bytes : List Byte) (s : State) : State :=
  let p := hostPort s h
  if bytes.length ≠ 64 then rbump R.CW_BAD_COUNT h s
  else if !((pfHost s h).canOwn || (pfHost s h).canStandby) then hostDenied s
  else if 256 ≤ p.queue.length + p.running.length then rbump R.CW_FULL_COUNT h s
  else if !isReady s then completeWith h (cmdOf bytes) stUnsupported s
  else skipUnknown h (p.queue.length + 1) (setHost h { p with queue := p.queue ++ [⟨bytes⟩] } s)

/-- COMMAND_WINDOW_WRITE (R489). -/
def execCommandWindowWrite (h : Nat) (bytes : List Byte) (s : State) : Out := hostWork h (commandIn h bytes) s

/-- COMMAND_COMPLETION (R492): the oldest completion that waits is written, if the ring has room. -/
def execCommandCompletion (h : Nat) (s : State) : Out := whenRunning (fun t => if h ≤ 1 then writeCompletion h t else t) s

/-- Write the completions that wait as long as there is room. -/
def writeAll (h : Nat) (s : State) : State := each (upTo (hostPort s h).heldCpl.length) (fun _ t => writeCompletion h t) s

/-- A write of `CQ_HEAD`. -/
def cqHeadIn (h v : Nat) (s : State) : State := writeAll h (rset R.CQ_HEAD_HEAD h v s)

/-- CQ_HEAD_WRITE (R492). -/
def execCqHeadWrite (h val : Nat) (s : State) : Out := hostWork h (cqHeadIn h (val % 65536)) s

/-- `CQ_BASE` and `CQ_CFG` take writes only while `DEPTH` is 0 and no completion is held. -/
def cqFree (s : State) (h : Nat) : Bool := (hostPort s h).queue.isEmpty && (hostPort s h).running.isEmpty && (hostPort s h).heldCpl.isEmpty

/-- The ring starts afresh. -/
def cqRestart (h : Nat) (s : State) : State := rset R.CQ_TAIL_TAIL h 0 (rset R.CQ_TAIL_PHASE h 1 s)

/-- A write of `CQ_BASE`, whose six low bits are zero. -/
def cqBaseIn (h v : Nat) (s : State) : State := if cqFree s h then cqRestart h (rset R.CQ_BASE_ADDR h (v / 64 * 64) s) else s

/-- A write of `CQ_LOG2`: values outside 8 to 16 are ignored. -/
def cqLogIn (h v : Nat) (s : State) : State :=
  if cqFree s h ∧ 8 ≤ v ∧ v ≤ 16 then cqRestart h (rset R.CQ_CFG_CQ_LOG2 h v s) else s

/-- CQ_CONFIG_WRITE (R502): a write of the whole register. -/
def execCqConfigWrite (h off val : Nat) (s : State) : Out :=
  hostWork h (fun t =>
    if off = R.CQ_BASE_ADDR.addr h then cqBaseIn h (val % 2 ^ 64) t
    else if off = R.CQ_CFG_CQ_LOG2.addr h then cqLogIn h (val % 32) t
    else t) s

/-! ## Staged values (R487, R495, R498) -/

/-- `STAGE_DISCARD`: what is staged now is dropped, and one entry says so. Values frozen by the cut-off go on. -/
def discardStaged (src : Source) (tag : Nat) (s : State) : State :=
  let b := stageBytes (effectiveEpoch s) 0x100120 0 0 5 src 0 tag 0
  stageEntry b (rset R.TT_STATUS_STAGED 0 (b2n (s.rf.frozenCmds.any fun c => c.code == 0x1B))
    { s with rf := { s.rf with staged := [], stagedCmds := [] } })

/-- STAGE_DISCARD (R498). -/
def execStageDiscard (h : Nat) (s : State) : Out :=
  withCmd h 0x02 neverBusy (fun c t =>
    if !c.restZero 0 then completeWith h c stIllegal t else completeWith h c stOK (discardStaged (hostSource h) c.tag t)) s

/-- RESET (R493): it completes, and 1 ms later the reset is taken (WARM_RESET, or RESET_N_LOW's cold start). -/
def execReset (h : Nat) (s : State) : Out :=
  withCmd h 0x01 neverBusy (fun c t =>
    if 1 < c.arg 0 1 ∨ !c.restZero 1 then completeWith h c stIllegal t
    else
      let t1 := completeWith h c stOK t
      setHost h { hostPort t1 h with resetAt := some (c.arg 0 1 == 0, t1.clk.now + 1000000) } t1) s

end Sys2Proof.Machine
end

