-- ==== Sys2Proof/Machine/HopKeys.lean ====
section
/-! DEFINITION. Keys of the Shell (R431) and the establishment of hop keys on a link (R444 to R448). -/
namespace Sys2Proof.Machine

/-! ## Keys (R431) -/

/-- Characters as ASCII bytes. -/
def ascii (t : String) : List Byte := t.toList.map fun c => BitVec.ofNat 8 c.toNat

/-- Seed of the device identity key DIK. -/
def dikSeed : List Byte := Config.sha3 (Config.uds ++ ascii "KWAYTH-DIK")

/-- The DIK public key. -/
def dikPublic : List Byte := Config.dsaPublic dikSeed

/-- The seeds d and z of SK. -/
def skD : List Byte := Config.sha3 (Config.uds ++ ascii "KWAYTH-KEM-D")
def skZ : List Byte := Config.sha3 (Config.uds ++ ascii "KWAYTH-KEM-Z")

/-- Seed of the attestation key AK, which the measurements M0 and M1 enter. -/
def akSeed (s : State) : List Byte := Config.sha3 (Config.uds ++ s.sec.meas.getD 0 [] ++ s.sec.meas.getD 1 [] ++ ascii "KWAYTH-AK")

/-- A random 256-bit draw as bytes. -/
def drawBytes (s : State) : List Byte × State := let (v, s1) := freshRandom s; (toLE 32 v.toNat, s1)

/-! ## Messages (R445) -/

/-- What a message says of its sender: DIK public key, node, endorsement. -/
def keyHead (s : State) : List Byte := dikPublic ++ toLE 2 (nodeSelf s) ++ slice s.sec.endorsement 0 2420

/-- The LINK payloads of a key message (R445). -/
def keyFragments (kmsg keyId : Nat) (msg : List Byte) : List (List Byte) :=
  let n := max 1 (ceilDiv msg.length 220)
  (upTo n).map fun i => toLE 8 5 ++ toLE 1 kmsg ++ toLE 1 0 ++ toLE 2 i ++ toLE 2 n ++ toLE 2 msg.length ++ toLE 4 keyId
    ++ slice (msg.drop (220 * i)) 0 220

/-- Send a key message. -/
def sendKey (n kmsg keyId : Nat) (msg : List Byte) (s : State) : State :=
  each (keyFragments kmsg keyId msg) (fun p t => sendLink n p t) s

/-- Change the key establishment of a port. -/
def setHop (n : Nat) (h : HopState) (s : State) : State := setLink n { linkOf s n with hop := h } s

/-- The key id that the next exchange establishes (R446). -/
def nextKeyId (h : HopState) : Nat := match h.cur with | some k => k.id + 1 | none => 1

/-- An exchange is over: what it held is forgotten. -/
def hopClear (h : HopState) : HopState :=
  { h with rx := [], rxKind := 0, rxId := 0, offer := [], accept := [], kemD := [], kemZ := [], ss := [], offerAt := none, retryAt := none }

/-- The initiator begins an exchange. -/
def startOffer (n : Nat) (s : State) : State :=
  let id := nextKeyId (linkOf s n).hop
  let (d, s1) := drawBytes s
  let (z, s2) := drawBytes s1
  let head := keyHead s2 ++ Config.kemPublic d z
  let msg := head ++ Config.dsaSign dikSeed (Config.sha3 (ascii "MOLZA-OFFER" ++ head ++ toLE 4 id))
  let h := hopClear (linkOf s2 n).hop
  sendKey n 1 id msg (setHop n { h with offer := msg, kemD := d, kemZ := z, offerAt := some s.clk.now } s2)

/-- The sender of a message passes R446: its endorsement and signature verify, and its node is the one expected. `size` is
the length before the signature, `signed` what is signed. -/
def keyCheck (s : State) (n : Nat) (msg : List Byte) (size : Nat) (signed : List Byte) : Bool :=
  let dik := slice msg 0 1312
  let node := leAt msg 1312 2
  let endorsement := slice msg 1314 2420
  decide (msg.length = size + 2420)
    && Config.dsaVerify s.sec.frame.linkAuth (Config.sha3 (ascii "MOLZA-ENDORSE" ++ toLE 2 node ++ Config.sha3 dik)) endorsement
    && Config.dsaVerify dik (Config.sha3 signed) (slice msg size 2420)
    && (if isSidePort s n then decide (0x4000 ≤ node) && decide (node ≤ 0x43FF) else node == (pfPort s n).bindNode)

/-- K_d (R446). -/
def hopKeyBytes (ss offer accept : List Byte) (id d : Nat) : List Byte :=
  Config.sha3 (ss ++ Config.sha3 (offer ++ accept) ++ ascii "MOLZA-HOP" ++ toLE 4 id ++ toLE 1 d)

/-- The key of an exchange. -/
def hopKeyOf (h : HopState) (ss accept : List Byte) (id now : Nat) : HopKey :=
  ⟨id, hopKeyBytes ss h.offer accept id 0, hopKeyBytes ss h.offer accept id 1, 0, 0, now⟩

/-- The contents of `DONE`. -/
def doneBytes (k : HopKey) : List Byte := Config.sha3 (k.k0 ++ k.k1 ++ ascii "MOLZA-DONE")

/-- A key is agreed: the first one comes into force at once, a later one at the next group start (R447). -/
def keyAgreed (n : Nat) (k : HopKey) (s : State) : State :=
  let h := hopClear (linkOf s n).hop
  if h.cur.isNone then tryUp n (setHop n { h with cur := some k } s)
  else pumpAll n (setHop n { h with next := some k } s)

/-- A `SECURITY` event of a port (R410, R448). -/
def securityEvent (n keyId fails : Nat) (s : State) : State := report ⟨0x1A, 0, portPart s n, n, n, keyId, fails, 0⟩ s

/-- An exchange fails: without a key in force the port goes down and trains again; else the exchange is tried again 1 s
later (R448). -/
def keyFail (n : Nat) (s : State) : State :=
  let h := (linkOf s n).hop
  match h.cur with
  | none => portDown n (some (s.clk.now + 100000000)) (securityEvent n (nextKeyId h) 0 s)
  | some _ => setHop n { hopClear h with retryAt := some (s.clk.now + 1000000000) } s

/-- A port on which key messages are served. -/
def keyPort (s : State) (n : Nat) : Bool := hopPort s n && !isEth s n && (lstate s n == 3 || lstate s n == 4 || lstate s n == 5)

/-- `OFFER` (R446): the responder answers `ACCEPT`, or aborts. -/
def offerIn (n keyId : Nat) (msg : List Byte) (s : State) : State :=
  let h := (linkOf s n).hop
  if !keyPort s n ∨ isInitiator s n then s
  else if keyId ≠ nextKeyId h ∨ !keyCheck s n msg 4918 (ascii "MOLZA-OFFER" ++ slice msg 0 4918 ++ toLE 4 keyId) then
    keyFail n (sendKey n 4 keyId [] s)
  else
    let (rnd, s1) := freshRandom s
    let (ct, ss) := Config.kemEncaps (slice msg 3734 1184) rnd
    let head := keyHead s1 ++ ct
    let acc := head ++ Config.dsaSign dikSeed (Config.sha3 (ascii "MOLZA-ACCEPT" ++ msg ++ head))
    sendKey n 2 keyId acc (setHop n { hopClear h with offer := msg, accept := acc, ss := ss, offerAt := some s1.clk.now } s1)

/-- `ACCEPT` (R446): the initiator derives the key and sends `DONE`, or aborts. -/
def acceptIn (n keyId : Nat) (msg : List Byte) (s : State) : State :=
  let h := (linkOf s n).hop
  if !keyPort s n ∨ !isInitiator s n ∨ h.offerAt.isNone then s
  else if keyId ≠ nextKeyId h ∨ !keyCheck s n msg 4822 (ascii "MOLZA-ACCEPT" ++ h.offer ++ slice msg 0 4822) then
    keyFail n (sendKey n 4 keyId [] s)
  else
    let ss := Config.kemDecaps h.kemD h.kemZ (slice msg 3734 1088)
    let k := hopKeyOf h ss msg keyId s.clk.now
    keyAgreed n k (sendKey n 3 keyId (doneBytes k) s)

/-- `DONE` (R446): the responder checks it. -/
def doneIn (n keyId : Nat) (msg : List Byte) (s : State) : State :=
  let h := (linkOf s n).hop
  if !keyPort s n ∨ isInitiator s n ∨ h.accept.isEmpty then s
  else
    let k := hopKeyOf h h.ss h.accept keyId s.clk.now
    if keyId = nextKeyId h ∧ msg = doneBytes k then keyAgreed n k s else keyFail n (sendKey n 4 keyId [] s)

/-- `ABORT` (R448): an exchange in progress fails; one that this side has already agreed is taken back. -/
def abortIn (n keyId : Nat) (s : State) : State :=
  let h := (linkOf s n).hop
  if !keyPort s n then s
  else if h.offerAt.isSome then keyFail n s
  else match h.next with
    | some k => if k.id = keyId then keyFail n (setHop n { h with next := none } s) else s
    | none => match h.cur with
      | some k => if k.id = keyId ∧ keyId = 1 then keyFail n (setHop n { h with cur := none } s) else s
      | none => s

/-- A complete key message. -/
def keyMessage (n kmsg keyId : Nat) (msg : List Byte) (s : State) : State :=
  match kmsg with
  | 1 => offerIn n keyId msg s
  | 2 => acceptIn n keyId msg s
  | 3 => doneIn n keyId msg s
  | 4 => abortIn n keyId s
  | _ => s

/-- A fragment of a key message arrives; the last one completes it (R445). -/
def keyFragment (n : Nat) (p : List Byte) (s : State) : State :=
  let kmsg := leAt p 8 1
  let frag := leAt p 10 2
  let nfrag := leAt p 12 2
  let total := leAt p 14 2
  let keyId := leAt p 16 4
  let h := (linkOf s n).hop
  let rx := if h.rxKind = kmsg ∧ h.rxId = keyId ∧ frag ≠ 0 then h.rx else []
  let rx1 := tset rx frag (slice p 20 220)
  let s1 := setHop n { h with rx := rx1, rxKind := kmsg, rxId := keyId } s
  if nfrag = 0 ∨ 64 < nfrag ∨ 220 * nfrag < total then s
  else if (upTo nfrag).all fun i => thas rx1 i then
    let msg := (((upTo nfrag).map fun i => tgetD rx1 i []).foldl (· ++ ·) []).take total
    keyMessage n kmsg keyId msg (setHop n { (linkOf s1 n).hop with rx := [] } s1)
  else s1

/-! ## The rows -/

/-- OFFER (R446). -/
def execOffer (port keyId : Nat) (bytes : List Byte) (s : State) : Out := whenRunning (offerIn port keyId bytes) s

/-- ACCEPT (R446). -/
def execAccept (port keyId : Nat) (bytes : List Byte) (s : State) : Out := whenRunning (acceptIn port keyId bytes) s

/-- DONE (R446). -/
def execDone (port keyId : Nat) (bytes : List Byte) (s : State) : Out := whenRunning (doneIn port keyId bytes) s

/-- ABORT (R448). -/
def execAbort (port keyId : Nat) (s : State) : Out := whenRunning (abortIn port keyId) s

/-- KEY_DONE_TIMEOUT: no `DONE` within 100 ms of `OFFER` (R448). -/
def execKeyDoneTimeout (port : Nat) (s : State) : Out :=
  whenRunning (fun t =>
    match (linkOf t port).hop.offerAt with
    | some t0 => keyFail port (atTime (t0 + 100000000) t)
    | none => t) s

/-- The current key has reached half of a limit of R447, in flits. -/
def halfUsed (k : HopKey) : Bool := decide (2 ^ 39 ≤ k.tx) || decide (2 ^ 39 ≤ k.rx)

/-- REKEY_START: the initiator begins the next exchange at 2^39 flits or 30 minutes (R447). -/
def execRekeyStart (port : Nat) (s : State) : Out :=
  whenRunning (fun t =>
    let h := (linkOf t port).hop
    match h.cur with
    | some k =>
      if !keyPort t port ∨ !isInitiator t port ∨ h.next.isSome ∨ h.offerAt.isSome ∨ h.retryAt.isSome then t
      else startOffer port (if halfUsed k then t else atTime (k.since + 1800000000000) t)
    | none => t) s

/-- REKEY_RETRY: the initiator tries a failed exchange again after 1 s (R448). -/
def execRekeyRetry (port : Nat) (s : State) : Out :=
  whenRunning (fun t =>
    match (linkOf t port).hop.retryAt with
    | some t1 =>
      let u := atTime t1 t
      if keyPort t port ∧ isInitiator t port then startOffer port u else setHop port { (linkOf u port).hop with retryAt := none } u
    | none => t) s

/-- KEY_LIMIT_REACHED: at a limit of R447 without a next key no new DATA flit starts; 100 ms later the port goes down
(R448). -/
def execKeyLimitReached (port : Nat) (s : State) : Out :=
  whenRunning (fun t =>
    let h := (linkOf t port).hop
    match h.cur, h.limitAt with
    | some k, some t0 => if h.next.isNone then portDown port (some (t0 + 200000000)) (securityEvent port k.id 0 (atTime (t0 + 100000000) t)) else t
    | some k, none =>
      if h.next.isSome then t
      else
        let full := decide (2 ^ 40 ≤ k.tx) || decide (2 ^ 40 ≤ k.rx)
        let u := if full then t else atTime (k.since + 3600000000000) t
        setHop port { h with limitAt := some u.clk.now } u
    | none, _ => t) s

/-- OLD_KEY_RETIRE: the old key goes after 10 ms (R447). -/
def execOldKeyRetire (port : Nat) (s : State) : Out :=
  whenRunning (fun t =>
    let h := (linkOf t port).hop
    if h.old.isSome then setHop port { h with old := none } (atTime h.oldUntil t) else t) s

end Sys2Proof.Machine
end

