-- ==== Sys2Proof/Machine/TimeSync.lean ====
section
/-! DEFINITION. Time: TIME flits, the choice of the source, following it, holdover and acquiring (R15 to R19, R406 to R408,
R466). -/
namespace Sys2Proof.Machine

/-- `TIME_STATE`: 0 `FREE`, 1 `ACQUIRING`, 2 `LOCKED`, 3 `HOLDOVER`. -/
def timeState (s : State) : Nat := rget s R.TIME_STATUS_TIME_STATE 0

/-- `TIME_ROLE`: 0 follower, 1 grandmaster, 2 standalone. -/
def timeRole (s : State) : Nat := rget s R.TIME_CTL_TIME_ROLE 0

/-- A port sends and receives TIME flits. -/
def timePort (s : State) (n : Nat) : Bool := !isEth s n && (lstate s n == 3 || lstate s n == 4 || lstate s n == 5)

/-- `ASYM_NS`, signed. -/
def asymNs (s : State) (n : Nat) : Int := signed 16 (rget s R.LINK_CFG_ASYM_NS n)

/-! ## States -/

/-- Change `TIME_STATE`. Holdover is an event with an onset and an end (R16, R426). -/
def setTimeState (v : Nat) (s : State) : State :=
  let old := timeState s
  if v = old then s
  else
    let s1 := rset R.TIME_STATUS_TIME_STATE 0 v s
    if v = 3 then
      report ⟨0x10, 1, none, 0xFF, 0, 0, 0, 0⟩ { s1 with clk := { s1.clk with holdSince := some s1.clk.now } }
    else if old = 3 then
      let us := (s1.clk.now - s1.clk.holdSince.getD s1.clk.now) / 1000
      report ⟨0x10, 2, none, 0xFF, 0, 0, us, 0⟩ { s1 with clk := { s1.clk with holdSince := none } }
    else s1

/-- Take the epoch fields of a peer (R17, R18): origin, length and number, and the next boundary. -/
def takeEpoch (p : PeerTime) (s : State) : State :=
  let len := 1000 * p.epochLen
  if len = 0 then s
  else
    let k := (s.clk.now - p.epochT) / len
    let c := { s.clk with tB := p.epochT, eB := p.epochE, nextB := p.epochT + (k + 1) * len, nextLen := p.nextLen, nextAt := p.nextAt, cutoff := false }
    rset R.EPOCH_NOW_EPOCH 0 (p.epochE + k) (rset R.EPOCH_CFG_EPOCH_LEN_US 0 p.epochLen { s with clk := c })

/-- Epoch fields of the source that are not the live ones (R19, R23). A flit sent before the live length came into force says
nothing new; a length that comes into force after the local time is one to come; any other is in force. -/
def learnEpoch (p : PeerTime) (s : State) : State :=
  if p.tx < s.clk.tB then s
  else if s.clk.now < p.epochT then
    if p.epochLen = 0 then s else { s with clk := { s.clk with nextLen := p.epochLen, nextAt := p.epochT } }
  else takeEpoch p s

/-- One forward step to a time that lies ahead, with the peer's epoch fields. -/
def stepForward (t : Nat) (p : PeerTime) (s : State) : State :=
  takeEpoch p { s with clk := { s.clk with now := max s.clk.now t, slew := 0 } }

/-- A peer's time now. -/
def peerNow (s : State) (p : PeerTime) : Nat := p.time + (s.clk.now - p.arrived)

/-! ## The source (R407) -/

/-- Ports whose peer can give time: heard within 100 ms, and grandmaster or `LOCKED`. -/
def sources (s : State) : List (Nat × PeerTime) :=
  s.clk.peers.filter fun p => p.2.state == 2 && p.2.hops != 0xFF && decide (s.clk.now ≤ p.2.arrived + 100000000) && timePort s p.1

/-- The source: the fewest hops, then the lowest port. -/
def source (s : State) : Option (Nat × PeerTime) := (sortBy (fun p => p.2.hops) (sources s)).head?

/-- The measured offset of the source: peer minus local (R407). -/
def offsetOf (t1 t2 t3 t4 asym : Int) : Int := ((t2 - t1) + (t3 - t4)) / 2 + asym

/-- `OFFSET_NS`, saturating. -/
def showOffset (o : Int) (s : State) : State := rset R.TIME_STATUS_OFFSET_NS 0 (unsigned 16 (max (-32767) (min 32767 o))) s

/-- Follow the source by the offset measured (R18, R466). A switch that is `LOCKED` and finds itself more than 25 ns from its
source is `ACQUIRING` until it is within them again (R15, log 161). -/
def follow (n : Nat) (p : PeerTime) (o : Int) (s : State) : State :=
  let s1 := rset R.TIME_STATUS_SYNC_PORT 0 n (showOffset o s)
  let c := { s1.clk with hops := p.hops + 1, gmNode := p.gm, everLocked := true }
  let ahead := (s.clk.now : Int) + o
  if o ≤ -1000 then
    let s2 := { s1 with clk := { s1.clk with behind := true, slew := 0, hops := 0xFF } }
    let s3 := if s1.clk.behind then s2 else report ⟨0x1C, 0, none, n, n, 0, (-o).toNat, s1.clk.now⟩ s2
    setTimeState 3 s3
  else if !s.clk.everLocked ∧ 0 < o then setTimeState 1 (stepForward ahead.toNat p { s1 with clk := { c with behind := false } })
  else if 1000000 < o then setTimeState 2 (stepForward ahead.toNat p { s1 with clk := { c with behind := false } })
  else
    let s2 := { s1 with clk := { c with behind := false, slew := o } }
    let same := p.epochT = s.clk.tB ∧ p.epochE = s.clk.eB
    let s3 := if same then { s2 with clk := { s2.clk with nextLen := p.nextLen, nextAt := p.nextAt } } else learnEpoch p s2
    if -25 ≤ o ∧ o ≤ 25 then setTimeState 2 s3
    else if timeState s3 = 0 ∨ timeState s3 = 2 then setTimeState 1 s3 else s3

/-- A good TIME flit arrives on a port (R406, R407): its payload, and its local arrival time. -/
def timeIn (n arr : Nat) (b : List Byte) (s0 : State) : State :=
  let s := atTime arr s0
  if !timePort s n then s
  else
    let t1 := leAt b 8 8
    let t2 := leAt b 16 8
    let t3 := leAt b 0 8
    let fresh_ := t1 != 0 && decide (t1 ≤ arr) && decide (arr - t1 < 1000000)
    let delay : Nat := (((arr : Int) - t1 - ((t3 : Int) - t2)) / 2).toNat
    let delay' := if fresh_ then delay else tgetD s.clk.pathDelay n 0
    let p : PeerTime :=
      { state := leAt b 27 1, hops := leAt b 26 1, gm := leAt b 24 2, tx := t3, time := t3 + delay', epochT := leAt b 28 8
        epochE := leAt b 36 8, epochLen := leAt b 44 4, nextLen := leAt b 48 4, nextAt := leAt b 52 8, arrived := arr }
    let gives := p.state == 2 && p.hops != 0xFF
    let s1 := { s with clk := { s.clk with peers := tset s.clk.peers n p, pathDelay := tset s.clk.pathDelay n delay'
                                           lastSource := if gives then arr else s.clk.lastSource } }
    match source s1 with
    | some (m, q) =>
      if timeRole s1 = 0 ∧ m = n ∧ fresh_ then follow n q (offsetOf t1 t2 t3 arr (asymNs s1 n)) s1 else s1
    | none => s1

/-- TIME (R407). -/
def execTime (port arr : Nat) (bytes : List Byte) (s : State) : Out := whenRunning (timeIn port arr bytes) s

/-- `HOPS` that this switch sends: 0 as grandmaster, 0xFF unless `LOCKED` (R406). -/
def ownHops (s : State) : Nat := if timeState s ≠ 2 then 0xFF else if timeRole s = 1 then 0 else s.clk.hops

/-- The payload of a TIME flit (R406). -/
def timePayload (s : State) (n : Nat) : List Byte :=
  let e := tget s.clk.peers n
  toLE 8 s.clk.now ++ toLE 8 (match e with | some p => p.tx | none => 0) ++ toLE 8 (match e with | some p => p.arrived | none => 0)
    ++ toLE 2 (if timeRole s = 1 then nodeSelf s else s.clk.gmNode) ++ toLE 1 (ownHops s) ++ toLE 1 (timeState s)
    ++ toLE 8 s.clk.tB ++ toLE 8 s.clk.eB ++ toLE 4 (rget s R.EPOCH_CFG_EPOCH_LEN_US 0) ++ toLE 4 s.clk.nextLen ++ toLE 8 s.clk.nextAt

/-- TIME_SYNC_SEND (R406). -/
def execTimeSyncSend (port : Nat) (s : State) : Out :=
  whenRunning (fun t => if timePort t port then sendPlain port 3 false (timePayload t port) t else t) s

/-- Enter HOLDOVER: no port gives time, the clock runs without a correction (R16). -/
def enterHoldover (s : State) : State :=
  setTimeState 3 (rset R.TIME_STATUS_SYNC_PORT 0 0xFF { s with clk := { s.clk with hops := 0xFF, slew := 0 } })

/-- HOLDOVER_ENTRY: for 100 ms no port has given time (R16, R407). -/
def execHoldoverEntry (s : State) : Out :=
  whenRunning (fun t =>
    if timeRole t ≠ 0 ∨ (timeState t ≠ 1 ∧ timeState t ≠ 2) then t
    else
      enterHoldover (atTime (t.clk.lastSource + 100000001) t)) s

/-- Begin to acquire time as grandmaster (R17). -/
def startAcquiring (s : State) : State :=
  setTimeState 1 { s with clk := { s.clk with acqSince := some s.clk.now } }

/-- The latest of peers' times, where it lies ahead of local time. -/
def latestPeer (s : State) : Option PeerTime :=
  let l := (s.clk.peers.filter fun p => (p.2.state == 2 || p.2.state == 3) && timePort s p.1 && decide (s.clk.now < peerNow s p.2)).map (·.2)
  l.foldl (fun b p => match b with | none => some p | some q => if peerNow s q < peerNow s p then some p else b) none

/-- ACQUIRING_END: a new grandmaster steps forward to the latest peer that is ahead of it, and is `LOCKED` (R17). -/
def execAcquiringEnd (s : State) : Out :=
  whenRunning (fun t =>
    match t.clk.acqSince with
    | none => t
    | some t0 =>
      if timeRole t ≠ 1 then t
      else
        let u := atTime (t0 + 100000000) t
        let v := match latestPeer u with
          | some p => stepForward (peerNow u p) p u
          | none => u
        setTimeState 2 (rset R.TIME_STATUS_OFFSET_NS 0 0 (rset R.TIME_STATUS_SYNC_PORT 0 0xFF
          { v with clk := { v.clk with acqSince := none, hops := 0, gmNode := nodeSelf v, everLocked := true } }))) s

end Sys2Proof.Machine
end

