-- ==== Sys2Proof/Machine/LinkRows.lean ====
section
/-! DEFINITION. The rows of a Molza port: training and the state machine, received flits, tag groups, widths and lanes
(R394 to R405, R409, R410, R504). -/
namespace Sys2Proof.Machine

/-! ## Training (R398, R399) -/

/-- PORT_SIGNAL: a signal on the lanes of a port that is `DOWN` begins its training. -/
def execPortSignal (port : Nat) (s : State) : Out :=
  whenRunning (fun t => if lstate t port = 0 ∧ mayTrain t port then startTraining port t else t) s

/-- A port retrains: a port that is `DOWN` trains, one that is up goes by `RECOVER`; one that trains already goes on. -/
def retrainPort (n : Nat) (s : State) : State :=
  if lstate s n = 0 then (if mayTrain s n then startTraining n s else s)
  else if lstate s n = 4 ∨ lstate s n = 5 then toRecover n s
  else s

/-- RETRAIN (R399). -/
def execRetrain (port : Nat) (s : State) : Out := whenRunning (retrainPort port) s

/-- PRBS_CHECK_DONE: the 20 µs check of saved settings passes, or full training follows (R398). -/
def execPrbsCheckDone (port : Nat) (pass : Bool) (s : State) : Out :=
  whenRunning (fun t =>
    let l := linkOf t port
    if lstate t port ≠ 1 ∨ !l.prbs then t
    else if pass then toAligning port t
    else
      let t1 := setLink port { l with prbs := false, usingSaved := false, stateSince := t.clk.now } t
      if isReady t1 then t1 else rset R.START_STATUS_FULL_TRAIN 0 1 t1) s

/-- FULL_TRAINING_DONE: the settings of each lane are saved and the port aligns (R398, R399). -/
def execFullTrainingDone (port : Nat) (settings : List (List Byte)) (s : State) : Out :=
  whenRunning (fun t =>
    let l := linkOf t port
    if lstate t port ≠ 1 ∨ l.prbs then t
    else
      let t1 := setLink port { l with saved := enum' settings, usingSaved := false } t
      let want := if t1.boot.savedWant.contains port then t1.boot.savedWant else t1.boot.savedWant ++ [port]
      toAligning port { t1 with boot := { t1.boot with savedWant := want } }) s

/-- TRAINING_TIMEOUT: 300 ms of full training have passed; the port is `DOWN` and retries 100 ms later (R398). -/
def execTrainingTimeout (port : Nat) (s : State) : Out :=
  whenRunning (fun t =>
    let l := linkOf t port
    if lstate t port ≠ 1 ∨ l.prbs then t
    else
      let u := atTime (l.stateSince + 300000000) t
      toDown port (some (u.clk.now + 100000000)) u) s

/-- TRAINING_RETRY: the port trains again (R398). -/
def execTrainingRetry (port : Nat) (s : State) : Out :=
  whenRunning (fun t =>
    match (linkOf t port).retryAt with
    | some t1 => if lstate t port = 0 ∧ mayTrain t port then startTraining port (atTime t1 t) else t
    | none => t) s

/-! ## RESUME and recovery (R398, R402) -/

/-- Ask for sends again from the next expected flit, at most once until a flit is accepted or `REPLAY_US` passes
(R401). -/
def sendNak (n : Nat) (s : State) : State :=
  let l := linkOf s n
  let may := match l.nakAt with
    | none => true
    | some t => decide (t + 1000 * rget s R.LINK_CFG_REPLAY_US n ≤ s.clk.now)
  if may then sendPlain n 0 true [] (setLink n { l with nakAt := some s.clk.now } s) else s

/-- `RESUME` in `RECOVER`: the former state where `INCARNATION` is unchanged, else `DOWN` (R398). The first one that a
link sees has nothing to differ from. -/
def resumeIn (n inc seq : Nat) (s : State) : State :=
  let l := linkOf s n
  if lstate s n ≠ 6 then s
  else if !l.aligned then setLink n { l with resume := some (inc, seq) } s
  else if l.peerInc.any (· != inc) then portDown n none s
  else
    let l1 := { l with peerInc := some inc, resume := none, aligned := false, nakAt := none, again := 0, stateSince := s.clk.now }
    let s1 := rset R.LINK_STATUS_LSTATE n l.former (setLink n l1 s)
    pumpAll n (sendNak n s1)

/-- The `RESUME` message of this side (R405). -/
def resumeBytes (s : State) (n : Nat) : List Byte :=
  toLE 2 4 ++ toLE 2 (rget s R.LINK_STATUS_INCARNATION n) ++ toLE 2 (linkOf s n).rxSeq

/-- PAIR_ALIGNED: the lanes are aligned, at first or again (R398). -/
def execPairAligned (port : Nat) (s : State) : Out :=
  whenRunning (fun t =>
    let l := linkOf t port
    if lstate t port = 2 then toExchange port t
    else if lstate t port = 6 ∧ !l.aligned then
      let t1 := sendLink port (resumeBytes t port) (setLink port { l with aligned := true } t)
      match l.resume with
      | some (inc, seq) => resumeIn port inc seq t1
      | none => t1
    else t) s

/-- ALIGNMENT_LOST: marker alignment is lost on every active lane (R398). A port in Ethernet bulk personality has no
`RECOVER` and goes down. -/
def execAlignmentLost (port : Nat) (s : State) : Out :=
  whenRunning (fun t =>
    if lstate t port = 4 ∨ lstate t port = 5 then (if isEth t port then portDown port none t else toRecover port t)
    else if lstate t port = 2 ∨ lstate t port = 3 then toDown port none t
    else t) s

/-- RESUME (R398): every class that the peer's flit leaves on is on again. -/
def execResume (port inc seq : Nat) (s : State) : Out :=
  whenRunning (fun t =>
    let u := resumeIn port inc seq t
    if lstate t port = 6 ∧ (lstate u port = 4 ∨ lstate u port = 5) then
      { u with hall := { u.hall with peerOff := tdel u.hall.peerOff port } }
    else u) s

/-- HOLD_UP_EXPIRY: `HOLD_UP_US` passes in `RECOVER` (R398). -/
def execHoldUpExpiry (port : Nat) (s : State) : Out :=
  whenRunning (fun t =>
    if lstate t port = 6 then portDown port none (atTime ((linkOf t port).stateSince + 1000 * rget t R.LINK_CFG_HOLD_UP_US port) t)
    else t) s

/-! ## Capability words and widths (R79, R395, R444) -/

/-- `CAPS` received in `EXCHANGE`. In hop mode the initiator then begins the first key exchange. -/
def capsIn (n word : Nat) (s : State) : State :=
  if lstate s n ≠ 3 ∨ isEth s n then s
  else
    let l := linkOf s n
    let s1 := rset R.PEER_CAPS_CAPS n word (setLink n { l with capsGot := true } s)
    let s2 := if hopPort s1 n ∧ bitAt word 16 ∧ isInitiator s1 n ∧ l.hop.cur.isNone ∧ l.hop.offerAt.isNone then startOffer n s1 else s1
    tryUp n s2

/-- CAPS (R79). -/
def execCaps (port word : Nat) (s : State) : Out := whenRunning (capsIn port word) s

/-- A lane mask that a port can run: a block of 1, 2, 4 or 8 lanes at a multiple of its width. -/
def maskOk (s : State) (n m : Nat) : Bool :=
  [1, 2, 4, 8].any fun w => decide (w ≤ laneCount s n) && (upTo (laneCount s n / w)).any fun b => m == blockMask w (b * w)

/-- Lanes of a mask. -/
def lanesOf (m : Nat) : List Nat := (upTo 8).filter fun i => bitAt m i

/-- The transmitter of a port goes to a width: `WIDTH` is sent, and followed once it is acknowledged. -/
def sendWidth (n m : Nat) (s : State) : State :=
  let s1 := sendLink n (linkByte 3 m) s
  setLink n { linkOf s1 n with widthSent := some m } s1

/-- A port that carries frames. -/
def linkUp (s : State) (n : Nat) : Bool := !isEth s n && (lstate s n == 4 || lstate s n == 5)

/-- `WIDTH_ASK`: honoured unless its mask names a lane that this side holds `FAILED`; a lane that sleeps is woken first,
and widens when it is awake (R395, R397). -/
def widthAskIn (n m : Nat) (s : State) : State :=
  if !linkUp s n ∨ !maskOk s n m then s
  else if (lanesOf m).any fun i => rget s R.LANE_STATE (4 * n + i) == 3 then s
  else
    let asleep := (lanesOf m).filter fun i => sleeps s (.lane (4 * n + i))
    if asleep.isEmpty then sendWidth n m s else each asleep (fun i t => beginWake (.lane (4 * n + i)) t) s

/-- `WIDTH`: the receiver listens on the old and the new lanes. -/
def widthIn (n m : Nat) (s : State) : State :=
  if !linkUp s n ∨ !maskOk s n m then s
  else setLink n { linkOf s n with rxUnion := rxMask s n ||| m, rxNext := some m } s

/-- WIDTH_ASK (R395). -/
def execWidthAsk (port mask : Nat) (s : State) : Out := whenRunning (widthAskIn port mask) s

/-- WIDTH (R395). -/
def execWidth (port mask : Nat) (s : State) : Out := whenRunning (widthIn port mask) s

/-- The pairs of a new width have begun: the receiver follows (R393, R395). -/
def followWidth (n : Nat) (s : State) : State :=
  let l := linkOf s n
  match l.rxNext with
  | none => s
  | some m =>
    let s1 := if m = rxMask s n then s else rbump R.WIDTH_CHANGES_COUNT n s
    setLink n { l with rxNext := none, rxUnion := 0 } (rset R.LINK_STATUS_RX_LANES n m s1)

/-- A held flit carries a `WIDTH`. -/
def isWidthFlit (b : List Byte) : Bool := leAt b 0 1 % 16 == 2 && leAt b 8 1 == 3

/-- The transmitter goes to the width of a `WIDTH` that has been acknowledged (R395). -/
def widthAcked (n : Nat) (s : State) : State :=
  let l := linkOf s n
  match l.widthSent with
  | none => s
  | some m =>
    if (l.held.any fun h => isWidthFlit h.bytes) || (l.txWait.any fun w => w.1 == 2 && leAt w.2.2 0 1 == 3) then s
    else
      let s1 := if m = txMask s n then s else rbump R.WIDTH_CHANGES_COUNT n s
      setLink n { l with widthSent := none } (rset R.LINK_STATUS_TX_LANES n m s1)

/-! ## Received flits (R400 to R405) -/

/-- `ACK`: what it covers leaves the replay buffer. -/
def ackIn (n ack : Nat) (s : State) : State :=
  let l := linkOf s n
  if l.held.any (·.seq == ack) then
    let rest := (l.held.dropWhile fun h => h.seq != ack).drop 1
    widthAcked n (setLink n { l with held := rest, again := 0 } s)
  else s

/-- The on/off bits of a good flit (R403, R404): a clear bit of classes 0 to 2 is counted and ignored. -/
def onoffIn (n bits : Nat) (s : State) : State :=
  let s1 := if !isSidePort s n ∧ bits % 8 ≠ 7 then rbump R.ONOFF_VIOLATION_COUNT n s else s
  let kept := if isSidePort s n then bits else bits / 8 * 8 + 7
  let s2 := { s1 with hall := { s1.hall with peerOff := tput s1.hall.peerOff n 0 (255 - kept) } }
  if bitAt (tgetD s.hall.peerOff n 0) 4 = bitAt (255 - kept) 4 then s2 else planPort n s2

/-- Bytes that a frame takes, as its header says. -/
def wireLen (b : List Byte) : Nat :=
  let f := parseFrame (b.take 24 ++ List.replicate 8 0#8)
  32 + (if f.je then f.len else payloadLen f)

/-- Cut the frames off a byte sequence that begins with one; a byte 0 without a version where a frame would begin marks
padding (R400). Gives the whole frames and what is left of the next one. -/
def cutFrames : Nat → List Byte → List (List Byte) × List Byte
  | 0, b => ([], b)
  | fuel + 1, b =>
    match b with
    | [] => ([], [])
    | x :: _ =>
      if x.toNat % 16 = 0 then ([], [])
      else if b.length < 24 ∨ b.length < wireLen b then ([], b)
      else
        let (fs, rest) := cutFrames fuel (b.drop (wireLen b))
        (b.take (wireLen b) :: fs, rest)

/-- The payload of a `DATA` flit is delivered. -/
def dataIn (n : Nat) (payload : List Byte) (s : State) : State :=
  let l := linkOf s n
  let (fs, rest) := cutFrames 9 (l.rxBytes ++ payload)
  each fs (fun b t => if linkUp t n then arrive n false (parseFrame b) t else t) (setLink n { l with rxBytes := rest } (useLanes n s))

/-- A link message of a `LINK` flit (R405); one of an unknown `KIND` is ignored. -/
def linkIn (n : Nat) (p : List Byte) (s : State) : State :=
  match leAt p 0 1 with
  | 1 => capsIn n (leAt p 8 8) s
  | 2 => widthAskIn n (leAt p 1 1) s
  | 3 => widthIn n (leAt p 1 1) s
  | 4 => resumeIn n (leAt p 2 2) (leAt p 4 2) s
  | 5 => keyFragment n p s
  | _ => s

/-- The header of a flit as the additional data of its group has it: `ACK`, `ONOFF` and `NAK` zero (R409). -/
def aadHeader (b : List Byte) : List Byte :=
  let h := leAt b 0 8
  toLE 8 (packBits [(16, bitsOf h 0 16), (21, 0), (27, bitsOf h 37 27)])

/-- The hop key that a `TAG` flit names. -/
def keyNamed (h : HopState) (id : Nat) : Option HopKey := [h.cur, h.next, h.old].findSome? fun k => k.filter fun x => x.id == id

/-- Count the flits received under a key; its first verified group lets the old key go (R447). -/
def keyUsed (id count : Nat) (h : HopState) : HopState :=
  let bump (k : Option HopKey) : Option HopKey := k.map fun x => if x.id = id then { x with rx := max x.rx count } else x
  let h1 := { h with cur := bump h.cur, next := bump h.next }
  if h1.cur.any (·.id == id) then { h1 with old := none } else h1

/-- A `TAG` flit closes a group: it is delivered and acknowledged, or discarded and asked for again; after four failures
of the same group the port goes down (R410). -/
def tagIn (n : Nat) (flit : List Byte) (s : State) : State :=
  let l := linkOf s n
  let p := (flit.drop 8).take 240
  let ctr := leAt p 16 8
  let id := leAt p 24 4
  let aad := (l.group.map aadHeader).foldl (· ++ ·) []
  let ct := (l.group.map fun b => (b.drop 8).take 240).foldl (· ++ ·) []
  let open_ := match keyNamed l.hop id with
    | some k => Config.gcmOpen (rxKey s n k) (groupNonce id ctr) aad ct (slice p 0 16)
    | none => none
  match open_ with
  | some plain =>
    let l1 := { l with group := [], groupFails := 0, rxSeq := (l.rxSeq + 1) % 4096, nakAt := none
                       hop := keyUsed id (ctr + l.group.length) l.hop }
    each ((enum' l.group).map fun x => slice plain (240 * x.1) 240) (dataIn n) (setLink n l1 s)
  | none =>
    let fails := l.groupFails + 1
    let s1 := rbump R.TAG_FAIL_COUNT n s
    if 4 ≤ fails then portDown n none (securityEvent n id fails s1)
    else sendNak n (setLink n { l with group := [], groupFails := fails, rxSeq := (l.rxSeq + 4096 - l.group.length) % 4096, nakAt := none } s1)

/-- A sequenced flit whose `SEQ` is the next expected (R401, R409, R410). -/
def seqIn (n ftype : Nat) (enc : Bool) (flit : List Byte) (s : State) : State :=
  let l := linkOf s n
  let p := (flit.drop 8).take 240
  let next := setLink n { l with rxSeq := (l.rxSeq + 1) % 4096, nakAt := none } s
  match ftype with
  | 1 =>
    if enc ≠ hopPort s n then sendNak n s
    else if enc then setLink n { linkOf next n with group := l.group ++ [flit] } next
    else dataIn n p next
  | 2 => linkIn n p next
  | _ => if l.group.isEmpty then next else tagIn n flit s

/-- What the header of a good flit says, before its contents: flow control, the acknowledgement, the width and a demand
to send again. Flow control of a flit met in `RECOVER` (`was6`) waits until the port is up. -/
def headerIn (n h : Nat) (was6 : Bool) (s : State) : State :=
  let s1 := if was6 then s else onoffIn n (bitsOf h 28 8) s
  let s2 := followWidth n (ackIn n (bitsOf h 16 12) s1)
  if bitAt h 36 then sendAgain n (linkOf s2 n).held s2 else s2

/-- What a good flit carries, `behind` flits before the one that is due. -/
def flitBody (n h behind : Nat) (was6 : Bool) (flit : List Byte) (s : State) : State :=
  let ftype := bitsOf h 0 4
  let isResume := was6 && ftype == 2 && leAt flit 8 1 == 4
  if ftype = 0 then s
  else if ftype = 3 then timeIn n s.clk.now ((flit.drop 8).take 240) s
  else if lstate s n = 3 ∧ (ftype = 1 ∨ ftype = 4) then s
  else if behind = 0 ∧ (!was6 ∨ isResume) then seqIn n ftype (bitAt h 37) flit s
  else if isResume then linkIn n ((flit.drop 8).take 240) s
  else if was6 ∨ behind ≤ 2048 then s
  else sendNak n s

/-- What follows a good flit: waiting flits leave, and `owed` says that an acknowledgement is owed, which leaves in an
`IDLE` flit where no flit after number `before` carries it. -/
def flitAfter (n h before : Nat) (was6 owed : Bool) (s : State) : State :=
  let up := lstate s n == 3 || linkUp s n
  let s1 := if was6 && linkUp s n then onoffIn n (bitsOf h 28 8) s else s
  let s2 := if up then pumpAll n s1 else s1
  if up && owed && (linkOf s2 n).txSeq == before then sendPlain n 0 false [] s2 else s2

/-- A good flit. -/
def goodFlit (n : Nat) (flit : List Byte) (s : State) : State :=
  let h := leAt flit 0 8
  let ftype := bitsOf h 0 4
  let was6 := lstate s n == 6
  let s1 := headerIn n h was6 s
  let behind := ((linkOf s1 n).rxSeq + 4096 - bitsOf h 4 12) % 4096
  flitAfter n h (linkOf s1 n).txSeq was6 (behind == 0 && (ftype == 1 || ftype == 2 || ftype == 4)) (flitBody n h behind was6 flit s1)

/-- How many codewords of the pair that brought a bad flit could not be corrected, and are not counted yet, is open: a free
value of at most 2 (R391, R393, log 184). -/
def codewordsLost (n : Nat) (s : State) : State := let (v, s1) := fresh s; radd R.FEC_UNCORR_COUNT n (v % 3) s1

/-- A flit arrives: a bad one is counted and asked for again (R400, R401). -/
def flitIn (n : Nat) (flit : List Byte) (s : State) : State :=
  let st := lstate s n
  if isEth s n ∨ !(st = 3 ∨ st = 4 ∨ st = 5 ∨ (st = 6 ∧ (linkOf s n).aligned)) then s
  else
    let good := flit.length == 256 && crc64 (flit.take 248) == leAt flit 248 8 && decide (leAt flit 0 1 % 16 ≤ 4)
    if good then goodFlit n flit s
    else
      let s1 := codewordsLost n (rbump R.CRC_BAD_COUNT n s)
      if st = 6 then s1 else sendNak n s1

/-- FLIT_RECEIVE (R401). -/
def execFlitReceive (port : Nat) (flit : List Byte) (s : State) : Out := whenRunning (flitIn port flit) s

/-- TAG: the flit that closes a tag group (R410). -/
def execTag (port : Nat) (flit : List Byte) (s : State) : Out :=
  whenRunning (fun t => if leAt flit 0 1 % 16 = 4 ∧ flit.length = 256 then flitIn port flit t else t) s

/-- REPLAY_TIMEOUT: the oldest held flit has waited `REPLAY_US` for its `ACK` (R401). -/
def execReplayTimeout (port : Nat) (s : State) : Out :=
  whenRunning (fun t =>
    match (linkOf t port).held with
    | h :: _ =>
      if lstate t port = 3 ∨ linkUp t port then
        let u := atTime (h.at_ + 1000 * rget t R.LINK_CFG_REPLAY_US port) t
        sendAgain port (linkOf u port).held u
      else t
    | [] => t) s

/-! ## Lanes (R394, R396, R504) -/

/-- The width to ask for when an active lane is lost: the widest good block below the current width; at one lane the
lowest good lane. -/
def narrower (s : State) (n : Nat) : Option Nat :=
  let w := maskWidth (rxMask s n)
  bestMask s n (if w ≤ 1 then 1 else w - 1)

/-- The receiver marks an active lane and asks for a narrower width. -/
def dropLane (n l st code mag : Nat) (s : State) : State :=
  let s1 := rset R.LANE_STATE (4 * n + l) st s
  let s2 := askWidth n (narrower s1 n) s1
  report ⟨code, 0, portPart s2 n, n, 4 * n + l, rxMask s2 n, mag, 0⟩ s2

/-- The corrected symbols of a window of 1 ms on an active lane: `ppm` millionths, rounded down, of the 21,250,000 that 212.5 Gbit/s
bring. Which number with that ratio is open: a free value (R391, R394, log 184). -/
def countCorrected (n ppm : Nat) (s : State) : State :=
  let (v, s1) := fresh s
  let low := (ppm * 2125 + 99) / 100
  radd R.FEC_CORR_COUNT n (low + v % (((ppm + 1) * 2125 + 99) / 100 - low)) s1

/-- LANE_SER_WINDOW: a 1 ms window of a lane ends (R394, R396). -/
def execLaneSerWindow (port lane ppm : Nat) (s : State) : Out :=
  whenRunning (fun t =>
    if gangedAway t port ∨ laneCount t port ≤ lane then t
    else
      let limit := rget t R.LINK_CFG_LANE_SER_PPM port
      let k := 4 * port + lane
      let st := rget t R.LANE_STATE k
      let active := bitAt (rxMask t port) lane
      let up := linkUp t port && active
      let t1 := rset R.LANE_SER_PPM k ppm (if up then countCorrected port ppm t else t)
      let l := linkOf t1 port
      if up ∧ st = 0 ∧ limit < ppm then dropLane port lane 1 0x03 (ppm * 100 / limit) t1
      else if !active ∧ (st = 1 ∨ st = 3) then
        if 2 * ppm < limit then
          setLink port { l with goodSince := tset l.goodSince lane (tgetD l.goodSince lane (t1.clk.now - 1000000)) } t1
        else setLink port { l with goodSince := tdel l.goodSince lane } t1
      else t1) s

/-- LANE_RETRAIN_GOOD: a lane has stayed below half the limit for 100 ms; it is good and the wider width is asked for
(R396). -/
def execLaneRetrainGood (port lane : Nat) (s : State) : Out :=
  whenRunning (fun t =>
    let l := linkOf t port
    let k := 4 * port + lane
    let st := rget t R.LANE_STATE k
    match tget l.goodSince lane with
    | some t0 =>
      if st ≠ 1 ∧ st ≠ 3 then t
      else
        let t1 := rset R.LANE_STATE k 0 (atTime (t0 + 100000000) t)
        let t2 := setLink port { l with goodSince := tdel l.goodSince lane } t1
        match bestMask t2 port 8 with
        | some m => if linkUp t2 port ∧ maskWidth (rxMask t2 port) < maskWidth m then askWidth port (some m) t2 else t2
        | none => t2
    | none => t) s

/-- LANE_FAILED: a lane loses marker alignment (R394). -/
def execLaneFailed (port lane : Nat) (s : State) : Out :=
  whenRunning (fun t =>
    if gangedAway t port ∨ laneCount t port ≤ lane ∨ !linkUp t port ∨ !bitAt (rxMask t port) lane
        ∨ rget t R.LANE_STATE (4 * port + lane) = 3 then t
    else dropLane port lane 3 0x04 0 t) s

/-- CAB_PRES_N: a cable leaves a connector or comes to it. Without its cable a port is down (R504). -/
def execCabPresN (conn : Nat) (level : Bool) (s : State) : Out :=
  whenRunning (fun t =>
    if level then
      let t1 := { t with pkg := { t.pkg with cabAbsent := if t.pkg.cabAbsent.contains conn then t.pkg.cabAbsent else t.pkg.cabAbsent ++ [conn] } }
      each ((upTo 4).map fun i => 4 * conn + i) (fun n u => if lstate u n = 0 then u else portDown n none u) t1
    else { t with pkg := { t.pkg with cabAbsent := t.pkg.cabAbsent.filter (· != conn) } }) s

end Sys2Proof.Machine
end

