-- ==== Sys2Proof/Machine/Spares.lean ====
section
/-! DEFINITION. Spare groups and the substitution protocol, and the measurement of ageing (R413 to R421, R428 to
R430). -/
namespace Sys2Proof.Machine

/-! ## Detection (R415, R417) -/

/-- SUB_WAIT_EXPIRY: a member's port has been `DOWN` and not `UP` for `SUB_WAIT_US` (R415, cause 1). -/
def execSubWaitExpiry (port : Nat) (s : State) : Out :=
  whenRunning (fun t =>
    match tget t.res.downSince port with
    | some t0 =>
      let u := { t with res := { t.res with downSince := tdel t.res.downSince port } }
      if lstate t port = 4 then u else detectFailure port 1 (atTime (t0 + 1000 * rget t R.SUB_CFG_SUB_WAIT_US 0) u)
    | none => t) s

/-- SUB_FORCE: the host command `SUB_FORCE` (R415, cause 3). -/
def execSubForce (h : Nat) (s : State) : Out :=
  withCmd h 0x38 neverBusy (fun c t =>
    if 128 ≤ c.arg 0 1 ∨ !c.restZero 1 then completeWith h c stIllegal t
    else completeWith h c stOK (detectFailure (c.arg 0 1) 3 t)) s

/-- The ask that a port's failure has raised. -/
def askOf (s : State) (port : Nat) : Option Ask := s.res.asks.find? fun a => a.port == port

/-- An ask is over. -/
def dropAsk (a : Ask) (s : State) : State := { s with res := { s.res with asks := s.res.asks.filter (· != a) } }

/-- An event about a failed member. -/
def subEvent (code failed group mag v2 : Nat) (port : Option Nat) (s : State) : State :=
  report ⟨code, 0, port.bind (portPart s), port.getD 0xFF, failed, group, mag, v2⟩ s

/-- End of the asking: `T_D` + `REMOTE_TIMEOUT_US`. -/
def askEnd (s : State) (a : Ask) : Nat := a.tD + 1000 * rget s R.XACT_CFG_REMOTE_TIMEOUT_US 0

/-- SUB_ASK_RESEND: the same ask again after 20 µs (R417). -/
def execSubAskResend (port : Nat) (s : State) : Out :=
  whenRunning (fun t =>
    match askOf t port with
    | some a =>
      if askEnd t a ≤ max t.clk.now (a.sentAt + 20000) then t
      else
        let u := atTime (a.sentAt + 20000) t
        let asks := u.res.asks.map fun x => if x = a then { x with sentAt := u.clk.now } else x
        sendCtl 0xF7 (rget u R.GRP_SPARE_SW a.group) (askBytes a) { u with res := { u.res with asks := asks } }
    | none => t) s

/-- SUB_ASK_TIMEOUT: no answer by the end of the asking (R417). -/
def execSubAskTimeout (port : Nat) (s : State) : Out :=
  whenRunning (fun t =>
    match askOf t port with
    | some a => subEvent 0x17 a.failed a.group 0 a.tD (some a.port) (dropAsk a (atTime (askEnd t a) t))
    | none => t) s

/-! ## The spare switch (R418) -/

/-- The first boundary at or after a time: the epochs of the live length, and of the length to come from its boundary on
(R19, R23). -/
def boundaryAt (s : State) (t : Nat) : Nat :=
  let up (from_ len : Nat) : Nat := if t ≤ from_ then from_ else from_ + ceilDiv (t - from_) len * len
  let b := up s.clk.nextB (epochLen s)
  if s.clk.nextLen ≠ 0 ∧ s.clk.nextB ≤ s.clk.nextAt ∧ s.clk.nextAt < b then up s.clk.nextAt (1000 * s.clk.nextLen) else b

/-- The switches over the side ports. -/
def neighbours (s : State) : List Nat := dedup' ((sidePorts s).map fun n => (pfPort s n).bindNode)

/-- A remap is staged: for its boundary, or for the next one whose cut-off it still meets (R419). -/
def stageRemap (failed spare group tB : Nat) (s : State) : State :=
  let first := if s.clk.cutoff then boundaryAt s (s.clk.nextB + 1) else s.clk.nextB
  let at_ := max first tB
  let s1 := { s with res := { s.res with staged := s.res.staged ++ [⟨failed, spare, group, tB, at_⟩] } }
  if tB < first then subEvent 0x16 failed group (ceilDiv (first - tB) (epochLen s)) tB (nodePort s failed) s1 else s1

/-- The 32 bytes of a `SUB_ANSWER`. -/
def answerBytes (group failed result tB serial : Nat) : List Byte :=
  toLE 2 group ++ toLE 2 failed ++ toLE 1 result ++ toLE 3 0 ++ toLE 8 tB ++ toLE 4 serial ++ toLE 12 0

/-- The 32 bytes of a `SUB_COMMIT`. -/
def commitBytes (group failed kind origin tB serial spare : Nat) : List Byte :=
  toLE 2 group ++ toLE 2 failed ++ toLE 1 kind ++ toLE 1 0 ++ toLE 2 origin ++ toLE 8 tB ++ toLE 4 serial ++ toLE 2 spare ++ toLE 10 0

/-- A group's spare is granted (R418). -/
def grantSpare (asker group failed tD accepted : Nat) (s : State) : State :=
  let tB := boundaryAt s (max (tD + epochLen s + 100000) (accepted + 100000))
  let spare := rget s R.GRP_SPARE group
  let s1 := rset R.GRP_STATE group 1 (rbump R.GRP_SERIAL group s)
  let serial := rget s1 R.GRP_SERIAL group
  let s2 := { s1 with res := { s1.res with grants := tset s1.res.grants group ⟨failed, tB, serial, spare⟩
                                           seen := s1.res.seen ++ [(nodeSelf s, serial)] } }
  let s3 := sendCtl 0xF8 asker (answerBytes group failed 0 tB serial) s2
  let s4 := each (neighbours s3) (fun n t => sendCtl 0xF9 n (commitBytes group failed (rget s R.GRP_KIND group) (nodeSelf s) tB serial spare) t) s3
  let s5 := sendCtl 0xFA spare (toLE 2 failed ++ toLE 2 spare ++ toLE 4 0 ++ toLE 8 tB ++ toLE 16 0) s4
  let port := match nodePort s5 failed with | some p => some p | none => nodePort s5 spare
  let s6 := report ⟨0x14, 0, port.bind (portPart s5), port.getD 0xFF, failed, spare, (tB - tD) / 1000, tB⟩ s5
  stageRemap failed spare group tB s6

/-- The spare's port is `UP`. -/
def spareUp (s : State) (group : Nat) : Bool :=
  match nodePort s (rget s R.GRP_SPARE group) with
  | some p => lstate s p == 4
  | none => false

/-- A `SUB_ASK` at its spare switch (R418). -/
def askIn (asker accepted : Nat) (b : List Byte) (s : State) : State :=
  let group := leAt b 0 2 % 1024
  let failed := leAt b 2 2 % 32768
  let reply (result tB serial : Nat) (t : State) : State := sendCtl 0xF8 asker (answerBytes group failed result tB serial) t
  if !rbit s R.GRP_VALID group ∨ rget s R.GRP_SPARE_SW group ≠ nodeSelf s then reply 4 0 0 s
  else if rget s R.GRP_STATE group = 0 then
    if spareUp s group then grantSpare asker group failed (leAt b 8 8) accepted s else reply 3 0 0 (rbump R.SUB_REFUSED_COUNT 0 s)
  else match tget s.res.grants group with
    | some g => if g.failed = failed then reply 1 g.tB g.serial s else reply 2 0 0 (rbump R.SUB_REFUSED_COUNT 0 s)
    | none => reply 2 0 0 (rbump R.SUB_REFUSED_COUNT 0 s)

/-- SUB_ASK (R418). -/
def execSubAsk (id : Nat) (s : State) : Out := onCtl id 0xF7 (fun i t => askIn i.frame.src i.arrived i.frame.payload t) s

/-- SUB_ANSWER: the asking ends; without a spare that is reported (R417). -/
def execSubAnswer (id : Nat) (s : State) : Out :=
  onCtl id 0xF8 (fun i t =>
    let b := i.frame.payload
    match t.res.asks.find? fun a => a.group == leAt b 0 2 % 1024 && a.failed == leAt b 2 2 % 32768 with
    | some a =>
      let r := leAt b 4 1
      let u := dropAsk a t
      if r = 2 ∨ r = 3 then subEvent 0x15 a.failed a.group 0 a.tD (some a.port) u else u
    | none => t) s

/-- SUB_COMMIT: a pair of origin and serial that is new is forwarded to every neighbour but the sender, and its remap is
staged (R419). -/
def execSubCommit (id : Nat) (s : State) : Out :=
  onCtl id 0xF9 (fun i t =>
    let b := i.frame.payload
    let key := (leAt b 6 2, leAt b 16 4)
    if t.res.seen.contains key then t
    else
      let t1 := { t with res := { t.res with seen := t.res.seen ++ [key] } }
      let t2 := each ((neighbours t1).filter (· != i.frame.src)) (fun n u => sendCtl 0xF9 n b u) t1
      stageRemap (leAt b 2 2 % 32768) (leAt b 20 2 % 32768) (leAt b 0 2 % 1024) (leAt b 8 8) t2) s

/-! ## Ageing (R428, R429) -/

/-- A measurement of every gallery begins. -/
def startMeasure (s : State) : State :=
  if s.res.measuring.isSome then s else { s with res := { s.res with measuring := some s.clk.now } }

/-- MAINT_NOW (R428). -/
def execMaintNow (s : State) : Out := whenRunning startMeasure s

/-- Measured slack of a gallery at a point and an offset step. -/
def slackAt (sl : List Nat) (g p st : Nat) : Nat := sl.getD (g * 65 + (p - 1) * 13 + st) 0

/-- Smallest step at which the slack is enough. -/
def stepFor (s : State) (sl : List Nat) (g p : Nat) : Option Nat :=
  (upTo 13).find? fun st => decide (rget s R.AGE_CFG_MIN_SLACK_PS 0 ≤ slackAt sl g p st)

/-- Worst slack of a point at the greatest offset. -/
def bestSlack (sl : List Nat) (g p : Nat) : Nat := slackAt sl g p 12

/-- An event about a gallery. -/
def galEvent (code g aux mag : Nat) (s : State) : State := report ⟨code, 0, galGrant s g, 0xFF, g, aux, mag, 0⟩ s

/-- Lower a cap point by point until some step meets the slack (R429); 0 where none does even at the lowest point. The
fuel is the cap. -/
def lowerCap (sl : List Nat) (g : Nat) : Nat → State → Nat × State
  | 0, s => (0, s)
  | p + 1, s =>
    if (stepFor s sl g (p + 1)).isSome then (p + 1, s)
    else if p = 0 then (0, s)
    else lowerCap sl g p (galEvent 0x08 g ((p + 1) * 16 + p) (bestSlack sl g (p + 1)) s)

/-- Re-plan a gallery (R429). A point below the cap that no step serves takes the greatest step. -/
def replan (sl : List Nat) (g : Nat) (s : State) : State :=
  let cap := rget s R.GALLERY_CLK_CAP g
  let (c, s1) := lowerCap sl g cap s
  let s2 := rset R.AGE_STATUS_LAST_MAINT g (epochNow s1) s1
  if c = 0 then
    if rbit s2 R.AGE_STATUS_WORN g then s2 else galEvent 0x09 g 0 (bestSlack sl g 1) (rset R.AGE_STATUS_WORN g 1 s2)
  else
    let steps := (upTo c).map fun i => (stepFor s2 sl g (i + 1)).getD 12
    let offs := packBits (steps.map fun x => (4, x))
    let slacks := packBits ((enum' steps).map fun p => (8, min 255 (slackAt sl g (p.1 + 1) p.2)))
    { s2 with res := { s2.res with stagedAge := (s2.res.stagedAge.filter fun a => a.1 != g) ++ [(g, c, offs, slacks)] } }

/-- AGEING_MEASURE_DONE: 40 µs after its start the measurement is in, and each gallery is re-planned (R429). -/
def execAgeingMeasureDone (slacks : List Nat) (s : State) : Out :=
  whenRunning (fun t =>
    match t.res.measuring with
    | some t0 =>
      let u := atTime (t0 + 40000) t
      each ((upTo 32).filter fun g => !u.boot.galleryBad.contains g) (replan slacks)
        { u with res := { u.res with measuring := none } }
    | none => t) s

end Sys2Proof.Machine
end

