-- ==== Sys2Proof/Machine/RegWrite.lean ====
section
/-! DEFINITION. Writes into BAR0: who may write what, fields of every access code, the action bits, the windows that software
writes, and the start of a mailbox command (R20, R437, R454, R485, R488, R495, R501). -/
namespace Sys2Proof.Machine

/-! ## Who may write (R488) -/

/-- The host block of host h: its registers, its apertures, and the MSI-X table of its own function. -/
def ownBlock (h a : Nat) : Bool :=
  (decide (0x1100 + h * 0x80 ≤ a) && decide (a < 0x1180 + h * 0x80)) || (decide (0x1200 + h * 0x100 ≤ a) && decide (a < 0x1300 + h * 0x100))
    || (decide (0x1800 ≤ a) && decide (a < 0x1900))

/-- The host blocks of both hosts. -/
def hostBlocks (a : Nat) : Bool := decide (0x1100 ≤ a) && decide (a < 0x1400)

/-- The Shell mailbox. -/
def mailboxAddr (a : Nat) : Bool := decide (0x1800000 ≤ a) && decide (a < 0x1C00000)

/-- A host may write at an address. -/
def mayWrite (s : State) (h a : Nat) : Bool :=
  ownBlock h a || (!hostBlocks a && ((pfHost s h).canOwn || (pfHost s h).canStandby) && (isOwner s h || a == 0x1000 || mailboxAddr a))

/-! ## The mailbox (R454) -/

/-- Codes of the mailbox commands. -/
def mboxCodes : List Nat := [1, 2, 3, 4, 5, 6, 7, 8, 9, 10]

/-- `GO`: the mailbox serves from the moment `BOOT_LOCK` is set, in recovery mode for H0. An unknown code ends `ILLEGAL`. -/
def mboxGo (h : Nat) (s : State) : State :=
  if rbit s R.MBOX_STATUS_BUSY 0 ∨ !(rbit s R.SHELL_STATE_BOOT_LOCK 0 || rget s R.START_STATUS_PHASE 0 == 5) then s
  else
    let code := rget s R.MBOX_CTL_CMD 0
    let s1 := { s with sec := { s.sec with mboxHost := h, mboxCmd := code, mboxLen := rget s R.MBOX_CTL_REQ_LEN 0 } }
    if mboxCodes.contains code then rset R.MBOX_STATUS_BUSY 0 1 s1 else mboxEnd stIllegal [] s1

/-! ## Fields -/

/-- A ring whose interrupt is enabled while it holds records raises its vector (R501). -/
def irqEnabled (r : RingRegs) (i : Nat) (s : State) : State := if rbit s r.irq i && ringNotEmpty r i s then raiseIrq r.vec s else s

/-- The rings whose vector says that they are not empty. -/
def levelRings : List RingRegs := [faultRing, sfaultRing, lostRing, stageRing]

/-- What a write of 1 to an action bit does; the bit reads 0. -/
def actionOf (f : Fld) : Option (Nat → Nat → State → State) :=
  if f = R.HOST_OWN_CLAIM then some fun h _ => claimIn h
  else if f = R.HOST_OWN_RENEW then some fun h _ => renewIn h
  else if f = R.HOST_OWN_RELEASE then some fun h _ => releaseIn h
  else if f = R.LINK_CTL_RETRAIN then some fun _ n => retrainPort n
  else if f = R.BUF_CFG_AUDIT_NOW then some fun _ _ => startAudit
  else if f = R.AGE_CFG_MAINT_NOW then some fun _ _ => startMeasure
  else if f = R.MBOX_CTL_GO then some fun h _ => mboxGo h
  else none

/-- A write to a field of access code RW takes effect at once. -/
def writeRw (h : Nat) (f : Fld) (i v : Nat) (s : State) : State :=
  match actionOf f with
  | some act => if v = 1 then act h i s else s
  | none =>
    if f = R.CQ_BASE_ADDR then cqBaseIn i v s
    else if f = R.CQ_CFG_CQ_LOG2 then cqLogIn i v s
    else if f = R.CQ_HEAD_HEAD then cqHeadIn i v s
    else
      match levelRings.find? (fun r => r.irq == f) with
      | some r => irqEnabled r i (rset f i v s)
      | none => rset f i v s

/-- A write to a field of access code RWS changes the staged copy. `INBOUND_BASE` and `INBOUND_LEN` are multiples of
4 KiB. -/
def writeRws (src : Source) (f : Fld) (i v : Nat) (s : State) : State :=
  let v1 := if f = R.INBOUND_INBOUND_BASE ∨ f = R.INBOUND_LEN_LEN then v / 4096 * 4096 else v
  { s with rf := { s.rf with staged := tset s.rf.staged (f.key i) ⟨v1, src⟩ } }

/-- What a write of 4 or 8 bytes makes of a word: the half from byte `at_` on, or all of it. -/
def mergeWord (old at_ n v : Nat) : Nat :=
  if n = 8 then v else if at_ = 0 then old / 2 ^ 32 * 2 ^ 32 + v else old % 2 ^ 32 + v * 2 ^ 32

/-- A field as it stands in a word, after a write of n bytes at byte `at_` of that word; none where the write misses it. -/
def mergeField (f : Fld) (first place old at_ n v : Nat) : Option Nat :=
  let k := min (f.w - first) (64 - place)
  let hit := n = 8 ∨ (at_ = 0 ∧ place < 32) ∨ (at_ = 4 ∧ 32 < place + k)
  if !hit then none
  else
    let word := mergeWord (old / 2 ^ first * 2 ^ place % 2 ^ 64) at_ n v
    some (old % 2 ^ first + bitsOf word place k * 2 ^ first + old / 2 ^ (first + k) * 2 ^ (first + k))

/-- Write one field of a word. -/
def writeField (h : Nat) (src : Source) (at_ n v : Nat) (x : Fld × Nat × Nat × Nat) (s : State) : State :=
  let f := x.1
  let i := x.2.1
  let new (old : Nat) : Option Nat := mergeField f x.2.2.1 x.2.2.2 old at_ n v
  match f.acc with
  | .ro => s
  | .boot => s
  | .rw => match new (rget s f i) with | some w => writeRw h f i w s | none => s
  | .w1c => match new 0 with
    | some w => rset f i (Nat.lor (rget s f i) w - w) s
    | none => s
  | .rws => match new (readStaged s f i) with | some w => writeRws src f i w s | none => s

/-- Write the fields of the word at an address. `GO` acts after `CMD` and `REQ_LEN`, which are written with it. -/
def writeFields (h : Nat) (src : Source) (a at_ n v : Nat) (s : State) : State :=
  let fs := fieldsAt (aliasOf a)
  let s1 := if fs.any (fun x => x.1.acc == .boot) then rbump R.BOOT_WRITE_DENIED_COUNT 0 s else s
  each (fs.filter (fun x => x.1 != R.MBOX_CTL_GO) ++ fs.filter (fun x => x.1 == R.MBOX_CTL_GO)) (writeField h src at_ n v) s1

/-! ## Windows that software writes -/

/-- Bytes written at an offset of an array of records of 32 bytes. -/
def setWrite (t : Tab (List Byte)) (off : Nat) (b : List Byte) : Tab (List Byte) :=
  let r := slice (tgetD t (off / 32) []) 0 32
  tset t (off / 32) (r.take (off % 32) ++ b ++ r.drop (off % 32 + b.length))

/-- Bytes written at an offset of the staged routing table. -/
def routeWrite (t : Tab Nat) (off : Nat) (b : List Byte) : Tab Nat :=
  let t1 := tput t (off / 4) 0 (leNat (b.take 4))
  if b.length = 8 then tput t1 (off / 4 + 1) 0 (leNat (b.drop 4)) else t1

/-- A write into a window, where the address lies in one that takes writes: the route staging window (R371), the MSI-X
table, and the mailbox request buffer. -/
def writeWindow (h a : Nat) (b : List Byte) (s : State) : Option State :=
  if 0x380000 ≤ a ∧ a < 0x3A0000 then some { s with hall := { s.hall with stRoutes := routeWrite s.hall.stRoutes (a - 0x380000) b } }
  else if 0x3E0000 ≤ a ∧ a < 0x3E2000 then some { s with hall := { s.hall with stSets := setWrite s.hall.stSets (a - 0x3E0000) b } }
  else if 0x1800 ≤ a ∧ a < 0x1880 then
    some (setHost h { hostPort s h with msixTable := mwrite (hostPort s h).msixTable (a - 0x1800) b } s)
  else if 0x1800000 ≤ a ∧ a < 0x1840000 then some { s with sec := { s.sec with reqBuf := mwrite s.sec.reqBuf (a - 0x1800000) b } }
  else none

/-! ## The write -/

/-- A write that the register space takes. -/
def writeReg (h : Nat) (src : Source) (off : Nat) (b : List Byte) (s : State) : State :=
  match writeWindow h off b s with
  | some t => t
  | none => writeFields h src (off / 8 * 8) (off % 8) b.length (leNat b) s

/-- A host write into BAR0. -/
def hostWrite (h off : Nat) (b : List Byte) (s : State) : State :=
  let n := b.length
  let s1 := if mailboxAddr off then s else wakeHall s
  if 0x1C00000 ≤ off ∧ off < 0x2000000 then rbump R.CW_BAD_COUNT h s1
  else if !(n = 4 ∨ n = 8) ∨ off % n ≠ 0 then s1
  else if rget s1 R.START_STATUS_PHASE 0 = 5 ∧ !(h = 0 ∧ mailboxAddr off) then s1
  else if !mayWrite s1 h off then hostDenied s1
  else writeReg h (hostSource h) off b s1

/-- REGISTER_WRITE (R495). -/
def execRegisterWrite (h off : Nat) (bytes : List Byte) (s : State) : Out :=
  .next (if barsOn s h ∧ off < 2 ^ 26 then hostWrite h off bytes s else s)

end Sys2Proof.Machine
end

