-- ==== Sys2Proof/Machine/Signed.lean ====
section
/-! DEFINITION. Signed objects: firmware images, protection frames and licences, and what makes the Shell accept them (R432,
R433, R438, R439, R441, R442, R474). -/
namespace Sys2Proof.Machine

/-- Bytes of a list are zero from one place up to another. -/
def zeroFrom (b : List Byte) (lo hi : Nat) : Bool := ((b.take hi).drop lo).all (· == 0#8)

/-- Lengths of an ML-DSA-44 public key and signature. -/
def pkLen : Nat := 1312
def sigLen : Nat := 2420

/-- The signature at the end of `n` signed bytes verifies under the key that ends them. -/
def signatureOk (b : List Byte) (n : Nat) : Bool :=
  Config.dsaVerify (slice b (n - pkLen) pkLen) (Config.sha3 (b.take n)) (slice b n sigLen)

/-- The digest of the key that ends `n` signed bytes. -/
def signerOf (b : List Byte) (n : Nat) : List Byte := Config.sha3 (slice b (n - pkLen) pkLen)

/-- A digest is one of four roots that are not revoked. -/
def rootOk (root : Nat → List Byte) (revoked : Nat) (d : List Byte) : Bool :=
  (upTo 4).any fun i => !bitAt revoked i && root i == d

/-! ## Firmware images (R432, R433, R474) -/

/-- `RESULT` codes of `UPD_STATUS`. -/
def resOK : Nat := 0
def resBusy : Nat := 1
def resBadSignature : Nat := 2
def resSvnLow : Nat := 3
def resWrongKind : Nat := 4
def resIncompatible : Nat := 5
def resNotReady : Nat := 6
def resHoldUp : Nat := 7
def resArmed : Nat := 8
def resFlashError : Nat := 9
def resTrialFailed : Nat := 10
def resNotOwner : Nat := 11

/-- Bytes that the signature of an image covers. -/
def imageSigned (b : List Byte) : Nat := 64 + leAt b 8 4 + pkLen

/-- D of an image. -/
def imageDigest (b : List Byte) : List Byte := Config.sha3 (b.take (imageSigned b))

/-- `VERSION` and `SVN` of an image. -/
def imageVersion (b : List Byte) : Nat := leAt b 12 4
def imageSvn (b : List Byte) : Nat := leAt b 5 1

/-- Every field of the header is in range, `KIND` and `GEN` apart. -/
def imageHeader (b : List Byte) : Bool :=
  leAt b 0 4 == 0x4D494B55 && decide (imageSvn b ≤ 63) && decide (leAt b 6 2 ≤ 1) && leAt b 8 4 % 64 == 0 && decide (leAt b 8 4 ≤ 2 ^ 22)
    && zeroFrom b 17 64

/-- Interface levels of the compatibility block: its own, and the needs by kind. -/
def imageIface (b : List Byte) : Nat := leAt b 64 2
def imageNeed (b : List Byte) (kind : Nat) : Nat := leAt b (64 + 2 * kind) 2

/-- The compatibility block is well formed: the body holds it, and its reserved bytes are zero. -/
def imageBlock (b : List Byte) : Bool := decide (64 ≤ leAt b 8 4) && decide (128 ≤ b.length) && zeroFrom b 72 128

/-- The check of R433 for a kind, as a `RESULT` code. A header out of range counts with the signature (log 48). -/
def imageCheck (s : State) (kind : Nat) (b : List Byte) : Nat :=
  if leAt b 4 1 ≠ kind ∨ leAt b 16 1 ≠ 2 then resWrongKind
  else if !imageHeader b || decide (b.length < imageSigned b + sigLen) then resBadSignature
  else if !rootOk Config.fwRoot s.sec.revokedFw (signerOf b (imageSigned b)) || !signatureOk b (imageSigned b) then resBadSignature
  else if imageSvn b < s.sec.fuseSvn.getD (kind - 1) 0 then resSvnLow
  else resOK

/-- The check of a staged image (R473). -/
def stagedCheck (s : State) (kind : Nat) (b : List Byte) : Nat :=
  let r := imageCheck s kind b
  if r ≠ resOK then r else if imageBlock b then resOK else resWrongKind

/-- A set of one image of each kind is compatible: every image's needs are met by the other two (R474). -/
def compatible (set : List (List Byte)) : Bool :=
  (upTo 3).all fun i => (upTo 3).all fun j => i == j || decide (imageNeed (set.getD i []) (j + 1) ≤ imageIface (set.getD j []))

/-! ## Licences (R441, R442) -/

/-- Features that a variant must include. -/
def variantNeeds (v : Nat) : Nat := if v = 0 then 0 else if v = 1 then 1 else 7

/-- A licence passes R441 and R442 on this switch. -/
def licenceOk (s : State) (b : List Byte) : Bool :=
  let f := leAt b 8 4
  decide (b.length = 64 + pkLen + sigLen) && leAt b 0 4 == 0x434C4B55 && leAt b 4 1 == 1 && decide (leAt b 5 1 ≤ 2) && decide (f < 16)
    && zeroFrom b 6 8 && zeroFrom b 52 64 && Nat.land f (variantNeeds (leAt b 5 1)) == variantNeeds (leAt b 5 1)
    && slice b 20 32 == Config.sha3 dikPublic
    && rootOk Config.licRoot s.sec.revokedLic (signerOf b (64 + pkLen)) && signatureOk b (64 + pkLen)

/-- The licence that bytes give. -/
def licenceOf (b : List Byte) : Licence := ⟨leAt b 5 1, leAt b 8 4, leAt b 12 8, Config.sha3 b⟩

/-- A feature of the applied licence: 0 `QUIET`, 1 `HOP_CRYPT`, 2 `JOB_CRYPT`, 3 `HOLONE_MGMT`. -/
def licensed (s : State) (bit : Nat) : Bool := match s.sec.licence with | some l => bitAt l.features bit | none => false

/-! ## Protection frames (R438, R439) -/

/-- The sections of a frame: type and body; none where one is cut short or its header is wrong. The fuel is the bytes. -/
def sectionsOf : Nat → List Byte → Option (List (Nat × List Byte))
  | 0, _ => none
  | fuel + 1, b =>
    if b.isEmpty then some []
    else
      let n := leAt b 4 4
      if b.length < 8 + n ∨ leAt b 2 2 ≠ 0 then none
      else (sectionsOf fuel (b.drop (8 + n))).map fun t => (leAt b 0 2, (b.drop 8).take n) :: t

/-- The body of a section, empty where the frame has none of the type. -/
def sectionBody (l : List (Nat × List Byte)) (t : Nat) : List Byte := ((l.find? fun p => p.1 == t).map (·.2)).getD []

/-- The entries of a body, n bytes each. -/
def entriesOf (n : Nat) (b : List Byte) : List (List Byte) := chunksOf n (b.length + 1) b

/-- The lengths of the eight sections, and that each type stands once. -/
def sectionLens (l : List (Nat × List Byte)) : Bool :=
  let ok (p : Nat × List Byte) : Bool :=
    let n := p.2.length
    match p.1 with
    | 1 => n == 512
    | 2 => n % 4 == 0 && decide (n ≤ 16384)
    | 3 => n == 20480
    | 4 => n % 16 == 0 && decide (n ≤ 16384)
    | 5 => n == 16
    | 6 => n == 1312
    | 7 => n % 1220 == 0 && decide (n ≤ 39040)
    | 8 => n == 8
    | _ => false
  l.all ok && (dedup' (l.map (·.1))).length == l.length

/-- The key entries. -/
def keysOf (b : List Byte) : List (Nat × Nat) := (entriesOf 4 b).map fun e => (leAt e 0 2, leAt e 2 1)

/-- A `PORTS` entry. -/
def portOfEntry (e : List Byte) : PFPort :=
  { role := leAt e 0 1, part := leAt e 1 1 % 64, granted := bitAt (leAt e 1 1) 7, bindNode := leAt e 2 2, hop := leAt e 4 1
    keys := (upTo (leAt e 5 1)).map fun j => leAt e (32 + 2 * j) 2 }

/-- A `WINDOWS` entry (R68). -/
def windowOfEntry (e : List Byte) : Window :=
  let v := leNat e
  ⟨bitsOf v 0 6, bitAt v 6, bitsOf v 8 15, bitsOf v 24 15, bitsOf v 40 5, bitsOf v 64 28, bitsOf v 92 28⟩

/-- A `HOSTS` entry. -/
def hostOfEntry (e : List Byte) : PFHost :=
  let v := leNat e
  ⟨bitAt v 0, bitAt v 1, bitsOf v 16 15, bitsOf v 32 6⟩

/-- The fields of the sections are in range. -/
def sectionFields (l : List (Nat × List Byte)) : Bool :=
  let keys := entriesOf 4 (sectionBody l 2)
  let nums := (keysOf (sectionBody l 2)).map (·.1)
  let portOk (e : List Byte) : Bool :=
    let p := portOfEntry e
    decide (p.role ≤ 4) && !bitAt (leAt e 1 1) 6 && decide (p.bindNode < 2 ^ 15) && decide (p.hop ≤ 1) && decide (leAt e 5 1 ≤ 64)
      && p.keys.all fun i => decide (i < keys.length)
  let h := sectionBody l 8
  (entriesOf 8 (sectionBody l 1)).all (fun e => decide (leNat e < 4))
    && keys.all (fun e => leAt e 0 2 != 0 && decide (leAt e 2 2 < 64)) && (dedup' nums).length == nums.length
    && (entriesOf 160 (sectionBody l 3)).all portOk
    && (entriesOf 8 (sectionBody l 5)).all (fun e => leNat e % 2 ^ 16 < 4 && bitsOf (leNat e) 31 1 == 0 && bitsOf (leNat e) 38 26 == 0)
    && (entriesOf 1220 (sectionBody l 7)).all (fun e => leAt e 2 2 == 0 && decide (leAt e 0 2 < 2 ^ 15))
    && decide (leAt h 0 1 ≤ 1) && (upTo 4).all (fun i => decide (leAt h (4 + i) 1 ≤ 2))

/-- The header of a frame is in range. -/
def frameHeader (b : List Byte) : Bool :=
  leAt b 0 4 == 0x4D524650 && leAt b 4 1 == 1 && decide (0x4000 ≤ leAt b 16 2) && decide (leAt b 16 2 ≤ 0x43FF) && decide (1 ≤ leAt b 18 2)
    && decide (leAt b 18 2 ≤ 1024) && zeroFrom b 5 8 && zeroFrom b 52 128

/-- The frame that header and sections give. A frame without a `HOSTS` section names no host. -/
def frameOf (b : List Byte) (l : List (Nat × List Byte)) : ProtFrame :=
  let parts := enum' (entriesOf 8 (sectionBody l 1))
  let hosts := (entriesOf 8 (sectionBody l 5)).map hostOfEntry
  let h := sectionBody l 8
  let none_ : PFHost := ⟨false, false, 0x7FFF, 0⟩
  { serial := leAt b 12 4, nodeSelf := leAt b 16 2, nswitches := leAt b 18 2
    enabled := (parts.filter fun p => bitAt (leNat p.2) 0).map (·.1), jobRequired := (parts.filter fun p => bitAt (leNat p.2) 1).map (·.1)
    keys := keysOf (sectionBody l 2), ports := enum' ((entriesOf 160 (sectionBody l 3)).map portOfEntry)
    windows := (entriesOf 16 (sectionBody l 4)).map windowOfEntry, host0 := hosts.getD 0 none_, host1 := hosts.getD 1 none_
    linkAuth := sectionBody l 6
    peers := (entriesOf 1220 (sectionBody l 7)).map fun e => ⟨leAt e 0 2, slice e 4 32, slice e 36 1184⟩
    holoneEn := leAt h 0 1 == 1, holonePort := leAt h 2 2, holoneRoles := (upTo 4).map fun i => leAt h (4 + i) 1
    nextAuth := slice b 20 32, signer := signerOf b (leAt b 8 4 + pkLen), digest := Config.sha3 b }

/-- Features that a frame needs (R442). -/
def frameNeeds (f : ProtFrame) : List Nat :=
  (if f.ports.any (fun p => p.2.hop == 1) then [1] else []) ++ (if !f.peers.isEmpty || !f.jobRequired.isEmpty then [2] else [])
    ++ (if f.holoneEn then [3] else [])

/-- Check a signed frame: the frame, or the code of `FRAME_REFUSED`: 1 signature or authority, 2 `SERIAL`, 3 section,
4 licence. -/
def frameCheck (s : State) (b : List Byte) : Except Nat ProtFrame :=
  let n := leAt b 8 4 + pkLen
  if n < 128 + pkLen ∨ b.length ≠ n + sigLen ∨ 245760 < b.length then .error 1
  else if !(match s.sec.authority with | some a => signerOf b n == a | none => true) || !signatureOk b n then .error 1
  else if leAt b 12 4 ≤ s.sec.frame.serial then .error 2
  else if !frameHeader b then .error 3
  else match sectionsOf (b.length + 1) ((b.take (n - pkLen)).drop 128) with
    | none => .error 3
    | some l =>
      if !sectionLens l || !sectionFields l then .error 3
      else
        let f := frameOf b l
        if (frameNeeds f).all (licensed s) then .ok f else .error 4

end Sys2Proof.Machine
end

