-- ==== Sys2Proof/Machine/Tables.lean ====
section
/-! DEFINITION. Embedding tables: descriptors, the directory and slot tags in memory, pins, row writes and scatters
(R229 to R236, R246 to R252). -/
namespace Sys2Proof.Machine

/-! ## Geometry (R229, R230) -/

/-- The geometry of a descriptor. -/
def geoOf (s : State) (t : Nat) : Geo :=
  ⟨rget s R.TBL_FMT t, rbit s R.TBL_MX t, rget s R.TBL_ROW_ELEMS t, rget s R.TBL_NROWS t, rget s R.TBL_SLOT_BASE t⟩

/-- The element format. -/
def Geo.format (g : Geo) : Fmt := (Fmt.ofCode g.fmt).getD .fp64

/-- Bytes of a row without its scales. -/
def Geo.elemBytes (g : Geo) : Nat := g.elems * g.format.width / 8

/-- RB. -/
def Geo.rb (g : Geo) : Nat := g.elemBytes + (if g.mx then g.elems / 32 else 0)

/-- SB. -/
def Geo.sb (g : Geo) : Nat := ceilDiv g.rb 64 * 64

/-- Offset of a slot. -/
def Geo.slotAt (g : Geo) (n : Nat) : Nat := g.slotBase + n * g.sb

/-- Bits of the elements of a row of w-bit elements, in order (R120). -/
def unpackRow (w n : Nat) (b : List Byte) : List Nat := let v := leNat b; (upTo n).map fun e => bitsOf v (e * w) w

/-- Bytes of elements packed end to end (R120). -/
def packRow (w : Nat) (es : List Nat) : List Byte := toLE (ceilDiv (es.length * w) 8) (packBits (es.map fun e => (w, e)))

/-- The values of a row's elements. -/
def Geo.values (g : Geo) (row : List Byte) : List FVal :=
  let es := unpackRow g.format.width g.elems (row.take g.elemBytes)
  (enum' es).map fun p => if g.mx then mxValue g.format p.2 (leAt row (g.elemBytes + p.1 / 32) 1) else valOf g.format p.2

/-! ## The directory in memory (R233, R234) -/

/-- No slot. -/
abbrev noSlot : Nat := 0xFFFFFFFF

/-- The directory of the live descriptor. -/
def dirOf (s : State) (t : Nat) : Dir := ⟨rget s R.TBL_DIR_BASE t, rget s R.TBL_NROWS t, rget s R.TBL_NSLOTS t⟩

/-- Place of a row's directory entry. -/
def Dir.entry (d : Dir) (r : Nat) : Nat := d.base + 8 * r

/-- Place of a slot's tag. -/
def Dir.tag (d : Dir) (n : Nat) : Nat := (d.base + 8 * d.nrows + 4095) / 4096 * 4096 + 16 * n

/-- `VER` of a slot's tag. -/
def Dir.ver (s : State) (d : Dir) (n : Nat) : Nat := leNat (mread s.pool.mem (d.tag n) 8)

/-- `PREV` of a slot's tag. -/
def Dir.prev (s : State) (d : Dir) (n : Nat) : Nat := leNat (mread s.pool.mem (d.tag n + 8) 4)

/-- `ROW` of a slot's tag. -/
def Dir.row (s : State) (d : Dir) (n : Nat) : Nat := leNat (mread s.pool.mem (d.tag n + 12) 4)

/-- The newest slot of a row. A zeroed entry names slot 0: the row has a slot only where that slot's tag is not free and
names the row (log 104). -/
def Dir.newest (s : State) (d : Dir) (r : Nat) : Nat :=
  let n := leNat (mread s.pool.mem (d.entry r) 4)
  if n = noSlot ∨ d.nslots ≤ n ∨ d.ver s n = 0 ∨ d.row s n ≠ r then noSlot else n

/-- The first slot of a chain whose `VER` is at most V (R234); the fuel is the number of slots. -/
def Dir.find (s : State) (d : Dir) (ver : Nat) : Nat → Nat → Option Nat
  | 0, _ => none
  | k + 1, n =>
    if n = noSlot then none
    else if d.ver s n ≤ ver then some n
    else Dir.find s d ver k (d.prev s n)

/-- The slot of a row at a version, none where the row is absent. -/
def Dir.slot (s : State) (d : Dir) (ver r : Nat) : Option Nat := d.find s ver d.nslots (d.newest s r)

/-- The places of memory read for a row's directory entry and chain, down to the slot found. -/
def Dir.places (s : State) (d : Dir) (ver : Nat) : Nat → Nat → List Nat
  | 0, _ => []
  | k + 1, n => if n = noSlot then [] else d.tag n :: (if d.ver s n ≤ ver then [] else Dir.places s d ver k (d.prev s n))

/-- A directory read of the rows meets a Stair 0 chunk with an uncorrectable error (R245, R424). -/
def Dir.bad (s : State) (d : Dir) (ver : Nat) (rows : List Nat) : Bool :=
  !s.pool.bad.isEmpty && rows.any fun r =>
    (d.entry r :: d.places s ver d.nslots (d.newest s r)).any fun a => s.pool.bad.contains (a / 1024)

/-! The same of the directory of a live descriptor. -/

def slotVer (s : State) (t n : Nat) : Nat := (dirOf s t).ver s n
def slotPrev (s : State) (t n : Nat) : Nat := (dirOf s t).prev s n
def slotRow (s : State) (t n : Nat) : Nat := (dirOf s t).row s n
def newest (s : State) (t r : Nat) : Nat := (dirOf s t).newest s r
def rowSlot (s : State) (t ver r : Nat) : Option Nat := (dirOf s t).slot s ver r
def dirBad (s : State) (t ver : Nat) (rows : List Nat) : Bool := (dirOf s t).bad s ver rows

/-- Write a tag. -/
def setTag (t n ver prev row : Nat) (s : State) : State :=
  { s with pool := { s.pool with mem := mwrite s.pool.mem ((dirOf s t).tag n) (toLE 8 ver ++ toLE 4 prev ++ toLE 4 row) } }

/-- Write a directory entry. -/
def setDir (t r n : Nat) (s : State) : State :=
  { s with pool := { s.pool with mem := mwrite s.pool.mem ((dirOf s t).entry r) (toLE 8 n) } }

/-! ## Which requests a table serves (R232, R236) -/

/-- The table serves: valid and its directory zeroed. -/
def tblServes (s : State) (t : Nat) : Bool := rbit s R.TBL_VALID t && rbit s R.TBL_STATUS_READY t

/-- The status with which a request to a table ends before its own checks. -/
def tblStatus (s : State) (t : Nat) (f : Frame) : Option Nat :=
  if !tblServes s t ∨ f.offset ≠ rget s R.TBL_SLOT_BASE t then some stIllegal
  else if keyPart s f.pkey ≠ some (rget s R.TBL_PART t) then some stDenied
  else none

/-- Some extent that is `ACTIVE` holds a granule. -/
def granuleLive (s : State) (g : Nat) : Bool := match extentAt s (g * 2 ^ 20) with | some (_, e) => e.state == 1 | none => false

/-- Every granule of some bytes lies in an extent that is `ACTIVE`. -/
def areaLive (s : State) (off len : Nat) : Bool := (granulePieces off len).all fun p => granuleLive s p.1

/-- The slot region's extents are neither fencing nor gone (R245, R251). -/
def regionLive (s : State) (t : Nat) : Bool :=
  areaLive s (rget s R.TBL_SLOT_BASE t) (rget s R.TBL_NSLOTS t * (geoOf s t).sb)

/-- Serve a table request: of this switch's window and from an endpoint's port; `table` reads the table it names. -/
def serveTable (id opc : Nat) (fail : Nat → Bool → Frame → Nat → State → State) (act : Nat → Frame → Nat → State → State)
    (s : State) : Out :=
  serve id (fun f => f.opc == opc) (fun n tracked f t =>
    if !tracked ∨ f.dst ≠ nodeSelf t then refuse n tracked f stUnsupported 1 t
    else
      let tb := leAt f.payload 0 2
      if f.payload.length < 8 ∨ 4096 ≤ tb then fail n tracked f stIllegal t
      else match tblStatus t tb f with
        | some st => fail n tracked f st t
        | none => act n f tb t) s

/-- The plain way to end a table request with an error. -/
def tblRefuse (n : Nat) (tracked : Bool) (f : Frame) (status : Nat) (s : State) : State := refuse n tracked f status 1 s

/-! ## Pins (R250, R251) -/

/-- Holds by endpoints, over all tables. -/
def endpointHolds (s : State) : Nat :=
  sumN (s.tbl.run.map fun t => (t.2.holds.filter fun h => match h.2 with | .node _ _ => true | .inst _ => false).length)

/-- TABLE_PIN (R250). -/
def execTablePin (id : Nat) (s : State) : Out :=
  serveTable id 0x25 tblRefuse (fun n f tb t =>
    let ms := leAt f.payload 4 4
    if f.payload.length ≠ 8 ∨ leAt f.payload 2 2 ≠ 0 ∨ ms = 0 ∨ 60000 < ms then tblRefuse n true f stIllegal t
    else
      let v := liveVer t tb
      let x := tblOf t tb
      let till := t.clk.now + 1000000 * ms
      let mine (h : Nat × Holder) : Bool := h.1 == v && (match h.2 with | .node m _ => m == f.src | .inst _ => false)
      if x.holds.any mine then
        let ext (h : Nat × Holder) : Nat × Holder :=
          if mine h then (v, match h.2 with | .node m e => .node m (max e till) | o => o) else h
        closeTrack n stOK (toLE 8 v) 1 (setTbl tb { x with holds := x.holds.map ext } t)
      else if !pinRoom t tb v ∨ 16384 ≤ endpointHolds t then tblRefuse n true f stQuota t
      else closeTrack n stOK (toLE 8 v) 1 (addHold tb v (.node f.src till) t)) s

/-- TABLE_UNPIN (R250). -/
def execTableUnpin (id : Nat) (s : State) : Out :=
  serveTable id 0x26 tblRefuse (fun n f tb t =>
    if f.payload.length ≠ 16 ∨ leAt f.payload 2 6 ≠ 0 then tblRefuse n true f stIllegal t
    else
      let v := leAt f.payload 8 8
      closeTrack n stOK [] 1
        (dropHolds tb (fun w h => w == v && (match h with | .node m _ => m == f.src | .inst _ => false)) t)) s

/-- PIN_HOLD_LAPSE: the hold of a node lapses after its `HOLD_MS` (R250). -/
def execPinHoldLapse (tbl ver peer : Nat) (s : State) : Out :=
  whenRunning (fun t =>
    let hit (v : Nat) (h : Holder) : Bool := v == ver && (match h with | .node m _ => m == peer | .inst _ => false)
    match (tblOf t tbl).holds.find? fun p => hit p.1 p.2 with
    | some (_, .node _ till) => dropHolds tbl hit (atTime till t)
    | _ => t) s

/-! ## Slots (R247, R249) -/

/-- Slots that an unfinished write has taken. -/
def takenSlots (x : Table) : List Nat := (x.writes.map fun w => w.rows.map (·.2)).foldl (· ++ ·) []

/-- The lowest free slots, at most n: those not in use and not taken. -/
def freeSlots (s : State) (t n : Nat) : List Nat :=
  let nslots := rget s R.TBL_NSLOTS t
  let used := nslots - rget s R.TBL_STATUS_SLOTS_FREE t
  let taken := takenSlots (tblOf s t)
  ((upTo (min nslots (used + n))).filter fun k => slotVer s t k == 0 && !taken.contains k).take n

/-- A version in [lo, hi) is held by a pin or by a batch in flight (R249). -/
def versionHeld (s : State) (t lo hi : Nat) : Bool :=
  (tblOf s t).holds.any (fun h => decide (lo ≤ h.1) && decide (h.1 < hi))
    || s.tbl.batches.any fun b => b.2.table == t && decide (lo ≤ b.2.ver) && decide (b.2.ver < hi)

/-- TABLE_SLOT_FREE: a superseded slot is freed (R249). -/
def execTableSlotFree (tbl tslot : Nat) (s : State) : Out :=
  whenRunning (fun t =>
    let x := tblOf t tbl
    match x.superseded.find? fun u => u.old == tslot with
    | none => t
    | some u =>
      if !rbit t R.TBL_VALID tbl ∨ epochNow t < u.epoch + 2 ∨ versionHeld t tbl (slotVer t tbl u.old) (slotVer t tbl u.new) then t
      else
        let prev := slotPrev t tbl u.old
        let t1 := setTag tbl u.new (slotVer t tbl u.new) prev (slotRow t tbl u.new) t
        let t2 := setTag tbl u.old 0 prev (slotRow t tbl u.old) t1
        let rest := (x.superseded.filter fun v => v.old != tslot).map fun v => if v.new = tslot then { v with new := u.new } else v
        radd R.TBL_STATUS_SLOTS_FREE tbl 1 (setTbl tbl { x with superseded := rest } t2)) s

/-! ## The gather detail ring (R246) -/

/-- Write a gather detail record in the ring of a partition: its number, and the state. -/
def gatherDetail (part t status nbad ver : Nat) (bad : List Nat) (s : State) : Nat × State :=
  let n := rget s R.GDETAIL_WR_COUNT part
  let pos := (upTo 16).map fun i => (32, bad.getD i noSlot)
  let b := recBytes 128 ([(64, n), (64, s.clk.now), (12, t), (4, 0), (8, status), (8, 0), (32, min nbad noSlot), (64, ver)] ++ pos)
  (n, rbump R.GDETAIL_WR_COUNT part { s with rings := { s.rings with gdetail := tset s.rings.gdetail (part * 32 + n % 32) b } })

/-! ## Reads and writes of rows by the switch's own engines -/

/-- Issue a read or write of bytes for a table: it runs as a request of its own, in the order of its lines, its answer going to
`origin`. Its number, and the state. -/
def engineRow (k : PKind) (origin : Origin) (pkey off len : Nat) (data : List Byte) (wing : Option Nat) (s : State) : Nat × State :=
  let (id, s1) := takeId s
  let f := mkFrame 4 (if data.isEmpty then 0x01 else 0x02) (nodeSelf s) (nodeSelf s) pkey 0 0 off len data
  let r := newReq k f origin false off len data []
  (id, enterReq id { r with wing := wing } (((extentAt s off).map (·.1)).getD 0) s1)

/-! ## Writes (R247, R248, R252) -/

/-- Change the first write of a table. -/
def setHeadWrite (t : Nat) (w : TWrite) (s : State) : State :=
  let x := tblOf s t
  setTbl t { x with writes := w :: x.writes.drop 1 } s

/-- The first write of a table ends; the slots that it took are free again unless it has flipped. -/
def endWrite (t status : Nat) (data : List Byte) (aux : Nat) (s : State) : State :=
  let x := tblOf s t
  match x.writes with
  | [] => s
  | w :: rest =>
    let s1 := setTbl t { x with writes := rest } s
    let s2 := if status = stOK then s1 else radd R.TBL_STATUS_SLOTS_FREE t w.rows.length s1
    closeTrackAux w.req status data 1 aux s2

/-- The rows that a write names, with the number of each entry. -/
def writeRows (g : Geo) (w : TWrite) : List Nat :=
  if w.scatter then
    let wd := ((Fmt.ofCode (leAt w.frame.payload 2 1 % 16)).getD .fp32).width
    (upTo (leAt w.frame.payload 4 4)).map fun i => leAt w.frame.payload (32 + i * (4 + g.elems * wd / 8)) 4
  else [leAt w.frame.payload 4 4]

/-- Take slots and issue the writes of the new rows. -/
def issueWrites (t : Nat) (w : TWrite) (new : List (Nat × List Byte)) (s : State) : State :=
  let g := geoOf s t
  let slots := freeSlots s t new.length
  if slots.length < new.length then endWrite t stQuota [] 0 s
  else
    let rows := (new.zip slots).map fun p => (p.1.1, p.2, p.1.2)
    let (io, s1) := rows.foldl (fun (acc : Tab (Nat × Option (Nat × List Byte)) × State) r =>
      let (id, u) := engineRow .store (.table t) w.frame.pkey (g.slotAt r.2.1) g.rb r.2.2 none acc.2
      (tset acc.1 id (r.1, none), u)) ([], s)
    let s2 := setHeadWrite t { w with phase := 2, io := io, rows := rows.map fun r => (r.1, r.2.1) } s1
    let free := rget s2 R.TBL_STATUS_SLOTS_FREE t - rows.length
    poolPass (rset R.TBL_STATUS_SLOTS_FREE t free s2)

/-- The new row of a scatter: the exact sum of the live row and its deltas, rounded once (R252). -/
def scatterRow (g : Geo) (f : Frame) (live : List Byte) (r : Nat) : List Byte :=
  let p := f.payload
  let df := (Fmt.ofCode (leAt p 2 1 % 16)).getD .fp32
  let rm := (RMode.ofCode (leAt p 3 1 % 8)).getD .rne
  let sat := bitAt (leAt p 3 1) 3
  let size := 4 + g.elems * df.width / 8
  let mine := (upTo (leAt p 4 4)).filter fun i => leAt p (32 + i * size) 4 == r
  let word (e : Nat) : Nat := if rm = .sr then philoxWord (leAt p 8 8) ((r * g.elems + e) % 2 ^ 64) (leAt p 16 8) else 0
  let add (ls : List Lane) (vs : List FVal) : List Lane := (ls.zip vs).map fun q => q.1.add q.2 1
  let start := add (List.replicate g.elems Lane.init) (g.values live)
  let lanes := mine.foldl (fun ls i => add ls ((unpackRow df.width g.elems (slice p (32 + i * size + 4) (size - 4))).map (valOf df))) start
  if g.mx then
    let blocks := (upTo (g.elems / 32)).map fun b =>
      mxBlock g.format rm (((lanes.drop (32 * b)).take 32).map (·.val false)) ((upTo 32).map fun i => word (32 * b + i))
    packRow g.format.width ((blocks.map (·.2)).foldl (· ++ ·) []) ++ blocks.map fun b => BitVec.ofNat 8 b.1
  else packRow g.format.width ((enum' lanes).map fun q => q.2.round g.format rm sat false (word q.1))

/-- End a write whose rows are out of range or absent (R244, R246, R247, R252). -/
def badRows (t : Nat) (w : TWrite) (status : Nat) (bad : List Nat) (s : State) : State :=
  if w.scatter then
    let (n, s1) := gatherDetail (rget s R.TBL_PART t) t status bad.length (liveVer s t) bad s
    endWrite t status [] (n % 2 ^ 32) s1
  else endWrite t status [] 0 s

/-- The first write of a table begins: a row put writes its row, a scatter reads the live rows. -/
def beginWrite (t : Nat) (s : State) : State :=
  match (tblOf s t).writes with
  | [] => s
  | w :: _ =>
    let g := geoOf s t
    let rows := writeRows g w
    let out := ((enum' rows).filter fun p => decide (g.nrows ≤ p.2)).map (·.1)
    if !regionLive s t then endWrite t stRevoked [] 0 s
    else if !w.scatter then
      if !out.isEmpty then badRows t w stIndex out s
      else issueWrites t w [(rows.headD 0, w.frame.payload.drop 16)] s
    else
      let v := liveVer s t
      let absent := ((enum' rows).filter fun p => decide (p.2 < g.nrows) && (rowSlot s t v p.2).isNone).map (·.1)
      let bad := sortBy id (out ++ absent)
      if !out.isEmpty then badRows t w stIndex bad s
      else if !absent.isEmpty then badRows t w stAbsent bad s
      else
        let (io, s1) := (dedup' rows).foldl (fun (acc : Tab (Nat × Option (Nat × List Byte)) × State) r =>
          let (id, u) := engineRow .load (.table t) w.frame.pkey (g.slotAt ((rowSlot s t v r).getD 0)) g.rb [] none acc.2
          (tset acc.1 id (r, none), u)) ([], s)
        poolPass (setHeadWrite t { w with phase := 1, io := io } s1)

/-- Begin the first write of a table; writes that end at once make room for the next. The fuel is their number. -/
def startWrites (t : Nat) : Nat → State → State
  | 0, s => s
  | k + 1, s =>
    match (tblOf s t).writes with
    | [] => s
    | w :: _ =>
      if w.phase ≠ 0 then s
      else
        let s1 := beginWrite t s
        match (tblOf s1 t).writes with
        | v :: _ => if v.req = w.req then s1 else startWrites t k s1
        | [] => s1

/-- Every read or write of a table's first write is answered: the first status that is not `OK`, or `OK`. -/
def ioStatus (w : TWrite) : Option Nat :=
  if w.io.any fun p => p.2.2.isNone then none
  else some ((w.io.findSome? fun p => match p.2.2 with | some (st, _) => if st = stOK then none else some st | none => none).getD stOK)

/-- A scatter whose live rows are read forms its new rows and writes them. -/
def scatterWrite (t : Nat) (s : State) : State :=
  match (tblOf s t).writes with
  | [] => s
  | w :: _ =>
    if w.phase ≠ 1 then s
    else match ioStatus w with
      | none => s
      | some st =>
        if st ≠ stOK then endWrite t st [] 0 s
        else
          let g := geoOf s t
          issueWrites t w (w.io.map fun p => (p.2.1, scatterRow g w.frame ((p.2.2.map (·.2)).getD []) p.2.1)) s

/-- Queue a write of a table (R248) and begin it where none stands before it. -/
def queueWrite (n t : Nat) (scatter : Bool) (f : Frame) (s : State) : State :=
  let x := tblOf s t
  let s1 := setTbl t { x with writes := x.writes ++ [⟨n, f, scatter, 0, [], []⟩] } s
  scatterWrite t (startWrites t (x.writes.length + 1) s1)

/-- ROW_PUT (R247). -/
def execRowPut (id : Nat) (s : State) : Out :=
  serveTable id 0x22 tblRefuse (fun n f tb t =>
    let p := f.payload
    if p.length ≠ 16 + (geoOf t tb).rb ∨ leAt p 2 2 ≠ 0 ∨ leAt p 8 8 ≠ 0 then tblRefuse n true f stIllegal t
    else queueWrite n tb false f t) s

/-- SCATTER_ADD (R252). -/
def execScatterAdd (id : Nat) (s : State) : Out :=
  serveTable id 0x23 tblRefuse (fun n f tb t =>
    let p := f.payload
    let g := geoOf t tb
    let df := leAt p 2 1
    let nent := leAt p 4 4
    let w := ((Fmt.ofCode df).getD .fp32).width
    if p.length < 32 ∨ df = 0 ∨ 9 < df ∨ 16 ≤ leAt p 3 1 ∨ 6 ≤ leAt p 3 1 % 8 ∨ nent = 0 ∨ leAt p 24 8 ≠ 0 ∨ g.fmt = 0
        ∨ p.length ≠ 32 + nent * (4 + g.elems * w / 8) then tblRefuse n true f stIllegal t
    else queueWrite n tb true f t) s

/-- The flip: tags, directory entries and `LIVE_VER` change at once (R247, R252). -/
def flipRows (t : Nat) (rows : List (Nat × Nat)) (s : State) : State :=
  let v := liveVer s t + 1
  let s1 := each rows (fun p u =>
    let old := newest u t p.1
    let x := tblOf u t
    let u1 := setDir t p.1 p.2 (setTag t p.2 v old p.1 u)
    if old = noSlot then u1 else setTbl t { x with superseded := x.superseded ++ [⟨old, p.2, epochNow u⟩] } u1) s
  rset R.TBL_VER_LIVE_VER t v s1

/-- ROW_FLIP: the first write of a table, its rows written, flips; the next one begins (R247, R248). -/
def execRowFlip (tbl : Nat) (s : State) : Out :=
  whenRunning (fun t0 =>
    let t := scatterWrite tbl (poolPass t0)
    match (tblOf t tbl).writes with
    | [] => t
    | w :: rest =>
      let next (u : State) : State := scatterWrite tbl (startWrites tbl rest.length u)
      if w.phase ≠ 2 then t
      else match ioStatus w with
        | none => t
        | some st =>
          if st ≠ stOK then next (endWrite tbl st [] 0 t)
          else if !regionLive t tbl then next (endWrite tbl stRevoked [] 0 t)
          else
            let u := flipRows tbl w.rows t
            next (endWrite tbl stOK (toLE 8 (liveVer u tbl)) 0 u)) s

/-! ## Descriptors at the boundary (R231, R232, R251) -/

/-- The slot region of a descriptor: first byte and first byte beyond. `get` gives a field of it. -/
def slotRegion (get : Fld → Nat) : Nat × Nat :=
  let g : Geo := ⟨get R.TBL_FMT, get R.TBL_MX != 0, get R.TBL_ROW_ELEMS, get R.TBL_NROWS, get R.TBL_SLOT_BASE⟩
  (g.slotBase, g.slotBase + get R.TBL_NSLOTS * g.sb)

/-- The directory area of a descriptor. -/
def dirRegion (get : Fld → Nat) : Nat × Nat :=
  let base := get R.TBL_DIR_BASE
  (base, (base + 8 * get R.TBL_NROWS + 4095) / 4096 * 4096 + 16 * get R.TBL_NSLOTS)

/-- Two regions overlap. -/
def regionsMeet (a b : Nat × Nat) : Bool := decide (a.1 < b.2) && decide (b.1 < a.2)

/-- The fields of a descriptor. -/
def tblFields : List Fld :=
  [R.TBL_PART, R.TBL_FMT, R.TBL_MX, R.TBL_ROW_ELEMS, R.TBL_NROWS, R.TBL_NSLOTS, R.TBL_SLOT_BASE, R.TBL_DIR_BASE]

/-- A staged descriptor passes the checks of R231. -/
def tableCheck (s : State) (t : Nat) (get : Fld → Nat) : Bool :=
  if get R.TBL_VALID = 0 then
    !rbit s R.TBL_VALID t || tblFields.all fun f => get f == rget s f t
  else if rbit s R.TBL_VALID t then tblFields.all fun f => get f == rget s f t
  else
    let g : Geo := ⟨get R.TBL_FMT, get R.TBL_MX != 0, get R.TBL_ROW_ELEMS, get R.TBL_NROWS, get R.TBL_SLOT_BASE⟩
    let slots := slotRegion get
    let dir := dirRegion get
    let others := s.tbl.run.filter fun o => o.1 != t && rbit s R.TBL_VALID o.1
    decide (g.fmt ≤ 9) && (!g.mx || (decide (4 ≤ g.fmt) && decide (g.fmt ≤ 8))) && decide (32 ≤ g.elems) && decide (g.elems % 32 = 0)
      && decide (1 ≤ g.nrows) && decide (1 ≤ get R.TBL_NSLOTS) && decide (get R.TBL_NSLOTS ≤ 2 ^ 32 - 2)
      && decide (slots.1 % 2 ^ 20 = 0) && decide (dir.1 % 2 ^ 20 = 0) && decide (g.rb ≤ 8176)
      && decide (slots.2 ≤ 2 ^ 46) && decide (dir.2 ≤ 2 ^ 46) && !regionsMeet slots dir
      && others.all fun o =>
        let r := slotRegion fun f => rget s f o.1
        let d := dirRegion fun f => rget s f o.1
        !regionsMeet slots r && !regionsMeet slots d && !regionsMeet dir r && !regionsMeet dir d

/-- The wing for a granule of a directory area: that of step 1 of R271 for a new one, its home for one that is backed, else the
wing with the most free frames. -/
def dirWing (s : State) (part : Nat) (x : Granule) : Nat :=
  let w := if x.stair = 3 then (allocWing s part).getD (freestWing s) else x.homeWing
  if freeFrames s w = 0 then freestWing s else w

/-- A granule of a directory area comes to Stair 0 and is pinned there. Its bytes are zeroed, so a copy on another stair
is given up; while no frame is free, the granule stays where it is (log 51). -/
def dirGranule (part g : Nat) (s : State) : State :=
  let x := granuleOf s g
  if x.stair = 0 ∧ !x.moving then setGranule g { x with pinned := true } s
  else if x.stair = 3 then (allocS0 g part (dirWing s part x) s).2
  else match pickFrame (dirWing s part x) s with
    | (some e, s1) =>
      let free := if x.stair = 0 then [] else [(⟨x.stair, x.loc, g, x.part, s1.nextId⟩ : Freeing)]
      let s2 := abandonMove g { s1 with pool := { s1.pool with freeing := s1.pool.freeing ++ free } }
      setGranule g { granuleOf s2 g with stair := 0, loc := if x.stair = 0 then x.loc else e, pinned := true, part := part } s2
    | (none, s1) => s1

/-- The granules of a table's directory area come to Stair 0 (R232). -/
def placeDir (t : Nat) (s : State) : State :=
  let d := dirRegion fun f => rget s f t
  each (granulePieces d.1 (d.2 - d.1)) (fun p u => dirGranule (rget u R.TBL_PART t) p.1 u) s

/-- They all stand there. -/
def dirPlaced (s : State) (t : Nat) : Bool :=
  let d := dirRegion fun f => rget s f t
  (granulePieces d.1 (d.2 - d.1)).all fun p => (granuleOf s p.1).stair == 0

/-- A descriptor has become live with `VALID` set: its directory area is zeroed in the background (R232). -/
def tableMade (t : Nat) (s : State) : State :=
  let d := dirRegion fun f => rget s f t
  let s1 := setTbl t ⟨s.clk.now + ceilDiv (d.2 - d.1) 256, [], [], []⟩ s
  let s2 := each [R.TBL_STATUS_READY, R.TBL_STATUS_NPINS, R.TBL_VER_LIVE_VER, R.TBL_PIN0_VER, R.TBL_PIN1_VER, R.TBL_PIN2_VER,
    R.TBL_PIN3_VER, R.TBL_SPILL_SPILL_ROUNDS, R.TBL_FETCH_FETCHES] (fun f u => rset f t 0 u) s1
  let s3 := rset R.TBL_STATUS_SLOTS_FREE t (rget s2 R.TBL_NSLOTS t) s2
  placeDir t s3

/-- `VALID` has gone to 0: writes that have not flipped end, all pins are void (R251), and no free slot is left to count (log 160). -/
def tableRetired (t : Nat) (s : State) : State :=
  let s1 := each (tblOf s t).writes (fun _ u => endWrite t stIllegal [] 0 u) s
  let s2 := dropHolds t (fun _ _ => true) s1
  let d := dirRegion fun f => rget s f t
  let unpin (g : Nat) (u : State) : State := let x := granuleOf u g; if x.stair = 0 then setGranule g { x with pinned := pinsS0 u g } u else u
  rset R.TBL_STATUS_SLOTS_FREE t 0 (rset R.TBL_STATUS_READY t 0 (each (granulePieces d.1 (d.2 - d.1)) (fun p u => unpin p.1 u)
    (setTbl t { tblOf s2 t with superseded := [] } s2)))

/-- TABLE_READY: the directory area is zeroed, and the table serves (R232). A granule of it that found no frame is placed first.
Endpoints that hold lines of it are snooped first,
and a stale line written whole is stale no longer (R333, R341). -/
def execTableReady (tbl : Nat) (s : State) : Out :=
  whenRunning (fun t =>
    if !rbit t R.TBL_VALID tbl ∨ rbit t R.TBL_STATUS_READY tbl ∨ !thas t.tbl.run tbl then t
    else
      let d := dirRegion fun f => rget t f tbl
      if !dirPlaced t tbl then placeDir tbl t
      else if !linesQuiet t d.1 (d.2 - d.1) true then askLines d.1 (d.2 - d.1) true t
      else
        let t1 := clearStale (fun g => decide (d.1 ≤ g.line) && decide (g.line < d.2)) (atTime (tblOf t tbl).zeroEnd t)
        rset R.TBL_STATUS_READY tbl 1 { t1 with pool := { t1.pool with mem := mzero t1.pool.mem d.1 (d.2 - d.1) } }) s

end Sys2Proof.Machine
end

