-- ==== Sys2Proof/Machine/Cutoff.lean ====
section
/-! DEFINITION. The stage cut-off: the staged copy is frozen for the coming boundary, ranges are clamped, rules between fields
are applied, and staged objects are checked (R21, R496, R497, and the commit rules of the chapters). -/
namespace Sys2Proof.Machine

/-! ## The frozen copy -/

/-- The value that a field will have after the coming boundary: the frozen one, else the live one. -/
def fget (s : State) (f : Fld) (i : Nat) : Nat :=
  match tget s.rf.frozen (f.key i) with
  | some v => v.value
  | none => rget s f i

/-- Who staged a frozen value; a live value that a rule changes is the switch's own. -/
def frozenSource (s : State) (key : Nat) : Source :=
  match tget s.rf.frozen key with
  | some v => v.source
  | none => .self

/-- Clamp a field of the frozen copy, with an entry in the stage report where that changes it. -/
def clampTo (f : Fld) (i v : Nat) (s : State) : State :=
  let old := fget s f i
  if old = v then s
  else
    let src := frozenSource s (f.key i)
    stageEntry (stageBytes (epochNow s + 1) (f.addr i) f.lo f.w 1 src 0 old v)
      { s with rf := { s.rf with frozen := tset s.rf.frozen (f.key i) ⟨v, src⟩ } }

/-- Everything staged so far is frozen; what comes from now on is staged for the boundary after. -/
def freeze (s : State) : State :=
  { s with
    clk := { s.clk with cutoff := true }
    rf := { s.rf with frozen := s.rf.staged, staged := [], frozenCmds := s.rf.stagedCmds, stagedCmds := [] } }

/-! ## Step 1: each field by itself -/

/-- The clamp of a field's register map: its range rule, and the rules of `OVH_BYTES`, `PROFILE` and `GANG`. -/
def ownClamp (f : Fld) (i v : Nat) : Nat :=
  if f = R.POVH_OVH_BYTES then (if signed 9 v < -31 then unsigned 9 (-31) else v)
  else if f = R.PROFILE then (if v = 1 ∨ v = 2 then 0 else v)
  else if f = R.LINK_CTL_GANG then (if i % 2 = 1 then 0 else v)
  else f.clamp.app v

/-- Clamp every frozen value to its own range. -/
def clampRanges (s : State) : State :=
  each s.rf.frozen (fun p t => match fieldOfKey p.1 with
    | some (f, i) => clampTo f i (ownClamp f i p.2.value) t
    | none => t) s

/-! ## Step 2: rules that relate fields -/

/-- Reduce fields of an array in an order until an excess is gone; one unit of a field counts for `unit`. -/
def cutDown (f : Fld) (unit : Nat) (idx : List Nat) (acc : Nat × State) : Nat × State :=
  idx.foldl (fun acc i =>
    let v := fget acc.2 f i
    let cut := min v (ceilDiv acc.1 unit)
    (acc.1 - cut * unit, clampTo f i (v - cut) acc.2)) acc

/-- Indices of an array from the highest down. -/
def downFrom (n : Nat) : List Nat := (upTo n).reverse

/-- `EPOCH_LEN_US` on a follower stays the live value (R23). -/
def ruleEpoch (s : State) : State :=
  if fget s R.TIME_CTL_TIME_ROLE 0 = 0 then clampTo R.EPOCH_CFG_EPOCH_LEN_US 0 (rget s R.EPOCH_CFG_EPOCH_LEN_US 0) s else s

/-- A gallery stays with the lowest-numbered partition that names it (R38). -/
def ruleGrants (s : State) : State :=
  ((upTo 64).foldl (fun (acc : Nat × State) p =>
    let m := fget acc.2 R.GALLERY_GRANT_MASK p
    (Nat.lor acc.1 m, clampTo R.GALLERY_GRANT_MASK p (Nat.lor m acc.1 - acc.1) acc.2)) (0, s)).2

/-- `ANSWER_RETAIN_US` is at least four times `REMOTE_TIMEOUT_US`, and the lower-stair and snoop timeouts fit into it
(R266, R336). -/
def ruleTimeouts (s : State) : State :=
  let remote := fget s R.XACT_CFG_REMOTE_TIMEOUT_US 0
  let least (f : Fld) (n : Nat) (t : State) : State := clampTo f 0 (min (fget t f 0) (max 1 ((remote - 10) / n))) t
  let s1 := clampTo R.ANSWER_CFG_ANSWER_RETAIN_US 0 (min 1000000 (max (4 * remote) (fget s R.ANSWER_CFG_ANSWER_RETAIN_US 0))) s
  least R.COH_CFG_SNOOP_TIMEOUT_US 4 (least R.TIER_CFG_S2_TIMEOUT_US 2 (least R.TIER_CFG_S1_TIMEOUT_US 2 s1))

/-- `FREE_HIGH` is at least `FREE_LOW` + 256. -/
def ruleFree (s : State) : State :=
  clampTo R.PLACE_FREE_FREE_HIGH 0 (min 131072 (max (fget s R.PLACE_FREE_FREE_LOW 0 + 256) (fget s R.PLACE_FREE_FREE_HIGH 0))) s

/-- A slot of the quiet frame after the commit: its partition, where it is owned. -/
def slotAfter (s : State) (i : Nat) : Option Nat := if fget s R.QSLOT_OWNED i = 0 then none else some (fget s R.QSLOT_PART i)

/-- `QUIET` needs the licence and a slot (R383, R442). -/
def ruleQuiet (s : State) : State :=
  each (upTo 64) (fun p t =>
    if fget t R.PQUIET_QUIET p = 1 ∧ !(licensed t 0 && (upTo 64).any fun i => slotAfter t i == some p) then clampTo R.PQUIET_QUIET p 0 t else t) s

/-- Slots of partitions not in quiet mode are freed, and at least 8 slots stay free (R385). -/
def ruleSlots (s : State) : State :=
  let s1 := each (upTo 64) (fun i t => match slotAfter t i with
    | some p => if fget t R.PQUIET_QUIET p = 1 then t else clampTo R.QSLOT_OWNED i 0 t
    | none => t) s
  let owned := sortBy (fun i => (63 - fget s1 R.QSLOT_PART i) * 64 + (63 - i)) ((upTo 64).filter fun i => (slotAfter s1 i).isSome)
  each (owned.take (owned.length - 56)) (fun i t => clampTo R.QSLOT_OWNED i 0 t) s1

/-- Granule frames of the switch. -/
def allFrames (s : State) : Nat := sumN ((upTo 4).map (granuleFrames s))

/-- A quota is at most the granule frames, and reservations together too (R272). -/
def ruleQuotas (s : State) : State :=
  let s1 := each (upTo 64) (fun p t => clampTo R.S0_QUOTA_QUOTA_GIB p (min (allFrames t / 1024) (fget t R.S0_QUOTA_QUOTA_GIB p)) t) s
  let held := (downFrom 64).filter fun p => fget s1 R.PQUIET_QUIET p == 1 || fget s1 R.PLACE_PROFILE_PROFILE 0 == 2
  let total := sumN (held.map fun p => fget s1 R.S0_QUOTA_QUOTA_GIB p * 1024)
  (cutDown R.S0_QUOTA_QUOTA_GIB 1024 held (total - allFrames s1, s1)).2

/-- Landings and headroom together take at most 393,216 cells (R351). -/
def ruleLandings (s : State) : State :=
  let total := sumN ((upTo 128).map fun n => fget s R.PLAND_LAND_MIN n + fget s R.PLAND_HEADROOM n)
    + sumN ((upTo 64).map fun p => fget s R.PART_LAND_LAND_RSV p)
  (cutDown R.PLAND_LAND_MIN 1 (downFrom 128) (cutDown R.PART_LAND_LAND_RSV 1 (downFrom 64) (total - 393216, s))).2

/-- `TRAY_RSV_GBPS` of the quiet partitions together is at most three quarters of `TRAY_CAP_GBPS` (R386). -/
def ruleTrays (s : State) : State :=
  let quiet := (downFrom 64).filter fun p => fget s R.PQUIET_QUIET p == 1
  let total := sumN (quiet.map fun p => fget s R.PQUIET_TRAY_RSV_GBPS p)
  (cutDown R.PQUIET_TRAY_RSV_GBPS 1 quiet (total - fget s R.TM_CFG_TRAY_CAP_GBPS 0 * 3 / 4, s)).2

/-- Personality and ganging of a port: hop mode and ganging need Molza (R392, R444). -/
def ruleLink (s : State) : State :=
  each (upTo 128) (fun n t =>
    let t1 := if hopPort t n then clampTo R.LINK_CTL_PERSONALITY n 0 t else t
    if n % 2 = 1 ∧ fget t1 R.LINK_CTL_PERSONALITY (n - 1) + fget t1 R.LINK_CTL_PERSONALITY n ≠ 0 then clampTo R.LINK_CTL_GANG (n - 1) 0 t1
    else t1) s

/-- Port buckets and policers: no port rate without a grant, at most the line rate, and `PIR` not below `CIR` (R379). -/
def rulePorts (s : State) : State :=
  each (upTo 128) (fun n t =>
    let line := if fget t R.LINK_CTL_GANG n = 1 then 1600000 else 800000
    let rate := if (portPart t n).isSome then min line (fget t R.PSHAPE_RATE_MBPS n) else 0
    let atLeast (pir cir : Fld) (u : State) : State := clampTo pir n (max (fget u cir n) (fget u pir n)) u
    atLeast R.PPOL_MGT_PIR_MBPS R.PPOL_MGT_CIR_MBPS (atLeast R.PPOL_BLK_PIR_MBPS R.PPOL_BLK_CIR_MBPS
      (atLeast R.PPOL_REQ_PIR_MBPS R.PPOL_REQ_CIR_MBPS (clampTo R.PSHAPE_RATE_MBPS n rate t)))) s

/-- Staged keys of Ethernet ports lie in the port's key set; `every` looks at the live ones too (R75, R463). -/
def rulePkeys (every : Bool) (s : State) : State :=
  each (upTo 128) (fun n t =>
    let ks := keySet t n
    if (every || thas t.rf.frozen (R.ETH_PORT_PORT_PKEY.key n)) && !ks.contains (fget t R.ETH_PORT_PORT_PKEY n) then
      clampTo R.ETH_PORT_PORT_PKEY n (match ks with | [] => 0 | k :: r => r.foldl min k) t
    else t) s

/-- A mirror session whose port is no balcony port is off. -/
def ruleMirrors (s : State) : State :=
  each (upTo 8) (fun m t =>
    let p := fget t R.MIRROR_BALCONY_PORT m
    if fget t R.MIRROR_EN m = 1 ∧ (127 < p ∨ (pfPort t p).role ≠ 4) then clampTo R.MIRROR_EN m 0 t else t) s

/-- A set that holds granules stays valid (R262). -/
def ruleSets (s : State) : State :=
  each (upTo 64) (fun k t => if rbit t R.SET_VALID k && !(heldSlots t k).isEmpty then clampTo R.SET_VALID k 1 t else t) s

/-- All rules between fields. A partition whose last slot was freed for R385 leaves quiet mode. -/
def relate (every : Bool) (s : State) : State :=
  let s1 := ruleFree (ruleTimeouts (ruleGrants (ruleEpoch s)))
  let s2 := ruleQuiet (ruleSlots (ruleQuiet s1))
  let s3 := ruleTrays (ruleLandings (ruleQuotas s2))
  ruleSets (ruleMirrors (rulePkeys every (rulePorts (ruleLink s3))))

/-! ## Step 3: objects in registers -/

/-- Addresses of the stripe sets, the plans and the table descriptors: first address, bytes of an entry, entries. -/
def objArrays : List (Nat × Nat × Nat) := [(0xC20000, 0x200, 64), (0xC40000, 0x40, 1024), (0xD00000, 0x40, 4096)]

/-- A register file key lies in an array of objects. -/
def inArray (a : Nat × Nat × Nat) (key : Nat) : Bool := decide (a.1 ≤ key / 1024) && decide (key / 1024 < a.1 + a.2.1 * a.2.2)

/-- Entries of an array that the frozen copy changes. -/
def objTouched (a : Nat × Nat × Nat) (s : State) : List Nat :=
  let changes (p : Nat × StagedVal) : Bool := match fieldOfKey p.1 with
    | some (f, i) => rget s f i != p.2.value
    | none => false
  dedup' ((s.rf.frozen.filter fun p => inArray a p.1 && changes p).map fun p => (p.1 / 1024 - a.1) / a.2.1)

/-- Frozen values of an entry. -/
def objFrozen (a : Nat × Nat × Nat) (k : Nat) (s : State) : Tab StagedVal :=
  s.rf.frozen.filter fun p => inArray a p.1 && (p.1 / 1024 - a.1) / a.2.1 == k

/-- An object is refused: it keeps its live contents. -/
def refuseObject (a : Nat × Nat × Nat) (status k : Nat) (s : State) : State :=
  let src := match objFrozen a k s with | p :: _ => p.2.source | [] => .self
  let s1 := { s with rf := { s.rf with frozen := s.rf.frozen.filter fun p => !(inArray a p.1 && (p.1 / 1024 - a.1) / a.2.1 == k) } }
  stageEntry (stageBytes (epochNow s + 1) (a.1 + k * a.2.1) 0 0 2 src status 0 0) s1

/-- Frozen values become live in a trial copy of the state. -/
def commitVals (vs : Tab StagedVal) (s : State) : State :=
  each vs (fun p t => match fieldOfKey p.1 with
    | some (f, i) => rset f i p.2.value t
    | none => t) s

/-- The switch as it will be but for its objects. -/
def preview (s : State) : State := commitVals (s.rf.frozen.filter fun p => !objArrays.any fun a => inArray a p.1) s

/-- The profile that a tray of a stair must have, as a bit of its capability word: loads and stores for the memory profile
of Stair 1, bulk for the block profile of Stair 2 (log 70). -/
def stairCap (stair : Nat) : Nat := if stair = 1 then 8 else 13

/-- Fields of a stripe set's header other than `VALID` and `DRAIN`. -/
def setFields : List Fld := [R.SET_STAIR, R.SET_PROT, R.SET_NTRAYS, R.SET_TRAY_BYTES]

/-- Trays of a set: node and first byte. -/
def setTrays (get : Fld → Nat → Nat) (k : Nat) : List (Nat × Nat) :=
  (upTo (get R.SET_NTRAYS k)).map fun i => (get R.TRAY_NODE (k * 32 + i), get R.TRAY_BASE (k * 32 + i))

/-- The ranges of a stripe set (R261). -/
def setRanges (get : Fld → Nat → Nat) (k : Nat) : Bool :=
  let n := get R.SET_NTRAYS k
  let stair := get R.SET_STAIR k
  (stair == 1 || stair == 2)
    && (match get R.SET_PROT k with
        | 0 => n % 2 == 0 && decide (2 ≤ n) && decide (n ≤ 32)
        | 1 => decide (3 ≤ n) && decide (n ≤ 16)
        | _ => false)
    && get R.SET_TRAY_BYTES k % 4096 == 0 && (setTrays get k).all fun t => t.2 % 4096 == 0

/-- The nodes, regions and capabilities of a set that is to be valid (R262). -/
def setPlaces (s : State) (get : Fld → Nat → Nat) (k : Nat) : Bool :=
  let mine := setTrays get k
  let others := (upTo 64).filter fun j => j != k && rbit s R.SET_VALID j
  let trays (j : Nat) : List (Nat × Nat) := setTrays (rget s) j
  let size := get R.SET_TRAY_BYTES k
  let nodes := mine.map (·.1)
  let sameStair := (others.filter fun j => rget s R.SET_STAIR j == get R.SET_STAIR k).map fun j => (trays j).map (·.1)
  distinct nodes && nodes.all (fun n => sameStair.all fun l => !l.contains n)
    && mine.all (fun t => others.all fun j => (trays j).all fun u =>
        t.1 != u.1 || !(decide (t.2 < u.2 + rget s R.SET_TRAY_BYTES j) && decide (u.2 < t.2 + size)))
    && nodes.all fun n => match nodePort s n with
        | some p => bitAt (rget s R.PEER_CAPS_CAPS p) (stairCap (get R.SET_STAIR k))
        | none => false

/-- A staged stripe set passes R262. -/
def setCheck (s : State) (get : Fld → Nat → Nat) (k : Nat) : Bool :=
  let same := setFields.all (fun f => get f k == rget s f k)
    && (upTo 32).all fun i => get R.TRAY_NODE (k * 32 + i) == rget s R.TRAY_NODE (k * 32 + i)
        && get R.TRAY_BASE (k * 32 + i) == rget s R.TRAY_BASE (k * 32 + i)
  if rbit s R.SET_VALID k then same
  else setRanges get k && (get R.SET_VALID k == 0 || setPlaces s get k)

/-- Check the entries of an array in their order against a trial copy that takes those that pass. -/
def checkObjects (a : Nat × Nat × Nat) (check : State → (Fld → Nat → Nat) → Nat → Option Nat) (take : Nat → State → State)
    (trial s : State) : State × State :=
  (objTouched a s).foldl (fun (acc : State × State) k =>
    match check acc.1 (fget acc.2) k with
    | some st => (acc.1, refuseObject a st k acc.2)
    | none => (take k (commitVals (objFrozen a k acc.2) acc.1), acc.2)) (trial, s)

/-- The stripe sets, plans and tables of the frozen copy are checked against the values after step 2. -/
def checkAll (s : State) : State :=
  let setSt (t : State) (get : Fld → Nat → Nat) (k : Nat) : Option Nat := if setCheck t get k then none else some stIllegal
  let plan (t : State) (get : Fld → Nat → Nat) (p : Nat) : Option Nat := planCheck t p fun f => get f p
  let tbl (t : State) (get : Fld → Nat → Nat) (k : Nat) : Option Nat := if tableCheck t k fun f => get f k then none else some stIllegal
  let p1 := checkObjects (0xC20000, 0x200, 64) setSt (fun _ t => t) (preview s) s
  let p2 := checkObjects (0xC40000, 0x40, 1024) plan (fun p t => planCommitted p false t) p1.1 p1.2
  (checkObjects (0xD00000, 0x40, 4096) tbl (fun k t => if rbit t R.TBL_VALID k then tableMade k t else t) p2.1 p2.2).2

/-! ## The cut-off -/

/-- The checks of R496; at the first boundary after a warm reset with a new frame the live configuration is checked with
the staged one (R463). -/
def checkStage (s : State) : State :=
  let s1 := relate s.boot.recheck (clampRanges s)
  checkAll { s1 with boot := { s1.boot with recheck := false } }

/-- The cut-off of the coming boundary. -/
def cutoffNow (s : State) : State := checkStage (freeze s)

/-- STAGE_CUTOFF (R21, R496): 2 µs before the boundary, once. -/
def execStageCutoff (s : State) : Out :=
  whenRunning (fun t => if t.clk.cutoff then t else cutoffNow (atTime (t.clk.nextB - 2000) t)) s

end Sys2Proof.Machine
end

