-- ==== Sys2Proof/Machine/SeedAccum.lean ====
section
/-! DEFINITION. Accumulate, round, filter, top-k and convert Seedcode instructions (R179 to R186). -/
namespace Sys2Proof.Machine

/-! ## Accumulate (R179 to R181) -/

/-- `ACC` and `ACCM`: lane j takes element j, or element 16 × `HALF` + j, with a multiplicity (R179, R180). -/
def accumulate (i : Insn) (x : Strand) (mult scale : Nat) : Strand :=
  let f := i.format
  let v := x.vr i.a
  let g := i.gov x
  let half := b2n (i.fnBit 0)
  let lanes := (enum' (x.ar i.d)).map fun p =>
    let e := if f.elems = 32 then 16 * half + p.1 else p.1
    if govOn f g e ∧ mult ≠ 0 then
      p.2.add (if i.fnBit 1 then mxValue f (el f v e) scale else valOf f (el f v e)) mult
    else p.2
  x.putA i.d lanes

/-- ACC (R179). -/
def execAcc (k : Nat) (s : State) : Out :=
  regInsn k (isOp 0x28) (fun i x => accumulate i x 1 ((x.sr i.b).toNat % 256)) s

/-- ACCM (R180). -/
def execAccm (k : Nat) (s : State) : Out :=
  regInsn k (isOp 0x29) (fun i x => accumulate i x ((x.sr i.b).toNat % 2 ^ 32) ((x.sr (i.imm % 16)).toNat % 256)) s

/-- CLRA (R181). -/
def execClra (k : Nat) (s : State) : Out :=
  regInsn k (isOp 0x2B) (fun i x =>
    let g := i.gov x
    x.putA i.d ((enum' (x.ar i.d)).map fun p => if g.getLsbD p.1 then Lane.init else p.2)) s

/-! ## Round (R182) -/

/-- The random word of element e of a rounding under `SR`. -/
def Insn.srWord (i : Insn) (x : Strand) (e : Nat) : Nat :=
  if i.rm = .sr then philoxWord (x.sr i.b).toNat (((x.sr (i.b + 2)).toNat + e) % 2 ^ 64) (x.sr (i.b + 1)).toNat else 0

/-- `RND` without `BLOCK`: the governed elements of vD. -/
def rndPlain (i : Insn) (x : Strand) (mean : Bool) : Strand :=
  let f := i.format
  let g := i.gov x
  let lanes := x.ar i.a
  let lane (e : Nat) : Option Nat :=
    match f.elems with
    | 8 => some (e + 8 * i.part)
    | 16 => some e
    | _ => if 16 * i.part ≤ e ∧ e < 16 * i.part + 16 then some (e - 16 * i.part) else none
  x.putV i.d ((upTo f.elems).foldl (fun v e =>
    match lane e with
    | some j => if govOn f g e then put f v e ((lanes.getD j Lane.init).round f i.rm i.sat mean (i.srWord x e)) else v
    | none => v) (x.vr i.d))

/-- `RND` with `BLOCK`: 32 lanes form a block and its scale. -/
def rndBlock (i : Insn) (x : Strand) (mean : Bool) : Strand :=
  let f := i.format
  let vals := (x.ar i.a ++ x.ar (i.a + 1)).map (·.val mean)
  let (sc, es) := mxBlock f i.rm vals ((upTo 32).map (i.srWord x))
  (x.putV i.d (vecOf f es)).putSN (i.imm / 256 % 16) sc

/-- RND (R182). -/
def execRnd (k : Nat) (s : State) : Out :=
  regInsn k (isOp 0x2A) (fun i x =>
    let block := bitAt i.imm 4
    let mean := bitAt i.imm 5
    let y := if block then rndBlock i x mean else rndPlain i x mean
    if bitAt i.imm 3 then
      let lo := (x.ar i.a).map (·.reported mean)
      let bad := if block then (lo.zip ((x.ar (i.a + 1)).map (·.reported mean))).map fun p => p.1 || p.2 else lo
      y.putP (i.imm % 8) (laneReport bad)
    else y) s

/-! ## Filter and top-k (R183, R184) -/

/-- PACK (R183). -/
def execPack (k : Nat) (s : State) : Out :=
  regInsn k (isOp 0x30) (fun i x =>
    let g := i.gov x
    let kept := ((upTo 16).filter fun j => g.getLsbD j).map fun j => laneOf (x.vr i.a) j
    (x.putV i.d (vecOf .int32 kept)).putSN (i.imm % 16) kept.length) s

/-- UNPK (R183). -/
def execUnpk (k : Nat) (s : State) : Out :=
  regInsn k (isOp 0x31) (fun i x =>
    let g := i.gov x
    let marked := (upTo 16).filter fun j => g.getLsbD j
    let v := (enum' marked).foldl (fun v p => setLane v p.2 (laneOf (x.vr i.a) p.1)) (x.vr i.d)
    (x.putV i.d v).putSN (i.imm % 16) marked.length) s

/-- The place of a key among keys: numbers in their order, −0 below +0; none for NaN. -/
def topkKey (f : Fmt) (bits : Nat) : Option Int :=
  match f with
  | .int32 => some (signed 32 bits)
  | _ =>
    if valOf .fp32 bits = .nan then none
    else
      let m : Int := bits % 2 ^ 31
      some (if bits.testBit 31 then -1 - m else m)

/-- A pair, its NaN key written as the NaN of R118, with its rank: the smallest rank is best. -/
def topkRank (f : Fmt) (small : Bool) (p : Nat × Nat) : Nat × Nat × Nat :=
  match topkKey f p.1 with
  | none => (2 ^ 80 + p.2, Fmt.nanBits .fp32, p.2)
  | some v => (((2 ^ 33 : Int) + (if small then v else -v)).toNat * 2 ^ 32 + p.2, p.1, p.2)

/-- TOPK: the best 16 pairs of the list and the pairs offered (R184). -/
def execTopk (k : Nat) (s : State) : Out :=
  regInsn k (isOp 0x32) (fun i x =>
    let f := i.format
    let g := i.gov x
    let held := (upTo 16).map fun j => (laneOf (x.vr i.d) j, laneOf (x.vr (i.d + 1)) j)
    let offered := ((upTo 16).filter fun j => g.getLsbD j).map fun j => (laneOf (x.vr i.a) j, laneOf (x.vr i.b) j)
    let best := (sortBy (·.1) ((held ++ offered).map (topkRank f (i.fnBit 0)))).take 16
    (x.putV i.d (vecOf .int32 (best.map (·.2.1)))).putV (i.d + 1) (vecOf .int32 (best.map (·.2.2)))) s

/-! ## Convert and expand (R185, R186) -/

/-- The source format of a conversion. -/
def Insn.sfmt (i : Insn) : Fmt := (Fmt.ofCode (i.imm % 16)).getD .fp64

/-- CVT (R185). -/
def execCvt (k : Nat) (s : State) : Out :=
  regInsn k (isOp 0x38) (fun i x =>
    let f := i.format
    let src := i.sfmt
    if bitAt i.imm 4 then
      let of_ (v : Vec) := (upTo src.elems).map fun e => valOf src (el src v e)
      let vals := if src.elems = 32 then of_ (x.vr i.a) else of_ (x.vr i.a) ++ of_ (x.vr (i.a + 1))
      let (sc, es) := mxBlock f i.rm vals (List.replicate 32 0)
      (x.putV i.d (vecOf f es)).putSN (i.imm / 256 % 16) sc
    else cvtWise i x src (convert src f i.rm i.sat)) s

/-- XPND (R186). -/
def execXpnd (k : Nat) (s : State) : Out :=
  regInsn k (isOp 0x39) (fun i x =>
    let f := i.format
    let src := i.sfmt
    if bitAt i.imm 4 then
      let sc := (x.sr (i.imm / 256 % 16)).toNat % 256
      cvtWise i x src (fun b => convertVal f .rne false (mxValue src b sc))
    else cvtWise i x src (convert src f .rne false)) s

end Sys2Proof.Machine
end

