-- ==== Sys2Proof/Machine/Gather.lean ====
section
/-! DEFINITION. Gather batches, and filtering with top-k (R237 to R245, R253). -/
namespace Sys2Proof.Machine

/-! ## The answer of a batch (R241) -/

/-- The 96-byte payload of a `COMPLETION`. -/
def batchPayload (bytes fetches spills special first nbad ver : Nat) (bad : List Nat) : List Byte :=
  recBytes 96 ([(32, bytes), (32, fetches), (32, spills), (32, min special noSlot), (32, first), (32, min nbad noSlot), (64, ver)]
    ++ (upTo 16).map fun i => (32, bad.getD i noSlot))

/-- Change a batch. -/
def setBatch (b : Nat) (y : Batch) (s : State) : State := { s with tbl := { s.tbl with batches := tset s.tbl.batches b y } }

/-- A share leaves its gallery. The cycles that the pooling program issued are its implementation's: a free value counts them
(R40, log 169). -/
def leaveGallery (b g : Nat) (s : State) : State :=
  match tget s.tbl.batches b with
  | some y =>
    if (galOf s g).batches.contains b then
      let (v, s1) := fresh s
      setGal g { galOf s1 g with batches := (galOf s1 g).batches.filter (· != b) } (meter y.part 3 v s1)
    else s
  | none => s

/-- A batch is over: its shares leave their galleries and queues. -/
def dropBatch (b : Nat) (s : State) : State :=
  let mine (r : LaunchRec) : Bool := r.by_ == .pool b
  let gone := s.seed.held.filter mine
  let s1 := each gone (fun r t => releasePart r.part 1 t) { s with seed := { s.seed with held := s.seed.held.filter fun r => !mine r } }
  let s2 := each (upTo 32) (fun g t =>
    let x := galOf t g
    leaveGallery b g (if x.queue.any mine then setGal g { x with queue := x.queue.filter fun r => !mine r } t else t)) s1
  placeHeld { s2 with tbl := { s2.tbl with batches := tdel s2.tbl.batches b } }

/-- A request for an image ends with an error: the `COMPLETION` alone, `AUX` in the fault record. -/
def imageFail (n status fetches spills nbad ver aux : Nat) (bad : List Nat) (s : State) : State :=
  closeTrackAux n status (batchPayload 0 fetches spills 0 noSlot nbad ver bad) (if status = stNoAnswer then 3 else 1) aux s

/-- A batch in flight ends with an error; with `NO_ANSWER` also where the pooling instance of a share faults with `UNIT_ERROR`
(R245). -/
def batchFail (b status : Nat) (s : State) : State :=
  match tget s.tbl.batches b with
  | none => s
  | some y => imageFail b status y.fetches y.spills 0 y.ver 0 [] (dropBatch b s)

/-- A table request for an image ends before it is accepted: it has no batch version, so that of its payload is free
(assumption log 158). -/
def imageRefuse (n : Nat) (tracked : Bool) (f : Frame) (status : Nat) (s : State) : State :=
  if tracked then imageFail n status 0 0 0 ((fresh s).1 % 2 ^ 64) 0 [] (fresh s).2 else refuse n tracked f status 1 s

/-- Bytes of a `LOAD_DATA` frame for the source of a request: 4,096, or fewer where its endpoint takes no more, an envelope's
bytes included (R241, R411, R522). An endpoint that takes no payload at all is sent pieces of 4,096 (DESIGN CHOICE: the manual
gives no size to cut at, log 167). -/
def imagePiece (s : State) (f : Frame) : Nat :=
  match payloadBound s f.src with
  | some b => if b ≤ sealBytes f.jobKey then 4096 else min 4096 (b - sealBytes f.jobKey)
  | none => 4096

/-- Send an image in `LOAD_DATA` frames, and its `COMPLETION`. -/
def sendImage (n : Nat) (f : Frame) (image : List Byte) (payload : List Byte) (s : State) : State :=
  let k := imagePiece s f
  let one (p : Nat × List Byte) (t : State) : State :=
    let a := { mkFrame 2 0x90 f.src f.dst f.pkey f.tag 0 (k * p.1) p.2.length p.2 with g := f.g, jobKey := f.jobKey }
    sendRaw 128 (keyPart t f.pkey) (Leave.answer f a.status) a t
  closeTrack n stOK payload 1 (each (enum' (chunksOf k image.length image)) one s)

/-! ## GATHER_BATCH (R236 to R239, R242) -/

/-- The header fields of R237 lie in their ranges. -/
def batchForm (p : List Byte) : Bool :=
  let fl := leAt p 2 1
  let nbags := leAt p 12 4
  let nidx := leAt p 8 4
  decide (leAt p 0 2 < 4096) && decide (fl % 4 < 3) && decide (fl < 16) && decide (leAt p 3 1 ≤ 9)
    && decide (leAt p 4 1 < 16) && decide (leAt p 4 1 % 8 < 6) && decide (leAt p 5 1 ≤ 8) && leAt p 6 2 == 0
    && decide (1 ≤ nidx) && decide (nidx ≤ 16777216) && (if fl % 4 = 0 then nbags == 0 else decide (1 ≤ nbags) && decide (nbags ≤ 65536))
    && leAt p 56 8 == 0

/-- Bag starts ascend from 0 and none exceeds `NIDX` (R238). -/
def startsOk (nidx : Nat) (starts : List Nat) : Bool :=
  (starts.isEmpty || starts.head? == some 0) && starts.all (fun x => decide (x ≤ nidx))
    && (starts.zip (starts.drop 1)).all fun p => decide (p.1 ≤ p.2)

/-- Numbers of 4 bytes each. -/
def words4 (b : List Byte) (at_ n : Nat) : List Nat := (upTo n).map fun i => leAt b (at_ + 4 * i) 4

/-- Result bytes of a batch. -/
def imageBytes (rows elems ofmt : Nat) : Nat := rows * elems * ((Fmt.ofCode ofmt).getD .fp64).width / 8

/-- The limits of R238 hold. -/
def batchLimits (g : Geo) (p : List Byte) : Bool :=
  let pool := leAt p 2 1 % 4
  let n := leAt p 12 4 * g.elems
  decide (imageBytes (if pool = 0 then leAt p 8 4 else leAt p 12 4) g.elems (leAt p 3 1) ≤ 2 ^ 26)
    && (pool == 0 || (decide (n ≤ 524288) && (leAt p 5 1 == 0 || decide (n ≤ 65536 * leAt p 5 1))))

/-- The status with which an `INDIRECT` array fails its access check: it lies in this switch's window, under one access window of
the partition, and passes the checks of any access there (R237, R238, R299). -/
def arrayStatus (s : State) (pkey part a len : Nat) : Option Nat :=
  if addrNode a ≠ nodeSelf s ∨ !windowCovers s part 0 (nodeSelf s) (addrOff a) len then some stDenied
  else match poolCheck s .load pkey (addrOff a) len 0 with
    | .error st => some (if st = stRevoked then stRevoked else stDenied)
    | .ok _ => none

/-- The status with which a batch to a table ends before it is accepted (R41, R238, R245). -/
def batchStatus (s : State) (f : Frame) (t : Nat) : Option Nat :=
  let p := f.payload
  let g := geoOf s t
  let ind := bitAt (leAt p 2 1) 2
  let nidx := leAt p 8 4
  let nbags := leAt p 12 4
  let ver := leAt p 16 8
  if p.length < 64 ∨ !batchForm p ∨ p.length ≠ (if ind then 64 else 64 + 4 * (nbags + nidx)) then some stIllegal
  else if !ind ∧ !startsOk nidx (words4 p 64 nbags) then some stIllegal
  else if leAt p 2 1 % 4 ≠ 0 ∧ g.fmt = 0 then some stIllegal
  else if ver ≠ 0 ∧ !(pinned (tblOf s t)).contains ver then some stIllegal
  else if !batchLimits g p then some stIllegal
  else if !regionLive s t then some stRevoked
  else if !ind then none
  else
    let part := rget s R.TBL_PART t
    let ia := leAt p 40 8
    let ba := leAt p 48 8
    if bitAt ia 63 ∨ bitAt ba 63 then some stIllegal
    else match arrayStatus s f.pkey part ia (4 * nidx) with
      | some st => some st
      | none => if nbags = 0 then none else arrayStatus s f.pkey part ba (4 * nbags)

/-- The gallery for a share: the best that no share of the batch has been given, else the best (R242). -/
def shareGallery (s : State) (part : Nat) (wing : Option Nat) (used : List Nat) : Option Nat :=
  let cands := (upTo 32).filter fun g => galAllowed s part 1 g && decide ((galOf s g).queue.length < 256)
  let free := cands.filter fun g => !used.contains g
  match (if free.isEmpty then cands else free) with
  | [] => none
  | c :: t => some (t.foldl (fun b g => if galBetter s wing g b then g else b) c)

/-- The launch that a share of a batch is queued as. -/
def shareLaunch (b j part : Nat) (f : Frame) (base : Nat) : LaunchRec where
  by_ := .pool b
  slot := j
  part := part
  pkey := f.pkey
  src := f.src
  dst := f.dst
  tag := f.tag
  gallery := 0xFF
  fixed := false
  early := false
  args := [BitVec.ofNat 64 base]
  deadline := none
  port := 0xFF

/-- Queue the shares of a batch. -/
def placeShares (b part wantG : Nat) (f : Frame) (base : Nat) (s : State) : State :=
  ((upTo wantG).foldl (fun (acc : List Nat × State) j =>
    let r := shareLaunch b j part f base
    match shareGallery acc.2 part (dataWing acc.2 base) acc.1 with
    | some g => (acc.1 ++ [g], joinQueue g { r with gallery := g } acc.2)
    | none => (acc.1, placeLaunch r acc.2)) ([], s)).2

/-- Galleries of a batch (R242): as many as it asks for, or the fewest that meet R238. -/
def batchGalleries (g : Geo) (p : List Byte) : Nat :=
  if leAt p 5 1 ≠ 0 then leAt p 5 1
  else if leAt p 2 1 % 4 = 0 then 1
  else max 1 (ceilDiv (leAt p 12 4 * g.elems) 65536)

/-- A batch is accepted: version, arrays, shares (R239, R242). -/
def batchAccept (n : Nat) (f : Frame) (t : Nat) (s : State) : State :=
  let p := f.payload
  let g := geoOf s t
  let ind := bitAt (leAt p 2 1) 2
  let nidx := leAt p 8 4
  let nbags := leAt p 12 4
  let e := tget s.track.reqs n
  let at_ := match e with | some x => x.accepted | none => s.clk.now
  let k := batchGalleries g p
  let y : Batch :=
    { dir := dirOf s t, frame := f, port := match e with | some x => x.port | none => 0xFF, part := rget s R.TBL_PART t, table := t, geo := g
      ver := if leAt p 16 8 = 0 then liveVer s t else leAt p 16 8
      pool := leAt p 2 1 % 4, emptyZero := bitAt (leAt p 2 1) 3, ofmt := leAt p 3 1, rm := leAt p 4 1 % 8, sat := bitAt (leAt p 4 1) 3
      seed := leAt p 24 8, srEpoch := leAt p 32 8, nidx := nidx, nbags := nbags
      starts := if ind then [] else words4 p 64 nbags, indices := if ind then [] else words4 p (64 + 4 * nbags) nidx
      fetching := false, shares := List.replicate k ⟨0xFF, false, [], 0, false⟩, fetch := [], rowSlots := [], acc := [], rows := []
      fetches := 0, spills := 0, deadline := at_ + 1000 * rget s R.XACT_CFG_REMOTE_TIMEOUT_US 0 - 5000 }
  let arr (kind a len : Nat) (acc : Tab BFetch × State) : Tab BFetch × State :=
    if len = 0 then acc
    else
      let (id, u) := engineRow .load (.batch n) f.pkey (addrOff a) len [] none acc.2
      (tset acc.1 id ⟨kind, 0, 0, none⟩, u)
  let (fetch, s1) := if ind then arr 1 (leAt p 40 8) (4 * nidx) (arr 0 (leAt p 48 8) (4 * nbags) ([], s)) else ([], s)
  poolPass (placeShares n y.part k f (addrOf (nodeSelf s) g.slotBase) (setBatch n { y with fetch := fetch } s1))
where
  /-- The fabric address of an offset at a node. -/
  addrOf (node off : Nat) : Nat := node * 2 ^ 48 + off

/-- A batch beyond the 1,024 that the switch holds waits in the Hall buffer, on its partition's landing (R238). -/
def waitBatch (id : Nat) (s : State) : State :=
  match tget s.hall.inbox id with
  | some i => if i.frame.opc = 0x20 ∧ i.host.isNone ∧ i.frame.dst = nodeSelf s then landInbox id s else s
  | none => s

/-- GATHER_BATCH: checked, given its version, split into shares. Beyond 1,024 batches it waits in the Hall buffer (R238). -/
def execGatherBatch (id : Nat) (s : State) : Out :=
  if 1024 ≤ s.tbl.batches.length then whenRunning (waitBatch id) s
  else serveTable id 0x20 imageRefuse (fun n f tb t =>
    match batchStatus t f tb with
    | some st => imageRefuse n true f st t
    | none => batchAccept n f tb t) s

/-! ## Directory reads and rounds (R243, R244) -/

/-- Positions of a share: first, and first beyond (R242). -/
def sharePositions (y : Batch) (j : Nat) : Nat × Nat :=
  let k := y.shares.length
  if y.pool = 0 then (j * y.nidx / k, (j + 1) * y.nidx / k)
  else
    let at_ (b : Nat) : Nat := if b < y.nbags then y.starts.getD b 0 else y.nidx
    (at_ (j * y.nbags / k), at_ ((j + 1) * y.nbags / k))

/-- The bag of a position: the last one that starts at or before it. -/
def bagOf (starts : List Nat) (p : Nat) : Nat := (starts.filter fun x => decide (x ≤ p)).length - 1

/-- What the scan of a round has entered. -/
structure Scan where
  done : List (Nat × Nat)
  lo : Nat
  rows : Tab Unit
  pairs : Tab Unit

/-- Scan one position: it closes the round where a table would not hold it (R243). -/
def scanStep (y : Batch) (a : Scan) (p : Nat) : Scan :=
  let r := y.indices.getD p 0
  let key := r * 2 ^ 32 + (if y.pool = 0 then p else bagOf y.starts p)
  let full := (!thas a.rows r && decide (65536 ≤ a.rows.length)) || (!thas a.pairs key && decide (262144 ≤ a.pairs.length))
  if full then ⟨a.done ++ [(a.lo, p)], p, [(r, ())], [(key, ())]⟩
  else { a with rows := tset a.rows r (), pairs := tset a.pairs key () }

/-- The rounds of a share: none where it has no position. -/
def shareRounds (y : Batch) (j : Nat) : List (Nat × Nat) :=
  let (lo, hi) := sharePositions y j
  if hi ≤ lo then []
  else
    let a := (upTo (hi - lo)).foldl (fun a i => scanStep y a (lo + i)) ⟨[], lo, [], []⟩
    a.done ++ [(a.lo, hi)]

/-- The distinct rows named by some positions. -/
def rowsNamed (y : Batch) (lo hi : Nat) : List Nat :=
  (((y.indices.drop lo).take (hi - lo)).foldl (fun (t : Tab Unit) r => tset t r ()) []).map (·.1)

/-- Issue the row fetches of the round of a share that is in progress. -/
def issueRound (b j : Nat) (s : State) : State :=
  match tget s.tbl.batches b with
  | none => s
  | some y =>
    match (y.shares[j]?).bind fun x => x.rounds.head?.map fun r => (x.gallery, r) with
    | none => s
    | some (gal, (lo, hi)) =>
      let rows := rowsNamed y lo hi
      let (fetch, s1) := rows.foldl (fun (acc : Tab BFetch × State) r =>
        let (id, u) := engineRow .load (.batch b) y.frame.pkey (y.geo.slotAt (tgetD y.rowSlots r 0)) y.geo.rb [] (some (gal / 8)) acc.2
        (tset acc.1 id ⟨2, j, r, none⟩, u)) (y.fetch, s)
      radd R.TBL_FETCH_FETCHES y.table rows.length (setBatch b { y with fetch := fetch, fetches := y.fetches + rows.length } s1)

/-- A share that has been dispatched begins its first round, or leaves its gallery where it has none. -/
def issueShare (b j : Nat) (s : State) : State :=
  match tget s.tbl.batches b with
  | none => s
  | some y =>
    match y.shares[j]? with
    | none => s
    | some x =>
      if !x.started ∨ x.issued then s
      else
        let s1 := setBatch b { y with shares := y.shares.set j { x with issued := true } } s
        if x.rounds.isEmpty then leaveGallery b x.gallery s1 else issueRound b j s1

/-- Every share that can begin does. -/
def issueShares (b : Nat) (s : State) : State :=
  match tget s.tbl.batches b with
  | none => s
  | some y => each (upTo y.shares.length) (issueShare b) s

/-- Share j waits in the queue of a gallery that another share of its batch holds: that gallery scans its positions too
(log 170). -/
def waitsOwn (s : State) (b j : Nat) : Bool :=
  (upTo 32).any fun g => (galOf s g).batches.contains b && (galOf s g).queue.any fun r => r.by_ == .pool b && r.slot == j

/-- The arrays of an `INDIRECT` batch, once read; none while one is missing. -/
def batchArrays (y : Batch) : Option (Except Nat (List Nat × List Nat)) :=
  if y.fetch.isEmpty then some (.ok (y.starts, y.indices))
  else if y.fetch.any fun f => f.2.ans.isNone then none
  else
    let ans (k : Nat) : Nat × List Byte := match y.fetch.find? fun f => f.2.kind == k with | some (_, f) => f.ans.getD (0, []) | none => (stOK, [])
    let a := ans 0
    let c := ans 1
    if a.1 ≠ stOK then some (.error a.1)
    else if c.1 ≠ stOK then some (.error c.1)
    else some (.ok (words4 a.2 0 y.nbags, words4 c.2 0 y.nidx))

/-- The directory results of a batch: it ends with its offending positions, or its first rounds begin. -/
def batchDirectory (b : Nat) (y : Batch) (s : State) : State :=
  let rows := rowsNamed y 0 y.nidx
  let inRange := rows.filter fun r => decide (r < y.geo.nrows)
  let found := inRange.map fun r => (r, y.dir.slot s y.ver r)
  let absent := (found.filter fun p => p.2.isNone).map (·.1)
  let isOut (r : Nat) : Bool := decide (y.geo.nrows ≤ r)
  let bad := ((enum' y.indices).filter fun p => isOut p.2 || absent.contains p.2).map (·.1)
  if !startsOk y.nidx y.starts then batchFail b stIllegal s
  else if !areaLive s y.geo.slotBase (y.dir.nslots * y.geo.sb) then batchFail b stRevoked s
  else if y.dir.bad s y.ver inRange then batchFail b stTierError s
  else if !bad.isEmpty then
    let st := if y.indices.any isOut then stIndex else stAbsent
    let (n, s1) := gatherDetail y.part y.table st bad.length y.ver bad (dropBatch b s)
    imageFail b st 0 0 bad.length y.ver (n % 2 ^ 32) bad s1
  else
    let shares := (enum' y.shares).map fun p => { p.2 with rounds := shareRounds y p.1 }
    let slots := found.foldl (fun (t : Tab Nat) p => tset t p.1 (p.2.getD 0)) []
    poolPass (issueShares b (setBatch b { y with fetching := true, shares := shares, rowSlots := slots, fetch := [] } s))

/-- GATHER_DIRECTORY_DONE: the indices are scanned and the directory is read on every gallery of the batch (R244). A share that
is dispatched later begins then. -/
def execGatherDirectoryDone (b : Nat) (s : State) : Out :=
  whenRunning (fun t0 =>
    let t := poolPass t0
    match tget t.tbl.batches b with
    | none => t
    | some y =>
      if y.fetching then poolPass (issueShares b t)
      else if (enum' y.shares).any fun p => !p.2.started && !waitsOwn t b p.1 then t
      else match batchArrays y with
        | none => t
        | some (.error st) => batchFail b st t
        | some (.ok (starts, indices)) => batchDirectory b { y with starts := starts, indices := indices } t) s

/-! ## Rows (R243) -/

/-- Add a row to its bags, each with its multiplicity, or keep it for its positions. -/
def foldRow (y : Batch) (lo hi row : Nat) (bytes : List Byte) : Batch :=
  let mine := ((upTo (hi - lo)).map (lo + ·)).filter fun p => y.indices.getD p 0 == row
  if y.pool = 0 then { y with rows := mine.foldl (fun t p => tset t p bytes) y.rows }
  else
    let vals := y.geo.values bytes
    let bags := mine.map (bagOf y.starts)
    let add (t : Tab (List Lane)) (b : Nat) : Tab (List Lane) :=
      let k := (bags.filter (· == b)).length
      tset t b (((tgetD t b (List.replicate y.geo.elems Lane.init)).zip vals).map fun q => q.1.add q.2 k)
    { y with acc := (dedup' bags).foldl add y.acc }

/-- A share's round has ended: the next one begins, or the share is done and gives its gallery back. -/
def endRound (b j : Nat) (y : Batch) (s : State) : State :=
  let rest := ((y.shares[j]?).map fun x => x.rounds.drop 1).getD []
  let y1 := { y with shares := (enum' y.shares).map fun p => if p.1 = j then { p.2 with rounds := rest } else p.2 }
  if rest.isEmpty then placeHeld (leaveGallery b ((y.shares[j]?).map (·.gallery) |>.getD 0xFF) (setBatch b y1 s))
  else poolPass (issueRound b j (radd R.TBL_SPILL_SPILL_ROUNDS y.table 1 (setBatch b { y1 with spills := y.spills + 1 } s)))

/-- GATHER_ROW_FETCH: a row of a share has arrived (R243, R245). -/
def execGatherRowFetch (b share row : Nat) (s : State) : Out :=
  whenRunning (fun t0 =>
    let t := poolPass t0
    match tget t.tbl.batches b with
    | none => t
    | some y =>
      match tfind y.fetch (fun _ f => f.kind == 2 && f.share == share && f.row == row && f.ans.isSome) with
      | none => t
      | some (id, f) =>
        let (st, bytes) := f.ans.getD (stOK, [])
        if st ≠ stOK then batchFail b st t
        else
          let (lo, hi) := ((y.shares[share]?).bind fun x => x.rounds.head?).getD (0, 0)
          let y1 := foldRow { y with fetch := tdel y.fetch id } lo hi row bytes
          if y1.fetch.any fun g => g.2.share == share then setBatch b y1 t else endRound b share y1 t) s

/-! ## The image (R240, R241) -/

/-- Bits of the elements of the image, and whether each is a special lane. -/
def batchImage (y : Batch) : List (Nat × Bool) :=
  let of_ := (Fmt.ofCode y.ofmt).getD .fp64
  let rm := (RMode.ofCode y.rm).getD .rne
  let word (i : Nat) : Nat := if rm = .sr then philoxWord y.seed (i % 2 ^ 64) y.srEpoch else 0
  if y.pool = 0 then
    ((upTo y.nidx).map fun p =>
      let bytes := tgetD y.rows p []
      if y.ofmt = y.geo.fmt ∧ !y.geo.mx then
        (unpackRow y.geo.format.width y.geo.elems bytes).map fun v => (v, false)
      else (enum' (y.geo.values bytes)).map fun q => (convertWith of_ rm y.sat (word (p * y.geo.elems + q.1)) q.2, false)).foldl (· ++ ·) []
  else
    let mean := y.pool == 2
    ((upTo y.nbags).map fun b =>
      match tget y.acc b with
      | some ls => (enum' ls).map fun q => (q.2.round of_ rm y.sat mean (word (b * y.geo.elems + q.1)), q.2.reported mean)
      | none =>
        if !mean || y.emptyZero then List.replicate y.geo.elems (0, false)
        else List.replicate y.geo.elems (Lane.init.round of_ rm y.sat true 0, true)).foldl (· ++ ·) []

/-- GATHER_BATCH_END: every share is done; the image and its `COMPLETION` are sent (R240, R241). -/
def execGatherBatchEnd (b : Nat) (s : State) : Out :=
  whenRunning (fun t =>
    match tget t.tbl.batches b with
    | none => t
    | some y =>
      if !y.fetching ∨ !y.fetch.isEmpty ∨ y.shares.any (fun x => !x.rounds.isEmpty) then t
      else
        let im := batchImage y
        let bytes := packRow ((Fmt.ofCode y.ofmt).getD .fp64).width (im.map (·.1))
        let special := (enum' im).filter fun p => p.2.2
        let first := match special with | p :: _ => p.1 | [] => noSlot
        sendImage b y.frame bytes (batchPayload bytes.length y.fetches y.spills special.length first 0 y.ver []) (dropBatch b t)) s

/-- GATHER_BATCH_DEADLINE: a batch in flight, or one that still waits to be accepted, ends `NO_ANSWER` (R245). -/
def execGatherBatchDeadline (b : Nat) (s : State) : Out :=
  whenRunning (fun t =>
    match tget t.tbl.batches b with
    | some y => batchFail b stNoAnswer (atTime y.deadline t)
    | none =>
      match tget t.hall.inbox b with
      | some i =>
        if i.frame.opc = 0x20 ∧ i.host.isNone ∧ i.frame.dst = nodeSelf t ∧ fromEdge t i ∧ 1024 ≤ t.tbl.batches.length then
          let (n, tracked, t1) := mayEnter b i t
          imageRefuse n tracked i.frame stNoAnswer (atTime (i.arrived + 1000 * rget t R.XACT_CFG_REMOTE_TIMEOUT_US 0 - 5000) t1)
        else t
      | none => t) s

/-! ## FILTER_TOPK (R253) -/

/-- The header fields of R253 lie in their ranges. -/
def filterForm (s : State) (g : Geo) (t : Nat) (p : List Byte) : Bool :=
  let lo := leAt p 12 4
  let hi := leAt p 16 4
  let ver := leAt p 20 8
  p.length == 64 && decide (leAt p 2 2 < g.elems) && decide (leAt p 4 1 < 32) && decide (leAt p 4 1 % 8 ≤ 5)
    && decide (1 ≤ leAt p 5 1) && decide (leAt p 5 1 ≤ 16) && leAt p 6 2 == 0 && decide (lo ≤ hi) && decide (hi < g.nrows)
    && decide (hi - lo < 2 ^ 24) && (slice p 28 36).all (· == 0#8) && g.fmt != 0
    && (ver == 0 || (pinned (tblOf s t)).contains ver)

/-- The key of a row as 32 bits: INT32 for the integer formats, FP32 for the others (R253). -/
def filterKey (g : Geo) (elem : Nat) (row : List Byte) : Nat :=
  let v := bitsOf (leNat (row.take g.elemBytes)) (elem * g.format.width) g.format.width
  if g.format.isInt then unsigned 32 (signed g.format.width v)
  else match (if g.mx then mxValue g.format v (leAt row (g.elemBytes + elem / 32) 1) else valOf g.format v) with
    | .fin neg q => if q.n = 0 ∧ neg then 2 ^ 31 else roundTo .fp32 .rne false 0 q   -- the conversion is exact: −0 stays −0
    | w => roundVal .fp32 .rne false 0 w

/-- The image of a scan: its pairs, ranked best first, and the number of rows read and of rows that pass. -/
def filterScan (s : State) (g : Geo) (t ver : Nat) (p : List Byte) : List (Nat × Nat × Nat) × Nat × Nat :=
  let kf : Fmt := if g.format.isInt then .int32 else .fp32
  let lo := leAt p 12 4
  let found := (upTo (leAt p 16 4 - lo + 1)).filterMap fun i => (rowSlot s t ver (lo + i)).map fun n => (lo + i, n)
  let keyed := found.map fun q => (filterKey g (leAt p 2 2) (mread s.pool.mem (g.slotAt q.2) g.rb), q.1)
  let passing := keyed.filter fun q => cmpTest (leAt p 4 1 % 8) (fCmp (valOf kf q.1) (valOf kf (leAt p 8 4)))
  let best := (sortBy (·.1) (passing.map (topkRank kf (bitAt (leAt p 4 1) 3)))).take (leAt p 5 1)
  (best, found.length, passing.length)

/-- The slots that a scan reads, by offset. -/
def scanSlots (s : State) (tb ver : Nat) (p : List Byte) : List Nat :=
  let lo := leAt p 12 4
  (upTo (leAt p 16 4 - lo + 1)).filterMap fun i => (rowSlot s tb ver (lo + i)).map fun n => (geoOf s tb).slotAt n

/-- The version that a scan reads at (R239). -/
def scanVer (s : State) (tb : Nat) (p : List Byte) : Nat := if leAt p 20 8 = 0 then liveVer s tb else leAt p 20 8

/-- The first row of a scan that waits in the inbox whose bytes may not be read yet: an endpoint holds a line of it in `M`, or
a transaction of its lines is in progress (R331, R333). -/
def scanWaits (s : State) (id : Nat) : Option Nat :=
  match tget s.hall.inbox id with
  | none => none
  | some i =>
    let tb := leAt i.frame.payload 0 2
    let p := i.frame.payload
    if i.frame.opc = 0x24 ∧ isHead s id i ∧ fromEdge s i ∧ i.frame.dst = nodeSelf s ∧ tblStatus s tb i.frame = none
        ∧ filterForm s (geoOf s tb) tb p then
      (scanSlots s tb (scanVer s tb p) p).find? fun a => !linesQuiet s a (geoOf s tb).rb false
    else none

/-- FILTER_TOPK (R253). The scan reads the rows as they stand at its version in one step (log 52), once all may be read. -/
def execFilterTopk (id : Nat) (s : State) : Out :=
  match scanWaits s id with
  | some a => whenRunning (fun t => askLines a (geoOf t (leAt ((tget t.hall.inbox id).map (·.frame.payload) |>.getD []) 0 2)).rb false t) s
  | none =>
  serveTable id 0x24 imageRefuse (fun n f tb t0 =>
    let p := f.payload
    let g := geoOf t0 tb
    if !filterForm t0 g tb p then imageRefuse n true f stIllegal t0
    else if !regionLive t0 tb then imageRefuse n true f stRevoked t0
    else
      let ver := scanVer t0 tb p
      let rows := (upTo (leAt p 16 4 - leAt p 12 4 + 1)).map (leAt p 12 4 + ·)
      let slots := scanSlots t0 tb ver p
      let t := each slots (fun a => heatAt none a g.rb) t0
      if dirBad t tb ver rows then imageFail n stTierError 0 0 0 ver 0 [] t
      else if slots.any fun a => (linesOf a g.rb).any (isStale t) then imageFail n stStaleLine 0 0 0 ver 0 [] t
      else
        let (best, found, passing) := filterScan t g tb ver p
        let k := leAt p 5 1
        let small := bitAt (leAt p 4 1) 3
        let initKey := if small then 0x7F800000 else 0xFF800000
        let pairs := best.map (·.2) ++ List.replicate (k - best.length) (initKey, noSlot)
        let row (q : Nat × Nat) : List Byte :=
          match (if q.2 = noSlot then none else rowSlot t tb ver q.2) with
          | some m => mread t.pool.mem (g.slotAt m) g.rb
          | none => List.replicate g.rb 0#8
        let keys := (pairs.map fun q => toLE 4 q.1).foldl (· ++ ·) []
        let ids := (pairs.map fun q => toLE 4 q.2).foldl (· ++ ·) []
        let rowBytes := if bitAt (leAt p 4 1) 4 then (pairs.map row).foldl (· ++ ·) [] else []
        let image := keys ++ ids ++ rowBytes
        sendImage n f image (batchPayload image.length found 0 0 noSlot passing ver []) (radd R.TBL_FETCH_FETCHES tb found t)) s

end Sys2Proof.Machine
end

