-- ==== Sys2Proof/Machine/Leases.lean ====
section
/-! DEFINITION. Holder leases: renewal, expiry, and what the fence of an extent ends (R245, R286, R306 to R308). -/
namespace Sys2Proof.Machine

/-! ## What a fence ends (R245, R286, R306) -/

/-- An extent and some bytes of the pool window meet. -/
def Extent.meets (x : Extent) (off len : Nat) : Bool :=
  decide (0 < len) && decide (off < (x.baseG + x.lenG) * 2 ^ 20) && decide (x.baseG * 2 ^ 20 < off + len)

/-- Some bytes lie in an extent that is fencing. -/
def inFenced (s : State) (off len : Nat) : Bool := s.pool.extents.any fun e => e.2.state != 0 && e.2.state != 1 && e.2.meets off len

/-- The slot region or an `INDIRECT` array of a batch lies in an extent that is fencing. -/
def batchFenced (s : State) (y : Batch) : Bool :=
  let p := y.frame.payload
  inFenced s y.geo.slotBase (y.dir.nslots * y.geo.sb)
    || (bitAt (leAt p 2 1) 2 && (inFenced s (addrOff (leAt p 40 8)) (4 * y.nidx) || inFenced s (addrOff (leAt p 48 8)) (4 * y.nbags)))

/-- A run of a stream plan still copies from an extent that is fencing. -/
def planFenced (s : State) (p : Nat) (y : Plan) : Bool :=
  (planState s p == 1 || planState s p == 3) && decide (y.bytes.length < y.cfg.srcLen) && y.failed.isNone
    && inFenced s y.cfg.srcOff y.cfg.srcLen

/-- Every write of a table that has not flipped ends (R251). -/
def endWrites (t : Nat) (s : State) : State := each (tblOf s t).writes (fun _ => endWrite t stRevoked [] 0) s

/-- When extents begin fencing, the writes and batches in flight that use one end, and the runs that copy from one fail. -/
def fenceEnds (s : State) : State :=
  let fenced (t : Nat) : Bool := let r := slotRegion fun f => rget s f t; inFenced s r.1 (r.2 - r.1)
  let s0 := each ((s.tbl.run.map (·.1)).filter fenced) endWrites s
  let s1 := each ((s0.tbl.batches.filter fun b => batchFenced s0 b.2).map (·.1)) (fun b => batchFail b stRevoked) s0
  each (s1.ws.plans.map (·.1)) (fun p t => match tget t.ws.plans p with
    | some y => if planFenced t p y then planGo p (setPlan p { y with failed := some stRevoked } t) else t
    | none => t) s1

/-! ## Leases (R307, R308) -/

/-- `LEASE_STATE`, the answer to a `LEASE_RENEW`, with its `TAG` and key (R46): expiry, state. -/
def leaseState (f : Frame) (expiry state : Nat) (s : State) : State :=
  sendRaw 134 none .own_ (mkCtl 0xF3 f.src (nodeSelf s) f.pkey f.tag 0 (toLE 6 expiry ++ toLE 1 state ++ [0#8])) s

/-- `LEASE_RENEW` (R307). -/
def execLeaseRenew (id : Nat) (s : State) : Out :=
  onCtl id 0xF2 (fun i t =>
    let node := i.frame.src
    match leaseOf t node with
    | none => leaseState i.frame 0 0 t
    | some (_, l) =>
      if l.state = 1 then
        let t1 := leaseStart node (i.arrived / 1000) t
        leaseState i.frame (i.arrived / 1000 + leaseUs t) 1 t1
      else leaseState i.frame l.expiryUs 2 t) s

/-- A lease lapses: extents are fenced, the pool cache is lost, the lapse is reported. -/
def leaseLapse (l : Nat) (x : Lease) (s : State) : State :=
  let s1 := { s with pool := { s.pool with leases := tset s.pool.leases l { x with state := 2 } } }
  let held := (s1.pool.extents.filter fun e => e.2.state == 1 && e.2.holder == x.node).map (·.1)
  let s2 := each held fenceExtent s1
  let port := (nodePort s2 x.node).getD 0xFF
  let s3 := report ⟨0x0D, 0, portPart s2 port, port, x.node, 0, held.length, 0⟩ s2
  let s4 := match slotOfNode s3 x.node with
    | some (i, _) => slotLoss i 1 s3
    | none => s3
  fenceEnds (poolPass (leaseSweep s4))

/-- `LEASE_EXPIRY` (R307). -/
def execLeaseExpiry (l : Nat) (s : State) : Out :=
  whenRunning (fun t =>
    match tget t.pool.leases l with
    | some x => if x.state = 1 then leaseLapse l x (atTime (x.expiryUs * 1000) t) else t
    | none => t) s

end Sys2Proof.Machine
end

