-- ==== Sys2Proof/Machine/Power.lean ====
section
/-! DEFINITION. Clock points, the power governor, and units that sleep and wake (R27 to R36, R274, R276 to R278, R386, R397,
R512, R517). -/
namespace Sys2Proof.Machine

/-! ## Clock points (R30, R31, R274, R276) -/

/-- Model power of a gallery at a point, in tenths of a watt. -/
def galPower (p : Nat) : Nat := [3, 40, 65, 100, 170, 300].getD p 300

/-- The effective limit is below `LIMIT_W`. -/
def throttled (s : State) : Bool := rbit s R.THERM_STATUS_THROTTLED 0

/-- The limit that acts: 1,300 W during `START`, the effective limit during a throttle, else `LIMIT_W` (R512, R517). -/
def limitW (s : State) : Nat :=
  match s.pkg.phase with
  | .start => 1300
  | _ => if throttled s then rget s R.THERM_STATUS_EFF_LIMIT_W 0 else rget s R.PKG_POWER_LIMIT_W 0

/-- A gallery that is not gated. -/
def galRuns (s : State) (g : Nat) : Bool := !sleeps s (.gallery g) && decide (1 ≤ (galOf s g).point)

/-- A gallery holds or awaits work. -/
def galWork (s : State) (g : Nat) : Bool :=
  !(galOf s g).queue.isEmpty || !(galOf s g).batches.isEmpty || s.seed.insts.any fun p => p.2.gallery == g

/-- The highest point that ageing allows. -/
def galCap (s : State) (g : Nat) : Nat := min 5 (rget s R.GALLERY_CLK_CAP g)

/-- A gallery of a partition in quiet mode, held at the target of `QUIET` (R386). -/
def galQuiet (s : State) (g : Nat) : Bool := match galGrant s g with | some p => isQuiet s p | none => false

/-- The target of `QUIET`: the highest point whose power is at most (`LIMIT_W` - 840 W) / 32, at least the lowest. -/
def quietTarget (s : State) (g : Nat) : Nat :=
  let room := (rget s R.PKG_POWER_LIMIT_W 0 - 840) * 10
  (((upTo 6).filter fun p => decide (1 ≤ p) && decide (p ≤ galCap s g) && decide (galPower p * 32 ≤ room)).foldl max 1)

/-- A channel bound to the gallery is more than half full. -/
def channelHalf (s : State) (g : Nat) : Bool :=
  s.col.ctx.any fun c => rget s R.COL_CTX_GALLERY c.1 == g && c.2.recv.any fun q => decide (c.2.record.chbuf * 2 ^ 19 < q.used)

/-- The target of a gallery with work. -/
def target (s : State) (g : Nat) : Nat :=
  let x := galOf s g
  if profile s = 2 ∨ galQuiet s g then quietTarget s g
  else if profile s = 1 then
    if 4 < x.queue.length ∨ channelHalf s g then min (galCap s g) (x.point + 1)
    else if x.queue.isEmpty ∧ x.queueEmptyAt + 100000 ≤ s.clk.now then max 1 (x.point - 1)
    else x.point
  else galCap s g

/-- A gallery goes to a point; a change pauses its issue for 1 µs. -/
def setPoint (g p : Nat) (s : State) : State :=
  let x := galOf s g
  if x.point = p then s else setGal g { x with point := p, paused := some s.clk.now } s

/-! ## The governor (R277, R278) -/

/-- A run in progress: what is still to be saved and the modelled power, in tenths of a watt, and whether raising has
ended. -/
structure GovRun where
  need : Int
  power : Int
  beyond : Bool
  st : State

/-- A gallery has not moved in this run. -/
def still (s : State) (g : Nat) : Bool := (galOf s g).paused != some s.clk.now

/-- The running galleries in the order of lowering: highest point, shortest queue, highest number. -/
def lowerOrder (s : State) : List Nat :=
  sortBy (fun g => (5 - (galOf s g).point) * 65536 + (galOf s g).queue.length * 64 + (31 - g)) ((upTo 32).filter (galRuns s))

/-- The running galleries in the order of raising: lowest point, longest queue, and the lowest number (log 40). -/
def raiseOrder (s : State) : List Nat :=
  sortBy (fun g => (galOf s g).point * 65536 + (1023 - (galOf s g).queue.length) * 64 + g) ((upTo 32).filter (galRuns s))

/-- Lower a gallery by one point where something is still to be saved. -/
def lowerOne (r : GovRun) (g : Nat) : GovRun :=
  let p := (galOf r.st g).point
  if r.need ≤ 0 ∨ p ≤ 1 ∨ !still r.st g then r
  else
    let d : Int := galPower p - galPower (p - 1)
    { r with need := r.need - d, power := r.power - d, st := setPoint g (p - 1) r.st }

/-- Raise a gallery by one point where the limit leaves room; the first that finds none ends the loop. -/
def raiseOne (limit guard : Nat) (p0 : Int) (r : GovRun) (g : Nat) : GovRun :=
  let p := (galOf r.st g).point
  if r.beyond ∨ !still r.st g then r
  else
    let d : Int := galPower (p + 1) - galPower p
    if 10 * ((limit : Int) - guard) - (p0 + r.need) < d then { r with beyond := true }
    else { r with need := r.need + d, power := r.power + d, st := setPoint g (p + 1) r.st }

/-- Galleries that go straight to their target: all under `QUIET`, and those of partitions in quiet mode, except during a
throttle; and under `ENERGY` those whose target is one point lower. -/
def straight (s : State) (g : Nat) : Bool :=
  (!throttled s && (profile s == 2 || galQuiet s g)) || (profile s == 1 && !galQuiet s g && decide (target s g < (galOf s g).point))

/-- A gallery goes straight to its target. -/
def goStraight (r : GovRun) (g : Nat) : GovRun :=
  let d : Int := galPower (target r.st g) - galPower (galOf r.st g).point
  { r with power := r.power + d, st := setPoint g (target r.st g) r.st }

/-- What a run at a measured power does to the points: first the galleries that go straight, then lowering, then raising. -/
def governPoints (w : Nat) (s : State) : GovRun :=
  let limit := limitW s
  let guard := limit * 2 / 100
  let p : Int := 10 * w
  let r0 := ((upTo 32).filter fun g => galRuns s g && straight s g).foldl goStraight ⟨0, p, false, s⟩
  let lowers := (profile s != 2 || throttled s) && decide (limit < w)
  let low := (lowerOrder s).filter fun g => !galQuiet s g || throttled s
  let r1 := if lowers then low.foldl lowerOne { r0 with need := p - 10 * limit + 10 * guard } else r0
  let up := (raiseOrder s).filter fun g => galWork s g && !straight s g && decide ((galOf s g).point < target s g)
  up.foldl (raiseOne limit guard p) { r1 with need := 0 }

/-- The end of a run: the measured power, and whether every running gallery is at the floor while the limit is exceeded. -/
def governEnd (w : Nat) (r : GovRun) : State :=
  let floor := decide (10 * (limitW r.st : Int) < r.power) && ((upTo 32).filter (galRuns r.st)).all fun g => decide ((galOf r.st g).point ≤ 1)
  let was := rbit r.st R.PKG_POWER_AT_FLOOR 0
  let s1 := rset R.PKG_POWER_AT_FLOOR 0 (b2n floor) (rset R.PKG_POWER_MEASURED_W 0 w r.st)
  let s2 : State := { s1 with pkg := { s1.pkg with power := w, govAt := some s1.clk.now } }
  if floor && !was then report ⟨0x0A, 0, none, 0xFF, 0, 0, (r.power / 10).toNat - rget s2 R.PKG_POWER_LIMIT_W 0, 0⟩ s2 else s2

/-- One run at a measured power. -/
def govern (w : Nat) (s : State) : State := governEnd w (governPoints w s)

/-- The next multiple of a period at which something that last ran at `last` runs. -/
def nextMultiple (period : Nat) (last : Option Nat) (now : Nat) : Nat :=
  let m := ceilDiv now period * period
  if last = some m then m + period else m

/-- Now is the start of a slot. -/
def atSlot (s : State) : Bool := ttRuns s && decide (0 < s.col.slotsDone) && boundaryNow s + slotOffset s (s.col.slotsDone - 1) == s.clk.now

/-- GOVERNOR_RUN: at each slot start and at each multiple of 20 µs. -/
def execGovernorRun (w : Nat) (s : State) : Out :=
  whenRunning (fun t =>
    let at_ := nextMultiple 20000 t.pkg.govAt t.clk.now
    if atSlot t ∧ t.pkg.govAt ≠ some t.clk.now then govern w t
    else if t.clk.nextB < at_ then t
    else govern w (atTime at_ t)) s

/-- CLOCK_POINT_PAUSE_END: 1 µs after the change the gallery issues at its new point (R31). -/
def execClockPointPauseEnd (gal : Nat) (s : State) : Out :=
  whenRunning (fun t =>
    match (galOf t gal).paused with
    | some at_ => setGal gal { galOf t gal with paused := none } (atTime (at_ + 1000) t)
    | none => t) s

/-! ## Sleep (R32, R33, R397) -/

def galIdleNs (s : State) : Nat := 1000 * setting s 50 10 R.PLACE_SLEEP_GALLERY_IDLE_US
def stackIdleNs (s : State) : Nat := 1000 * setting s 200 50 R.PLACE_SLEEP_STACK_IDLE_US
def laneIdleNs (s : State) : Nat := 1000 * setting s 1000 200 R.PLACE_SLEEP_LANE_IDLE_US

/-- The ungated time of a gallery up to now is metered for the partition that it is granted to (R40). -/
def meterGallery (g : Nat) (s : State) : State :=
  let x := galOf s g
  match x.ungatedAt with
  | none => s
  | some t0 =>
    let s1 := setGal g { x with ungatedAt := some s.clk.now } s
    match galGrant s1 g with
    | some p => meter p 4 (s1.clk.now - t0) s1
    | none => s1

/-- A unit falls asleep. -/
def toSleep (u : SleepUnit) (s : State) : State :=
  if sleeps s u then s else { s with pkg := { s.pkg with asleep := s.pkg.asleep ++ [u] } }

/-- Since when a unit is unused, as far as it has been used. -/
def lastUse (s : State) (u : SleepUnit) : Nat := ((s.pkg.idleSince.find? fun p => p.1 == u).map (·.2)).getD 0

/-- GALLERY_IDLE_SLEEP: a gallery without work for its idle time and without timetable use in the next 10 µs is gated, its
stores retained. -/
def execGalleryIdleSleep (gal : Nat) (s : State) : Out :=
  whenRunning (fun t0 =>
    let x := galOf t0 gal
    let t := atTime (max (x.emptySince.getD 0) x.queueEmptyAt + galIdleNs t0) t0
    let used := match nextUse t 0 gal with | some at_ => decide (at_ < t.clk.now + 10000) | none => false
    if 32 ≤ gal ∨ !galRuns t0 gal ∨ galWork t0 gal ∨ x.zeroFor.isSome then t0
    else if used then t
    else
      let t1 := meterGallery gal t
      toSleep (.gallery gal) (setGal gal { galOf t1 gal with point := 0, paused := none, ungatedAt := none } t1)) s

/-- STACK_SELF_REFRESH: a stack without an access for its idle time. -/
def execStackSelfRefresh (stack : Nat) (s : State) : Out :=
  whenRunning (fun t =>
    if 20 ≤ stack ∨ sleeps t (.stack stack) ∨ t.boot.stackBad.contains stack then t
    else toSleep (.stack stack) (atTime (lastUse t (.stack stack) + stackIdleNs t) t)) s

/-- LANE_SLEEP: a port without a frame for the idle time keeps its lowest good lane; the others sleep once both directions
narrow to it (R33, R397). Their sleep begins with the exchange. -/
def execLaneSleep (port : Nat) (s : State) : Out :=
  whenRunning (fun t0 =>
    let t := atTime (lastUse t0 (.lane (4 * port)) + laneIdleNs t0) t0
    match bestMask t port 1 with
    | none => t0
    | some m =>
      let l := linkOf t0 port
      if !linkUp t0 port ∨ !rbit t0 R.LINK_CTL_SLEEP_EN port ∨ !l.txWait.isEmpty ∨ l.widthSent.isSome ∨ maskWidth (txMask t0 port) ≤ 1 then t0
      else
        let rest := (lanesOf (Nat.xor (2 ^ laneCount t port - 1) m)).filter fun i => laneGood t port i
        let t1 := each rest (fun i u => toSleep (.lane (4 * port + i)) (rset R.LANE_STATE (4 * port + i) 2 u)) t
        askWidth port (some m) (sendWidth port m t1)) s

/-- A lane is awake: its port widens, both ways, by the usual exchange. -/
def laneAwake (lane : Nat) (s : State) : State :=
  let s1 := if rget s R.LANE_STATE lane = 2 then rset R.LANE_STATE lane 0 s else s
  let n := if gangedAway s1 (lane / 4) then lane / 4 - 1 else lane / 4
  match bestMask s1 n 8 with
  | some m =>
    if linkUp s1 n ∧ maskWidth (txMask s1 n) < maskWidth m ∧ (linkOf s1 n).widthSent ≠ some m then askWidth n (some m) (sendWidth n m s1) else s1
  | none => s1

/-- UNIT_WAKE_DONE: a unit is ready after its wake latency; a gallery starts at the lowest point, and the accesses that waited
for a stack go on (R32, R35, R277). -/
def execUnitWakeDone (kind unit : Nat) (s : State) : Out :=
  whenRunning (fun t =>
    let u := sleepUnit kind unit
    match t.pkg.waking.find? fun w => w.1 == u with
    | none => t
    | some w =>
      let t1 := atTime (w.2 + wakeNs kind) t
      let t2 : State := { t1 with pkg := { t1.pkg with asleep := t1.pkg.asleep.filter (· != u), waking := t1.pkg.waking.filter fun x => x.1 != u } }
      match u with
      | .gallery g => setGal g { galOf t2 g with point := 1, ungatedAt := some t2.clk.now } t2
      | .stack _ => poolPass t2
      | .lane l => laneAwake l t2) s

end Sys2Proof.Machine
end

