-- ==== Sys2Proof/Machine/Shell.lean ====
section
/-! DEFINITION. The Shell's mailbox commands but for recovery, job keys, and Holone management (R443, R449 to R458). -/
namespace Sys2Proof.Machine

/-! ## Mailbox commands (R454) -/

/-- The request buffer. -/
def mboxReq (s : State) : List Byte := mread s.sec.reqBuf 0 s.sec.mboxLen

/-- The command that runs in the mailbox is this one, of this host. -/
def mboxRuns (s : State) (h code : Nat) : Bool := rbit s R.MBOX_STATUS_BUSY 0 && s.sec.mboxHost == h && s.sec.mboxCmd == code

/-- Run a mailbox command on its request. In recovery mode only `ID_GET`, `QUOTE` and `RECOVERY_IMAGE` run (R481). -/
def withMbox (h code : Nat) (owner : Bool) (act : List Byte → State → State) (s : State) : Out :=
  whenRunning (fun t =>
    if !mboxRuns t h code then t
    else if rget t R.START_STATUS_PHASE 0 = 5 ∧ !(code = 1 ∨ code = 2 ∨ code = 10) then mboxEnd stIllegal [] t
    else if owner && !isOwner t h then mboxEnd stDenied [] t
    else act (mboxReq t) t) s

/-- The AK statement (R431). -/
def akStatement (s : State) : List Byte :=
  let body := Config.dsaPublic (akSeed s) ++ s.sec.meas.getD 0 [] ++ s.sec.meas.getD 1 []
  body ++ Config.dsaSign dikSeed (Config.sha3 (ascii "KWAYTH-AKCERT" ++ body))

/-- ID_GET. -/
def execIdGet (h : Nat) (s : State) : Out := withMbox h 1 false (fun _ t => mboxEnd stOK (Config.dikCertificate ++ akStatement t) t) s

/-- Bytes 0 to 351 of a quote (R443). -/
def quoteBytes (s : State) (nonce : List Byte) : List Byte :=
  toLE 4 0x54514B55 ++ toLE 4 1 ++ slice nonce 0 32 ++ (s.sec.meas.map fun m => slice m 0 32).foldl (· ++ ·) [] ++ toLE 8 s.clk.now
    ++ toLE 8 (epochNow s) ++ toLE 8 (rget s R.START_STATUS_WARM_RESETS 0) ++ toLE 8 ((s.sec.licence.map (·.licId)).getD 0)
    ++ toLE 4 s.sec.frame.serial ++ toLE 20 0

/-- QUOTE. -/
def execQuote (h : Nat) (s : State) : Out :=
  withMbox h 2 false (fun req t =>
    if req.length ≠ 32 then mboxEnd stIllegal [] t
    else
      let b := quoteBytes t req
      mboxEnd stOK (b ++ Config.dsaSign (akSeed t) (Config.sha3 b)) t) s

/-- The status of a refused frame (log 49). -/
def frameStatus (code : Nat) : Nat := if code = 4 then stUnsupported else if code = 1 then stDenied else stIllegal

/-- FRAME_STAGE: a frame that passes is stored; one that fails leaves its code (R439). -/
def execFrameStage (h : Nat) (s : State) : Out :=
  withMbox h 3 true (fun req t =>
    match frameCheck t req with
    | .ok _ => mboxEnd stOK [] (rset R.FRAME_INFO_FRAME_REFUSED 0 0 { t with sec := { t.sec with stagedFrame := req } })
    | .error c => mboxEnd (frameStatus c) [] (rset R.FRAME_INFO_FRAME_REFUSED 0 c t)) s

/-- LICENCE_LOAD: it takes effect at the next reset; one that fails is refused (R442). -/
def execLicenceLoad (h : Nat) (s : State) : Out :=
  withMbox h 4 true (fun req t =>
    if licenceOk t req then mboxEnd stOK [] { t with sec := { t.sec with licenceFlash := req } } else mboxEnd stIllegal [] t) s

/-- ENDORSE_SET: the endorsement is sealed in flash (R445). -/
def execEndorseSet (h : Nat) (s : State) : Out :=
  withMbox h 5 true (fun req t =>
    if req.length = sigLen then mboxEnd stOK [] { t with sec := { t.sec with endorsement := req } } else mboxEnd stIllegal [] t) s

/-- CRED_SET: a key of 32 zero bytes clears the slot. -/
def execCredSet (h : Nat) (s : State) : Out :=
  withMbox h 9 true (fun req t =>
    let slot := leAt req 0 1
    if !licensed t 3 then mboxEnd stUnsupported [] t
    else if req.length ≠ 36 ∨ 4 ≤ slot ∨ leAt req 1 3 ≠ 0 then mboxEnd stIllegal [] t
    else
      let key := req.drop 4
      let k := if key.all (· == 0#8) then none else some key
      let x := t.sec.holone.getD slot ⟨none, 0, 0, [], none, 0⟩
      mboxEnd stOK [] { t with sec := { t.sec with holone := t.sec.holone.set slot { x with key := k } } }) s

/-! ## Job keys (R449 to R453) -/

/-- Job mode is available: licensed, and every one of at most 32 switches is a peer (R449). -/
def jobMode (s : State) : Bool :=
  licensed s 2 && decide (s.sec.frame.nswitches ≤ 32) && decide (s.sec.frame.nswitches ≤ (dedup' (s.sec.frame.peers.map (·.node))).length)

/-- The other peers. -/
def otherPeers (s : State) : List PFPeer := s.sec.frame.peers.filter fun p => p.node != nodeSelf s

/-- A key under the secret that an encapsulation to an SK gives: the ciphertext, and the key sealed under W (R450). -/
def wrapKey (ek : List Byte) (id : Nat) (aad key : List Byte) (s : State) : List Byte × State :=
  let (r, s1) := freshRandom s
  let (ct, ss) := Config.kemEncaps ek r
  let w := Config.sha3 (ss ++ ascii "KWAYTH-JOBWRAP" ++ toLE 4 id)
  let (c, tag) := Config.gcmSeal w (toLE 4 id ++ toLE 8 0) aad key
  (slice ct 0 1088 ++ c ++ tag, s1)

/-- Bytes 0 to 23 of a `JOB_KEY_INSTALL`. -/
def installHead (s : State) (id part : Nat) (remove : Bool) (notBefore : Nat) : List Byte :=
  toLE 4 id ++ toLE 1 part ++ toLE 1 (b2n remove) ++ toLE 2 0 ++ toLE 8 notBefore ++ toLE 2 (nodeSelf s) ++ toLE 6 0

/-- The whole payload: the issuer's key and signature end it. -/
def installBytes (head wrapped : List Byte) : List Byte :=
  let b := head ++ slice wrapped 0 1136 ++ dikPublic
  b ++ Config.dsaSign dikSeed (Config.sha3 b)

/-- Send a management message to a peer and track it. -/
def sendMgt (opc node : Nat) (p : List Byte) (s : State) : State :=
  let f := mkFrame 7 opc node (nodeSelf s) (keyFor s (portTo s node)) (s.nextId % 2 ^ 20) 0 0 p.length p
  let (id, s1) := issue (.mgmt node) f s
  sendTracked id s1

/-- Send the install of a key to a peer. -/
def sendInstall (id part notBefore : Nat) (key : List Byte) (p : PFPeer) (s : State) : State :=
  let head := installHead s id part false notBefore
  let (w, s1) := wrapKey p.sk id head key s
  sendMgt 0xE1 p.node (installBytes head w) s1

/-- JOB_OPEN (R450): it ends once every peer has answered or stayed silent. -/
def execJobOpen (h : Nat) (s : State) : Out :=
  withMbox h 6 true (fun req t =>
    let part := leAt req 0 1
    if t.sec.jobOpen.isSome then t
    else if !jobMode t then mboxEnd stUnsupported [] t
    else if req.isEmpty ∨ 64 ≤ part ∨ !zeroFrom req 1 req.length then mboxEnd stIllegal [] t
    else if !t.sec.frame.enabled.contains part then mboxEnd stDenied [] t
    else if 4096 ≤ t.sec.jobKeys.length then mboxEnd stQuota [] t
    else
      let (key, t1) := drawBytes t
      let id := (nodeSelf t - 0x4000) * 2 ^ 22 + t.sec.jobCtr % 2 ^ 22
      let nb := epochNow t + 2
      let k : JobKey := ⟨part, key, nb, nodeSelf t, epochNow t, none, none⟩
      let peers := otherPeers t
      let t2 : State := { t1 with sec := { t1.sec with jobCtr := t1.sec.jobCtr + 1, jobKeys := tset t1.sec.jobKeys id k
                                                       jobOpen := some (id, peers.map fun p => (p.node, none)) } }
      jobOpenGo (each peers (sendInstall id part nb key) t2)) s

/-- JOB_WRAP (R451): the request is `JOB_KEY`, the endpoint's node and its encapsulation key, one after the other. -/
def execJobWrap (h : Nat) (s : State) : Out :=
  withMbox h 7 true (fun req t =>
    let id := leAt req 0 4
    let node := leAt req 4 2
    if !licensed t 2 then mboxEnd stUnsupported [] t
    else if req.length ≠ 1190 then mboxEnd stIllegal [] t
    else match tget t.sec.jobKeys id with
      | none => mboxEnd stIllegal [] t
      | some k =>
        let here := (upTo 128).any fun n => isEndpointPort t n && portNode t n == some node && (pfPort t n).part == k.part
        if !here then mboxEnd stDenied [] t
        else
          let (w, t1) := wrapKey (req.drop 6) id (toLE 4 id ++ toLE 2 node) k.key t
          mboxEnd stOK w t1) s

/-- A key takes no new frame from a boundary on (R453). -/
def jobRemoveAt (id epoch : Nat) (s : State) : State :=
  { s with sec := { s.sec with jobKeys := tmod s.sec.jobKeys id fun k => { k with removeAt := some (k.removeAt.getD epoch) } } }

/-- JOB_CLOSE (R453). -/
def execJobClose (h : Nat) (s : State) : Out :=
  withMbox h 8 true (fun req t =>
    let id := leAt req 0 4
    if !licensed t 2 then mboxEnd stUnsupported [] t
    else if req.length ≠ 4 then mboxEnd stIllegal [] t
    else match tget t.sec.jobKeys id with
      | none => mboxEnd stIllegal [] t
      | some k =>
        let nb := epochNow t + 2
        let b := installBytes (installHead t id k.part true nb) []
        mboxEnd stOK [] (each (otherPeers t) (fun p u => sendMgt 0xE1 p.node b u) (jobRemoveAt id nb t))) s

/-- What a received install asks for: the key, unless a check of R450 fails. -/
def installCheck (s : State) (p : List Byte) : Option JobKey :=
  let id := leAt p 0 4
  let part := leAt p 4 1
  let remove := bitAt (leAt p 5 1) 0
  let issuer := leAt p 16 2
  let dik := slice p 1160 1312
  let peer := s.sec.frame.peers.any fun x => x.node == issuer && x.digest == Config.sha3 dik
  let form := decide (p.length = 4892) && decide (part < 64) && decide (leAt p 5 1 ≤ 1) && zeroFrom p 6 8 && zeroFrom p 18 24
  if !form || !peer || !Config.dsaVerify dik (Config.sha3 (p.take 2472)) (slice p 2472 2420) || !s.sec.frame.enabled.contains part then none
  else if remove then (if zeroFrom p 24 1160 then some ⟨part, [], leAt p 8 8, issuer, epochNow s, some (leAt p 8 8), none⟩ else none)
  else
    let ss := Config.kemDecaps skD skZ (slice p 24 1088)
    let w := Config.sha3 (ss ++ ascii "KWAYTH-JOBWRAP" ++ toLE 4 id)
    (Config.gcmOpen w (toLE 4 id ++ toLE 8 0) (p.take 24) (slice p 1112 32) (slice p 1144 16)).map fun key =>
      ⟨part, key, leAt p 8 8, issuer, epochNow s, none, none⟩

/-- Install or remove a key. -/
def installIn (id : Nat) (k : JobKey) (s : State) : Nat × State :=
  match k.removeAt with
  | some e => (stOK, jobRemoveAt id e s)
  | none =>
    if !thas s.sec.jobKeys id ∧ 4096 ≤ s.sec.jobKeys.length then (stDenied, s)
    else (stOK, { s with sec := { s.sec with jobKeys := tset s.sec.jobKeys id k } })

/-- Answer a management request. -/
def mgtAnswer (n : Nat) (tracked : Bool) (f : Frame) (status : Nat) (data : List Byte) (s : State) : State :=
  if status = stOK then (if tracked then closeTrack n stOK data 1 s else answer f stOK data s) else refuse n tracked f status 1 s

/-- JOB_KEY_INSTALL (R450). -/
def execJobKeyInstall (id : Nat) (s : State) : Out :=
  serve id (fun f => f.opc == 0xE1) (fun n tracked f t =>
    if f.dst ≠ nodeSelf t then (if tracked then sendTracked n t else t)
    else match installCheck t f.payload with
      | none => mgtAnswer n tracked f stDenied [] t
      | some k => let (st, t1) := installIn (leAt f.payload 0 4) k t; mgtAnswer n tracked f st [] t1) s

/-- JOB_KEY_DESTROY (R453): `DRAIN_US` after the boundary of its removal. -/
def execJobKeyDestroy (key : Nat) (s : State) : Out :=
  whenRunning (fun t =>
    match (tget t.sec.jobKeys key).bind (·.destroyAt) with
    | none => t
    | some at_ =>
      let t1 := atTime at_ t
      { t1 with sec := { t1.sec with jobKeys := tdel t1.sec.jobKeys key, windows := t1.sec.windows.filter fun w => w.key != key } }) s

/-! ## MGT_QUERY (R500) -/

/-- The blocks of BAR0 that a partition may ask for: base and size. -/
def queryBlocks (p : Nat) : List (Nat × Nat) :=
  [(0x300000 + p * 0x2000, 0x2000), (0x20C000 + p * 0x20, 0x20), (0x900000 + p * 0x1000, 0x1000), (0x880000 + p * 0x20, 0x20),
   (0xD80000 + p * 0x1000, 0x1000), (0xDC0000 + p * 8, 8), (0x1460000 + p * 0x1000, 0x1000), (0x14A0100 + p * 0x20, 0x20),
   (0x1420000 + p * 0x80, 0x58), (0x1410000 + p * 0x100, 0x100), (0xC10000 + p * 0x10, 8), (0x1100000 + p * 0x10, 8),
   (0x201000 + p * 0x10, 0x10)]

/-- The status of a query of a partition. -/
def queryStatus (part : Option Nat) (q : List Byte) : Nat :=
  let off := leAt q 0 4
  let len := leAt q 4 4
  if q.length ≠ 16 ∨ off % 8 ≠ 0 ∨ len % 8 ≠ 0 ∨ len < 8 ∨ 4096 < len ∨ leAt q 8 8 ≠ 0 then stIllegal
  else match part with
    | some p => if (queryBlocks p).any fun b => decide (b.1 ≤ off) && decide (off + len ≤ b.1 + b.2) then stOK else stDenied
    | none => stDenied

/-- MGT_QUERY. -/
def execMgtQuery (id : Nat) (s : State) : Out :=
  serve id (fun f => f.opc == 0xE0) (fun n tracked f t =>
    if f.dst ≠ nodeSelf t then (if tracked then sendTracked n t else t)
    else
      let st := queryStatus (keyPart t f.pkey) f.payload
      let data := if st = stOK then readBytes 2 (leAt f.payload 0 4) (leAt f.payload 4 4) t else []
      if st = stOK then mgtAnswer n tracked f st data t else refuse n tracked f st 0 t) s

/-! ## Holone management (R456 to R458) -/

/-- The mode runs. -/
def holoneOn (s : State) : Bool := licensed s 3 && s.sec.frame.holoneEn && s.boot.bootDone && rget s R.START_STATUS_PHASE 0 != 5

/-- A dropped request; the sixteenth of a slot within 1 s locks the slot for 60 s. -/
def holoneDrop (slot : Nat) (s : State) : State :=
  let s1 := rbump R.HOLONE_DENIED_COUNT 0 s
  match s.sec.holone[slot]? with
  | none => s1
  | some x =>
    let drops := (x.drops.filter fun t => decide (s.clk.now < t + 1000000000)) ++ [s.clk.now]
    let y := if 16 ≤ drops.length then { x with drops := [], lockedUntil := some (s.clk.now + 60000000000) } else { x with drops := drops }
    { s1 with sec := { s1.sec with holone := s1.sec.holone.set slot y } }

/-- Offsets that a slot may read. -/
def holoneReads (a : Nat) : Bool := decide (a < 0x1000000) || (decide (0x1400000 ≤ a) && decide (a < 0x1800000))

/-- Offsets that a slot may write. -/
def holoneWrites (a : Nat) : Bool :=
  (decide (0x400000 ≤ a) && decide (a < 0x800000)) || (decide (0x1400000 ≤ a) && decide (a < 0x1800000))

/-- A write of the RW and RWS fields of a register. -/
def holoneWrite (a v : Nat) (s : State) : State :=
  each ((fieldsAt (aliasOf a)).filter fun x => x.1.acc == .rw || x.1.acc == .rws) (writeField 0 .holone 0 8 v) s

/-- What a good request does: status, value and state. -/
def holoneAct (slot op a v : Nat) (s : State) : Nat × Nat × State :=
  let role := s.sec.frame.holoneRoles.getD slot 0
  if op ≠ 1 ∧ op ≠ 2 then (stIllegal, 0, s)
  else if a % 8 ≠ 0 then (stDenied, 0, s)
  else if op = 1 then (if 1 ≤ role ∧ holoneReads a then (stOK, readWord 2 a s, s) else (stDenied, 0, s))
  else if role = 2 ∧ holoneWrites a ∧ rget s R.HOST_OWN_OWNER 0 = 0
      ∧ (fieldsAt (aliasOf a)).any (fun x => x.1.acc == .rw || x.1.acc == .rws) then (stOK, v, holoneWrite a v s)
  else (stDenied, 0, s)

/-- Accept a counter; the highest is sealed at every 65,536 accepted requests. -/
def holoneAccept (slot counter : Nat) (x : HoloneSlot) (s : State) : State :=
  let n := x.accepted + 1
  let y := { x with counter := counter, accepted := n, sealed := if n % 65536 = 0 then counter else x.sealed }
  { s with sec := { s.sec with holone := s.sec.holone.set slot y } }

/-- HOLONE_REQUEST. -/
def execHoloneRequest (bytes : List Byte) (s : State) : Out :=
  whenRunning (fun t =>
    if !holoneOn t ∨ bytes.length ≠ 64 then t
    else
      let slot := leAt bytes 0 1
      let counter := leAt bytes 4 8
      match t.sec.holone[slot]? with
      | none => holoneDrop slot t
      | some x =>
        match x.lockedUntil, x.key with
        | some _, _ => rbump R.HOLONE_DENIED_COUNT 0 t
        | none, none => holoneDrop slot t
        | none, some key =>
          if Config.hmac key (bytes.take 32) ≠ bytes.drop 32 ∨ counter ≤ x.counter then holoneDrop slot t
          else
            let (st, v, t1) := holoneAct slot (leAt bytes 1 1) (leAt bytes 12 4) (leAt bytes 16 8) (holoneAccept slot counter x t)
            let b := bytes.take 2 ++ toLE 1 st ++ (bytes.take 16).drop 3 ++ toLE 8 v ++ (bytes.take 32).drop 24
            emit (.udp (b ++ Config.hmac key b)) t1) s

/-- HOLONE_SLOT_UNLOCK (R458). -/
def execHoloneSlotUnlock (hslot : Nat) (s : State) : Out :=
  whenRunning (fun t =>
    match t.sec.holone[hslot]? with
    | none => t
    | some x =>
      match x.lockedUntil with
      | none => t
      | some at_ =>
        let t1 := atTime at_ t
        { t1 with sec := { t1.sec with holone := t1.sec.holone.set hslot { x with lockedUntil := none } } }) s

end Sys2Proof.Machine
end

