-- ==== Sys2Proof/Machine/Boot.lean ====
section
/-! DEFINITION. Flash banks, the floor plan report and the boot chain that every reset runs (R435 to R442, R467 to R479, R481). -/
namespace Sys2Proof.Machine

/-! ## Banks and update states (R471 to R475) -/

/-- Change the update machine of a kind, 1 to 3. -/
def setUpd (k : Nat) (u : Upd) (s : State) : State := { s with boot := { s.boot with upd := s.boot.upd.set (k - 1) u } }

/-- The update machine of a kind. -/
def updOf (s : State) (k : Nat) : Upd := updAt s (k - 1)

/-- The kinds of image. -/
def kinds : List Nat := [1, 2, 3]

/-- A bank passes R433. The image of manufacture is in form and signed (log 50); its `SVN` is checked like any other. -/
def bankOk (s : State) (k : Nat) (b : Bank) : Bool :=
  match b with
  | .factory => decide (s.sec.fuseSvn.getD (k - 1) 0 ≤ imageSvn (Config.factoryImage k))
  | .written w => imageCheck s k w == resOK

/-- The bank from which a kind starts: with `TRY` set the other one (R472). -/
def Upd.startBank (u : Upd) : Nat := if u.try_ then 1 - u.active else u.active

/-- A failed trial: `TRY` is cleared, `ACTIVE` is unchanged. -/
def Upd.fallBack (u : Upd) : Upd :=
  if u.state = 4 then { u with state := 2, try_ := false, result := resTrialFailed, bootTrial := false } else u

/-- What a reset does to an update machine (R475, R478): an armed kind is on trial; a bank that was being written or is
staged counts as staged only if it passes R433. -/
def resetUpd (s : State) (fallback : Bool) (k : Nat) (u : Upd) : Upd :=
  let v := { u with result := 0, pos := 0, total := 0, lastByte := 0, byHost := none, bootTrial := false }
  match u.state with
  | 1 | 2 => { v with state := if bankOk s k v.other then 2 else 0 }
  | 3 => { v with state := 4 }
  | 4 => if fallback then v.fallBack else v
  | _ => v

/-- Every update machine meets a reset. -/
def resetUpds (fallback : Bool) (s : State) : State :=
  { s with boot := { s.boot with upd := (enum' s.boot.upd).map fun p => resetUpd s fallback (p.1 + 1) p.2, tftp := none } }

/-- Some kind is on trial. -/
def onTrial (s : State) : Bool := s.boot.upd.any fun u => u.state == 4

/-- Every kind of the trial falls back. -/
def fallBackAll (s : State) : State := { s with boot := { s.boot with upd := s.boot.upd.map Upd.fallBack } }

/-! ## The floor plan report (R467 to R469) -/

/-- A bitmap of n bits. -/
def markBytes (n : Nat) (l : List Nat) : List Byte := toLE (n / 8) (l.foldl (fun v i => setBit v i true) 0)

/-- The units that a bitmap of n bits at a place marks. -/
def marksAt (b : List Byte) (at_ n : Nat) : List Nat := (upTo n).filter fun i => bitAt (b.getD (at_ + i / 8) 0).toNat (i % 8)

/-- Good pseudo-channels of a wing (R258). -/
def goodPch (bad : List Nat) (w : Nat) : Nat := 320 - (bad.filter fun p => p / 320 == w).length

/-- `FRAMES_TOTAL` for C good pseudo-channels (R258). -/
def framesFor (c : Nat) : Nat := c * 732416 / 1024

/-- The marks of a report. -/
structure Marks where
  pip : List Nat
  gallery : List Nat
  stack : List Nat
  port : List Nat
  lane : List Nat
  pch : List Nat
  host : List Nat
  caps : List Nat        -- cap of each gallery
  deriving DecidableEq, Repr

/-- Read the marks of a report. -/
def Marks.of (b : List Byte) : Marks :=
  ⟨marksAt b 64 4096, marksAt b 576 32, marksAt b 580 20, marksAt b 584 128, marksAt b 600 512, marksAt b 664 1280, marksAt b 864 2,
   (upTo 32).map fun g => leAt b (824 + g / 2) 1 / 16 ^ (g % 2) % 16⟩

/-- The marks of two reports together, with the caps of the first. -/
def Marks.join (a b : Marks) : Marks :=
  let or (n : Nat) (x y : List Nat) : List Nat := if y.isEmpty then x else (upTo n).filter fun i => x.contains i || y.contains i
  ⟨or 4096 a.pip b.pip, or 32 a.gallery b.gallery, or 20 a.stack b.stack, or 128 a.port b.port, or 512 a.lane b.lane, or 1280 a.pch b.pch,
   or 2 a.host b.host, a.caps⟩

/-- The rules of R467 that follow from marks of smaller units: a gallery with more than 8 defective pips or no cap, a stack
with more than 16 defective pseudo-channels, a port without a good lane; what belongs to a bad gallery or stack. -/
def Marks.derive (m : Marks) : Marks :=
  let bad (size : Nat) (l : List Nat) (u : Nat) : Nat := (l.filter fun x => x / size == u).length
  let gal := (upTo 32).filter fun g => m.gallery.contains g || decide (8 < bad 128 m.pip g) || m.caps.getD g 0 == 0
  let stack := (upTo 20).filter fun k => m.stack.contains k || decide (16 < bad 64 m.pch k)
  let port := (upTo 128).filter fun n => m.port.contains n || bad 4 m.lane n == 4
  { m with gallery := gal, stack := stack, port := port
           pip := (upTo 4096).filter fun p => m.pip.contains p || gal.contains (p / 128)
           pch := (upTo 1280).filter fun p => m.pch.contains p || stack.contains (p / 64) }

/-- The 1,024 bytes of a report (R468). -/
def Marks.report (m : Marks) (source starts time : Nat) : List Byte :=
  let body := toLE 4 0x4E4C5046 ++ toLE 1 1 ++ toLE 1 2 ++ toLE 1 R.ID_PART_STEPPING.reset ++ toLE 1 source ++ toLE 8 starts
    ++ toLE 8 time ++ toLE 40 0 ++ markBytes 4096 m.pip ++ markBytes 32 m.gallery ++ markBytes 32 m.stack ++ markBytes 128 m.port
    ++ markBytes 512 m.lane ++ markBytes 1280 m.pch ++ toLE 16 (packBits (m.caps.map fun c => (4, c)))
    ++ ((upTo 4).map fun w => toLE 2 (goodPch m.pch w)).foldl (· ++ ·) []
    ++ ((upTo 4).map fun w => toLE 4 (framesFor (goodPch m.pch w))).foldl (· ++ ·) [] ++ markBytes 8 m.host ++ toLE 155 0
  body ++ toLE 4 (crc32c (body ++ toLE 4 0))

/-- The marks of the report in force. -/
def marksNow (s : State) : Marks :=
  ⟨s.boot.pipBad, s.boot.galleryBad, s.boot.stackBad, s.boot.portBad, s.boot.laneBad, s.boot.pchBad, s.boot.hostBad,
   (upTo 32).map (rget s R.GALLERY_CLK_CAP)⟩

/-- Add a measurement to a register (R435). -/
def extendM (i : Nat) (d : List Byte) (s : State) : State :=
  { s with sec := { s.sec with meas := s.sec.meas.set i (Config.sha3 (s.sec.meas.getD i [] ++ d)) } }

/-- A report is written: its marks are in force and M6 measures it. -/
def writeReport (m : Marks) (source : Nat) (s : State) : State :=
  let b := m.report source s.boot.coldStarts s.clk.now
  extendM 6 (Config.sha3 b)
    { s with boot := { s.boot with fpr := b, pipBad := m.pip, galleryBad := m.gallery, stackBad := m.stack, portBad := m.port
                                   laneBad := m.lane, pchBad := m.pch, hostBad := m.host } }

/-- The report of a warm reset: the previous one with the marks raised since (R469). -/
def warmReport (worn failed : List Nat) (s : State) : State :=
  let m := marksNow s
  let lanes := (upTo 512).filter fun l => m.lane.contains l || failed.contains l
  let gals := (upTo 32).filter fun g => m.gallery.contains g || worn.contains g
  let ports := (upTo 128).filter fun n => m.port.contains n || (upTo 4).all fun i => lanes.contains (4 * n + i)
  writeReport { m with gallery := gals, lane := lanes, port := ports
                       pip := (upTo 4096).filter fun p => m.pip.contains p || gals.contains (p / 128) } 1 s

/-! ## The boot chain (R436) -/

/-- The applied frame of a new part (R439). -/
def ProtFrame.newPart : ProtFrame :=
  { ProtFrame.empty with host0 := ⟨true, true, 0x7FFF, 0⟩, host1 := ⟨true, true, 0x7FFF, 0⟩ }

/-- A kind runs from a bank. -/
def runBank (k i : Nat) (s : State) : State :=
  let u := updOf s k
  let b := (u.bank i).bytes k
  setUpd k { u with runVersion := imageVersion b, runSvn := imageSvn b, runBank := i, bootTrial := u.state == 4 && i != u.active } s

/-- D of the image that a kind runs. -/
def runDigest (s : State) (k : Nat) : List Byte := imageDigest (((updOf s k).bank (updOf s k).runBank).bytes k)

/-- The Shell's bank: the one named; where a trial image fails, `ACTIVE`, and the trial is over; where that fails too, the
other (R478, R481). -/
def shellBank (s : State) : Option (Nat × State) :=
  let ok (t : State) (i : Nat) : Bool := bankOk t 1 ((updOf t 1).bank i)
  let w := (updOf s 1).startBank
  if ok s w then some (w, s)
  else
    let t := fallBackAll s
    let a := (updOf t 1).active
    if ok t a then some (a, t) else if ok t (1 - a) then some (1 - a, t) else none

/-- The licence of the flash region applies if it passes (R442). -/
def bootLicence (s : State) : State :=
  let b := s.sec.licenceFlash
  let l := if licenceOk s b then some (licenceOf b) else none
  extendM 5 ((l.map (·.digest)).getD (List.replicate 32 0#8)) { s with sec := { s.sec with licence := l } }

/-- A frame is applied: its signer is enrolled where no authority is, and `NEXT_AUTH` changes the authority (R439). -/
def applyFrame (f : ProtFrame) (s : State) : State :=
  let auth := if f.nextAuth.all (· == 0#8) then some (s.sec.authority.getD f.signer) else some f.nextAuth
  { s with sec := { s.sec with frame := f, authority := auth, stagedFrame := [] }, boot := { s.boot with frameNew := true } }

/-- The staged frame applies if it passes; then the frame in force is measured and the BOOT fields are written. -/
def bootFrame (s : State) : State :=
  let s1 := if s.sec.frame.signer.isEmpty then { s with sec := { s.sec with frame := ProtFrame.newPart } } else s
  let s2 := if s1.sec.stagedFrame.isEmpty then s1
    else match frameCheck s1 s1.sec.stagedFrame with
      | .ok f => applyFrame f s1
      | .error c => rset R.FRAME_INFO_FRAME_REFUSED 0 c s1
  let s3 := if s2.sec.frame.signer.isEmpty then s2 else extendM 4 s2.sec.frame.digest s2
  rset R.SHELL_STATE_BOOT_LOCK 0 1 (rset R.NODE_SELF_NODE 0 s3.sec.frame.nodeSelf s3)

/-- Load the image of a kind and measure it n times; none where it fails R433. -/
def bootImage (k reg n : Nat) (s : State) : Option State :=
  let i := (updOf s k).startBank
  if bankOk s k ((updOf s k).bank i) then
    let s1 := runBank k i s
    some (each (upTo n) (fun _ t => extendM reg (runDigest s1 k) t) s1)
  else none

/-- The link image of the boot chain, after the management image has begun. -/
def bootLinks (s : State) : State × Bool :=
  match bootImage 3 3 4 s with
  | none => (s, (updOf s 3).state == 4)
  | some s1 => ({ s1 with boot := { s1.boot with bootDone := true } }, false)

/-- The management image of the boot chain. -/
def bootMgmt (s : State) : State × Bool :=
  match bootImage 2 2 1 s with
  | none => (s, (updOf s 2).state == 4)
  | some s1 => bootLinks { s1 with boot := { s1.boot with mgmtReleased := some s1.clk.now } }

/-- The Shell firmware of bank `i` begins: the licence and the frame are read. -/
def bootShell (i : Nat) (s : State) : State :=
  let s1 := runBank 1 i s
  let s2 := bootFrame (bootLicence (extendM 1 (runDigest s1 1) s1))
  rset R.START_STATUS_TRIAL 0 (b2n (onTrial s2)) s2

/-- The boot chain after the boot ROM is measured. -/
def bootRom (s : State) : State × Bool :=
  match (if s.boot.descOk && s.pkg.recoveryN then shellBank s else none) with
  | none => (rset R.START_STATUS_PHASE 0 5 s, false)
  | some (i, s1) => bootMgmt (bootShell i s1)

/-- The chain up to the release of the link controllers, and whether a trial image failed. A switch whose `ACTIVE` image of
another kind than Shell fails stays in `BOOT`: nothing runs that image (R433). -/
def bootChain (s : State) : State × Bool :=
  bootRom (extendM 0 Config.romDigest { s with sec := { s.sec with meas := List.replicate 8 (List.replicate 32 0#8) } })

end Sys2Proof.Machine
end

