-- ==== Sys2Proof/Machine/Reset.lean ====
section
/-! DEFINITION. Cold starts and warm resets: what each keeps and loses (R460 to R463, R466, R469, R470, R511). -/
namespace Sys2Proof.Machine

/-! ## Causes (R460) -/

def causePower : Nat := 0
def causeResetN : Nat := 1
def causeHost : Nat := 2
def causeHeartbeat : Nat := 3
def causeTrial : Nat := 4
def causeThermal : Nat := 5
def causeSram : Nat := 6
def causeRecovery : Nat := 7

/-- A credential slot after a reset: only counters above the sealed value plus 65,536 are taken (R458). -/
def HoloneSlot.afterReset (x : HoloneSlot) : HoloneSlot := ⟨x.key, x.sealed + 65536, x.sealed, [], none, 0⟩

/-- What the Shell keeps across every reset: flash and fuses. -/
def keptShell (x : Shell) : Shell :=
  { Shell.reset with frame := x.frame, authority := x.authority, endorsement := x.endorsement, stagedFrame := x.stagedFrame
                     licenceFlash := x.licenceFlash, fuseSvn := x.fuseSvn, revokedFw := x.revokedFw, revokedLic := x.revokedLic
                     holone := x.holone.map HoloneSlot.afterReset }

/-- What start-up keeps across every reset: flash. -/
def keptBoot (b : Boot) : Boot :=
  { Boot.reset with upd := b.upd, descOk := b.descOk, descSeq := b.descSeq, pendPch := b.pendPch, pendStack := b.pendStack
                    coldStarts := b.coldStarts, fuseMarks := b.fuseMarks, saved := b.saved, savedWant := b.savedWant }

/-- The block at T0 of a cold start: flash, fuses and the levels of the pins are kept, everything else has its reset value
(R462). `savedWant` is dropped: what was not written is lost. -/
def coldState (s : State) : State :=
  { State.reset with
    sec := keptShell s.sec
    boot := { keptBoot s.boot with savedWant := [] }
    pkg := { Package.reset with pwrok := s.pkg.pwrok, holdup := s.pkg.holdup, sealed := s.pkg.sealed, recoveryN := s.pkg.recoveryN
                                cabAbsent := s.pkg.cabAbsent }
    out := s.out, freeCtr := s.freeCtr, nextId := s.nextId, pending := s.pending }

/-! ## Warm reset (R462) -/

/-- Read-only registers that a warm reset keeps. -/
def warmRo : List Fld :=
  [R.EPOCH_NOW_EPOCH, R.TIME_STATUS_TIME_STATE, R.TIME_STATUS_OFFSET_NS, R.TIME_STATUS_SYNC_PORT, R.S0_WING_FRAMES_TOTAL, R.S0_WING_GOOD_PCH,
   R.GALLERY_CLK_CAP, R.AGE_SLACK_SLACK_PS, R.AGE_VOFF_VOFF, R.AGE_STATUS_CAP_BIRTH, R.AGE_STATUS_WORN, R.AGE_STATUS_LAST_MAINT,
   R.TBL_STATUS_READY, R.TBL_STATUS_NPINS, R.TBL_STATUS_SLOTS_FREE, R.TBL_VER_LIVE_VER, R.TBL_PIN0_VER, R.TBL_PIN1_VER, R.TBL_PIN2_VER,
   R.TBL_PIN3_VER, R.GRP_STATE, R.GRP_SERIAL, R.LOST_WR_COUNT, R.LOST_OVER_COUNT, R.ROUTE_STATUS_GEN_LIVE, R.RETIRE_NS_TIME_NS,
   R.WS_STATE_BUF_WING, R.THERM_STATUS_TJ_MAX, R.THERM_STATUS_HBM_MAX, R.THERM_STATUS_EFF_LIMIT_W, R.THERM_STATUS_THROTTLED,
   R.THERM_STATUS_ALERT, R.THERM_STATUS_HBM_HOT, R.START_STATUS_WARM_RESETS]

/-- Consumer pointers of rings that a warm reset empties. -/
def ringRds : List Fld := [R.FAULT_RD_COUNT, R.SFAULT_RD_COUNT, R.STAGE_RD, R.EVTO_RD, R.EVTP_RD]

/-- A warm reset keeps a register: live RW and RWS values, and the state above. -/
def warmKeeps (k : Nat) : Bool :=
  match fieldOfKey k with
  | some (f, _) => (f.acc == .rw || f.acc == .rws || warmRo.contains f) && !ringRds.contains f
  | none => false

/-- The register file across a warm reset: staged copies are discarded and the stage report is cleared. -/
def warmRegs (r : RegFile) : RegFile :=
  ⟨r.live.filter fun p => warmKeeps p.1, [], [], [], [], r.retainHist⟩

/-- The clock: time and epochs keep counting. -/
def warmClock (c : Clock) : Clock :=
  { Clock.reset with now := c.now, tB := c.tB, eB := c.eB, nextB := c.nextB, nextLen := c.nextLen, nextAt := c.nextAt, cutoff := c.cutoff
                     hops := c.hops, gmNode := c.gmNode, holdSince := c.holdSince, everLocked := c.everLocked }

/-- The Hall: only the routing tables are kept, the `OLD` generation retired. -/
def warmHall (h : Hall) : Hall :=
  let g (x : GenState) : GenState := match x with | .live => .live | _ => .retired
  { Hall.reset with gen0 := g h.gen0, gen1 := g h.gen1, routes := h.routes, sets := h.sets, stRoutes := h.stRoutes, stSets := h.stSets }

/-- A token-stream context after a warm reset: unverified (R315). -/
def StreamCtx.unverified (x : StreamCtx) : StreamCtx :=
  { x with lstate := 5, step := .verify, pulled := 0, srcBlocks := [], part4k := 0, casId := none, casTries := 0, pollId := none, pollOld := false
           pullId := none, nextPoll := 0, cmd := none }

/-- A granule whose move a warm reset breaks off. -/
def Granule.still (x : Granule) : Granule := { x with moving := false }

/-- The pool: requests, moves and lower-stair operations are gone; its contents and tables are kept. -/
def warmPool (p : Pool) : Pool :=
  { p with map := tmap p.map fun _ x => x.still, moves := [], freeing := [], ops := [], reqs := []
           streams := tmap p.streams fun _ x => x.unverified
           trays := tmap p.trays fun _ x => { x with belowSince := none, errs := [] } }

/-- A table: holds of endpoints and instances are released, writes that have not flipped are void. -/
def warmTable (x : Table) : Table := { x with holds := [], writes := [] }

/-- Registers of the tables after that. -/
def warmTables (s : State) : State :=
  each s.tbl.run (fun p t =>
    syncPins p.1 (radd R.TBL_STATUS_SLOTS_FREE p.1 (takenSlots p.2).length (setTbl p.1 (warmTable p.2) t))) { s with tbl := { s.tbl with batches := [] } }

/-- Saved settings of a port, as a warm reset finds them: used only where their digest matches the previous report
(R470). -/
def warmSaved (s : State) (n : Nat) : Tab (List Byte) :=
  match tget s.boot.saved n with
  | some r => if r.digest = Config.sha3 s.boot.fpr then r.lanes else []
  | none => []

/-- The ports: all `DOWN`, with their saved settings. -/
def warmLinks (s : State) : Tab LinkPort := s.boot.saved.map fun p => (p.1, { LinkPort.down with saved := warmSaved s p.1, stateSince := s.clk.now })

/-- Some saved settings are refused. -/
def savedRefused (s : State) : Bool := s.boot.saved.any fun p => p.2.digest != Config.sha3 s.boot.fpr

/-- The block at T0 of a warm reset (R462). Unfinished holdings of the tables are released first, and scrubs keep what they
have zeroed (R306). -/
def warmState (s0 : State) : State :=
  let s := warmTables (each (s0.pool.extents.filter fun e => e.2.state == 4) (fun e => scrubSoFar e.1 e.2) s0)
  let old := (match s.hall.gen0 with | .old _ => true | _ => false) || (match s.hall.gen1 with | .old _ => true | _ => false)
  let t : State :=
    { State.reset with
      clk := warmClock s.clk
      rf := warmRegs s.rf
      rings := { s.rings with fault := [], sfault := [], gdetail := [], stage := [], evOwner := [], evPart := [] }
      hall := warmHall s.hall
      track := { State.reset.track with answers := (s.track.answers.filter fun a => !a.pending).map fun a => { a with waiting := [] }
                                        acceptFrom := s.track.acceptFrom, barred := s.track.barred }
      pool := warmPool s.pool
      coh := { s.coh with snoops := [] }
      seed := { State.reset.seed with slots := s.seed.slots, nextVersion := s.seed.nextVersion }
      tbl := s.tbl
      ws := ⟨tmap s.ws.plans fun _ x => Plan.idle x.frames x.cfg⟩
      link := warmLinks s
      res := ⟨[], s.res.grants, s.res.seen, [], s.res.remaps, [], none, []⟩
      sec := { keptShell s.sec with jobCtr := s.sec.jobCtr, jobMsg := s.sec.jobMsg }
      boot := { keptBoot s.boot with fpr := s.boot.fpr, pipBad := s.boot.pipBad, galleryBad := s.boot.galleryBad
                                     stackBad := s.boot.stackBad, portBad := s.boot.portBad, laneBad := s.boot.laneBad
                                     pchBad := s.boot.pchBad, hostBad := s.boot.hostBad, readyOnce := true, t0 := s.clk.now }
      pkg := { s.pkg with phase := .start, asleep := Package.reset.asleep, waking := [], idleSince := [], govAt := none
                          throttledAt := if rbit s R.THERM_STATUS_THROTTLED 0 then some s.clk.now else none }
      out := s.out, freeCtr := s.freeCtr, nextId := s.nextId, pending := s.pending }
  let t1 := if old then rset R.RETIRE_NS_TIME_NS 0 s.clk.now t else t
  rset R.START_STATUS_WARM 0 1 (rset R.START_STATUS_WARM_RESETS 0 (rget s R.START_STATUS_WARM_RESETS 0 + 1)
    (rset R.START_STATUS_FULL_TRAIN 0 (b2n (savedRefused s)) t1))

/-- Galleries reported worn, and lanes marked `FAILED`, since the report. -/
def wornNow (s : State) : List Nat := (upTo 32).filter fun g => rbit s R.AGE_STATUS_WORN g
def failedNow (s : State) : List Nat := (upTo 512).filter fun l => rget s R.LANE_STATE l == 3

/-- A standalone switch counts alone; every other enters holdover (R466). -/
def warmTime (s : State) : State := if timeState s = 0 ∧ timeRole s = 2 then s else setTimeState 3 s

/-! ## Taking a reset -/

/-- One start up to the end of the boot chain, and whether a trial image failed. After a cold start's chain comes the
self-test; after a warm reset's the report and the training. -/
def startOnce (warm : Bool) (cause : Nat) (fallback : Bool) (s : State) : State × Bool :=
  let a := rset R.START_STATUS_CAUSE 0 cause (resetUpds fallback (if warm then warmState s else coldState s))
  let (b, failed) := bootChain a
  if !b.boot.bootDone then (b, failed)
  else if warm then
    let c := warmTime (warmReport (wornNow s) (failedNow s) b)
    (rset R.START_STATUS_PHASE 0 3 { c with boot := { c.boot with testDone := true } }, false)
  else (rset R.START_STATUS_PHASE 0 1 b, false)

/-- A reset is taken. One that asks to be warm is performed cold before the first `READY` of a cold start (R461). A trial
image that fails R433 ends the start with a warm reset at which every kind of the trial falls back (R478). -/
def takeReset (warm : Bool) (cause : Nat) (fallback : Bool) (s : State) : State :=
  let (a, failed) := startOnce (warm && s.boot.readyOnce) cause fallback s
  if failed then (startOnce a.boot.readyOnce causeTrial true a).1 else a

/-- The boot chain of the start that `State.reset` stands at runs before anything that needs it. -/
def ensureBoot (s : State) : State :=
  if rget s R.START_STATUS_PHASE 0 = 0 ∧ !rbit s R.SHELL_STATE_BOOT_LOCK 0 ∧ running s then
    let (b, failed) := bootChain s
    if failed then (startOnce false causeTrial true b).1
    else if b.boot.bootDone then rset R.START_STATUS_PHASE 0 1 b else b
  else s

/-! ## What calls for one -/

/-- The reset of a host command that is due, 1 ms after its completion (R493); in recovery mode, that of an accepted Shell
image (R481). -/
def resetDue (s : State) : Option (Bool × Nat) :=
  match s.host.h0.resetAt, s.host.h1.resetAt with
  | some a, some b => some (if b.2 < a.2 then b else a)
  | some a, none => some a
  | none, x => x

/-- Take it. -/
def hostReset (warm : Bool) (at_ : Nat) (s : State) : State :=
  takeReset warm (if rget s R.START_STATUS_PHASE 0 = 5 then causeRecovery else causeHost) false (atTime at_ s)

/-- WARM_RESET (R462): a warm reset that a host command has asked for comes due, or a warm reset is caused. -/
def execWarmReset (s : State) : Out :=
  whenRunning (fun t =>
    match resetDue t with
    | some (true, at_) => hostReset true at_ t
    | some (false, _) => t
    | none => if rget t R.START_STATUS_PHASE 0 = 5 then t else takeReset true causeHost false t) s

/-- With nothing commanded a nanosecond passes (log 2), and a reset that has come due is taken. -/
def tick (s : State) : State :=
  let t := idle s
  match (if running t then resetDue t else none) with
  | some (w, at_) => if at_ ≤ t.clk.now then hostReset w at_ t else t
  | none => t

/-- MGMT_HEARTBEAT_LOSS (R460). -/
def execMgmtHeartbeatLoss (s : State) : Out :=
  whenRunning (fun t => if t.boot.mgmtReleased.isSome then takeReset true causeHeartbeat false t else t) s

/-- TRIAL_TIMEOUT (R478): `READY` is not reached within 120 s of T0 on a cold start, or 30 s on a warm one. -/
def execTrialTimeout (s : State) : Out :=
  whenRunning (fun t =>
    if !onTrial t ∨ isReady t then t
    else takeReset true causeTrial true (atTime (t.boot.t0 + (if rbit t R.START_STATUS_WARM 0 then 30000000000 else 120000000000)) t)) s

/-- RESET_N_LOW (R506): a pulse of at least 10 µs is a cold start; while `TRIPPED` it is ignored (R519). -/
def execResetNLow (ns : Nat) (s : State) : Out := whenRunning (fun t => if 10000 ≤ ns then takeReset false causeResetN false t else t) s

/-- SHELL_SRAM_ERROR (R460). -/
def execShellSramError (s : State) : Out := whenRunning (takeReset false causeSram false) s

/-- The main domain has stopped: only flash, the always-on domain and the pins keep state (R510). -/
def mainStopped (phase : PkgPhase) (s : State) : State :=
  let t := coldState s
  { t with clk := s.clk, pkg := { t.pkg with phase := phase, pwrok := false } }

/-- PWROK_FALL (R510). During a trip the rails are removed, and step 4 of R518 decides. -/
def execPwrokFall (s : State) : Out :=
  match s.pkg.phase with
  | .start | .ready => .next (mainStopped .standby s)
  | .tripped => .next { s with pkg := { s.pkg with pwrok := false } }
  | _ => .next s

/-- PWROK_RISE (R510, R518): a cold start, after a trip only once `THERMTRIP_N` is released. -/
def execPwrokRise (s : State) : Out :=
  match s.pkg.phase with
  | .standby => .next (takeReset false causePower false { s with pkg := { s.pkg with pwrok := true } })
  | .tripped =>
    if s.pkg.thermtrip ∨ s.pkg.pwrok then .next s
    else .next (takeReset false causeThermal false { s with pkg := { s.pkg with pwrok := true } })
  | _ => .next s

/-- STANDBY_GROUP_UP (R460, R511). -/
def execStandbyGroupUp (s : State) : Out :=
  match s.pkg.phase with
  | .off => .next { s with clk := Clock.reset, pkg := { s.pkg with phase := .standby, pwrok := false } }
  | _ => .next s

/-- STANDBY_GROUP_DOWN (R511): nothing runs, and time stops. -/
def execStandbyGroupDown (s : State) : Out :=
  match s.pkg.phase with
  | .off => .next s
  | _ =>
    let t := mainStopped .off s
    .next { t with clk := Clock.reset }

end Sys2Proof.Machine
end

