-- ==== Sys2Proof/Machine/StartUp.lean ====
section
/-! DEFINITION. Start-up after the boot chain: self-test, host ports, `READY`, hold-up and saved settings (R434, R463 to R470, R480,
R482). -/
namespace Sys2Proof.Machine

/-! ## Self-test (R464, R467, R468) -/

/-- The offsets and slacks that the self-test of a gallery plans for its points: the manual bounds them and gives no
values (R428, R429). -/
def birthAge (g cap : Nat) (s : State) : State :=
  let one (acc : List Nat × List Nat × State) (_ : Nat) : List Nat × List Nat × State :=
    let (v, t) := fresh acc.2.2
    let (w, u) := fresh t
    (acc.1 ++ [v % 13], acc.2.1 ++ [max (rget s R.AGE_CFG_MIN_SLACK_PS 0) (w % 256)], u)
  let r := (upTo cap).foldl one ([], [], s)
  rset R.AGE_VOFF_VOFF g (packBits (r.1.map fun x => (4, x))) (rset R.AGE_SLACK_SLACK_PS g (packBits (r.2.1.map fun x => (8, x))) r.2.2)

/-- A gallery takes the cap of the report. -/
def birthCap (caps : List Nat) (g : Nat) (s : State) : State :=
  let c := caps.getD g 0
  birthAge g (min c 5) (rset R.GALLERY_CLK_CAP g c (rset R.AGE_STATUS_CAP_BIRTH g c s))

/-- A wing takes its layout (R258). -/
def birthWing (pch : List Nat) (w : Nat) (s : State) : State :=
  rset R.S0_WING_GOOD_PCH w (goodPch pch w) (rset R.S0_WING_FRAMES_TOTAL w (framesFor (goodPch pch w)) s)

/-! ## Rails set by AVSBus (R429, R508) -/

/-- Largest voltage offset of a gallery over its points, in steps of 5 mV. -/
def galleryOffset (s : State) (g : Nat) : Nat := (upTo 5).foldl (fun m p => max m (bitsOf (rget s R.AGE_VOFF_VOFF g) (4 * p) 4)) 0

/-- Voltage of a rail in mV: of a wing its nominal 750 and the largest offset among its galleries, of the Hall 750. -/
def railMv (s : State) (rail : Nat) : Nat :=
  if rail = 4 then 750 else 750 + 5 * (upTo 8).foldl (fun m i => max m (galleryOffset s (8 * rail + i))) 0

/-- Set the rails whose voltage is to change. -/
def setRails (s : State) : State :=
  each (upTo 5) (fun r t =>
    if t.pkg.rails.getD r 0 = railMv t r then t
    else emit (.avs r (railMv t r)) { t with pkg := { t.pkg with rails := t.pkg.rails.set r (railMv t r) } }) s

/-- The findings of the self-test, laid out as bytes 64 to 864 of a report, and the marks of the fuse bank become the report of
this start; marks pending in flash have had their retest. -/
def selfTest (findings : List Byte) (s : State) : State :=
  let m := ((Marks.of findings).join (Marks.of s.boot.fuseMarks)).derive
  let s1 := { s with boot := { s.boot with coldStarts := s.boot.coldStarts + 1, pendPch := [], pendStack := [], testDone := true } }
  let s2 := writeReport m 0 s1
  setRails (each (upTo 32) (birthCap m.caps) (each (upTo 4) (birthWing m.pch) (rset R.START_STATUS_PHASE 0 3 s2)))

/-- SELFTEST_DONE (R467): Stair 0 of a cold start lists nothing, so it reads as zeros (R462). -/
def execSelftestDone (bytes : List Byte) (s : State) : Out :=
  whenRunning (fun t0 =>
    let t := ensureBoot t0
    if rget t R.START_STATUS_PHASE 0 = 1 ∧ t.boot.bootDone then raiseIrq 7 (selfTest bytes t) else t) s

/-! ## Host ports (R482) -/

/-- HOST_PORT_TRAINED: a port at another rate, below x16, or marked bad keeps its BARs disabled and shows the cause. The code
of a rate that `RATE` does not name is open (log 46). Where several causes hold, the manual names none to be shown first:
`CAUSE` is the rate's, else the width's, else that of `HOST_BAD` (DESIGN CHOICE, log 171). -/
def execHostPortTrained (h width speed : Nat) (s : State) : Out :=
  whenRunning (fun t0 =>
    let t := ensureBoot t0
    if 1 < h ∨ (!t.boot.bootDone ∧ !(rget t R.START_STATUS_PHASE 0 = 5 ∧ h = 0)) then t
    else
      let bad := t.boot.hostBad.contains h
      let cause := if speed ≠ 32 ∧ speed ≠ 64 then 1 else if width < 16 then 2 else if bad then 3 else 0
      let (code, t1) := if speed = 32 then (5, t) else if speed = 64 then (6, t) else fresh t
      let t2 := setHost h { hostPort t1 h with linkUp := true } t1
      rset R.HOST_PORT_RATE h code (rset R.HOST_PORT_WIDTH h width (rset R.HOST_PORT_CAUSE h cause (rset R.HOST_PORT_BARS_EN h (b2n (cause == 0)) t2)))) s

/-! ## READY (R434, R463, R465, R466, R475) -/

/-- The fuse minimum of a kind rises to the running image's `SVN` where the image asks for it; it never falls. -/
def commitSvn (k : Nat) (s : State) : State :=
  let u := updOf s k
  let b := (u.bank u.runBank).bytes k
  if bitAt (leAt b 6 2) 0 then
    { s with sec := { s.sec with fuseSvn := s.sec.fuseSvn.set (k - 1) (max (s.sec.fuseSvn.getD (k - 1) 0) u.runSvn) } }
  else s

/-- A trial that reaches `READY`: its bank becomes `ACTIVE`. -/
def trialGood (s : State) : State :=
  if onTrial s then
    let up (u : Upd) : Upd := if u.state = 4 then { u with state := 0, active := u.runBank, try_ := false, bootTrial := false } else u
    raiseIrq 7 { s with boot := { s.boot with upd := s.boot.upd.map up, descSeq := s.boot.descSeq + 1 } }
  else s

/-- What a warm reset left in progress goes on: draining extents end their drain, scrubs go on with the first granule not yet
zeroed, leases start afresh, releasing caches are
snooped again, and extents of partitions that a new frame does not enable are fenced (R306, R307, R339, R463). -/
def resumePool (s : State) : State :=
  let s0 := each (s.pool.extents.filter fun e => e.2.state == 4) (fun e => setExtent e.1 { e.2 with tD := s.clk.now }) s
  let s1 := each (s0.pool.extents.filter fun e => e.2.state == 2 || e.2.state == 3) (fun e => leaveDraining e.1) s0
  let lease (x : Lease) : Lease := if x.state = 1 then { x with expiryUs := nowUs s1 + 1000 * rget s1 R.EXT_CFG_LEASE_MS 0 } else x
  let s2 := { s1 with pool := { s1.pool with leases := tmap s1.pool.leases fun _ x => lease x } }
  let s3 := each (s2.coh.slots.filter fun c => c.2.state == 2) (fun c => releaseCache c.2.node) s2
  if s3.boot.frameNew then
    each (s3.pool.extents.filter fun e => e.2.state == 1 && !s3.sec.frame.enabled.contains e.2.part) (fun e => fenceExtent e.1)
      { s3 with boot := { s3.boot with recheck := true } }
  else s3

/-- `PHASE` becomes `READY`. A grandmaster acquires after any start (R17). -/
def enterReady (s : State) : State :=
  let s1 := each kinds commitSvn (setPhase 4 (rset R.START_TIME_READY_MS 0 ((s.clk.now - s.boot.t0) / 1000000) s))
  let s2 := trialGood { s1 with pkg := { s1.pkg with phase := .ready }, track := { s1.track with acceptFrom := nowUs s1 } }
  let s3 := if rbit s2 R.START_STATUS_WARM 0 then resumePool s2 else s2
  let s4 := if rbit s3 R.START_STATUS_WARM 0 && timeRole s3 == 1 then startAcquiring s3 else s3
  each (upTo 128) tryUp { s4 with boot := { s4.boot with readyOnce := true } }

/-- The start has come as far as the report of the management processor. -/
def startDone (s : State) : Bool := rget s R.START_STATUS_PHASE 0 == 3 && s.boot.bootDone && s.boot.testDone

/-- A follower after a warm reset waits until it is `LOCKED` (R466). -/
def waitsLock (s : State) : Bool := rbit s R.START_STATUS_WARM 0 && timeRole s == 0 && timeState s != 2

/-- STARTUP_READY (R465): the management processor reports ready. -/
def execStartupReady (s : State) : Out := whenRunning (fun t => if startDone t ∧ !waitsLock t then enterReady t else t) s

/-- FOLLOWER_READY_TIMEOUT (R466): 5 s after its first port reached `EXCHANGE` it is `READY` in `HOLDOVER`. -/
def execFollowerReadyTimeout (s : State) : Out :=
  whenRunning (fun t =>
    match t.boot.firstExchange with
    | some t0 => if startDone t ∧ waitsLock t then enterReady (atTime (t0 + 5000000000) t) else t
    | none => t) s

/-! ## Hold-up and saved settings (R470, R480) -/

/-- The Holone counters are sealed; pending marks are in flash already. -/
def sealAll (s : State) : State :=
  { s with sec := { s.sec with holone := s.sec.holone.map fun x => { x with sealed := x.counter } }, pkg := { s.pkg with sealed := true } }

/-- HOLDUP_N (R480): a low level asserts it. -/
def execHoldupN (level : Bool) (s : State) : Out :=
  let t : State := { s with pkg := { s.pkg with holdup := !level, sealed := s.pkg.sealed && !level } }
  .next (if level ∨ t.pkg.sealed then t else sealAll t)

/-- A region may be written: ten minutes have passed since its last write. -/
def savedDue (s : State) (n : Nat) : Bool :=
  match tget s.boot.saved n with
  | some r => decide (r.at_ + 600000000000 ≤ s.clk.now)
  | none => true

/-- Write the settings of a region, with the digest of the report in force. -/
def saveRegion (n : Nat) (s : State) : State :=
  if savedDue s n then
    { s with boot := { s.boot with saved := tset s.boot.saved n ⟨s.clk.now, Config.sha3 s.boot.fpr, (linkOf s n).saved⟩
                                   savedWant := s.boot.savedWant.filter (· != n) } }
  else s

/-- SAVED_SETTINGS_WRITE (R470): not while the hold-up input is asserted (R480). -/
def execSavedSettingsWrite (s : State) : Out := whenRunning (fun t => if t.pkg.holdup then t else each t.boot.savedWant saveRegion t) s

end Sys2Proof.Machine
end

