-- ==== Sys2Proof/Machine/Package.lean ====
section
/-! DEFINITION. The package: thermal conditions, the effective power limit, trips, the I3C target and the 1PPS signals (R505, R507,
R511, R515 to R519). -/
namespace Sys2Proof.Machine

/-! ## The effective limit (R517, R519) -/

/-- Whole µs with `THROTTLED` set up to now are counted. -/
def countThrottle (s : State) : State :=
  match s.pkg.throttledAt with
  | none => s
  | some t0 =>
    let us := (s.clk.now - t0) / 1000
    radd R.THROTTLE_US_COUNT 0 us { s with pkg := { s.pkg with throttledAt := some (t0 + 1000 * us) } }

/-- The effective limit takes a value; `THROTTLED` says whether it is below `LIMIT_W`. -/
def setEffLimit (v : Nat) (s0 : State) : State :=
  let s := countThrottle s0
  let t := decide (v < rget s R.PKG_POWER_LIMIT_W 0)
  let at_ := if t then some (s.pkg.throttledAt.getD s.clk.now) else none
  rset R.THERM_STATUS_EFF_LIMIT_W 0 v (rset R.THERM_STATUS_THROTTLED 0 (b2n t) { s with pkg := { s.pkg with throttledAt := at_ } })

/-- EFF_LIMIT_TICK: at a multiple of 1 ms the limit falls by 50 W, rises by 25 W or holds, between 400 W and `LIMIT_W`. -/
def execEffLimitTick (s : State) : Out :=
  whenRunning (fun t0 =>
    let at_ := nextMultiple 1000000 t0.pkg.effAt t0.clk.now
    if t0.clk.nextB < at_ then t0
    else
      let t := atTime at_ t0
      let eff := rget t R.THERM_STATUS_EFF_LIMIT_W 0
      let lim := rget t R.PKG_POWER_LIMIT_W 0
      let v := if t.pkg.dieHot then max 400 (eff - 50) else if t.pkg.dieCool then min lim (eff + 25) else eff
      setEffLimit (min lim v) { t with pkg := { t.pkg with effAt := some at_ } }) s

/-- `LIMIT_W` commits: during a throttle the effective limit is the lower of the new value and its own, else it is the new
value (R512, R519). `was` is the value before. -/
def limitCommitted (was : Nat) (s : State) : State :=
  let eff := rget s R.THERM_STATUS_EFF_LIMIT_W 0
  let lim := rget s R.PKG_POWER_LIMIT_W 0
  setEffLimit (if eff < was ∨ s.pkg.dieHot then min lim eff else lim) s

/-! ## Sensors (R516) -/

/-- The hottest of the sensors, in tenths of a degree. -/
def hottest (l : List Nat) : Nat := l.foldl max 0

/-- A row of R516 for one value: it begins at or above one mark and ends at or below another. -/
def rowHolds (was : Bool) (on off v : Nat) : Bool := if on ≤ v then true else if v ≤ off then false else was

/-- The stacks for which such a row holds. -/
def stackRow (was : List Nat) (on off : Nat) (l : List Nat) : List Nat :=
  (upTo 20).filter fun k => rowHolds (was.contains k) on off (l.getD k 0)

/-- A trip: `THERMTRIP_N` falls and everything but the always-on domain and the Shell is held in reset (R518). -/
def trip (s : State) : State :=
  let t := mainStopped .tripped s
  emit (.pin .thermtrip false) { t with pkg := { t.pkg with pwrok := s.pkg.pwrok, thermtrip := true } }

/-- The conditions of a sample on a running switch. A stack is above 85 and 95 degrees from the next tenth on. -/
def thermalRows (die hbms : List Nat) (s : State) : State :=
  let tj := 10 * rget s R.THERM_CFG_TJ_THROTTLE 0
  let hot := hottest die
  let hbm := hottest hbms
  let s85 := stackRow s.pkg.stack85 851 820 hbms
  let s95 := stackRow s.pkg.stack95 951 920 hbms
  let alert := if 1100 ≤ hot ∨ 1000 ≤ hbm then true else if hot ≤ 1070 ∧ hbm ≤ 970 then false else s.pkg.thermAlert
  let t : State := { s with pkg := { s.pkg with dieHot := decide (tj ≤ hot) || decide (951 ≤ hbm), dieCool := decide (hot ≤ tj - 30) && decide (hbm ≤ 920)
                                                stack85 := s85, stack95 := s95, thermAlert := alert } }
  let t1 := rset R.THERM_STATUS_HBM_HOT 0 (b2n !s95.isEmpty) (rset R.THERM_STATUS_ALERT 0 (b2n alert) t)
  let t2 := if alert = s.pkg.thermAlert then t1 else emit (.pin .thermAlert !alert) t1
  let t3 := if alert && !s.pkg.thermAlert then emit (.i3c []) t2 else t2
  if 1150 ≤ hot ∨ 1050 ≤ hbm then trip t3 else t3

/-- THERMAL_SAMPLE: every 100 µs, in tenths of a degree (R516). While `TRIPPED` it decides the release. -/
def execThermalSample (temps stemps : List Nat) (w : Nat) (s : State) : Out :=
  match s.pkg.phase with
  | .off | .standby => .next s
  | ph =>
    let t := match s.pkg.sampleAt with | some t0 => atTime (t0 + 100000) s | none => s
    let u := rset R.THERM_STATUS_TJ_MAX 0 (hottest temps / 10) (rset R.THERM_STATUS_HBM_MAX 0 (hottest stemps / 10)
      { t with pkg := { t.pkg with sampleAt := some t.clk.now, power := w, restartOk := decide (hottest temps < 850) } })
    .next (if ph = .tripped then u else thermalRows temps stemps u)

/-- THERMTRIP_RELEASE: every die sensor is below 85 degrees (R518). -/
def execThermtripRelease (s : State) : Out :=
  .next (if s.pkg.phase = .tripped ∧ s.pkg.thermtrip ∧ s.pkg.restartOk then
      emit (.pin .thermtrip true) { s with pkg := { s.pkg with thermtrip := false } }
    else s)

/-! ## The PHY of the service port (R505) -/

/-- Level of `SVC_PHY_RST_N`: low until the management processor runs. It is driven only while `PWROK` is high (R506). -/
def svcPhyRstN (s : State) : Option Bool := if s.pkg.pwrok then some s.boot.mgmtReleased.isSome else none

/-! ## I3C (R507) -/

/-- The register that an index reads. -/
def i3cReg (i : Nat) : Option Nat :=
  match i with
  | 0 => some R.ID_PART_MAGIC.base
  | 1 => some R.START_STATUS_PHASE.base
  | 2 => some R.PKG_POWER_LIMIT_W.base
  | 3 => some R.THERM_STATUS_TJ_MAX.base
  | _ => none

/-- The target answers while its outputs are driven (R506). -/
def i3cOn (s : State) : Bool := s.pkg.pwrok && s.pkg.phase != .off

/-- I3C_PRIVATE_READ. -/
def execI3cPrivateRead (idx : Nat) (s : State) : Out :=
  .next (if i3cOn s then emit (.i3c (toLE 8 (match i3cReg idx with | some a => readWord 2 a s | none => 0))) s else s)

/-- I3C_DYNAMIC_ADDRESS. -/
def execI3cDynamicAddress (val : Nat) (s : State) : Out :=
  .next (if i3cOn s then { s with pkg := { s.pkg with i3cDyn := some (val % 128) } } else s)

/-! ## 1PPS (R15, R505) -/

/-- Nanoseconds of a second. -/
def secondNs : Nat := 1000000000

/-- Offset of the nearest whole second from an instant. -/
def ppsOffset (arr : Nat) : Int := if arr % secondNs ≤ secondNs / 2 then -(arr % secondNs : Int) else secondNs - (arr % secondNs : Int)

/-- PPS_IN_EDGE: a grandmaster with `EXT_PPS_EN` set slews its time towards the edge, at the rate of R16. -/
def execPpsInEdge (arr : Nat) (s : State) : Out :=
  whenRunning (fun t0 =>
    let t := atTime arr t0
    if timeRole t ≠ 1 ∨ !rbit t R.TIME_CTL_EXT_PPS_EN 0 ∨ timeState t ≠ 2 then t
    else
      let o := ppsOffset arr
      showOffset o { t with clk := { t.clk with slew := o } }) s

/-- PPS_OUT_PULSE: 1 µs high at a whole second of fabric time while `LOCKED`. -/
def execPpsOutPulse (s : State) : Out :=
  whenRunning (fun t =>
    let at_ := ceilDiv t.clk.now secondNs * secondNs
    if timeState t ≠ 2 ∨ t.clk.nextB < at_ then t
    else emit (.pin .ppsOut false) (atTime (at_ + 1000) (emit (.pin .ppsOut true) (atTime at_ t)))) s

end Sys2Proof.Machine
end

