-- ==== Sys2Proof/Machine/Update.lean ====
section
/-! DEFINITION. Firmware update: images that arrive by the host or by TFTP, arming and disarming, and recovery mode (R455, R473 to
R479, R481). -/
namespace Sys2Proof.Machine

/-- Bytes of a bank. -/
def bankSize : Nat := 0x800000

/-- `UPD_STATUS` of a kind changes, which vector 7 reports (R501). -/
def moveUpd (k : Nat) (u : Upd) (s : State) : State := raiseIrq 7 (setUpd k u s)

/-- A step is refused with a `RESULT`. -/
def updRefuse (k r : Nat) (s : State) : State := moveUpd k { updOf s k with result := r } s

/-- An image is being written. -/
def writing (s : State) : Bool := s.boot.upd.any fun u => u.state == 1

/-- Why an image of a kind may not begin (R477). -/
def stageRefusal (s : State) (k : Nat) : Option Nat :=
  let u := updOf s k
  if !isReady s then some resNotReady
  else if u.state = 3 ∨ u.state = 4 then some resArmed
  else if writing s then some resBusy
  else if s.pkg.holdup then some resHoldUp
  else none

/-- An image begins: the staging bank is erased and written (R475). -/
def beginImage (k : Nat) (host : Option Nat) (bytes : List Byte) (s : State) : State :=
  let u := updOf s k
  let b := bytes.take bankSize
  moveUpd k { u with state := 1, result := resOK, banks := u.banks.set (1 - u.active) (.written b), pos := b.length, total := bytes.length
                     lastByte := s.clk.now, byHost := host } s

/-- The command that staged an image completes, or its TFTP transfer ends. -/
def imageEnds (k status : Nat) (u : Upd) (s : State) : State :=
  match u.byHost with
  | some h => endB h 0x40 k status [] s
  | none => if status = stOK then s else emit (.tftp (toLE 2 0x0500)) s

/-- The state after the last byte, or after a transfer that stopped. -/
def imageOver (k r : Nat) (s : State) : State :=
  let u := updOf s k
  imageEnds k (if r = resOK then stOK else stIllegal) u (moveUpd k { u with state := if r = resOK then 2 else 0, result := r, byHost := none } s)

/-! ## Recovery mode (R455, R481) -/

/-- An accepted Shell image is written to both banks and the descriptor afresh; the cold start follows. -/
def recoverWith (b : List Byte) (s : State) : State :=
  let up (p : Nat × Upd) : Upd :=
    if p.1 = 0 then { p.2 with state := 0, active := 0, try_ := false, banks := [.written b, .written b] } else { p.2 with active := 0, try_ := false }
  let s1 := { s with boot := { s.boot with upd := (enum' s.boot.upd).map up, descOk := true, descSeq := s.boot.descSeq + 1 } }
  setHost 0 { hostPort s1 0 with resetAt := some (false, s1.clk.now) } s1

/-- The answer to a chunk. -/
def recoveryAnswer (count r : Nat) : List Byte := toLE 4 count ++ toLE 1 r ++ toLE 3 0

/-- A chunk's layout is in order. -/
def chunkForm (req : List Byte) : Bool :=
  let n := req.length - 64
  decide (65 ≤ req.length) && leAt req 0 4 % 64 == 0 && decide (leAt req 4 4 ≤ bankSize) && decide (leAt req 8 1 ≤ 1) && zeroFrom req 9 64
    && (leAt req 8 1 == 1 || n % 64 == 0)

/-- A chunk in recovery mode. -/
def recoveryChunk (req : List Byte) (s : State) : State :=
  let off := leAt req 0 4
  let total := leAt req 4 4
  let got := if off = 0 then [] else s.sec.recov
  let want := if off = 0 then total else s.sec.recovTotal
  if !chunkForm req ∨ off ≠ got.length ∨ total ≠ want then mboxEnd stIllegal [] s
  else
    let b := got ++ req.drop 64
    let hold (x : List Byte) (n : Nat) (t : State) : State := { t with sec := { t.sec with recov := x, recovTotal := n } }
    if leAt req 8 1 = 0 then mboxEnd stOK (recoveryAnswer b.length resOK) (hold b total s)
    else if b.length ≠ total then mboxEnd stIllegal [] (hold [] 0 s)
    else
      let r := imageCheck s 1 b
      if r = resOK then recoverWith b (mboxEnd stOK (recoveryAnswer total r) (hold [] 0 s))
      else mboxEnd stIllegal (recoveryAnswer total r) (hold [] 0 s)

/-- RECOVERY_IMAGE (R455): from H0, in recovery mode only. -/
def execRecoveryImage (h : Nat) (s : State) : Out :=
  withMbox h 10 false (fun req t =>
    if h ≠ 0 ∨ rget t R.START_STATUS_PHASE 0 ≠ 5 then mboxEnd stIllegal [] t else recoveryChunk req t) s

/-! ## Images that arrive (R473, R475, R477) -/

/-- A TFTP error leaves by the service port (RFC 1350, opcode 5). -/
def tftpError (s : State) : State := emit (.tftp (toLE 2 0x0500)) s

/-- TFTP_WRITE_REQUEST: the bytes of the transfer arrive with it. In recovery mode only `shell` is answered. -/
def execTftpWriteRequest (fk : Nat) (bytes : List Byte) (s : State) : Out :=
  whenRunning (fun t =>
    if rget t R.START_STATUS_PHASE 0 = 5 then
      if fk ≠ 1 then tftpError t
      else { t with sec := { t.sec with recov := bytes, recovTotal := bytes.length }, boot := { t.boot with tftp := some 1 } }
    else if !rbit t R.SVC_CFG_TFTP_EN 0 then t
    else if fk < 1 ∨ 3 < fk then tftpError t
    else match stageRefusal t fk with
      | some r => tftpError (updRefuse fk r t)
      | none => beginImage fk none bytes t) s

/-- IMAGE_WRITE_DONE: the last byte is written and the image is checked (R473). -/
def execImageWriteDone (fk : Nat) (s : State) : Out :=
  whenRunning (fun t =>
    if rget t R.START_STATUS_PHASE 0 = 5 then
      if fk = 1 ∧ t.boot.tftp = some 1 then
        let u : State := { t with boot := { t.boot with tftp := none }, sec := { t.sec with recov := [], recovTotal := 0 } }
        if imageCheck t 1 t.sec.recov = resOK then recoverWith t.sec.recov u else tftpError u
      else t
    else if 1 ≤ fk ∧ fk ≤ 3 ∧ (updOf t fk).state = 1 then imageOver fk (stagedCheck t fk ((updOf t fk).other.bytes fk)) t
    else t) s

/-- IMAGE_TRANSFER_STALL: the transfer has stopped for 10 s. The manual names no `RESULT` for it; the unfinished image has no
valid signature. -/
def execImageTransferStall (fk : Nat) (s : State) : Out :=
  whenRunning (fun t =>
    if 1 ≤ fk ∧ fk ≤ 3 ∧ (updOf t fk).state = 1 then
      imageOver fk resBadSignature (atTime ((updOf t fk).lastByte + 10000000000) t)
    else t) s

/-- A stage command of the same host works on the kind. -/
def stageBusy (c : Cmd) (run : List BCmd) : Bool := run.any fun b => b.code == 0x40 && b.obj == c.arg 0 1

/-- Some host's stage command is in progress. -/
def staging (s : State) : Bool := (s.host.h0.running ++ s.host.h1.running).any fun b => b.code == 0x40

/-- IMAGE_STAGE. -/
def execImageStage (h : Nat) (buf : Option (List Byte)) (s : State) : Out :=
  withCmd h 0x40 stageBusy (fun c t =>
    let k := c.arg 0 1
    if k < 1 ∨ 3 < k ∨ !c.restZero 1 then completeWith h c stIllegal t
    else if staging t then completeWith h c stQuota t
    else match stageRefusal t k with
      | some r => completeWith h c stIllegal (updRefuse k r t)
      | none =>
        match buf with
        | none => completeWith h c stLoadFailed t
        | some b => beginImage k (some h) (slice b 0 c.bufLen) (beginB h c k t)) s

/-! ## Arming (R475, R476) -/

/-- The kinds that a mask names. -/
def maskKinds (c : Cmd) : List Nat := kinds.filter fun k => bitAt (c.arg 0 1) k

/-- The mask has no other bit. -/
def maskForm (c : Cmd) : Bool := Nat.land (c.arg 0 1) 0xF1 == 0 && c.restZero 1

/-- A stage command of the same host works on a kind of the mask. -/
def maskBusy (c : Cmd) (run : List BCmd) : Bool := run.any fun b => b.code == 0x40 && (maskKinds c).contains b.obj

/-- Each named kind is refused with a `RESULT`. -/
def refuseKinds (r : Nat) (c : Cmd) (s : State) : State := each (maskKinds c) (fun k => updRefuse k r) s

/-- The set of images with those kinds from their staging banks and the others from their `ACTIVE` banks. -/
def imageSet (s : State) (staged : List Nat) : List (List Byte) :=
  kinds.map fun k => let u := updOf s k; (if staged.contains k then u.other else u.bank u.active).bytes k

/-- The named kinds may be armed together (R476). -/
def armOk (s : State) (ks : List Nat) : Bool :=
  let armed := kinds.filter fun k => (updOf s k).state == 3
  ks.all (fun k => (updOf s k).state == 2) && compatible (imageSet s ks) && compatible (imageSet s (ks ++ armed))

/-- A step on the descriptor is refused in every state but `READY`, and during hold-up (R477). -/
def armRefusal (s : State) : Option Nat := if !isReady s then some resNotReady else if s.pkg.holdup then some resHoldUp else none

/-- The descriptor is written: the named kinds change. -/
def writeKinds (ks : List Nat) (f : Upd → Upd) (s : State) : State :=
  each ks (fun k t => moveUpd k (f (updOf t k)) t) { s with boot := { s.boot with descSeq := s.boot.descSeq + 1 } }

/-- IMAGE_ARM. -/
def execImageArm (h : Nat) (s : State) : Out :=
  withCmdOr (refuseKinds resNotOwner) h 0x41 maskBusy (fun c t =>
    if !maskForm c then completeWith h c stIllegal t
    else match armRefusal t with
      | some r => completeWith h c stIllegal (refuseKinds r c t)
      | none =>
        if armOk t (maskKinds c) then
          completeWith h c stOK (writeKinds (maskKinds c) (fun u => { u with state := 3, try_ := true, result := resOK }) t)
        else completeWith h c stIllegal (refuseKinds resIncompatible c t)) s

/-- IMAGE_DISARM: the named kinds that are armed are staged again. -/
def execImageDisarm (h : Nat) (s : State) : Out :=
  withCmdOr (refuseKinds resNotOwner) h 0x42 maskBusy (fun c t =>
    if !maskForm c then completeWith h c stIllegal t
    else match armRefusal t with
      | some r => completeWith h c stIllegal (refuseKinds r c t)
      | none =>
        let ks := (maskKinds c).filter fun k => (updOf t k).state == 3
        completeWith h c stOK (writeKinds ks (fun u => { u with state := 2, try_ := false, result := resOK }) t)) s

end Sys2Proof.Machine
end

