-- ==== Sys2Proof/Machine/Boundary.lean ====
section
/-! DEFINITION. The epoch boundary (R21): meters, the commit of what is staged, remaps, grants, route generations, the timetable,
and what the engines do once in an epoch. -/
namespace Sys2Proof.Machine

/-! ## Meters (R40, R389) -/

/-- The frozen meters, in the order of R40. -/
def meterRegs : List Fld :=
  [R.METER_PORT_RX_BYTES, R.METER_PORT_TX_BYTES, R.METER_HALL_CELLS, R.METER_PIP_CYCLES, R.METER_GALLERY_NS, R.METER_S0_GRANULE_EPOCHS,
   R.METER_S0_BYTES, R.METER_S1_BYTES, R.METER_S2_BYTES, R.METER_ENERGY_UJ]

/-- The energy of the epoch is an estimate, and a free value. -/
def meterEnergy (s : State) : State := each s.sec.frame.enabled (fun p t => let (v, t1) := fresh t; meter p 9 v t1) s

/-- The meters of the ending epoch are frozen. -/
def freezeMeters (s : State) : State :=
  let s1 := meterEnergy (meterGranules (each (upTo 32) meterGallery s))
  each (upTo 64) (fun p t =>
    rset R.SNAP_EPOCH p (epochNow t) (each (enum' meterRegs) (fun m u => rset m.2 p (tgetD u.hall.meters (p * 16 + m.1) 0) u) t)) s1

/-! ## Buckets (R376) -/

/-- A bucket whose values change keeps its credit, clipped to the new burst; one that is turned on starts full. `was` is the
state before the commit. -/
def keepBucket (was : State) (k : Nat) (s : State) : State :=
  if bucketRegs was k = bucketRegs s k then s
  else if (bucketRegs was k).1 = 0 then { s with hall := { s.hall with buckets := tdel s.hall.buckets k } }
  else
    let b := bucketAt was k
    let c := min b.credit (((bucketRegs s k).2 * 65536 : Nat) : Int)
    { s with hall := { s.hall with buckets := tset s.hall.buckets k { b with credit := c } } }

/-! ## Fields (R20, R23, R371, R420) -/

/-- The length of the epochs to come, on the grandmaster: it comes into force one boundary later (R23). -/
def nextLength (v : Nat) (s : State) : State :=
  if v = rget s R.EPOCH_CFG_EPOCH_LEN_US 0 then s
  else { s with clk := { s.clk with nextLen := v, nextAt := s.clk.nextB + epochLen s } }

/-- One frozen value becomes live, under the `TIME_ROLE` of the commit. `FLIP` acts by itself; a `CLEAR` removes its remap and reads 0 again;
a follower's epoch length stays the system's (R23). -/
def commitField (role : Nat) (p : Nat × StagedVal) (s : State) : State :=
  match fieldOfKey p.1 with
  | none => s
  | some (f, i) =>
    if f = R.ROUTE_CTL_FLIP then s
    else if f = R.REMAP_CLEAR then
      (if p.2.value = 1 then { s with res := { s.res with remaps := tdel s.res.remaps i } } else s)
    else if f = R.EPOCH_CFG_EPOCH_LEN_US ∧ role = 0 then s
    else if f = R.EPOCH_CFG_EPOCH_LEN_US ∧ role = 1 then nextLength p.2.value s
    else rset f i p.2.value s

/-- A value of `ANSWER_RETAIN_US` that ceases stays in the age test for its time (R60). -/
def keepRetain (was : Nat) (s : State) : State :=
  if rget s R.ANSWER_CFG_ANSWER_RETAIN_US 0 = was then s
  else { s with rf := { s.rf with retainHist := s.rf.retainHist ++ [(was, nowUs s)] } }

/-- A change of personality or ganging takes the ports of the pair down (R398). -/
def relink (was : State) (n : Nat) (s : State) : State :=
  let m := n / 2 * 2
  let changed := rget was R.LINK_CTL_PERSONALITY n != rget s R.LINK_CTL_PERSONALITY n || rget was R.LINK_CTL_GANG m != rget s R.LINK_CTL_GANG m
  if changed && lstate s n != 0 then portDown n none s else s

/-- A new spare of a group is ready (R413). -/
def regroup (was : State) (g : Nat) (s : State) : State :=
  if rget was R.GRP_SPARE g = rget s R.GRP_SPARE g ∧ rget was R.GRP_SPARE_SW g = rget s R.GRP_SPARE_SW g then s
  else rset R.GRP_STATE g 0 { s with res := { s.res with grants := tdel s.res.grants g } }

/-- A set that comes into use has all its trays up. -/
def setMade (was : State) (k : Nat) (s : State) : State :=
  if rbit was R.SET_VALID k = rbit s R.SET_VALID k then s
  else { s with pool := { s.pool with trays := tfilter s.pool.trays fun x _ => x / 32 != k } }

/-- A table that was made valid or retired (R232, R251). -/
def tableTurn (was : State) (t : Nat) (s : State) : State :=
  match rbit was R.TBL_VALID t, rbit s R.TBL_VALID t with
  | false, true => tableMade t s
  | true, false => tableRetired t s
  | _, _ => s

/-- Entries of an array of objects that have frozen values. -/
def objFrozenKeys (a : Nat × Nat × Nat) (s : State) : List Nat :=
  dedup' ((s.rf.frozen.filter fun p => inArray a p.1).map fun p => (p.1 / 1024 - a.1) / a.2.1)

/-- Everything frozen becomes live, with what follows from it. -/
def commitFields (s : State) : State :=
  let t := each s.rf.frozen (commitField (fget s R.TIME_CTL_TIME_ROLE 0)) s
  let t1 := keepRetain (rget s R.ANSWER_CFG_ANSWER_RETAIN_US 0) (each (upTo 448) (keepBucket s) t)
  let t2 := each (objFrozenKeys (0xC20000, 0x200, 64) s) (setMade s) t1
  let t3 := each (objFrozenKeys (0xC40000, 0x40, 1024) s) (fun p u => planCommitted p (rbit s R.PLAN_VALID p) u) t2
  let t4 := each (objFrozenKeys (0xD00000, 0x40, 4096) s) (tableTurn s) t3
  let t5 := each (objFrozenKeys (0x1300000, 0x10, 1024) s) (regroup s) t4
  let was := rget s R.PKG_POWER_LIMIT_W 0
  let t6 := if rget t5 R.PKG_POWER_LIMIT_W 0 = was then t5 else limitCommitted was t5
  let t7 := if timeRole t6 = 1 ∧ timeRole s ≠ 1 then startAcquiring t6 else t6
  each (upTo 128) (relink s) { t7 with rf := { t7.rf with frozen := [] } }

/-! ## Staged commands (R99, R194, R298, R494) -/

/-- A program slot takes its staged image, or is emptied; the text of the image it held goes from the galleries that run it
no longer (R100, R108). -/
def commitProg (c : StagedCmd) (s : State) : State :=
  each (upTo 32) dropTexts
    (if c.bytes.isEmpty then { s with seed := { s.seed with slots := tdel s.seed.slots c.obj } }
    else match imageOf c.bytes with
      | some m =>
        let p : ProgSlot := ⟨leAt c.args 2 1, m, s.seed.nextVersion⟩
        { s with seed := { s.seed with slots := tset s.seed.slots c.obj p, nextVersion := s.seed.nextVersion + 1 } }
      | none => s)

/-- One staged command takes effect; the extents and the timetable have their own turn. -/
def commitCmd (c : StagedCmd) (s : State) : State :=
  if c.code = 0x10 then commitProg c s
  else if c.code = 0x18 ∨ c.code = 0x19 then colCommit c s
  else s

/-- The staged timetable, the last one staged. -/
def commitTable (cmds : List StagedCmd) (s : State) : State :=
  match (cmds.filter fun c => c.code == 0x1B).reverse with
  | c :: _ => rset R.TT_STATUS_STAGED 0 (b2n (s.rf.stagedCmds.any fun x => x.code == 0x1B)) (ttCommit c s)
  | [] => s

/-! ## Remaps (R61, R307, R338, R420, R421, R453) -/

/-- The answers kept for a node are freed; repeats that wait for one, and atomics issued before now, are refused. -/
def freeAnswers (node : Nat) (s : State) : State :=
  let mine := s.track.answers.filter fun e => e.src == node
  let t := { s with track := { s.track with answers := s.track.answers.filter (fun e => e.src != node)
                                            barred := s.track.barred ++ [(node, nowUs s)] } }
  each (mine.map (·.waiting)).flatten (fun id u => match tget u.pool.reqs id with
    | some r => refuse id r.tracked r.frame stExpired 1 (dropReq id u)
    | none => u) t

/-- What the rest of the switch holds of a remapped node. -/
def leaveNode (node : Nat) (s : State) : State :=
  let s1 := dropNodePins node (colRemap node (freeAnswers node s))
  let s2 := match leaseOf s1 node with
    | some (_, l) => if l.state = 1 then leaseStart node (nowUs s1) s1 else s1
    | none => s1
  let s3 := match slotOfNode s2 node with
    | some (i, _) => slotLoss i 3 s2
    | none => s2
  let trays := (upTo 64).map fun k => if !rbit s3 R.SET_VALID k then [] else
    ((upTo (rget s3 R.SET_NTRAYS k)).filter fun t => rget s3 R.TRAY_NODE (k * 32 + t) == node).map fun t => (k, t)
  let s4 := each trays.flatten (fun t => rebuildBegin t.1 t.2) s3
  let sec := { s4.sec with windows := s4.sec.windows.filter (fun w => w.src != node), jobBarred := s4.sec.jobBarred ++ [(node, epochNow s4)] }
  planRemap node { s4 with sec := sec }

/-- A staged remap becomes live, where an entry is free. -/
def remapLive (r : StagedRemap) (s : State) : State :=
  match lowestFree s.res.remaps 1024 with
  | none => subEvent 0x1B r.failed r.group 0 0 (nodePort s r.failed) s
  | some i =>
    let s1 := rbump R.SUB_DONE_COUNT 0 { s with res := { s.res with remaps := tset s.res.remaps i (r.failed, r.spare, r.group) } }
    let here := rget s1 R.GRP_SPARE_SW r.group == nodeSelf s1 && rget s1 R.GRP_STATE r.group == 1
    leaveNode r.failed (if here then rset R.GRP_STATE r.group 2 s1 else s1)

/-- The remaps of this boundary. -/
def commitRemaps (s : State) : State :=
  let due := s.res.staged.filter fun r => decide (r.at_ ≤ s.clk.nextB)
  each due remapLive { s with res := { s.res with staged := s.res.staged.filter fun r => decide (s.clk.nextB < r.at_) } }

/-! ## Gallery grants (R38, R39) -/

/-- A grant moved a gallery from one partition to another: its stores are zeroed once nothing runs there, whoever comes
next (R39). Until then they count as the bytes of no partition. -/
def regrantZero (was : State) (g : Nat) (s : State) : State :=
  let x := galOf s g
  match galGrant was g, galGrant s g with
  | some _, some b =>
    if x.needZero && x.resident != some b then
      setGal g { x with resident := some 64, zeroFor := if galIdle s g then some b else x.zeroFor, zeroAt := if galIdle s g then s.clk.now else x.zeroAt } s
    else s
  | _, _ => s

/-- The launch is the run of a collective context: it completes on the gallery that the context had (R195, log 176). -/
def LaunchRec.isRun (r : LaunchRec) : Bool := match r.by_ with | .col _ => true | _ => false

/-- Launches that their partition may no longer run on a gallery leave its queue. -/
def regrant (was : State) (g : Nat) (s : State) : State :=
  if galGrant was g = galGrant s g then s
  else
    let x := galOf s g
    let stays (r : LaunchRec) : Bool := r.isRun || galAllowed s r.part (r.pips s) g
    each (x.queue.filter fun r => !stays r) (fun r t => if r.fixed then launchEnd r stDenied 0 3 t else placeLaunch r t)
      (regrantZero was g (setGal g { x with queue := x.queue.filter stays } s))

/-! ## Route generations (R22, R371, R372) -/

/-- Entries of a generation replaced by the staged ones; `n` entries a generation. -/
def loadGen {α : Type} (n g : Nat) (live staged : Tab α) : Tab α :=
  let new : Tab α := staged.map fun p => (p.1 + g * n, p.2)
  if g = 0 then new ++ live.filter fun p => decide (n ≤ p.1) else (live.filter fun p => decide (p.1 < n)) ++ new

/-- The retirement time of the old generation, while there is one. -/
def oldUntil (s : State) : Option (Nat × Nat) :=
  match s.hall.gen0, s.hall.gen1 with
  | .old t, _ => some (0, t)
  | _, .old t => some (1, t)
  | _, _ => none

/-- A flip commits. -/
def flipNow (s : State) : State :=
  let g := 1 - genLive s
  let old : GenState := .old (s.clk.now + 1000 * rget s R.ROUTE_CTL_DRAIN_US 0)
  let h := { s.hall with
    routes := loadGen 32768 g s.hall.routes s.hall.stRoutes
    sets := loadGen 256 g s.hall.sets s.hall.stSets
    gen0 := if g = 0 then .live else old
    gen1 := if g = 0 then old else .live }
  rset R.ROUTE_STATUS_GEN_LIVE 0 g (rset R.ROUTE_STATUS_OLD_VALID 0 1 (rset R.ROUTE_STATUS_FLIP_HELD 0 0 (rbump R.ROUTE_STATUS_FLIPS 0 { s with hall := h })))

/-- A staged flip commits, or is held for the next boundary and logged. -/
def flipStep (flip : Option StagedVal) (s : State) : State :=
  match flip with
  | some x =>
    if x.value = 0 then rset R.ROUTE_STATUS_FLIP_HELD 0 0 s
    else if (oldUntil s).isSome then
      let k := R.ROUTE_CTL_FLIP.key 0
      let staged := if thas s.rf.staged k then s.rf.staged else tset s.rf.staged k x
      stageEntry (stageBytes (epochNow s) (R.ROUTE_CTL_FLIP.addr 0) 0 1 3 x.source 0 1 0)
        (rset R.ROUTE_STATUS_FLIP_HELD 0 1 { s with rf := { s.rf with staged := staged } })
    else flipNow s
  | none => rset R.ROUTE_STATUS_FLIP_HELD 0 0 s

/-! ## Ageing, keys, audits (R367, R428, R430, R453) -/

/-- A re-planned gallery takes its cap and offsets; above its cap it drops to it. -/
def commitAge (a : Nat × Nat × Nat × Nat) (s : State) : State :=
  let s1 := rset R.AGE_SLACK_SLACK_PS a.1 a.2.2.2 (rset R.AGE_VOFF_VOFF a.1 a.2.2.1 (rset R.GALLERY_CLK_CAP a.1 a.2.1 s))
  if a.2.1 < (galOf s1 a.1).point then setPoint a.1 a.2.1 s1 else s1

/-- Keys that were removed are refused from this boundary and destroyed `DRAIN_US` after it. -/
def retireKeys (s : State) : State :=
  let gone (k : JobKey) : Bool := match k.removeAt with | some e => decide (e ≤ epochNow s) | none => false
  let at_ := s.clk.now + 1000 * rget s R.ROUTE_CTL_DRAIN_US 0
  { s with sec := { s.sec with jobKeys := tmap s.sec.jobKeys fun _ k => if gone k && k.destroyAt.isNone then { k with destroyAt := some at_ } else k } }

/-- Every `AUDIT_EPOCHS` epochs an audit begins. -/
def auditTurn (s : State) : State :=
  let n := s.hall.auditWait + 1
  if rget s R.BUF_CFG_AUDIT_EPOCHS 0 ≤ n then startAudit { s with hall := { s.hall with auditWait := 0 } }
  else { s with hall := { s.hall with auditWait := n } }

/-! ## The boundary -/

/-- The next epoch begins: its number, and a length that comes into force now (R19, R23). -/
def turnEpoch (s : State) : State :=
  let s1 := rset R.EPOCH_NOW_EPOCH 0 (epochNow s + 1) s
  if s1.clk.nextLen ≠ 0 ∧ s1.clk.nextAt ≤ s1.clk.nextB then
    let c := { s1.clk with tB := s1.clk.nextB, eB := epochNow s1, nextLen := 0, nextAt := 0 }
    rset R.EPOCH_CFG_EPOCH_LEN_US 0 s1.clk.nextLen { s1 with clk := c }
  else s1

/-- The next boundary is one live length away; a length that the commit changed counts from here. -/
def setNext (was : Nat) (s : State) : State :=
  let c := if rget s R.EPOCH_CFG_EPOCH_LEN_US 0 = was then s.clk else { s.clk with tB := s.clk.nextB, eB := epochNow s }
  { s with clk := { c with nextB := c.nextB + epochLen s, cutoff := false } }

/-- Entries that the stage report gained between two states of a boundary: the staged commands that were refused or that
cancelled each other. -/
def stageRefusals (was s : State) : Nat := ringNext stageRing 0 s - ringNext stageRing 0 was

/-- The commit of everything frozen; a boundary at which anything commits is counted, and wakes the Hall (R29). -/
def commitAll (s : State) : State :=
  let cmds := s.rf.frozenCmds
  let flipKey := R.ROUTE_CTL_FLIP.key 0
  let s1 := commitRemaps (commitFields { s with rf := { s.rf with frozenCmds := [] } })
  let s2 := fenceEnds (commitExtents cmds (each cmds commitCmd s1))
  let s3 := placeHeld (each (upTo 32) (regrant s) s2)
  let s4 := colLost (flipStep (tget s.rf.frozen flipKey) s3)
  let done := decide (stageRefusals s s2 < cmds.length) || rget s2 R.SUB_DONE_COUNT 0 != rget s R.SUB_DONE_COUNT 0
    || s.rf.frozen.any (fun p => p.1 != flipKey) || (thas s.rf.frozen flipKey && !rbit s4 R.ROUTE_STATUS_FLIP_HELD 0)
  let s5 := commitTable cmds s4
  if done then wakeHall (rbump R.STAGE_STATUS_COMMITS 0 s5) else s5

/-- What the engines do once in an epoch. -/
def epochWork (s : State) : State :=
  let s1 := setRails (each s.res.stagedAge commitAge { s with res := { s.res with stagedAge := [] } })
  let s2 := planSweep (each (s1.col.ctx.map (·.1)) colRegallery (ttBoundary s1))
  let s3 := auditTurn (retireKeys (chooseMoves (heatRollover s2)))
  let s4 := if epochNow s3 % rget s3 R.AGE_CFG_MAINT_EPOCHS 0 = 0 then startMeasure s3 else s3
  poolPass { s4 with hall := { s4.hall with quietSlot := 0, quietCell := 33 } }

/-- The boundary at the instant `nextB`. -/
def boundaryAll (s : State) : State :=
  let s1 := turnEpoch (freezeMeters s)
  let was := rget s1 R.EPOCH_CFG_EPOCH_LEN_US 0
  epochWork (setNext was (commitAll s1))

/-- An old generation whose retirement lies before the boundary is retired by then. -/
def retireBefore (s : State) : State :=
  match oldUntil s with
  | some (g, t) => if t < s.clk.nextB then retireGen g t s else s
  | none => s

/-- EPOCH_BOUNDARY (R21): local time reaches the boundary. -/
def execEpochBoundary (s : State) : Out :=
  whenRunning (fun t =>
    let t1 := retireBefore t
    let t2 := if t1.clk.cutoff then t1 else cutoffNow (atTime (t1.clk.nextB - 2000) t1)
    boundaryAll (atTime t2.clk.nextB t2)) s

end Sys2Proof.Machine
end

