-- ==== Sys2Proof/Machine/HostMem.lean ====
section
/-! DEFINITION. Host memory and the fabric: accesses through BAR2, and requests to a host's node (R483, R484). -/
namespace Sys2Proof.Machine

/-! ## The fabric aperture (R483) -/

/-- A read through BAR2 that reads nothing. -/
def apertureOnes (h : Nat) (write : Bool) (len : Nat) (s : State) : State := if write then s else emit (.pcieRead h (onesBytes len)) s

/-- The request of an access in aperture `i` at an offset of it. -/
def apertureFrame (s : State) (h i off len : Nat) (write : Bool) (bytes : List Byte) : Frame :=
  let e := h * 16 + i
  { mkFrame 4 (if write then 0x02 else 0x01) (rget s R.APERTURE_NODE e) (pfHost s h).bindNode (rget s R.APERTURE_PKEY e)
      (s.nextId % 2 ^ 20) 0 (rget s R.APERTURE_BASE_4G e * 2 ^ 32 + off) len (if write then slice bytes 0 len else []) with g := genLive s }

/-- A request of a host that fails a check of R66: its fault record, all-ones for a read; a failed store counts for R54. -/
def apertureEnd (h : Nat) (f : Frame) (status : Nat) (s : State) : State :=
  let s1 := faultRec f status 0 (0x80 + h) 0 s
  if f.opc = 0x02 then let (id, t) := takeId s1; pairAdd id f (some false) t else emit (.pcieRead h (onesBytes f.len)) s1

/-- An access through BAR2. Before `READY` nothing carries it (R465). -/
def apertureIn (h : Nat) (write : Bool) (off len : Nat) (bytes : List Byte) (s : State) : State :=
  let i := off / 2 ^ 32
  let o := off % 2 ^ 32
  if 16 ≤ i ∨ len = 0 ∨ 4096 < o % 4096 + len ∨ !rbit s R.APERTURE_EN (h * 16 + i) ∨ !isReady s then apertureOnes h write len s
  else
    let f := apertureFrame s h i o len write bytes
    match ingressStatus s (128 + h) f with
    | some st => apertureEnd h f st s
    | none => dispatchFrame (128 + h) true false .none f s

/-- HOST_APERTURE_ACCESS (R483). -/
def execHostApertureAccess (h : Nat) (write : Bool) (off len : Nat) (bytes : List Byte) (s : State) : Out :=
  hostWork h (apertureIn h write off len bytes) s

/-! ## Requests to a host's node (R484) -/

/-- The answer to a request that host h served enters as a frame of its port. -/
def hostAnswer (h : Nat) (f : Frame) (status : Nat) (data : List Byte) (s : State) : State :=
  dispatchFrame (128 + h) true false .none { mkAnswer f status data with g := genLive s } s

/-- An error answer of host h. The 8 bytes of an atomic's are open (log 13). -/
def hostError (h : Nat) (f : Frame) (status : Nat) (s : State) : State :=
  if isAtomicOpc f.opc ∨ f.opc = 0xA3 then let (v, s1) := fresh s; hostAnswer h f status (toLE 8 (v % 2 ^ 64)) s1
  else hostAnswer h f status (errorData f) s

/-- The runs of marked bytes: address and bytes. -/
def enabledRuns (at_ : Nat) : List (Byte × Bool) → List (Nat × List Byte) → List (Nat × List Byte)
  | [], acc => acc.reverse
  | (b, true) :: t, (a, bs) :: acc => if a + bs.length = at_ then enabledRuns (at_ + 1) t ((a, bs ++ [b]) :: acc)
                                     else enabledRuns (at_ + 1) t ((at_, [b]) :: (a, bs) :: acc)
  | (b, true) :: t, [] => enabledRuns (at_ + 1) t [(at_, [b])]
  | (_, false) :: t, acc => enabledRuns (at_ + 1) t acc

/-- Serve a request by DMA. `buf` is what a read returns; none says that the root complex refuses the access. -/
def inboundDma (h : Nat) (f : Frame) (buf : Option (List Byte)) (s : State) : State :=
  let len := if f.opc = 0xA2 then 4096 else f.len
  let at_ := rget s R.INBOUND_INBOUND_BASE h + f.offset
  if rget s R.INBOUND_LEN_LEN h < f.offset + len then
    hostError h f stDenied s
  else
    match buf with
    | none => hostError h f stLoadFailed s
    | some b =>
      if f.opc = 0x01 ∨ f.opc = 0xA1 then hostAnswer h f stOK (slice b 0 len) (emit (.dmaRead h at_ len) s)
      else if f.opc = 0xA2 then
        let (marks, s1) := maskMarks (f.payload.take 64) s
        let runs := enabledRuns at_ ((slice f.payload 64 4096).zip marks) []
        hostAnswer h f stOK [] (each runs (fun r t => emit (.dmaWrite h r.1 r.2) t) s1)
      else hostAnswer h f stOK [] (emit (.dmaWrite h at_ (slice f.payload 0 len)) s)

/-- HOST_INBOUND_REQUEST (R484): a frame that has reached a host port. Other requests end `UNSUPPORTED`; other frames are
dropped. -/
def execHostInboundRequest (id : Nat) (buf : Option (List Byte)) (s : State) : Out :=
  whenRunning (fun t =>
    match tget t.hall.inbox id with
    | some i =>
      match i.host with
      | none => t
      | some h =>
        if !isHead t id i then t
        else
          let f := i.frame
          let t1 := takeInbox id t
          if f.opc = 0x01 ∨ f.opc = 0x02 ∨ f.opc = 0xA0 ∨ f.opc = 0xA1 ∨ f.opc = 0xA2 then inboundDma h f buf t1
          else if isRequest f.cls then hostError h f stUnsupported t1
          else t1
    | none => t) s

end Sys2Proof.Machine
end

