-- ==== Sys2Proof/Machine/SeedMemory.lean ====
section
/-! DEFINITION. Memory, atomic and pin Seedcode instructions, and the answers to a strand's fabric requests
(R160 to R168). -/
namespace Sys2Proof.Machine

/-! ## Addresses (R86, R160) -/

/-- The space of an access of n bytes, or the cause of its fault: the range is checked before the alignment. -/
def memSpace (i : Inst) (a n align : Nat) : Except Nat Space :=
  match spaceOf i a n with
  | .outside => .error 1
  | sp => if a % align = 0 then .ok sp else .error 2

/-- A local access, a fabric access, or a fault (R160). -/
def memAccess (k : Nat) (i : Inst) (a n align : Nat) (loc : Space → State → Option State) (fab : State → Option State)
    (s : State) : Option State :=
  match memSpace i a n align with
  | .error c => some (strandFault k c stIllegal a s)
  | .ok .fabric => fab s
  | .ok sp => loc sp s

/-- Send the loads of an instruction, where the limits of R161 leave room for them. -/
def fabLoad (k : Nat) (x : Strand) (i : Inst) (ps : List (Nat × Nat)) (s : State) : Option State :=
  if fabRoom s k x ps.length then some (sendLoads k i ps s) else none

/-- Send stores in ascending order, `OF` on the last where `ORD` asks, and go on (R161, R163). -/
def fabStore (k : Nat) (x : Strand) (i : Inst) (ord : Bool) (ps : List (Nat × List Byte)) (s : State) : Option State :=
  if fabRoom s k x ps.length then
    some (advance_ k (each (enum' ps) (fun p t =>
      sendStrand k (strandReq i 0x02 p.2.1 p.2.2.length p.2.2 (ord && decide (p.1 + 1 = ps.length)) false false none 0 t) t) s))
  else none

/-- Bytes of a store cut at 4 KiB boundaries. -/
def storePieces (a : Nat) (bs : List Byte) : List (Nat × List Byte) :=
  (fabPieces a bs.length).map fun p => (p.1, (bs.drop (p.1 - a)).take p.2)

/-- The runs of marked bytes: (offset, bytes). -/
def markedRuns : Nat → Option (Nat × List Byte) → List (Byte × Bool) → List (Nat × List Byte)
  | _, cur, [] => match cur with | some r => [r] | none => []
  | n, cur, (b, true) :: t =>
    match cur with
    | some r => markedRuns (n + 1) (some (r.1, r.2 ++ [b])) t
    | none => markedRuns (n + 1) (some (n, [b])) t
  | n, cur, (_, false) :: t =>
    match cur with
    | some r => r :: markedRuns (n + 1) none t
    | none => markedRuns (n + 1) none t

/-- Whether byte b of a packed register holds a governed element. -/
def byteGov (f : Fmt) (g : Pred) (b : Nat) : Bool :=
  (upTo f.elems).any fun e => govOn f g e && decide (e * f.width < 8 * b + 8) && decide (8 * b < e * f.width + f.width)

/-! ## Loads -/

/-- What a load of packed elements writes (R162). -/
def ldvWrite (i : Insn) (x : Strand) (bs : List Byte) : Strand :=
  let f := i.format
  let r := unpackReg f (slice bs 0 f.bytes)
  x.putV i.d (putGov f (i.gov x) (x.vr i.d) fun e => el f r e)

/-- What a scalar load writes (R164). -/
def ldsWrite (i : Insn) (x : Strand) (bs : List Byte) : Strand :=
  let n := 2 ^ (i.fn % 4)
  let v := leAt bs 0 n
  x.putS i.d (if i.fnBit 2 then BitVec.ofInt 64 (signed (8 * n) v) else BitVec.ofNat 64 v)

/-- The governed lanes of `GATH` and `SCAT` with their addresses (R165). -/
def laneAddrs (i : Insn) (x : Strand) : List (Nat × Nat) :=
  let g := i.gov x
  ((upTo 16).filter fun j => g.getLsbD j).map fun j => (j, ((x.sr i.a).toNat + laneOf (x.vr i.b) j * 2 ^ (i.imm % 16)) % 2 ^ 64)

/-- An address is a fabric address. -/
def isFabric (a : Nat) : Bool := decide (a < 2 ^ 63)

/-- The first fault among lanes: its cause and address (log 43). -/
def laneFault (i : Inst) (ls : List (Nat × Nat)) : Option (Nat × Nat) :=
  ls.findSome? fun p => match memSpace i p.2 4 4 with | .error c => some (c, p.2) | .ok _ => none

/-- What `GATH` takes from the stores at issue: the destination with its local lanes written (R92). -/
def gathNear (k : Nat) (i : Insn) (x : Strand) (n : Inst) (s : State) : Vec :=
  ((laneAddrs i x).filter fun p => !isFabric p.2).foldl
    (fun v p => setLane v p.1 (leAt (localRead s n k (spaceOf n p.2 4) 4) 0 4)) (x.vr i.d)

/-- What `GATH` writes: over the local lanes `near`, its fabric lanes take the answers in order. -/
def gathWrite (i : Insn) (x : Strand) (near : Vec) (answers : List (List Byte)) : Strand :=
  let far := (((laneAddrs i x).filter fun p => isFabric p.2).map (·.1)).zip answers
  x.putV i.d (far.foldl (fun v q => setLane v q.1 (leAt q.2 0 4)) near)

/-- The fabric requests of a load: address and bytes, in the order sent. -/
def loadPieces (i : Insn) (x : Strand) : List (Nat × Nat) :=
  match i.op with
  | 0x10 => fabPieces (i.address x) i.format.bytes
  | 0x12 => [(i.address x, 2 ^ (i.fn % 4))]
  | _ => ((laneAddrs i x).filter fun p => isFabric p.2).map fun p => (p.2, 4)

/-- LDV (R162). -/
def execLdv (k : Nat) (s : State) : Out :=
  issueInsn k (isOp 0x10) (fun i x n t =>
    let a := i.address x
    memAccess k n a i.format.bytes 8
      (fun sp u => some (retire k (ldvWrite i x (localRead u n k sp i.format.bytes)) u))
      (fabLoad k x n (loadPieces i x)) t) s

/-- LDS (R164). -/
def execLds (k : Nat) (s : State) : Out :=
  issueInsn k (isOp 0x12) (fun i x n t =>
    let w := 2 ^ (i.fn % 4)
    memAccess k n (i.address x) w w
      (fun sp u => some (retire k (ldsWrite i x (localRead u n k sp w)) u))
      (fabLoad k x n (loadPieces i x)) t) s

/-- GATH (R165). -/
def execGath (k : Nat) (s : State) : Out :=
  issueInsn k (isOp 0x14) (fun i x n t =>
    let ls := laneAddrs i x
    match laneFault n ls with
    | some (c, a) => some (strandFault k c stIllegal a t)
    | none =>
      let near := gathNear k i x n t
      if ls.any fun p => isFabric p.2 then fabLoad k x n (loadPieces i x) (setStrand k { x with near := near } t)
      else some (retire k (gathWrite i x near []) t)) s

/-! ## Stores -/

/-- STV (R162, R163). -/
def execStv (k : Nat) (s : State) : Out :=
  issueInsn k (isOp 0x11) (fun i x n t =>
    let a := i.address x
    let f := i.format
    let g := i.gov x
    let v := x.vr i.d
    memAccess k n a f.bytes 8
      (fun sp u =>
        let old := unpackReg f (localRead u n k sp f.bytes)
        some (advance_ k (localWrite n k sp (packReg f (putGov f g old fun e => el f v e)) u)))
      (fun u =>
        let marked := (enum' (packReg f v)).map fun p => (p.2, byteGov f g p.1)
        let ps := ((markedRuns 0 none marked).map fun r => storePieces (a + r.1) r.2).foldl (· ++ ·) []
        fabStore k x n (i.fnBit 0) ps u) t) s

/-- STS (R164). -/
def execSts (k : Nat) (s : State) : Out :=
  issueInsn k (isOp 0x13) (fun i x n t =>
    let w := 2 ^ (i.fn % 4)
    let a := i.address x
    let bs := toLE w (x.sr i.d).toNat
    memAccess k n a w w
      (fun sp u => some (advance_ k (localWrite n k sp bs u)))
      (fabStore k x n (i.fnBit 3) [(a, bs)]) t) s

/-- SCAT: of lanes with the same address only the highest is stored (R165). -/
def execScat (k : Nat) (s : State) : Out :=
  issueInsn k (isOp 0x15) (fun i x n t =>
    let ls := laneAddrs i x
    match laneFault n ls with
    | some (c, a) => some (strandFault k c stIllegal a t)
    | none =>
      let kept := ls.filter fun p => !(ls.any fun q => decide (p.1 < q.1) && q.2 == p.2)
      let data (j : Nat) : List Byte := toLE 4 (laneOf (x.vr i.d) j)
      let far := (kept.filter fun p => isFabric p.2).map fun p => (p.2, data p.1)
      let near := kept.filter fun p => !isFabric p.2
      if fabRoom t k x far.length then
        fabStore k x n false far (each near (fun p u => localWrite n k (spaceOf n p.2 4) (data p.1) u) t)
      else none) s

/-! ## Atomics (R166, R167) -/

/-- ATOM (R166). -/
def execAtom (k : Nat) (s : State) : Out :=
  issueInsn k (isOp 0x16) (fun i x n t =>
    let w := if i.fnBit 3 then 8 else 4
    let a := i.address x
    let op := i.fn % 8
    let operand := (x.sr i.b).toNat
    let compare := (x.sr i.d).toNat
    memAccess k n a w w
      (fun sp u =>
        let old := leNat (localRead u n k sp w)
        some (retire k (x.putSN i.d old) (localWrite n k sp (toLE w (atomicNew op w old operand compare)) u)))
      (fun u =>
        if fabRoom u k x 1 then
          let payload := toLE 8 operand ++ toLE 8 (if op = 1 then compare else 0) ++ toLE 4 (nowUs u % 2 ^ 32) ++ toLE 4 0
          some (advance_ k (sendStrand k (strandReq n (0x10 + (if w = 8 then 8 else 0) + op) a 24 payload false false true
            (some i.d) w u) u))
        else none) t) s

/-! ## Pins (R168) -/

/-- PIN: pin the live version of a table for the instance (R168). -/
def execPin (k : Nat) (s : State) : Out :=
  issueInsn k (isOpFn 0x17 64 0) (fun i x n t =>
    let tb := (x.sr i.a).toNat % 4096
    let ver := liveVer t tb
    let ok := rbit t R.TBL_VALID tb && rget t R.TBL_PART tb == n.part && pinRoom t tb ver
    let held := (tblOf t tb).holds.contains (ver, .inst x.inst)
    some (if ok then
      retire k (x.putSN i.d ver) (if held then t else addHold tb ver (.inst x.inst)
        (setInst x.inst { n with pins := n.pins ++ [(tb, ver)] } t))
    else retire k (x.putSN i.d (2 ^ 64 - 1)) t)) s

/-- PIN with `FN`[0] set: release the instance's pin of a table at a version (R168). -/
def execPinRelease (k : Nat) (s : State) : Out :=
  issueInsn k (isOpFn 0x17 64 1) (fun i x n t =>
    let tb := (x.sr i.a).toNat % 4096
    let ver := (x.sr i.d).toNat
    some (advance_ k (dropHolds tb (fun v h => v == ver && h == .inst x.inst)
      (setInst x.inst { n with pins := n.pins.filter (· != (tb, ver)) } t)))) s

/-! ## Answers to fabric requests (R160, R161, R167) -/

/-- The address of a fabric request. -/
def FabReq.addr (r : FabReq) : Nat := r.frame.dst * 2 ^ 48 + r.frame.offset

/-- Every answer to the load that holds the strand is in: it takes the first status of its requests that is not `OK` or
`REPLAYED`, and otherwise writes its destination. -/
def loadDone (k : Nat) (s : State) : State :=
  match tget s.seed.strands k with
  | none => s
  | some x =>
    match tget s.seed.insts x.inst with
    | none => s
    | some n =>
      let i := Insn.of ((n.image.wordAt x.pc).getD 0)
      let y := { x with wait := .none, buf := [] }
      let bad := ((x.buf.map (·.2.1)).zip (loadPieces i x)).find? fun p => p.1 != stOK && p.1 != stReplayed
      match bad with
      | some (st, a, _) => strandFault k 3 st a (setStrand k y s)
      | none =>
        let ds := x.buf.map (·.2.2)
        let bs := ds.foldl (· ++ ·) []
        let z := match i.op with
          | 0x10 => ldvWrite i y bs
          | 0x12 => ldsWrite i y bs
          | _ => gathWrite i y y.near ds
        retire k z s

/-- An instance faulted before this instant: the answers to its requests are discarded (R110). -/
def Inst.discards (i : Inst) (now : Nat) : Bool :=
  match i.fault with
  | none => false
  | some f => f.told || decide (f.time < now)

/-- The answer to one request of a strand of a living instance. -/
def fabAnswer (k n st : Nat) (data : List Byte) (x : Strand) (r : FabReq) (i : Inst) (s : State) : State :=
  let x1 := { x with reqs := x.reqs.filter (·.n != n) }
  if i.discards s.clk.now || x.wait == .fault then setStrand k x1 s
  else if r.isLoad then
    let left := match x.wait with | .load l => l.filter (· != n) | _ => []
    let s1 := setStrand k { x1 with buf := tset x.buf n (st, data), wait := .load left } s
    if left.isEmpty then loadDone k s1 else s1
  else if r.isAtomic && (st == stNoAnswer || st == stRouteStale) && decide (r.repeats < 3) then
    sendStrand k { r with repeats := r.repeats + 1 } (setStrand k x1 s)
  else if st = stOK ∨ st = stReplayed then
    setStrand k (match r.dReg with | some d => x1.putSN d (leAt data 0 r.width) | none => x1) s
  else
    instFault x.inst 3 st k r.pc ((i.image.wordAt r.pc).getD 0) r.addr (setStrand k x1 s)

/-- STRAND_FABRIC_ANSWER: the answer to request `n` of strand `k` arrives (R161, R167). -/
def execStrandFabricAnswer (k n : Nat) (s : State) : Out :=
  .next (match ownAnswer s n, tget s.seed.strands k with
    | some (id, ib), some x =>
      match x.reqs.find? (·.n == n), tget s.seed.insts x.inst with
      | some r, some i => fabAnswer k n ib.frame.status ib.frame.payload x r i (takeInbox id s)
      | _, _ => s
    | _, _ => s)

end Sys2Proof.Machine
end

