-- ==== Sys2Proof/Machine/Dispatch.lean ====
section
/-! DEFINITION. The dispatcher: one arm per command, each one direct call of that command's meaning. -/
namespace Sys2Proof.Machine

def exec (i : Instr) (s : State) : Host.Outcome State Fault Refusal :=
  match i with
  | .movePassEnd g => Sys2Proof.Machine.execMovePassEnd g s
  | .moveHoldTimeout g => Sys2Proof.Machine.execMoveHoldTimeout g s
  | .moveSourceFree g => Sys2Proof.Machine.execMoveSourceFree g s
  | .clockPointPauseEnd gal => Sys2Proof.Machine.execClockPointPauseEnd gal s
  | .galleryIdleSleep gal => Sys2Proof.Machine.execGalleryIdleSleep gal s
  | .stackSelfRefresh stack => Sys2Proof.Machine.execStackSelfRefresh stack s
  | .laneSleep port => Sys2Proof.Machine.execLaneSleep port s
  | .slotWake kind unit => Sys2Proof.Machine.execSlotWake kind unit s
  | .unitWakeDone kind unit => Sys2Proof.Machine.execUnitWakeDone kind unit s
  | .galleryZeroingDone gal => Sys2Proof.Machine.execGalleryZeroingDone gal s
  | .time port arr bytes => Sys2Proof.Machine.execTime port arr bytes s
  | .timeSyncSend port => Sys2Proof.Machine.execTimeSyncSend port s
  | .slotStart slot => Sys2Proof.Machine.execSlotStart slot s
  | .ingressFrame port frame => Sys2Proof.Machine.execIngressFrame port frame s
  | .ethernetFrame port dst srcMac etype bytes fcs => Sys2Proof.Machine.execEthernetFrame port dst srcMac etype bytes fcs s
  | .load id => Sys2Proof.Machine.execLoad id s
  | .store id => Sys2Proof.Machine.execStore id s
  | .ofStoreRelease id => Sys2Proof.Machine.execOfStoreRelease id s
  | .atomic id => Sys2Proof.Machine.execAtomic id s
  | .answerEntryExpire src tag => Sys2Proof.Machine.execAnswerEntryExpire src tag s
  | .bulkPut id => Sys2Proof.Machine.execBulkPut id s
  | .bulkGet id => Sys2Proof.Machine.execBulkGet id s
  | .bulkPutMasked id => Sys2Proof.Machine.execBulkPutMasked id s
  | .bulkAtomic id => Sys2Proof.Machine.execBulkAtomic id s
  | .trackerAnswer id => Sys2Proof.Machine.execTrackerAnswer id s
  | .trackerTimeout req => Sys2Proof.Machine.execTrackerTimeout req s
  | .caps port word => Sys2Proof.Machine.execCaps port word s
  | .launch id => Sys2Proof.Machine.execLaunch id s
  | .galleryDispatch gal => Sys2Proof.Machine.execGalleryDispatch gal s
  | .instanceEnd inst => Sys2Proof.Machine.execInstanceEnd inst s
  | .instanceTimeLimit inst => Sys2Proof.Machine.execInstanceTimeLimit inst s
  | .launchDeadline req => Sys2Proof.Machine.execLaunchDeadline req s
  | .strandFabricAnswer k n => Sys2Proof.Machine.execStrandFabricAnswer k n s
  | .waiteRelease k => Sys2Proof.Machine.execWaiteRelease k s
  | .nop k => Sys2Proof.Machine.execNop k s
  | .br k => Sys2Proof.Machine.execBr k s
  | .loop k => Sys2Proof.Machine.execLoop k s
  | .waite k => Sys2Proof.Machine.execWaite k s
  | .bar k => Sys2Proof.Machine.execBar k s
  | .fence k => Sys2Proof.Machine.execFence k s
  | .raise k => Sys2Proof.Machine.execRaise k s
  | .halt k => Sys2Proof.Machine.execHalt k s
  | .recv k => Sys2Proof.Machine.execRecv k s
  | .send k => Sys2Proof.Machine.execSend k s
  | .fwd k => Sys2Proof.Machine.execFwd k s
  | .grant k => Sys2Proof.Machine.execGrant k s
  | .ldv k => Sys2Proof.Machine.execLdv k s
  | .stv k => Sys2Proof.Machine.execStv k s
  | .lds k => Sys2Proof.Machine.execLds k s
  | .sts k => Sys2Proof.Machine.execSts k s
  | .gath k => Sys2Proof.Machine.execGath k s
  | .scat k => Sys2Proof.Machine.execScat k s
  | .atom k => Sys2Proof.Machine.execAtom k s
  | .pin k => Sys2Proof.Machine.execPin k s
  | .pinRelease k => Sys2Proof.Machine.execPinRelease k s
  | .add k => Sys2Proof.Machine.execAdd k s
  | .sub k => Sys2Proof.Machine.execSub k s
  | .mul k => Sys2Proof.Machine.execMul k s
  | .fma k => Sys2Proof.Machine.execFma k s
  | .div k => Sys2Proof.Machine.execDiv k s
  | .max k => Sys2Proof.Machine.execMax k s
  | .min k => Sys2Proof.Machine.execMin k s
  | .cmp k => Sys2Proof.Machine.execCmp k s
  | .sel k => Sys2Proof.Machine.execSel k s
  | .and k => Sys2Proof.Machine.execAnd k s
  | .or k => Sys2Proof.Machine.execOr k s
  | .xor k => Sys2Proof.Machine.execXor k s
  | .andn k => Sys2Proof.Machine.execAndn k s
  | .not k => Sys2Proof.Machine.execNot k s
  | .shl k => Sys2Proof.Machine.execShl k s
  | .shr k => Sys2Proof.Machine.execShr k s
  | .sar k => Sys2Proof.Machine.execSar k s
  | .mov k => Sys2Proof.Machine.execMov k s
  | .bcast k => Sys2Proof.Machine.execBcast k s
  | .bcasti k => Sys2Proof.Machine.execBcasti k s
  | .iota k => Sys2Proof.Machine.execIota k s
  | .ins k => Sys2Proof.Machine.execIns k s
  | .ext k => Sys2Proof.Machine.execExt k s
  | .sadd k => Sys2Proof.Machine.execSadd k s
  | .ssub k => Sys2Proof.Machine.execSsub k s
  | .smul k => Sys2Proof.Machine.execSmul k s
  | .sand k => Sys2Proof.Machine.execSand k s
  | .sor k => Sys2Proof.Machine.execSor k s
  | .sxor k => Sys2Proof.Machine.execSxor k s
  | .sshl k => Sys2Proof.Machine.execSshl k s
  | .sshr k => Sys2Proof.Machine.execSshr k s
  | .ssar k => Sys2Proof.Machine.execSsar k s
  | .smin k => Sys2Proof.Machine.execSmin k s
  | .smax k => Sys2Proof.Machine.execSmax k s
  | .sminu k => Sys2Proof.Machine.execSminu k s
  | .smaxu k => Sys2Proof.Machine.execSmaxu k s
  | .slt k => Sys2Proof.Machine.execSlt k s
  | .sltu k => Sys2Proof.Machine.execSltu k s
  | .seq k => Sys2Proof.Machine.execSeq k s
  | .smov k => Sys2Proof.Machine.execSmov k s
  | .slih k => Sys2Proof.Machine.execSlih k s
  | .pand k => Sys2Proof.Machine.execPand k s
  | .por k => Sys2Proof.Machine.execPor k s
  | .pxor k => Sys2Proof.Machine.execPxor k s
  | .pandn k => Sys2Proof.Machine.execPandn k s
  | .pnot k => Sys2Proof.Machine.execPnot k s
  | .pset k => Sys2Proof.Machine.execPset k s
  | .pfrom k => Sys2Proof.Machine.execPfrom k s
  | .pto k => Sys2Proof.Machine.execPto k s
  | .pcnt k => Sys2Proof.Machine.execPcnt k s
  | .neg k => Sys2Proof.Machine.execNeg k s
  | .abs k => Sys2Proof.Machine.execAbs k s
  | .sqrt k => Sys2Proof.Machine.execSqrt k s
  | .acc k => Sys2Proof.Machine.execAcc k s
  | .accm k => Sys2Proof.Machine.execAccm k s
  | .clra k => Sys2Proof.Machine.execClra k s
  | .rnd k => Sys2Proof.Machine.execRnd k s
  | .pack k => Sys2Proof.Machine.execPack k s
  | .unpk k => Sys2Proof.Machine.execUnpk k s
  | .topk k => Sys2Proof.Machine.execTopk k s
  | .cvt k => Sys2Proof.Machine.execCvt k s
  | .xpnd k => Sys2Proof.Machine.execXpnd k s
  | .colSeg id => Sys2Proof.Machine.execColSeg id s
  | .colPart id => Sys2Proof.Machine.execColPart id s
  | .colResult id => Sys2Proof.Machine.execColResult id s
  | .colGrant id => Sys2Proof.Machine.execColGrant id s
  | .colAbort id => Sys2Proof.Machine.execColAbort id s
  | .colNoProgress c => Sys2Proof.Machine.execColNoProgress c s
  | .colRearm c => Sys2Proof.Machine.execColRearm c s
  | .straggler c sender => Sys2Proof.Machine.execStraggler c sender s
  | .gatherBatch id => Sys2Proof.Machine.execGatherBatch id s
  | .gatherDirectoryDone b => Sys2Proof.Machine.execGatherDirectoryDone b s
  | .gatherRowFetch b share row => Sys2Proof.Machine.execGatherRowFetch b share row s
  | .gatherBatchEnd b => Sys2Proof.Machine.execGatherBatchEnd b s
  | .gatherBatchDeadline b => Sys2Proof.Machine.execGatherBatchDeadline b s
  | .rowPut id => Sys2Proof.Machine.execRowPut id s
  | .rowFlip tbl => Sys2Proof.Machine.execRowFlip tbl s
  | .scatterAdd id => Sys2Proof.Machine.execScatterAdd id s
  | .filterTopk id => Sys2Proof.Machine.execFilterTopk id s
  | .tablePin id => Sys2Proof.Machine.execTablePin id s
  | .tableUnpin id => Sys2Proof.Machine.execTableUnpin id s
  | .pinHoldLapse tbl ver peer => Sys2Proof.Machine.execPinHoldLapse tbl ver peer s
  | .tableSlotFree tbl tslot => Sys2Proof.Machine.execTableSlotFree tbl tslot s
  | .tableReady tbl => Sys2Proof.Machine.execTableReady tbl s
  | .tierAnswer op tray ok => Sys2Proof.Machine.execTierAnswer op tray ok s
  | .tierAttemptTimeout op => Sys2Proof.Machine.execTierAttemptTimeout op s
  | .trayLatencyWindow set tray ns => Sys2Proof.Machine.execTrayLatencyWindow set tray ns s
  | .traySlowClear set tray => Sys2Proof.Machine.execTraySlowClear set tray s
  | .wsPrefetchPoint p => Sys2Proof.Machine.execWsPrefetchPoint p s
  | .wsCopyComplete p => Sys2Proof.Machine.execWsCopyComplete p s
  | .wsStoreAnswer id => Sys2Proof.Machine.execWsStoreAnswer id s
  | .wsFlagAnswer id => Sys2Proof.Machine.execWsFlagAnswer id s
  | .weightLate p => Sys2Proof.Machine.execWeightLate p s
  | .extGrant h => Sys2Proof.Machine.execExtGrant h s
  | .extRevoke h => Sys2Proof.Machine.execExtRevoke h s
  | .fenceConfirmed e => Sys2Proof.Machine.execFenceConfirmed e s
  | .drainDone e => Sys2Proof.Machine.execDrainDone e s
  | .drainTimeout e => Sys2Proof.Machine.execDrainTimeout e s
  | .scrubDone e => Sys2Proof.Machine.execScrubDone e s
  | .leaseRenew id => Sys2Proof.Machine.execLeaseRenew id s
  | .leaseExpiry l => Sys2Proof.Machine.execLeaseExpiry l s
  | .streamOpen h buf => Sys2Proof.Machine.execStreamOpen h buf s
  | .streamGrow h buf => Sys2Proof.Machine.execStreamGrow h buf s
  | .streamHandoff h buf => Sys2Proof.Machine.execStreamHandoff h buf s
  | .streamAccept h buf => Sys2Proof.Machine.execStreamAccept h buf s
  | .streamTakeover h buf => Sys2Proof.Machine.execStreamTakeover h buf s
  | .streamClose h buf => Sys2Proof.Machine.execStreamClose h buf s
  | .streamQuery h => Sys2Proof.Machine.execStreamQuery h s
  | .ledgerPoll ctx => Sys2Proof.Machine.execLedgerPoll ctx s
  | .ledgerCasAnswer id => Sys2Proof.Machine.execLedgerCasAnswer id s
  | .streamPullAnswer id => Sys2Proof.Machine.execStreamPullAnswer id s
  | .streamAcceptTimeout ctx => Sys2Proof.Machine.execStreamAcceptTimeout ctx s
  | .cacheDeclare id => Sys2Proof.Machine.execCacheDeclare id s
  | .cacheRelease id => Sys2Proof.Machine.execCacheRelease id s
  | .rdShared id => Sys2Proof.Machine.execRdShared id s
  | .rdOwn id => Sys2Proof.Machine.execRdOwn id s
  | .upgrade id => Sys2Proof.Machine.execUpgrade id s
  | .wbDirty id => Sys2Proof.Machine.execWbDirty id s
  | .evictClean id => Sys2Proof.Machine.execEvictClean id s
  | .snoopAnswer id => Sys2Proof.Machine.execSnoopAnswer id s
  | .snoopTimeout stag => Sys2Proof.Machine.execSnoopTimeout stag s
  | .staleClear h => Sys2Proof.Machine.execStaleClear h s
  | .staleQuery h => Sys2Proof.Machine.execStaleQuery h s
  | .portSignal port => Sys2Proof.Machine.execPortSignal port s
  | .retrain port => Sys2Proof.Machine.execRetrain port s
  | .prbsCheckDone port pass => Sys2Proof.Machine.execPrbsCheckDone port pass s
  | .fullTrainingDone port settings => Sys2Proof.Machine.execFullTrainingDone port settings s
  | .trainingTimeout port => Sys2Proof.Machine.execTrainingTimeout port s
  | .trainingRetry port => Sys2Proof.Machine.execTrainingRetry port s
  | .pairAligned port => Sys2Proof.Machine.execPairAligned port s
  | .alignmentLost port => Sys2Proof.Machine.execAlignmentLost port s
  | .resume port inc seq => Sys2Proof.Machine.execResume port inc seq s
  | .holdUpExpiry port => Sys2Proof.Machine.execHoldUpExpiry port s
  | .flitReceive port flit => Sys2Proof.Machine.execFlitReceive port flit s
  | .replayTimeout port => Sys2Proof.Machine.execReplayTimeout port s
  | .tag port flit => Sys2Proof.Machine.execTag port flit s
  | .widthAsk port mask => Sys2Proof.Machine.execWidthAsk port mask s
  | .width port mask => Sys2Proof.Machine.execWidth port mask s
  | .offer port keyId bytes => Sys2Proof.Machine.execOffer port keyId bytes s
  | .accept port keyId bytes => Sys2Proof.Machine.execAccept port keyId bytes s
  | .done port keyId bytes => Sys2Proof.Machine.execDone port keyId bytes s
  | .abort port keyId => Sys2Proof.Machine.execAbort port keyId s
  | .keyDoneTimeout port => Sys2Proof.Machine.execKeyDoneTimeout port s
  | .rekeyStart port => Sys2Proof.Machine.execRekeyStart port s
  | .subForce h => Sys2Proof.Machine.execSubForce h s
  | .subAsk id => Sys2Proof.Machine.execSubAsk id s
  | .subAskTimeout port => Sys2Proof.Machine.execSubAskTimeout port s
  | .subAnswer id => Sys2Proof.Machine.execSubAnswer id s
  | .subCommit id => Sys2Proof.Machine.execSubCommit id s
  | .idGet h => Sys2Proof.Machine.execIdGet h s
  | .quote h => Sys2Proof.Machine.execQuote h s
  | .frameStage h => Sys2Proof.Machine.execFrameStage h s
  | .licenceLoad h => Sys2Proof.Machine.execLicenceLoad h s
  | .jobOpen h => Sys2Proof.Machine.execJobOpen h s
  | .jobWrap h => Sys2Proof.Machine.execJobWrap h s
  | .jobClose h => Sys2Proof.Machine.execJobClose h s
  | .jobKeyInstall id => Sys2Proof.Machine.execJobKeyInstall id s
  | .mgtQuery id => Sys2Proof.Machine.execMgtQuery id s
  | .holoneRequest bytes => Sys2Proof.Machine.execHoloneRequest bytes s
  | .imageStage h buf => Sys2Proof.Machine.execImageStage h buf s
  | .imageArm h => Sys2Proof.Machine.execImageArm h s
  | .imageDisarm h => Sys2Proof.Machine.execImageDisarm h s
  | .claim h => Sys2Proof.Machine.execClaim h s
  | .renew h => Sys2Proof.Machine.execRenew h s
  | .release h => Sys2Proof.Machine.execRelease h s
  | .hostLinkDown h => Sys2Proof.Machine.execHostLinkDown h s
  | .commandWindowWrite h bytes => Sys2Proof.Machine.execCommandWindowWrite h bytes s
  | .commandCompletion h => Sys2Proof.Machine.execCommandCompletion h s
  | .cqHeadWrite h val => Sys2Proof.Machine.execCqHeadWrite h val s
  | .cqConfigWrite h off val => Sys2Proof.Machine.execCqConfigWrite h off val s
  | .reset h => Sys2Proof.Machine.execReset h s
  | .stageDiscard h => Sys2Proof.Machine.execStageDiscard h s
  | .progLoad h buf => Sys2Proof.Machine.execProgLoad h buf s
  | .hostCommandLaunch h buf => Sys2Proof.Machine.execHostCommandLaunch h buf s
  | .kill h => Sys2Proof.Machine.execKill h s
  | .colOpen h buf => Sys2Proof.Machine.execColOpen h buf s
  | .colClose h => Sys2Proof.Machine.execColClose h s
  | .hostCommandColAbort h => Sys2Proof.Machine.execHostCommandColAbort h s
  | .ttLoad h buf => Sys2Proof.Machine.execTtLoad h buf s
  | .s0Query h => Sys2Proof.Machine.execS0Query h s
  | .hostApertureAccess h write off len bytes => Sys2Proof.Machine.execHostApertureAccess h write off len bytes s
  | .hostInboundRequest id buf => Sys2Proof.Machine.execHostInboundRequest id buf s
  | .registerWrite h off bytes => Sys2Proof.Machine.execRegisterWrite h off bytes s
  | .laneFailed port lane => Sys2Proof.Machine.execLaneFailed port lane s
  | .governorRun w => Sys2Proof.Machine.execGovernorRun w s
  | .wsLevelHalfLead p => Sys2Proof.Machine.execWsLevelHalfLead p s
  | .wsEscalate p => Sys2Proof.Machine.execWsEscalate p s
  | .laneSerWindow port lane ppm => Sys2Proof.Machine.execLaneSerWindow port lane ppm s
  | .laneRetrainGood port lane => Sys2Proof.Machine.execLaneRetrainGood port lane s
  | .keyLimitReached port => Sys2Proof.Machine.execKeyLimitReached port s
  | .oldKeyRetire port => Sys2Proof.Machine.execOldKeyRetire port s
  | .subWaitExpiry port => Sys2Proof.Machine.execSubWaitExpiry port s
  | .subAskResend port => Sys2Proof.Machine.execSubAskResend port s
  | .trayRebuildDone set tray => Sys2Proof.Machine.execTrayRebuildDone set tray s
  | .ageingMeasureDone slacks => Sys2Proof.Machine.execAgeingMeasureDone slacks s
  | .endorseSet h => Sys2Proof.Machine.execEndorseSet h s
  | .credSet h => Sys2Proof.Machine.execCredSet h s
  | .recoveryImage h => Sys2Proof.Machine.execRecoveryImage h s
  | .jobKeyDestroy key => Sys2Proof.Machine.execJobKeyDestroy key s
  | .holoneSlotUnlock hslot => Sys2Proof.Machine.execHoloneSlotUnlock hslot s
  | .resetNLow ns => Sys2Proof.Machine.execResetNLow ns s
  | .selftestDone bytes => Sys2Proof.Machine.execSelftestDone bytes s
  | .tftpWriteRequest fk bytes => Sys2Proof.Machine.execTftpWriteRequest fk bytes s
  | .imageWriteDone fk => Sys2Proof.Machine.execImageWriteDone fk s
  | .imageTransferStall fk => Sys2Proof.Machine.execImageTransferStall fk s
  | .holdupN level => Sys2Proof.Machine.execHoldupN level s
  | .thermalSample temps stemps w => Sys2Proof.Machine.execThermalSample temps stemps w s
  | .i3cPrivateRead idx => Sys2Proof.Machine.execI3cPrivateRead idx s
  | .i3cDynamicAddress val => Sys2Proof.Machine.execI3cDynamicAddress val s
  | .cabPresN conn level => Sys2Proof.Machine.execCabPresN conn level s
  | .hostPortTrained h width speed => Sys2Proof.Machine.execHostPortTrained h width speed s
  | .ppsInEdge arr => Sys2Proof.Machine.execPpsInEdge arr s
  | .rekeyRetry port => Sys2Proof.Machine.execRekeyRetry port s
  | .epochBoundary => Sys2Proof.Machine.execEpochBoundary s
  | .stageCutoff => Sys2Proof.Machine.execStageCutoff s
  | .routeRetire => Sys2Proof.Machine.execRouteRetire s
  | .hallGate => Sys2Proof.Machine.execHallGate s
  | .holdoverEntry => Sys2Proof.Machine.execHoldoverEntry s
  | .acquiringEnd => Sys2Proof.Machine.execAcquiringEnd s
  | .quietSlot => Sys2Proof.Machine.execQuietSlot s
  | .schedulerCellTime => Sys2Proof.Machine.execSchedulerCellTime s
  | .auditNow => Sys2Proof.Machine.execAuditNow s
  | .bufferAuditDone => Sys2Proof.Machine.execBufferAuditDone s
  | .ledgerRevertTick => Sys2Proof.Machine.execLedgerRevertTick s
  | .maintNow => Sys2Proof.Machine.execMaintNow s
  | .pwrokRise => Sys2Proof.Machine.execPwrokRise s
  | .pwrokFall => Sys2Proof.Machine.execPwrokFall s
  | .warmReset => Sys2Proof.Machine.execWarmReset s
  | .startupReady => Sys2Proof.Machine.execStartupReady s
  | .mgmtHeartbeatLoss => Sys2Proof.Machine.execMgmtHeartbeatLoss s
  | .trialTimeout => Sys2Proof.Machine.execTrialTimeout s
  | .ownerLeaseExpiry => Sys2Proof.Machine.execOwnerLeaseExpiry s
  | .effLimitTick => Sys2Proof.Machine.execEffLimitTick s
  | .thermtripRelease => Sys2Proof.Machine.execThermtripRelease s
  | .ppsOutPulse => Sys2Proof.Machine.execPpsOutPulse s
  | .shellSramError => Sys2Proof.Machine.execShellSramError s
  | .standbyGroupUp => Sys2Proof.Machine.execStandbyGroupUp s
  | .standbyGroupDown => Sys2Proof.Machine.execStandbyGroupDown s
  | .followerReadyTimeout => Sys2Proof.Machine.execFollowerReadyTimeout s
  | .savedSettingsWrite => Sys2Proof.Machine.execSavedSettingsWrite s

end Sys2Proof.Machine
end

