-- ==== Sys2Proof/Safety.lean ====
section
/-! DEFINITION. What counts as a safe run of the block, in the terms that claims use: no step stops the machine, and every
byte memory keeps its one canonical form. -/
namespace Sys2Proof.Safety

open Sys2Proof.Machine

/-- A step goes on: it ends in a next state, not in a fault and not in a refusal. -/
def GoesOn (o : Out) : Prop := ∃ t, o = Host.Outcome.next t

/-- Memories are in canonical form: the pool's bytes, the stores of the pips and of the galleries, the two mailbox buffers
(addresses strictly rising, no byte listed that reads as an unlisted one), and the register file (keys strictly rising).
Equal memories are then equal data. -/
structure Canonical (s : State) : Prop where
  pool : Memory.wf s.pool.mem = true
  pips : Memory.wf s.seed.pipMem = true
  galleries : Memory.wf s.seed.galMem = true
  request : Memory.wf s.sec.reqBuf = true
  response : Memory.wf s.sec.rspBuf = true
  registers : twf s.rf.live = true

/-- `k` steps of the block from a state, stopping at the first stop. -/
def runs (k : Nat) (s : State) : Host.Outcome State Fault Refusal := Sys2Proof.core.run k s

end Sys2Proof.Safety
end

