-- ==== Sys2Proof/Certificates/Slice0/Obligations.lean ====
section
/-! DEFINITION. The statements for the provers. The premises that several of them share stand first, in the namespace
`Claims`; a premise speaks of the state and the operands alone. -/
namespace Sys2Proof.Claims

open Sys2Proof.Machine Sys2Proof.Safety

/-! ## Premises -/

/-- Strand `k`, with registers `x`, issues instruction `i` of its instance `n` now: the main domain runs, the word at the
strand's offset is `i`, and the strand waits for nothing (R83, R161). -/
structure Issues (s : State) (k : Nat) (x : Strand) (n : Inst) (i : Insn) : Prop where
  running : running s = true
  strand : tget s.seed.strands k = some x
  inst : tget s.seed.insts x.inst = some n
  word : ∃ w, n.image.wordAt x.pc = some w ∧ Insn.of w = i
  may : canIssue s k x = true
  free : scalarBusy x i = false

/-- As `Issues`, and the next instruction too lies in the text. -/
structure IssuesOn (s : State) (k : Nat) (x : Strand) (n : Inst) (i : Insn) : Prop extends Issues s k x n i where
  next : x.pc + 8 < n.image.textLen

/-- The issue is counted on the partition's meter (R40). -/
def counted (s : State) (n : Inst) : State := meter n.part 3 1 s

/-- The strand has registers `y` and stands at its next instruction, and nothing else has changed but the meter. -/
def went (s : State) (k : Nat) (n : Inst) (y : Strand) : State := setStrand k { y with pc := y.pc + 8 } (counted s n)

/-- `v` holds `r e` in each governed element `e` of the instruction's format, cut to the element's width, and what vD held in
the others (R144). -/
def Governed (i : Insn) (x : Strand) (r : Nat → Nat) (v : Vec) : Prop :=
  ∀ e, e < i.format.elems →
    el i.format v e = if govOn i.format (i.gov x) e then r e % 2 ^ i.format.width else el i.format (x.vr i.d) e

/-- `c` completes by writing vD so: the strand goes on, and every other register and everything else stays (R144). -/
def WritesLanes (c : Instr) (s : State) (k : Nat) (x : Strand) (n : Inst) (i : Insn) (r : Nat → Nat) : Prop :=
  ∃ v, exec c s = .next (went s k n (x.putV i.d v)) ∧ Governed i x r v

/-- `c` completes by writing sD. -/
def WritesScalar (c : Instr) (s : State) (k : Nat) (x : Strand) (n : Inst) (i : Insn) (v : Word64) : Prop :=
  exec c s = .next (went s k n (x.putS i.d v))

/-- `c` completes by writing pD. -/
def WritesPred (c : Instr) (s : State) (k : Nat) (x : Strand) (n : Inst) (i : Insn) (p : Pred) : Prop :=
  exec c s = .next (went s k n (x.putP i.d p))

/-- Element `e` of vA, its second operand (R145), and element `e` of vD before. -/
def opA (i : Insn) (x : Strand) (e : Nat) : Nat := el i.format (x.vr i.a) e
def opD (i : Insn) (x : Strand) (e : Nat) : Nat := el i.format (x.vr i.d) e

/-- Request `id` of the inbox, which holds `i` with the frame `f`, is at the head of its order and is served now: it goes on under
number `n`, tracked by this switch or not, in the state `t` in which it has left the inbox (R12, R53, R69). -/
structure Serves (s : State) (id : Nat) (i : Inbox) (f : Frame) (n : Nat) (tracked : Bool) (t : State) : Prop where
  running : running s = true
  inbox : tget s.hall.inbox id = some i
  frame : i.frame = f
  request : isAnswer f.cls = false
  here : i.host = none
  head : isHead s id i = true
  enters : mayEnter id i s = (n, tracked, t)

/-- Message `id` of the inbox, with `OPC` `opc` of class CTL, is at the head of its order: it is taken and acted on (R12, R353). -/
structure Hears (s : State) (id opc : Nat) (i : Inbox) : Prop where
  running : running s = true
  inbox : tget s.hall.inbox id = some i
  isOpc : i.frame.opc = opc
  ctl : i.frame.cls = 0
  head : isHead s id i = true

/-- Command `c`, of code `code`, stands at the front of host `h`'s queue with `rest` behind it; it is well formed, the host may
send it, and no command in progress stands in its way. It begins in the state `t` from whose queue it has been taken
(R486, R490, R491). -/
structure Begins (s : State) (h code : Nat) (busy : Cmd → List BCmd → Bool) (c : Cmd) (rest : List HostCmd) (t : State) : Prop where
  running : running s = true
  host : h < 2
  queue : ∃ e, (hostPort s h).queue = e :: rest ∧ cmdOf e.bytes = c
  isCode : c.code = code
  free : busy c (hostPort s h).running = false
  form : c.badForm = false
  sender : isOwner s h = true ∨ cmdBoth code = true
  taken : t = setHost h { hostPort s h with queue := rest } s

/-- The command leaves `u`, after which unknown commands at the front of the queue are answered (R493). -/
def LeavesCmd (c : Instr) (s : State) (h : Nat) (rest : List HostCmd) (u : State) : Prop :=
  exec c s = .next (skipUnknown h rest.length u)

end Sys2Proof.Claims

open Sys2Proof Sys2Proof.Machine Sys2Proof.Safety Sys2Proof.Claims

/-! ## Seedcode: lane-wise instructions -/

/-- R169, R170, R171: `ADD`, `SUB`, `MUL`, `FMA` and `DIV` on a floating-point format round the exact result once; the other
registers and the rest of the switch stay. -/
def Obligations.FloatArithmeticWritesLanes : Prop :=
  ∀ (s : State) (k : Nat) (x : Strand) (n : Inst) (i : Insn), IssuesOn s k x n i → i.format.isInt = false →
    let f := i.format
    let val (b : Nat) : FVal := valOf f b
    let out (v : FVal) : Nat := fRound f i.rm i.sat v
    (i.op = 0x18 → WritesLanes (.add k) s k x n i fun e => out (fSum f i.rm (val (opA i x e)) (val (i.bOp x e)))) ∧
    (i.op = 0x19 → WritesLanes (.sub k) s k x n i fun e => out (fSum f i.rm (val (opA i x e)) (fNeg (val (i.bOp x e))))) ∧
    (i.op = 0x1A → WritesLanes (.mul k) s k x n i fun e => out (fMul f (val (opA i x e)) (val (i.bOp x e)))) ∧
    (i.op = 0x1B → WritesLanes (.fma k) s k x n i fun e =>
      out (fSum f i.rm (fMul f (val (opA i x e)) (val (i.bOp x e))) (val (opD i x e)))) ∧
    (i.op = 0x1C → WritesLanes (.div k) s k x n i fun e => out (fDiv f (val (opA i x e)) (val (i.bOp x e))))

/-- R171: on an integer format `ADD`, `SUB`, `MUL` and `FMA` compute the exact result and keep it modulo 2^w, or clamp it with
`SAT`; `DIV` rounds the exact quotient, with its own results for a divisor of 0. -/
def Obligations.IntegerArithmeticWritesLanes : Prop :=
  ∀ (s : State) (k : Nat) (x : Strand) (n : Inst) (i : Insn), IssuesOn s k x n i → i.format.isInt = true →
    let f := i.format
    let val (b : Nat) : Int := signed f.width b
    let top : Int := 2 ^ (f.width - 1)
    let fit (v : Int) : Nat := if i.sat then unsigned f.width (max (-top) (min (top - 1) v)) else unsigned f.width v
    (i.op = 0x18 → WritesLanes (.add k) s k x n i fun e => fit (val (opA i x e) + val (i.bOp x e))) ∧
    (i.op = 0x19 → WritesLanes (.sub k) s k x n i fun e => fit (val (opA i x e) - val (i.bOp x e))) ∧
    (i.op = 0x1A → WritesLanes (.mul k) s k x n i fun e => fit (val (opA i x e) * val (i.bOp x e))) ∧
    (i.op = 0x1B → WritesLanes (.fma k) s k x n i fun e => fit (val (opA i x e) * val (i.bOp x e) + val (opD i x e))) ∧
    (i.op = 0x1C → WritesLanes (.div k) s k x n i fun e =>
      let a := val (opA i x e)
      let b := val (i.bOp x e)
      if b ≠ 0 then roundTo f i.rm true 0 (Q.div ⟨a, 1⟩ ⟨b, 1⟩)
      else if a = 0 then 0 else if 0 < a then unsigned f.width (top - 1) else unsigned f.width (-top))

/-- R169, R170: `MAX` and `MIN` return one of the operands unchanged, and the NaN of the format where they do not compare. -/
def Obligations.MaxMinWriteLanes : Prop :=
  ∀ (s : State) (k : Nat) (x : Strand) (n : Inst) (i : Insn), IssuesOn s k x n i →
    let f := i.format
    let cmp (a b : Nat) : Option Ordering := fCmp (valOf f a) (valOf f b)
    let pick (a b : Nat) (max_ : Bool) : Nat := match cmp a b with
      | none => f.nanBits
      | some .lt => if max_ then b else a
      | some .gt => if max_ then a else b
      | some .eq => if isNegZero (valOf f a) = max_ then b else a
    (i.op = 0x1D → WritesLanes (.max k) s k x n i fun e => pick (opA i x e) (i.bOp x e) true) ∧
    (i.op = 0x1E → WritesLanes (.min k) s k x n i fun e => pick (opA i x e) (i.bOp x e) false)

/-- R174: the bitwise instructions act on the raw bits of each governed element; a shift count is b mod w. Other
formats, `FN`[3] and a second operand of `NOT` are refused at load. -/
def Obligations.BitwiseWritesLanes : Prop :=
  (∀ (s : State) (k : Nat) (x : Strand) (n : Inst) (i : Insn), IssuesOn s k x n i → i.op = 0x21 →
    let w := i.format.width
    let ones := 2 ^ w - 1
    (i.fn % 8 = 0 → WritesLanes (.and k) s k x n i fun e => opA i x e &&& i.bOp x e) ∧
    (i.fn % 8 = 1 → WritesLanes (.or k) s k x n i fun e => opA i x e ||| i.bOp x e) ∧
    (i.fn % 8 = 2 → WritesLanes (.xor k) s k x n i fun e => opA i x e ^^^ i.bOp x e) ∧
    (i.fn % 8 = 3 → WritesLanes (.andn k) s k x n i fun e => opA i x e &&& (i.bOp x e ^^^ ones)) ∧
    (i.fn % 8 = 4 → WritesLanes (.not k) s k x n i fun e => opA i x e ^^^ ones) ∧
    (i.fn % 8 = 5 → WritesLanes (.shl k) s k x n i fun e => opA i x e * 2 ^ (i.bOp x e % w)) ∧
    (i.fn % 8 = 6 → WritesLanes (.shr k) s k x n i fun e => opA i x e / 2 ^ (i.bOp x e % w)) ∧
    (i.fn % 8 = 7 → WritesLanes (.sar k) s k x n i fun e => unsigned w (signed w (opA i x e) / 2 ^ (i.bOp x e % w)))) ∧
  ∀ w textLen pc, let i := Insn.of w
    i.op = 0x21 → (i.fnBit 3 = true ∨ (i.fmt ≠ 8 ∧ i.fmt ≠ 9) ∨ (i.fn % 8 = 4 ∧ (i.fn / 16 ≠ 0 ∨ i.b ≠ 0))) → i.ok w textLen pc = false

/-- R175: the moves. `INS` writes one element if its bit governs it on, `EXT` reads one. -/
def Obligations.MovesWriteRegisters : Prop :=
  ∀ (s : State) (k : Nat) (x : Strand) (n : Inst) (i : Insn), IssuesOn s k x n i → i.op = 0x22 →
    let f := i.format
    (i.fn = 0 → WritesLanes (.mov k) s k x n i fun e => opA i x e) ∧
    (i.fn = 1 → WritesLanes (.bcast k) s k x n i fun _ => (x.sr i.a).toNat) ∧
    (i.fn = 2 → WritesLanes (.bcasti k) s k x n i fun _ => if f.width = 64 then i.imm * 2 ^ 32 else i.imm) ∧
    (i.fn = 3 → WritesLanes (.iota k) s k x n i fun e => roundTo f .rne false 0 ⟨e, 1⟩) ∧
    (i.fn = 4 → i.imm < f.elems → exec (.ins k) s = .next (went s k n
      (if govOn f (i.gov x) i.imm then x.putV i.d (put f (x.vr i.d) i.imm (x.sr i.a).toNat) else x))) ∧
    (i.fn = 5 → i.imm < f.elems → WritesScalar (.ext k) s k x n i (BitVec.ofNat 64 (el f (x.vr i.a) i.imm)))

/-- R176: the scalar operations on 64 bits; the reserved codes and fields are refused at load. -/
def Obligations.ScalarsWriteRegister : Prop :=
  (∀ (s : State) (k : Nat) (x : Strand) (n : Inst) (i : Insn), IssuesOn s k x n i → i.op = 0x23 →
    let a := x.sr i.a
    let b := if i.fnBit 5 then BitVec.ofInt 64 i.sext else x.sr i.b
    let c := b.toNat % 64
    let one (t : Bool) : Word64 := if t then 1 else 0
    (i.fn % 32 = 0 → WritesScalar (.sadd k) s k x n i (a + b)) ∧
    (i.fn % 32 = 1 → WritesScalar (.ssub k) s k x n i (a - b)) ∧
    (i.fn % 32 = 2 → WritesScalar (.smul k) s k x n i (a * b)) ∧
    (i.fn % 32 = 3 → WritesScalar (.sand k) s k x n i (a &&& b)) ∧
    (i.fn % 32 = 4 → WritesScalar (.sor k) s k x n i (a ||| b)) ∧
    (i.fn % 32 = 5 → WritesScalar (.sxor k) s k x n i (a ^^^ b)) ∧
    (i.fn % 32 = 6 → WritesScalar (.sshl k) s k x n i (a <<< c)) ∧
    (i.fn % 32 = 7 → WritesScalar (.sshr k) s k x n i (a >>> c)) ∧
    (i.fn % 32 = 8 → WritesScalar (.ssar k) s k x n i (a.sshiftRight c)) ∧
    (i.fn % 32 = 9 → WritesScalar (.smin k) s k x n i (if a.toInt ≤ b.toInt then a else b)) ∧
    (i.fn % 32 = 10 → WritesScalar (.smax k) s k x n i (if a.toInt ≤ b.toInt then b else a)) ∧
    (i.fn % 32 = 11 → WritesScalar (.sminu k) s k x n i (if a.toNat ≤ b.toNat then a else b)) ∧
    (i.fn % 32 = 12 → WritesScalar (.smaxu k) s k x n i (if a.toNat ≤ b.toNat then b else a)) ∧
    (i.fn % 32 = 13 → WritesScalar (.slt k) s k x n i (one (decide (a.toInt < b.toInt)))) ∧
    (i.fn % 32 = 14 → WritesScalar (.sltu k) s k x n i (one (decide (a.toNat < b.toNat)))) ∧
    (i.fn % 32 = 15 → WritesScalar (.seq k) s k x n i (one (decide (a = b)))) ∧
    (i.fn % 32 = 16 → WritesScalar (.smov k) s k x n i b) ∧
    (i.fn % 32 = 17 → WritesScalar (.slih k) s k x n i (BitVec.ofNat 64 ((x.sr i.d).toNat % 2 ^ 32 + i.imm * 2 ^ 32)))) ∧
  ∀ w textLen pc, let i := Insn.of w
    i.op = 0x23 → (17 < i.fn % 32 ∨ (i.fn % 32 = 17 ∧ i.fnBit 5 = false) ∨ (16 ≤ i.fn % 32 ∧ i.a ≠ 0) ∨ (i.fnBit 5 = true ∧ i.b ≠ 0)) →
      i.ok w textLen pc = false

/-- R177: the predicate operations on all 16 bits; codes beyond 8 are refused at load. -/
def Obligations.PredicatesWriteRegister : Prop :=
  (∀ (s : State) (k : Nat) (x : Strand) (n : Inst) (i : Insn), IssuesOn s k x n i → i.op = 0x24 →
    let a := x.pr i.a
    let b := x.pr i.b
    (i.fn % 16 = 0 → WritesPred (.pand k) s k x n i (a &&& b)) ∧
    (i.fn % 16 = 1 → WritesPred (.por k) s k x n i (a ||| b)) ∧
    (i.fn % 16 = 2 → WritesPred (.pxor k) s k x n i (a ^^^ b)) ∧
    (i.fn % 16 = 3 → WritesPred (.pandn k) s k x n i (a &&& ~~~b)) ∧
    (i.fn % 16 = 4 → WritesPred (.pnot k) s k x n i (~~~a)) ∧
    (i.fn % 16 = 5 → WritesPred (.pset k) s k x n i (BitVec.ofNat 16 i.imm)) ∧
    (i.fn % 16 = 6 → WritesPred (.pfrom k) s k x n i (BitVec.setWidth 16 (x.sr i.a))) ∧
    (i.fn % 16 = 7 → WritesScalar (.pto k) s k x n i (BitVec.setWidth 64 a)) ∧
    (i.fn % 16 = 8 → WritesScalar (.pcnt k) s k x n i
      (BitVec.ofNat 64 (((List.range 16).filter fun j => a.getLsbD j).length)))) ∧
  ∀ w textLen pc, let i := Insn.of w
    i.op = 0x24 → 8 < i.fn → i.ok w textLen pc = false

/-- R178: `NEG`, `ABS` and `SQRT`. -/
def Obligations.UnaryWritesLanes : Prop :=
  ∀ (s : State) (k : Nat) (x : Strand) (n : Inst) (i : Insn), IssuesOn s k x n i → i.op = 0x25 →
    let f := i.format
    let w := f.width
    let val (e : Nat) : Int := signed w (opA i x e)
    let top : Int := 2 ^ (w - 1)
    let fit (v : Int) : Nat := if i.sat then unsigned w (max (-top) (min (top - 1) v)) else unsigned w v
    let nan (e : Nat) : Bool := valOf f (opA i x e) == .nan
    (i.fn / 16 = 0 → f.isInt = true → WritesLanes (.neg k) s k x n i fun e => fit (-(val e))) ∧
    (i.fn / 16 = 1 → f.isInt = true → WritesLanes (.abs k) s k x n i fun e => fit (val e).natAbs) ∧
    (i.fn / 16 = 0 → f.isInt = false → WritesLanes (.neg k) s k x n i fun e =>
      if nan e then f.nanBits else opA i x e ^^^ 2 ^ (w - 1)) ∧
    (i.fn / 16 = 1 → f.isInt = false → WritesLanes (.abs k) s k x n i fun e =>
      if nan e then f.nanBits else opA i x e % 2 ^ (w - 1)) ∧
    (i.fn / 16 = 2 → f.isInt = false → WritesLanes (.sqrt k) s k x n i fun e => match valOf f (opA i x e) with
      | .nan => f.nanBits
      | .inf neg => if neg then f.nanBits else infBits f i.sat false
      | .fin _ q => if q.n < 0 then f.nanBits else roundSqrt f i.rm i.sat q)

/-- R172: `CMP` writes the result of each governed element to its predicate bits and keeps the bits of the others: with 8
elements bits 2i and 2i + 1 of pD, with 16 bit i of pD, with 32 bit i div 2 of p(D + i mod 2). -/
def Obligations.CompareWritesPredicate : Prop :=
  ∀ (s : State) (k : Nat) (x : Strand) (n : Inst) (i : Insn), IssuesOn s k x n i → i.op = 0x1F → i.d < 7 → i.fn % 8 < 7 →
    x.p.length = 8 →
    let f := i.format
    let hit (e : Nat) : Bool := match i.fn % 8, fCmp (valOf f (opA i x e)) (valOf f (i.bOp x e)) with
      | 0, o => o == some .eq
      | 1, o => o != some .eq
      | 2, o => o == some .lt
      | 3, o => o == some .lt || o == some .eq
      | 4, o => o == some .gt
      | 5, o => o == some .gt || o == some .eq
      | _, o => o == none
    ∃ y : Strand, exec (.cmp k) s = .next (went s k n y) ∧ y = { x with p := y.p } ∧ y.p.length = 8 ∧
      ∀ q j, q < 8 → j < 16 →
        let e := if f.elems = 8 then j / 2 else if f.elems = 16 then j else 2 * j + (q - i.d)
        let mine := decide (q = i.d) || (f.elems == 32 && q == i.d + 1)
        (y.pr q).getLsbD j = if mine && govOn f (i.gov x) e then hit e else (x.pr q).getLsbD j

/-- R173: `SEL` writes every element, from vA where its bit of g is set and from vB otherwise, bits copied. -/
def Obligations.SelectWritesLanes : Prop :=
  ∀ (s : State) (k : Nat) (x : Strand) (n : Inst) (i : Insn), IssuesOn s k x n i → i.op = 0x20 →
    ∃ v, exec (.sel k) s = .next (went s k n (x.putV i.d v)) ∧
      ∀ e, e < i.format.elems →
        el i.format v e = if govOn i.format (i.gov x) e then el i.format (x.vr i.a) e else el i.format (x.vr i.b) e

/-! ## Seedcode: accumulators, filters, conversions -/

/-- R179, R180, R181: each governed lane of the accumulator takes one more term, with its multiplicity, or is cleared; the other
lanes, the other registers and the rest of the switch stay. The model's own choices in it: log 57. -/
def Obligations.AccumulateAddsOneItem : Prop :=
  ∀ (s : State) (k : Nat) (x : Strand) (n : Inst) (i : Insn), IssuesOn s k x n i → (x.ar i.d).length = 16 →
    let f := i.format
    let place (j : Nat) : Nat := if f.elems = 32 then (if i.fnBit 0 then 16 + j else j) else j
    let term (scale e : Nat) : FVal := if i.fnBit 1 then mxValue f (opA i x e) scale else valOf f (opA i x e)
    let lane (j : Nat) : Lane := (x.ar i.d).getD j Lane.init
    let fills (c : Instr) (new : Nat → Lane) : Prop :=
      ∃ l, exec c s = .next (went s k n (x.putA i.d l)) ∧ l.length = 16 ∧ ∀ j, j < 16 → l.getD j Lane.init = new j
    (i.op = 0x28 → fills (.acc k) fun j =>
      if govOn f (i.gov x) (place j) then (lane j).add (term ((x.sr i.b).toNat % 256) (place j)) 1 else lane j) ∧
    (i.op = 0x29 → fills (.accm k) fun j =>
      let m := (x.sr i.b).toNat % 2 ^ 32
      if govOn f (i.gov x) (place j) ∧ m ≠ 0 then (lane j).add (term ((x.sr (i.imm % 16)).toNat % 256) (place j)) m else lane j) ∧
    (i.op = 0x2B → fills (.clra k) fun j => if (i.gov x).getLsbD j then Lane.init else lane j)

/-- R182: `RND` without a block rounds one lane into each governed element of the part that `FN`[5:4] names, and reports the
lanes in a predicate where it is asked to. -/
def Obligations.RoundReadsAccumulator : Prop :=
  ∀ (s : State) (k : Nat) (x : Strand) (n : Inst) (i : Insn), IssuesOn s k x n i → i.op = 0x2A → bitAt i.imm 4 = false →
    let f := i.format
    let mean := bitAt i.imm 5
    let source (e : Nat) : Option Nat :=
      if f.elems = 8 then some (e + 8 * i.part) else if f.elems = 16 then some e
      else if 16 * i.part ≤ e ∧ e < 16 * i.part + 16 then some (e - 16 * i.part) else none
    let rounded (j e : Nat) : Nat := ((x.ar i.a).getD j Lane.init).round f i.rm i.sat mean (i.srWord x e)
    ∃ v, (∀ e, e < f.elems → el f v e = match source e with
        | some j => if govOn f (i.gov x) e then rounded j e % 2 ^ f.width else opD i x e
        | none => opD i x e) ∧
      exec (.rnd k) s = .next (went s k n (if bitAt i.imm 3
        then (x.putV i.d v).putP (i.imm % 8) (laneReport ((x.ar i.a).map (·.reported mean))) else x.putV i.d v))

/-- R183: `PACK` moves the marked lanes of vA together and writes zeros above them; both write the number of marked lanes. -/
def Obligations.PackJoinsLanes : Prop :=
  ∀ (s : State) (k : Nat) (x : Strand) (n : Inst) (i : Insn), IssuesOn s k x n i → i.op = 0x30 →
    let marked := (List.range 16).filter fun j => (i.gov x).getLsbD j
    ∃ v, exec (.pack k) s = .next (went s k n ((x.putV i.d v).putS (i.imm % 16) (BitVec.ofNat 64 marked.length))) ∧
      ∀ j, j < 16 → laneOf v j = if j < marked.length then laneOf (x.vr i.a) (marked.getD j 0) else 0

/-- R183 to R186: `UNPK` spreads the lanes of vA over the marked lanes of vD; `TOPK` keeps the best 16 of the pairs held and
offered; a block `RND` or `CVT` writes 32 elements and their scale; a plain `CVT` or `XPND` converts the governed elements of
the part that it names. -/
def Obligations.FilterAndConvertWriteResults : Prop :=
  ∀ (s : State) (k : Nat) (x : Strand) (n : Inst) (i : Insn), IssuesOn s k x n i →
    let f := i.format
    let src := i.sfmt
    let marked := (List.range 16).filter fun j => (i.gov x).getLsbD j
    let converts (c : Instr) (r : Nat → Nat) : Prop :=
      ∃ v, exec c s = .next (went s k n (x.putV i.d v)) ∧ ∀ e, e < f.elems →
        el f v e = match cvtSource src f i.part e with
          | some j => if govOn f (i.gov x) e then r (el src (x.vr i.a) j) % 2 ^ f.width else opD i x e
          | none => opD i x e
    (i.op = 0x31 → exec (.unpk k) s = .next (went s k n ((x.putV i.d
      ((enum' marked).foldl (fun v p => setLane v p.2 (laneOf (x.vr i.a) p.1)) (x.vr i.d))).putSN (i.imm % 16) marked.length))) ∧
    (i.op = 0x32 →
      let held := (List.range 16).map fun j => (laneOf (x.vr i.d) j, laneOf (x.vr (i.d + 1)) j)
      let offered := marked.map fun j => (laneOf (x.vr i.a) j, laneOf (x.vr i.b) j)
      let best := (sortBy (·.1) ((held ++ offered).map (topkRank f (i.fnBit 0)))).take 16
      exec (.topk k) s = .next (went s k n
        ((x.putV i.d (vecOf .int32 (best.map (·.2.1)))).putV (i.d + 1) (vecOf .int32 (best.map (·.2.2)))))) ∧
    (i.op = 0x2A → bitAt i.imm 4 = true → bitAt i.imm 3 = false →
      let b := mxBlock f i.rm ((x.ar i.a ++ x.ar (i.a + 1)).map (·.val (bitAt i.imm 5))) ((List.range 32).map (i.srWord x))
      exec (.rnd k) s = .next (went s k n ((x.putV i.d (vecOf f b.2)).putSN (i.imm / 256 % 16) b.1))) ∧
    (i.op = 0x38 → bitAt i.imm 4 = true → src.elems = 32 →
      let b := mxBlock f i.rm ((List.range 32).map fun e => valOf src (el src (x.vr i.a) e)) (List.replicate 32 0)
      exec (.cvt k) s = .next (went s k n ((x.putV i.d (vecOf f b.2)).putSN (i.imm / 256 % 16) b.1))) ∧
    (i.op = 0x38 → bitAt i.imm 4 = false → converts (.cvt k) (convert src f i.rm i.sat)) ∧
    (i.op = 0x39 → bitAt i.imm 4 = false → converts (.xpnd k) (convert src f .rne false)) ∧
    (i.op = 0x39 → bitAt i.imm 4 = true →
      converts (.xpnd k) fun b => convertVal f .rne false (mxValue src b ((x.sr (i.imm / 256 % 16)).toNat % 256)))

/-! ## Seedcode: control -/

/-- R148: `NOP` does nothing: the strand goes on, and no register and nothing else in the switch changes but the meter of issued
instructions. The all-zero word is `NOP`. -/
def Obligations.NopOnlyAdvances : Prop :=
  (∀ (s : State) (k : Nat) (x : Strand) (n : Inst) (i : Insn), IssuesOn s k x n i → i.op = 0 →
    exec (.nop k) s = .next (went s k n x)) ∧ (Insn.of 0).op = 0 ∧
  ∀ w textLen pc, (Insn.of w).op = 0 → ((Insn.of w).ok w textLen pc = true ↔ w = 0)

/-- R149, R150: a branch that is taken goes to its target and may write the return offset; `LOOP` counts sA down and branches
while it is not 0. The model's own choices in it: log 44. -/
def Obligations.BranchesSetTheCounter : Prop :=
  ∀ (s : State) (k : Nat) (x : Strand) (n : Inst) (i : Insn), IssuesOn s k x n i →
    let target : Int := x.pc + i.sext
    let a := x.sr i.a
    let goes (c : Instr) (y : Strand) (dest : Nat) : Prop := exec c s = .next (setStrand k { y with pc := dest } (counted s n))
    let linked := if i.fnBit 4 then x.putS i.d (BitVec.ofNat 64 (x.pc + 8)) else x
    (i.op = 0x01 → brTaken (i.fn % 16) a (i.gov x) = false → exec (.br k) s = .next (went s k n x)) ∧
    (i.op = 0x01 → brTaken (i.fn % 16) a (i.gov x) = true → i.fnBit 5 = false → 0 ≤ target → target < n.image.textLen →
      goes (.br k) linked target.toNat) ∧
    (i.op = 0x01 → brTaken (i.fn % 16) a (i.gov x) = true → i.fnBit 5 = true → i.address linked % 8 = 0 →
      i.address linked < n.image.textLen → goes (.br k) linked (i.address linked)) ∧
    (i.op = 0x01 → brTaken (i.fn % 16) a (i.gov x) = true → i.fnBit 5 = true → i.address linked % 8 ≠ 0 →
      exec (.br k) s = .next (strandFault k 2 stIllegal (i.address linked) (counted s n))) ∧
    (i.op = 0x02 → a = 0 → exec (.loop k) s = .next (went s k n x)) ∧
    (i.op = 0x02 → a = 1 → exec (.loop k) s = .next (went s k n (x.putS i.a 0))) ∧
    (i.op = 0x02 → a ≠ 0 → a ≠ 1 → 0 ≤ target → target < n.image.textLen → goes (.loop k) (x.putS i.a (a - 1)) target.toNat)

/-- R93 to R95, R109, R151 to R153: what `WAITE`, `BAR`, `FENCE`, `RAISE` and `HALT` do to the strand; a strand that halts
leaves its barrier set, and s0 of strand index 0 becomes the result. R106, R151: when the event that a strand awaits comes, sD
takes the epoch or the time, and the strand goes on. The model's own choices in it: log 22, 59. -/
def Obligations.WaitsAndEndsChangeRunState : Prop :=
  (∀ (s : State) (k : Nat) (x : Strand) (n : Inst) (i : Insn), IssuesOn s k x n i →
    let u := counted s n
    let holds (c : Instr) (w : Wait) : Prop := exec c s = .next (setStrand k { x with wait := w } u)
    (∀ ch, i.op = 0x03 → i.fn = 0 → waitedChan s x n (i.imm % 256) = some ch →
      WritesScalar (.waite k) s k x n i (BitVec.ofNat 64 ch)) ∧
    (i.op = 0x03 → i.fn = 0 → waitedChan s x n (i.imm % 256) = none → exec (.waite k) s = .next s) ∧
    (i.op = 0x03 → i.fn = 1 → slotNow s (i.imm % 4096) = true → WritesScalar (.waite k) s k x n i (BitVec.ofNat 64 (epochNow s))) ∧
    (i.op = 0x03 → i.fn = 1 → slotNow s (i.imm % 4096) = false → holds (.waite k) (.event s.clk.now)) ∧
    (i.op = 0x03 → i.fn = 2 → (x.sr i.a).toNat ≤ s.clk.now → WritesScalar (.waite k) s k x n i (BitVec.ofNat 64 s.clk.now)) ∧
    (i.op = 0x03 → i.fn = 2 → s.clk.now < (x.sr i.a).toNat → holds (.waite k) (.event s.clk.now)) ∧
    (i.op = 0x03 → i.fn = 3 → holds (.waite k) (.event (epochNow s))) ∧
    (i.op = 0x04 → (∃ j y, j ∈ n.strands ∧ j ≠ k ∧ tget s.seed.strands j = some y ∧ y.halted = false ∧ (y.wait == .bar) = false) →
      holds (.bar k) .bar) ∧
    (i.op = 0x04 → n.strands.Nodup → k ∈ n.strands →
      (∀ j, j ∈ n.strands → j ≠ k → ∃ y, tget s.seed.strands j = some y ∧ y.inst = x.inst ∧ y.pc + 8 < n.image.textLen ∧
        (y.halted = true ∨ y.wait = .bar)) →
      ∃ t, exec (.bar k) s = .next t ∧ tget t.seed.strands k = some { x with pc := x.pc + 8 } ∧
        (∀ j y, j ∈ n.strands → j ≠ k → tget s.seed.strands j = some y → y.halted = false →
          tget t.seed.strands j = some { y with wait := .none, pc := y.pc + 8 }) ∧
        (∀ j, j ∉ n.strands ∨ (∃ y, tget s.seed.strands j = some y ∧ y.halted = true) → tget t.seed.strands j = tget s.seed.strands j) ∧
        ∃ l, t = { u with seed := { u.seed with strands := l } }) ∧
    (i.op = 0x05 → i.fnBit 1 = false ∨ x.reqs = [] → exec (.fence k) s = .next (went s k n x)) ∧
    (i.op = 0x05 → i.fnBit 1 = true → x.reqs ≠ [] → exec (.fence k) s = .next s) ∧
    (i.op = 0x06 →
      let v := (if i.fnBit 0 then (x.sr i.a).toNat else i.imm) % 256
      exec (.raise k) s = .next (strandFault k 5 (if 0x10 ≤ v ∧ v ≤ 0x24 then v else stIllegal) 0 u)) ∧
    (i.op = 0x07 → x.index = 0 → exec (.halt k) s = .next
      (barCheck x.inst (setInst x.inst { n with result := x.sr 0 } (setStrand k { x with halted := true } u)))) ∧
    (i.op = 0x07 → x.index ≠ 0 → exec (.halt k) s = .next (barCheck x.inst (setStrand k { x with halted := true } u)))) ∧
  (∀ (s : State) (k : Nat) (x : Strand) (n : Inst) (mark w : Nat), tget s.seed.strands k = some x → tget s.seed.insts x.inst = some n →
    x.wait = .event mark → n.fault = none → n.image.wordAt x.pc = some w → x.pc + 8 < n.image.textLen →
    let i := Insn.of w
    let wakes (t : State) (v : Nat) : Prop :=
      exec (.waiteRelease k) s = .next (setStrand k { ({ x with wait := .none } : Strand).putSN i.d v with pc := x.pc + 8 } t)
    (i.fn = 2 → (x.sr i.a).toNat < n.limitAt →
      wakes (atTime (x.sr i.a).toNat s) (atTime (x.sr i.a).toNat s).clk.now) ∧
    (i.fn = 3 → epochNow s ≠ mark → wakes s (epochNow s)) ∧
    (∀ a b, i.fn = 1 → slotSpan s (i.imm % 4096) = some (a, b) → mark < a →
      wakes (atTime a s) (epochNow s)) ∧
    (i.fn = 2 → n.limitAt ≤ (x.sr i.a).toNat → exec (.waiteRelease k) s = .next s))

/-! ## Seedcode: streams and memory -/

/-- R154 to R158: a strand takes an item from a bound receive channel, sends one, or forwards one; the descriptor of the item
goes to its register. An empty or a full channel makes it wait with nothing changed, an aborted one answers at once, and a
channel that is not bound faults `LOCAL_RANGE` (cause 1). R129, R218: a malformed lane form that `FWD` would move ends the
collective (reason 5). The model's own choices in it: log 95, 178, 179. -/
def Obligations.StreamItemsMove : Prop :=
  ∀ (s : State) (k : Nat) (x : Strand) (n : Inst) (i : Insn) (c : Nat) (y : ColCtx), IssuesOn s k x n i → chanCtx s x n = some (c, y) →
    let ch := i.imm % 8
    let sc := i.imm / 16 % 8
    let items := chanItems y ch x
    let goes (c : Instr) (z : Strand) (t : State) : Prop := exec c s = .next (setStrand k { z with pc := x.pc + 8 } t)
    (i.op = 0x08 → y.record.recvBound ch = true → y.dead = false →
      (items = [] → exec (.recv k) s = .next s) ∧
      (∀ it rest, items = it :: rest →
        let desc := itemDesc it.pos it.idx stOK it.last
        (i.fnBit 0 = false → goes (.recv k)
          ((x.putV i.d (unpackReg i.format (slice it.bytes 0 i.format.bytes))).putSN (i.imm / 256 % 16) desc)
          (recvBuffer k n it.bytes (takeItem c ch y it (counted s n)))) ∧
        (∀ ls, i.fnBit 0 = true → Lane.readMany 16 it.bytes = some (ls, false) → goes (.recv k)
          ((x.putA i.d (((x.ar i.d).zip ls).map fun p => p.1.merge p.2)).putSN (i.imm / 256 % 16) desc)
          (recvBuffer k n it.bytes (takeItem c ch y it (counted s n)))))) ∧
    (i.op = 0x09 → y.record.sendBound ch = true → y.dead = false →
      (64 ≤ colUnsent y ch → exec (.send k) s = .next s) ∧
      (colUnsent y ch < 64 → exec (.send k) s = .next (colPut c ch false
        ⟨x.index, (x.sr i.b).toNat % 2 ^ 32, i.fnBit 0, i.fnBit 1, i.fmt,
          if i.fnBit 1 then ((x.ar i.a).map (·.form)).foldl (· ++ ·) [] else packReg i.format (x.vr i.a), []⟩ (went s k n x)))) ∧
    (i.op = 0x0A → y.record.recvBound ch = true → y.record.sendBound sc = true → y.dead = false →
      ((items = [] ∨ 64 ≤ colUnsent y sc) → exec (.fwd k) s = .next s) ∧
      (∀ it rest, items = it :: rest → colUnsent y sc < 64 →
        let kind := y.record.itemKind ch
        let moved (st : Nat) : State :=
          setStrand k { x.putSN i.d (itemDesc it.pos it.idx st it.last) with pc := x.pc + 8 } (takeItem c ch y it (counted s n))
        (badLanes kind.1 it.bytes = false → exec (.fwd k) s = .next
          (colPut c sc true ⟨x.index, it.pos, it.last, kind.1, kind.2, it.bytes, it.report⟩ (moved stOK))) ∧
        (badLanes kind.1 it.bytes = true → exec (.fwd k) s = .next
          (colAbort c 5 (nodeSelf (takeItem c ch y it (counted s n))) none (moved stIllegal))))) ∧
    (y.dead = true →
      (i.op = 0x08 → y.record.recvBound ch = true → exec (.recv k) s = .next (went s k n (x.putSN (i.imm / 256 % 16) abortDesc))) ∧
      (i.op = 0x09 → y.record.sendBound ch = true → exec (.send k) s = .next (went s k n x)) ∧
      (i.op = 0x0A → y.record.recvBound ch = true → y.record.sendBound sc = true →
        exec (.fwd k) s = .next (went s k n (x.putSN i.d abortDesc))) ∧
      (i.op = 0x0B → y.record.recvBound (i.imm / 256 % 8) = true → exec (.grant k) s = .next (went s k n x))) ∧
    (i.op = 0x08 → y.record.recvBound ch = false → exec (.recv k) s = .next (strandFault k 1 stIllegal 0 (counted s n))) ∧
    (i.op = 0x09 → y.record.sendBound ch = false → exec (.send k) s = .next (strandFault k 1 stIllegal 0 (counted s n)))

/-- R159, R202, R205: `GRANT` reserves its segments in the channel's buffer and in the partition's landing, adds the credit, and
sends the sender one control frame; without room it waits. The model's own choices in it: log 95. -/
def Obligations.GrantReturnsCredits : Prop :=
  ∀ (s : State) (k : Nat) (x : Strand) (n : Inst) (i : Insn) (c : Nat) (y : ColCtx), IssuesOn s k x n i → i.op = 0x0B →
    chanCtx s x n = some (c, y) → y.dead = false →
    let ch := i.imm / 256 % 8
    let count := i.imm % 256
    let u := counted s n
    let q := y.recv.getD ch ⟨[], 0⟩
    let need := count * y.record.chanLen ch
    let cells := cellsOf (q.used + need) - cellsOf q.used
    let room := q.used + need ≤ y.record.chbuf * 2 ^ 20 ∧ partRoom u (colPart u y) cells = true
    y.record.recvBound ch = true → ∀ kind key node, grantee y.record ch ((x.sr i.a).toNat % 16384) = some (kind, key, node) →
      (¬ room → exec (.grant k) s = .next s) ∧
      (room →
        let snd := tgetD y.senders key ⟨0, none, 0, false⟩
        let y' := { y with recv := y.recv.set ch { q with used := q.used + need },
                           senders := tset y.senders key { snd with credit := snd.credit + count, idle := snd.idle <|> some s.clk.now } }
        let msg := toLE 2 (c + 32768 * rget s R.COL_CTX_RP c) ++ toLE 1 count ++ toLE 1 kind ++
          toLE 2 (y.record.chanLen ch / 256) ++ toLE 2 0
        exec (.grant k) s = .next (sendCtl 0xF0 node msg (chargePart (colPart u y) cells (setCol c y' (went s k n x)))))

/-- R160, R162 to R164: a load or a store at a local address. A load changes its destination alone, a store the bytes at its
address alone. An address outside the instance's ranges faults `LOCAL_RANGE` (cause 1), a misaligned one `ALIGN` (cause 2). The
model's own choices in it: log 21. -/
def Obligations.LocalAccessReadsAndStores : Prop :=
  ∀ (s : State) (k : Nat) (x : Strand) (n : Inst) (i : Insn), IssuesOn s k x n i →
    let a := i.address x
    let f := i.format
    let w := 2 ^ (i.fn % 4)
    let u := counted s n
    let held (m : Nat) : List Byte := localRead s n k (spaceOf n a m) m
    let is_local (m : Nat) : Prop := spaceOf n a m ≠ .outside ∧ spaceOf n a m ≠ .fabric
    let stores (c : Instr) (m : Nat) (bs : List Byte) : Prop :=
      exec c s = .next (localWrite n k (spaceOf n a m) bs (went s k n x))
    (i.op = 0x10 → is_local f.bytes → a % 8 = 0 →
      WritesLanes (.ldv k) s k x n i fun e => el f (unpackReg f (slice (held f.bytes) 0 f.bytes)) e) ∧
    (i.op = 0x12 → is_local w → a % w = 0 → i.fnBit 2 = false → WritesScalar (.lds k) s k x n i (BitVec.ofNat 64 (leAt (held w) 0 w))) ∧
    (i.op = 0x12 → is_local w → a % w = 0 → i.fnBit 2 = true →
      WritesScalar (.lds k) s k x n i (BitVec.ofInt 64 (signed (8 * w) (leAt (held w) 0 w)))) ∧
    (i.op = 0x11 → is_local f.bytes → a % 8 = 0 →
      ∃ v, (∀ e, e < f.elems → el f v e = if govOn f (i.gov x) e then el f (x.vr i.d) e else el f (unpackReg f (held f.bytes)) e) ∧
        stores (.stv k) f.bytes (packReg f v)) ∧
    (i.op = 0x13 → is_local w → a % w = 0 → stores (.sts k) w (toLE w (x.sr i.d).toNat)) ∧
    (i.op = 0x10 → spaceOf n a f.bytes = .outside → exec (.ldv k) s = .next (strandFault k 1 stIllegal a u)) ∧
    (i.op = 0x11 → spaceOf n a f.bytes = .outside → exec (.stv k) s = .next (strandFault k 1 stIllegal a u)) ∧
    (i.op = 0x10 → is_local f.bytes → a % 8 ≠ 0 → exec (.ldv k) s = .next (strandFault k 2 stIllegal a u)) ∧
    (i.op = 0x13 → is_local w → a % w ≠ 0 → exec (.sts k) s = .next (strandFault k 2 stIllegal a u))

/-- R161 to R164, R166: a load, store or atomic at a fabric address is sent as requests, where the strand's 16 and the gallery's
4,096 leave room, and waits with nothing changed where they do not. The model's own choices in it: log 58. -/
def Obligations.FabricAccessSendsOneRequest : Prop :=
  ∀ (s : State) (k : Nat) (x : Strand) (n : Inst) (i : Insn), IssuesOn s k x n i → i.address x < 2 ^ 63 →
    let a := i.address x
    let u := counted s n
    let w := 2 ^ (i.fn % 4)
    let v := if i.fnBit 3 then 8 else 4
    (i.op = 0x10 → a % 8 = 0 → fabRoom u k x (fabPieces a i.format.bytes).length = true →
      exec (.ldv k) s = .next (sendLoads k n (fabPieces a i.format.bytes) u)) ∧
    (i.op = 0x12 → a % w = 0 → fabRoom u k x 1 = true → exec (.lds k) s = .next (sendLoads k n [(a, w)] u)) ∧
    (i.op = 0x13 → a % w = 0 → fabRoom u k x 1 = true → exec (.sts k) s = .next (advance_ k
      (sendStrand k (strandReq n 0x02 a w (toLE w (x.sr i.d).toNat) (i.fnBit 3) false false none 0 u) u))) ∧
    (i.op = 0x16 → a % v = 0 → fabRoom u k x 1 = true → exec (.atom k) s = .next (advance_ k
      (sendStrand k (strandReq n (0x10 + (if v = 8 then 8 else 0) + i.fn % 8) a 24
        (toLE 8 (x.sr i.b).toNat ++ toLE 8 (if i.fn % 8 = 1 then (x.sr i.d).toNat else 0) ++ toLE 4 (nowUs s % 2 ^ 32) ++ toLE 4 0)
        false false true (some i.d) v u) u))) ∧
    (i.op = 0x13 → a % w = 0 → fabRoom u k x 1 = false → exec (.sts k) s = .next s) ∧
    (i.op = 0x16 → a % v = 0 → fabRoom u k x 1 = false → exec (.atom k) s = .next s)

/-- R165, R166: `GATH` and `SCAT` of local lanes, and `ATOM` at a local address. Of lanes with the same address the highest is
stored. The model's own choices in it: log 43. -/
def Obligations.GatherScatterAtomIssue : Prop :=
  ∀ (s : State) (k : Nat) (x : Strand) (n : Inst) (i : Insn), IssuesOn s k x n i →
    let at_ (j : Nat) : Nat := ((x.sr i.a).toNat + laneOf (x.vr i.b) j * 2 ^ (i.imm % 16)) % 2 ^ 64
    let on (j : Nat) : Bool := (i.gov x).getLsbD j
    let near (j : Nat) : Prop := 2 ^ 63 ≤ at_ j ∧ spaceOf n (at_ j) 4 ≠ .outside ∧ at_ j % 4 = 0
    let kept := (List.range 16).filter fun j => on j && !(List.range 16).any fun q => on q && decide (j < q) && at_ q == at_ j
    let w := if i.fnBit 3 then 8 else 4
    let a := i.address x
    let sp := spaceOf n a w
    (i.op = 0x14 → (∀ j, j < 16 → on j = true → near j) →
      ∃ v, exec (.gath k) s = .next (went s k n (x.putV i.d v)) ∧
        ∀ j, j < 16 → laneOf v j = if on j then leAt (localRead s n k (spaceOf n (at_ j) 4) 4) 0 4 % 2 ^ 32 else laneOf (x.vr i.d) j) ∧
    (i.op = 0x15 → (∀ j, j < 16 → on j = true → near j) → fabRoom (counted s n) k x 0 = true →
      exec (.scat k) s = .next (each kept (fun j t => localWrite n k (spaceOf n (at_ j) 4) (toLE 4 (laneOf (x.vr i.d) j)) t)
        (went s k n x))) ∧
    (i.op = 0x16 → sp ≠ .outside → sp ≠ .fabric → a % w = 0 →
      let old := leNat (localRead s n k sp w)
      exec (.atom k) s = .next (setStrand k { x.putSN i.d old with pc := x.pc + 8 }
        (localWrite n k sp (toLE w (atomicNew (i.fn % 8) w old (x.sr i.b).toNat (x.sr i.d).toNat)) (counted s n))))

/-- R168: `PIN` pins the live version of a table of its partition and writes its number, or all ones where it cannot; with
`FN`[0] it releases. R161, R167: the answer to a fabric request of a strand writes the destination of its atomic, or faults
`FABRIC_STATUS` (cause 3). -/
def Obligations.PinsAndAnswersComplete : Prop :=
  (∀ (s : State) (k : Nat) (x : Strand) (n : Inst) (i : Insn), IssuesOn s k x n i → i.op = 0x17 →
    let u := counted s n
    let tb := (x.sr i.a).toNat % 4096
    let ver := liveVer u tb
    let ok := rbit u R.TBL_VALID tb && rget u R.TBL_PART tb == n.part && pinRoom u tb ver
    let held := (tblOf u tb).holds.contains (ver, .inst x.inst)
    (i.fn = 0 → ok = false → exec (.pin k) s = .next (went s k n (x.putS i.d (BitVec.ofNat 64 (2 ^ 64 - 1))))) ∧
    (i.fn = 0 → ok = true → held = true → exec (.pin k) s = .next (went s k n (x.putSN i.d ver))) ∧
    (i.fn = 0 → ok = true → held = false → exec (.pin k) s = .next (retire k (x.putSN i.d ver) (addHold tb ver (.inst x.inst)
      (setInst x.inst { n with pins := n.pins ++ [(tb, ver)] } u)))) ∧
    (i.fn = 1 → exec (.pinRelease k) s = .next (advance_ k
      (dropHolds tb (fun v h => v == (x.sr i.d).toNat && h == .inst x.inst)
        (setInst x.inst { n with pins := n.pins.filter (· != (tb, (x.sr i.d).toNat)) } u))))) ∧
  ∀ (s : State) (k m id : Nat) (ib : Inbox) (x : Strand) (r : FabReq) (n : Inst),
    ownAnswer s m = some (id, ib) → tget s.seed.strands k = some x → x.reqs.find? (·.n == m) = some r →
    tget s.seed.insts x.inst = some n → n.fault = none → x.wait ≠ .fault → r.isLoad = false →
    let y := { x with reqs := x.reqs.filter (·.n != m) }
    let st := ib.frame.status
    ((st = stOK ∨ st = stReplayed) → exec (.strandFabricAnswer k m) s = .next (setStrand k
      (match r.dReg with | some d => y.putSN d (leAt ib.frame.payload 0 r.width) | none => y) (takeInbox id s))) ∧
    (st ≠ stOK → st ≠ stReplayed → (r.isAtomic = false ∨ 3 ≤ r.repeats ∨ (st ≠ stNoAnswer ∧ st ≠ stRouteStale)) →
      exec (.strandFabricAnswer k m) s = .next (instFault x.inst 3 st k r.pc ((n.image.wordAt r.pc).getD 0) r.addr
        (setStrand k y (takeInbox id s))))

/-! ## Requests at their switch -/

/-- R51, R54, R62: a tracked load or store of this switch's window goes to its pool, one of the one-hop domain is sent as it is,
one beyond it as `BULK_GET` or `BULK_PUT_MASKED`. An `OF` store waits until every earlier store of its pair has ended, and one
whose pair has failed is withheld. The model's own choices in it: log 36, 155. -/
def Obligations.LoadsAndStoresAtHome : Prop :=
  (∀ (s : State) (id : Nat) (i : Inbox) (f : Frame) (n : Nat) (t : State), Serves s id i f n true t → f.opc = 0x01 → loadWaits s id = false →
    let here := f.dst = nodeSelf t
    let near := oneHop t f.dst = true
    (here → exec (.load id) s = .next (submit n (newReq .load f (.mgmt 0) true f.offset f.len [] []) 0 t)) ∧
    (¬ here → near → exec (.load id) s = .next (sendTracked n t)) ∧
    (¬ here → ¬ near → f.je = false → exec (.load id) s = .next (sendAs n (blockGet f) t)) ∧
    (¬ here → ¬ near → f.je = true → exec (.load id) s = .next (closeTrackError n stUnsupported 0 t))) ∧
  (∀ (s : State) (id : Nat), loadWaits s id = true → exec (.load id) s = .next s) ∧
  (∀ (s : State) (id : Nat) (i : Inbox) (f : Frame) (n : Nat) (t : State), Serves s id i f n true t → f.opc = 0x02 →
    (f.je = false ∨ oneHop t f.dst = true) →
    let here := f.dst = nodeSelf t
    let near := oneHop t f.dst = true
    let turn := f.of_ = false ∨ (pairClear t n f = true ∧ pairFailed t n f = false)
    (turn → here → exec (.store id) s = .next (submit n (newReq .store f (.mgmt 0) true f.offset f.len f.payload []) 0 t)) ∧
    (turn → ¬ here → near → exec (.store id) s = .next (sendTracked n t)) ∧
    (turn → ¬ here → ¬ near → exec (.store id) s = .next (sendAs n (maskedPut f) t)) ∧
    (f.of_ = true → pairClear t n f = true → pairFailed t n f = true →
      exec (.store id) s = .next (closeTrackError n stWithheld 3 t)) ∧
    (f.of_ = true → pairClear t n f = false → exec (.store id) s = .next
      { t with track := { t.track with reqs := tmod t.track.reqs n fun e => { e with held := true } } })) ∧
  ∀ (s : State) (id : Nat) (e : Track), running s = true → tget s.track.reqs id = some e → e.held = true →
    pairClear s id e.orig = true → e.orig.dst = nodeSelf s →
    let t := { s with track := { s.track with reqs := tset s.track.reqs id { e with held := false } } }
    pairFailed t id e.orig = false →
    exec (.ofStoreRelease id) s = .next
      (submit id (newReq .store e.orig (.mgmt 0) true e.orig.offset e.orig.len e.orig.payload []) 0 t)

/-- R58, R59: the table of an atomic at its home switch. A repeat of a request that the answer memory holds is answered from it
or waits for its answer, and is never applied again; a new one is entered as pending and applied. The model's own choices in it:
log 1, 34, 35. -/
def Obligations.AtomicsAtHomeReturnOld : Prop :=
  ∀ (s : State) (id : Nat) (i : Inbox) (f : Frame) (n : Nat) (tracked : Bool) (t : State), Serves s id i f n tracked t →
    f.dst = nodeSelf t → ∀ (c : Instr) (aopc : Nat),
    (c = .atomic id ∧ isAtomicOpc f.opc = true ∧ aopc = f.opc) ∨ (c = .bulkAtomic id ∧ f.opc = 0xA3 ∧ aopc = leAt f.payload 20 1) →
    let w := atomicWidth aopc
    let formed := 0x10 ≤ aopc ∧ aopc ≤ 0x1F ∧ f.len = 24 ∧ f.offset % w = 0
    let r := atomicReq aopc f tracked
    let age := atomicAge t f
    let fresh := ¬ age < -1000 ∧ ¬ (ageWindow t : Int) ≤ age ∧ issuedTooEarly t f = false
    (¬ formed → exec c s = .next (refuse n tracked f stIllegal 1 t)) ∧
    (∀ e, formed → entryOf t f.src f.tag = some e →
      (e.check ≠ atomicCheck aopc f → exec c s = .next (refuse n tracked f stTagReused 1 t)) ∧
      (e.check = atomicCheck aopc f → e.pending = false →
        exec c s = .next (deliver n r (repeatStatus e.status) (toLE 8 e.old) t)) ∧
      (e.check = atomicCheck aopc f → e.pending = true → exec c s = .next (setReq n { r with phase := .replay }
        { t with track := { t.track with answers := t.track.answers.map fun x =>
          if x.src = e.src ∧ x.tag = e.tag then { x with waiting := x.waiting ++ [n] } else x } }))) ∧
    (formed → entryOf t f.src f.tag = none →
      (age < -1000 → exec c s = .next (refuse n tracked f stIllegal 1 t)) ∧
      (¬ age < -1000 → ((ageWindow t : Int) ≤ age ∨ issuedTooEarly t f = true) → exec c s = .next (refuse n tracked f stExpired 1 t)) ∧
      (fresh → 16777216 ≤ t.track.answers.length → exec c s = .next (refuse n tracked f stAnswerFull 1 t)) ∧
      (fresh → t.track.answers.length < 16777216 →
        let e : AnswerEntry := ⟨f.src, f.tag, true, atomicCheck aopc f, 0, 0,
          max (nowUs t) (issuedUs t f) + rget t R.ANSWER_CFG_ANSWER_RETAIN_US 0, n, []⟩
        exec c s = .next (submit n r 0 { t with track := { t.track with answers := t.track.answers ++ [e] } })))

/-- R62 to R64, R69, R254: a bulk transfer of this switch's window goes to its pool, any other is sent on. An answer entry that
is answered is free at its expiry. An answer closes its tracker entry, a request that no answer reaches by its tick ends with an
error, and a mirror write waits for its answer. The model's own choices in it: log 22, 28, 32. -/
def Obligations.BulkAndTrackerComplete : Prop :=
  (∀ (s : State) (id : Nat) (i : Inbox) (f : Frame) (n : Nat) (tracked : Bool) (t : State), Serves s id i f n tracked t →
    (f.opc = 0xA0 → f.dst = nodeSelf t → exec (.bulkPut id) s =
      .next (submit n (newReq .bulkPut f (.mgmt 0) tracked f.offset f.len f.payload []) (ownRight t n) t)) ∧
    (f.opc = 0xA0 → f.dst ≠ nodeSelf t → exec (.bulkPut id) s = .next (sendTracked n t)) ∧
    (f.opc = 0xA1 → f.dst = nodeSelf t → exec (.bulkGet id) s =
      .next (submit n (newReq .bulkGet f (.mgmt 0) tracked f.offset f.len f.payload []) (ownRight t n) t)) ∧
    (f.opc = 0xA1 → f.dst ≠ nodeSelf t → exec (.bulkGet id) s = .next (sendTracked n t)) ∧
    (f.opc = 0xA2 → f.dst = nodeSelf t → exec (.bulkPutMasked id) s = .next (submit n (newReq .bulkPutMasked f (.mgmt 0) tracked f.offset
      4096 (slice f.payload 64 4096) (maskMarks (f.payload.take 64) t).1) 0 (maskMarks (f.payload.take 64) t).2)) ∧
    (f.opc = 0xA2 → f.dst ≠ nodeSelf t → exec (.bulkPutMasked id) s = .next (sendTracked n t)) ∧
    (f.opc = 0xA3 → f.dst ≠ nodeSelf t → exec (.bulkAtomic id) s = .next (sendTracked n t))) ∧
  (∀ (s : State) (src tag : Nat) (e : AnswerEntry), running s = true → entryOf s src tag = some e → e.pending = false →
    let t := atTime (e.expiry * 1000) s
    exec (.answerEntryExpire src tag) s = .next
      { t with track := { t.track with answers := s.track.answers.filter fun x => !(x.src == src && x.tag == tag) } }) ∧
  (∀ (s : State) (id k : Nat) (i : Inbox) (e : Track), running s = true → tget s.hall.inbox id = some i → isAnswer i.frame.cls = true →
    i.host = none → i.port ≠ 255 → findTrack (takeInbox id s) i.frame = some (k, e) → i.frame.status ≠ stRouteStale →
    (converted e = true → i.frame.je = false → exec (.trackerAnswer id) s =
      .next (closeTrack k i.frame.status (answerData e i.frame) 1 (takeInbox id s))) ∧
    (converted e = false → passes e = true →
      (payloadBound (takeInbox id s) e.orig.src).any (fun b => decide (b < i.frame.payload.length)) = false →
      exec (.trackerAnswer id) s = .next (closeForwarded k e i.frame (takeInbox id s)))) ∧
  ∀ (s : State) (req : Nat) (e : Track), running s = true → tget s.track.reqs req = some e →
    let key := (e.sent.dst, e.sent.src, e.sent.tag)
    let t := atTime (timeoutTick s e) s
    exec (.trackerTimeout req) s = .next (closeTrackError req (timeoutStatus e.orig) 2 (dropWaiting e.sent
      { t with track := { t.track with late := key :: t.track.late.filter (· != key) } }))

/-! ## Coherence -/

/-- R329, R332: a coherent request of a registered endpoint goes to the pool of its wing; one that is not for this switch, not
formed so, or of an endpoint without a registration is refused. -/
def Obligations.CoherentRequestsMoveLines : Prop :=
  ∀ (s : State) (id : Nat) (i : Inbox) (f : Frame) (n : Nat) (tracked : Bool) (t : State), Serves s id i f n tracked t →
    ∀ (c : Instr) (k : PKind) (opc : Nat), (c, k, opc) ∈ [(.rdShared id, .rdShared, 0x40), (.rdOwn id, .rdOwn, 0x41),
      (.upgrade id, .upgrade, 0x42), (.wbDirty id, .wbDirty, 0x43), (.evictClean id, .evictClean, 0x44)] → f.opc = opc →
    let ours := tracked = true ∧ f.dst = nodeSelf t
    let formed := f.offset % 128 = 0 ∧ f.len = if opc = 0x43 then 128 else 0
    (ours → formed → (regSlot t f.src).isSome = true →
      exec c s = .next (submit n (newReq k f (.mgmt 0) true f.offset 128 f.payload []) 0 t)) ∧
    (ours → formed → regSlot t f.src = none → exec c s = .next (refuse n tracked f stUnsupported 1 t)) ∧
    (ours → ¬ formed → exec c s = .next (refuse n tracked f stIllegal 1 t)) ∧
    (¬ ours → exec c s = .next (refuse n tracked f stUnsupported 0 t))

/-- R321, R322, R338, R339: an endpoint on a port with the capability registers once, under the lowest free slot and with a lease;
its release drops its tags, snoops its modified lines out and frees the slot when they have answered. -/
def Obligations.RegistrationHoldsSlots : Prop :=
  (∀ (s : State) (id : Nat) (i : Inbox), Hears s id 0xF4 i →
    let t := takeInbox id s
    let node := i.frame.src
    let lines := leAt i.frame.payload 0 4
    (∀ k, i.eth = false → i.port < 128 → bitAt (rget t R.PEER_CAPS_CAPS i.port) 10 = true → slotOfNode t node = none →
      1 ≤ lines → lines ≤ 65536 → leaseRoom t node = true → lowestFree t.coh.slots 64 = some k →
      let ways := min 16 (ceilDiv lines 4096)
      let u := { t with coh := { t.coh with slots := tset t.coh.slots k ⟨node, 1, ways, lines, i.port⟩ } }
      exec (.cacheDeclare id) s = .next
        (cacheState node 1 k ways 0 true (if (leaseOf u node).any (fun l => l.2.state == 1) then u else leaseStart node (nowUs u) u))) ∧
    (∀ k c, i.eth = false → i.port < 128 → bitAt (rget t R.PEER_CAPS_CAPS i.port) 10 = true → slotOfNode t node = some (k, c) →
      (c.state = 1 → c.lines = lines → exec (.cacheDeclare id) s = .next (cacheState node 1 k c.ways 0 false t)) ∧
      (c.state = 1 → c.lines ≠ lines → exec (.cacheDeclare id) s = .next (cacheState node 2 k 0 4 false t))) ∧
    (bitAt (rget t R.PEER_CAPS_CAPS i.port) 10 = false → exec (.cacheDeclare id) s = .next (cacheState node 2 0xFF 0 3 false t))) ∧
  ∀ (s : State) (id : Nat) (i : Inbox), Hears s id 0xF6 i →
    let t := takeInbox id s
    let node := i.frame.src
    (regSlot t node = none → exec (.cacheRelease id) s = .next (poolPass (cacheState node 0 0xFF 0 0 false t))) ∧
    ∀ k c, regSlot t node = some (k, c) →
      let u := each (t.coh.tags.filter fun g => g.slot == k && g.state == 2) (fun g => sendSnoop k g.line true 0 1)
        { t with coh := { t.coh with slots := tset t.coh.slots k { c with state := 2 } } }
      exec (.cacheRelease id) s = .next (poolPass (freeReleasing k (cacheState node 0 k c.ways 8 false
        (setTags (u.coh.tags.filter fun g => !(g.slot == k && g.state != 2)) u))))

/-- R331, R334, R336, R341, R344: the answer to a snoop ends it, drops or downgrades its tag, and writes returned data; a snoop
without an answer is sent once more and then the registration is lost. Stale lines are cleared by line or by slot, and listed in
ascending order to the buffer's size. The model's own choices in it: log 22, 150. -/
def Obligations.SnoopsAndStaleEnd : Prop :=
  (∀ (s : State) (id : Nat) (i : Inbox) (n : Snoop) (c : CSlot), running s = true → tget s.hall.inbox id = some i →
    isAnswer i.frame.cls = true → i.frame.dst = nodeSelf s → i.port ≠ 255 → tget s.coh.snoops i.frame.tag = some n →
    tget s.coh.slots n.slot = some c → c.node = i.frame.src →
    let t := endSnoop i.frame.tag (takeInbox id s)
    (n.inv = true → i.frame.opc ≠ 0x90 → exec (.snoopAnswer id) s = .next (poolPass (freeReleasing n.slot (dropTag n.slot n.line t)))) ∧
    (n.inv = true → i.frame.opc = 0x90 → i.frame.status = stOK → 128 ≤ i.frame.payload.length → n.purpose ≠ 2 →
      exec (.snoopAnswer id) s = .next (poolPass (freeReleasing n.slot (writeBack (if n.purpose = 0 ∨ n.purpose = 3 then n.req else 0) n.line
        (i.frame.payload.take 128) (dropTag n.slot n.line t)))))) ∧
  (∀ (s : State) (k : Nat) (n : Snoop), running s = true → tget s.coh.snoops k = some n →
    let t := rbump R.SNOOP_TIMEOUTS_COUNT 0 (atTime n.deadline s)
    let n' := { n with sends := 2, deadline := t.clk.now + 1000 * rget t R.COH_CFG_SNOOP_TIMEOUT_US 0 }
    (n.sends = 1 → exec (.snoopTimeout k) s = .next
      (emitSnoop k n' { t with coh := { t.coh with snoops := tset t.coh.snoops k n' } })) ∧
    (n.sends ≠ 1 → exec (.snoopTimeout k) s = .next (poolPass (slotLoss n.slot 2 t)))) ∧
  (∀ (s : State) (h : Nat) (c : Cmd) (rest : List HostCmd) (t : State), Begins s h 0x31 neverBusy c rest t →
    let v := c.arg 8 8
    (c.arg 0 1 = 0 → v % 128 = 0 → v < 2 ^ 46 →
      LeavesCmd (.staleClear h) s h rest (completeWith h c stOK (clearStale (fun g => g.line == v) t))) ∧
    (c.arg 0 1 = 1 → v < 64 → LeavesCmd (.staleClear h) s h rest (completeWith h c stOK (clearStale (fun g => g.slot == v) t))) ∧
    (1 < c.arg 0 1 → LeavesCmd (.staleClear h) s h rest (completeWith h c stIllegal t))) ∧
  ∀ (s : State) (h : Nat) (c : Cmd) (rest : List HostCmd) (t : State), Begins s h 0x32 neverBusy c rest t →
    let slot := c.arg 0 1
    let lines := sortBy id (dedup' ((t.coh.tags.filter fun g => g.state == 3 && (slot == 0xFF || g.slot == slot)).map (·.line)))
    let told := lines.take (c.bufLen / 8)
    (slot < 64 ∨ slot = 0xFF) → told ≠ [] → LeavesCmd (.staleQuery h) s h rest
      (complete h c stOK (toLE 8 told.length ++ toLE 8 lines.length) 0
        (emit (.dmaWrite h c.buf ((told.map fun l => toLE 8 l).foldl (· ++ ·) [])) t))

/-! ## Stairs, trays, power -/

/-- R269: a pass of a move waits for its copies; then it ends in a next pass, which copies the units written meanwhile, while
passes remain, in the hold after the fourth, and in the flip when nothing is left to copy: the granule is served from its
destination, and its source waits until every request accepted before the flip is answered. A hold that lasts too long abandons
the move. The model's own choices
in it: log 19, 22, 77. -/
def Obligations.GranuleMovesChangeSource : Prop :=
  (∀ (s : State) (g : Nat) (m : Move), running s = true → tget s.pool.moves g = some m →
    let copies (m' : Move) : Prop := exec (.movePassEnd g) s = .next (startOps
      (each (copyOps s g m.dirty) addOp { s with pool := { s.pool with moves := tset s.pool.moves g m' } }))
    let x := granuleOf s g
    (copying s g = true → exec (.movePassEnd g) s = .next s) ∧
    (copying s g = false → moveCopies s g = true → m.holdSince = none → m.dirty ≠ 0 → m.pass < 4 →
      copies { m with pass := m.pass + 1, dirty := 0, todo := m.dirty }) ∧
    (copying s g = false → moveCopies s g = true → m.holdSince = none → m.dirty ≠ 0 → 4 ≤ m.pass →
      copies { m with dirty := 0, holdSince := some s.clk.now, todo := m.dirty }) ∧
    (copying s g = false → moveCopies s g = true → (m.holdSince ≠ none ∨ m.dirty = 0) →
      let u := endMove g { x with stair := x.destStair, loc := x.dest,
                                  homeWing := if x.destStair = 0 then wingOf x.dest else x.homeWing,
                                  pinned := x.destStair == 0 && pinsS0 s g } s
      let v := if x.destStair = 0 then u else clearSkips x.dest u
      exec (.movePassEnd g) s = .next (poolPass
        { v with pool := { v.pool with freeing := v.pool.freeing ++ [⟨x.stair, x.loc, g, x.part, v.nextId⟩] } })) ∧
    (copying s g = false → moveCopies s g = false → exec (.movePassEnd g) s = .next (poolPass (endMove g x s)))) ∧
  (∀ (s : State) (g t0 : Nat) (m : Move), running s = true → tget s.pool.moves g = some m → m.holdSince = some t0 →
    let t := atTime (t0 + stairWait s (granuleOf s g).stair + 16000) s
    exec (.moveHoldTimeout g) s = .next (poolPass (abandonMove g t))) ∧
  ∀ (s : State) (g : Nat), running s = true →
    let older (f : Freeing) : Bool := s.pool.reqs.any fun q => q.2.phase != .replay && decide (q.2.seq < f.before) && (granulePieces q.2.off q.2.len).any fun p => p.1 == g
    exec (.moveSourceFree g) s = .next { s with pool := { s.pool with freeing := s.pool.freeing.filter fun f => f.granule != g || older f } }

/-- R260, R263 to R266, R422: the answer of a tray, or none in time, moves the operation on: a read that fails is tried once
more from other trays; a write ends when every tray has answered, and fails only where none took it. A slow tray clears after 1
ms below 80 % of its threshold, a rebuilt one is `UP`. `S0_QUERY` writes 8 bytes for each frame asked for. The model's own
choices in it: log 22, 76, 78. -/
def Obligations.TraysRetire : Prop :=
  (∀ (s : State) (k tray : Nat) (o : TierOp), running s = true → tget s.pool.ops k = some o → o.trays.contains tray = true →
    let left := o.trays.erase tray
    let failed := trayError o.set tray s
    (o.kind = .write → left ≠ [] →
      exec (.tierAnswer k tray true) s = .next (poolPass (setOp k { o with trays := left, okSeen := true } s)) ∧
      exec (.tierAnswer k tray false) s = .next (poolPass (setOp k { o with trays := left, last := stTierError } failed))) ∧
    (o.kind = .write → left = [] → exec (.tierAnswer k tray true) s =
      .next (poolPass (opEnded k stOK (setOp k { o with trays := [], okSeen := true } s)))) ∧
    (o.kind ≠ .write → left = [] → exec (.tierAnswer k tray true) s = .next (poolPass (readDone k o s))) ∧
    (o.kind ≠ .write → o.attempt = 1 → secondTrays failed o.set (placeOf failed o.set o.slot o.unit) o.trays = [] →
      exec (.tierAnswer k tray false) s = .next (poolPass (opEnded k stTierError failed))) ∧
    (o.kind ≠ .write → o.attempt = 1 → ∀ t0 ts, secondTrays failed o.set (placeOf failed o.set o.slot o.unit) o.trays = t0 :: ts →
      exec (.tierAnswer k tray false) s = .next (poolPass (sendAttempt k o (t0 :: ts) 2 failed)))) ∧
  (∀ (s : State) (k : Nat) (o : TierOp), running s = true → tget s.pool.ops k = some o → o.attempt ≠ 0 →
    let t := atTime o.deadline s
    (o.kind = .write → exec (.tierAttemptTimeout k) s = .next (poolPass (opEnded k (if o.okSeen then stOK else stTierTimeout)
      (setOp k { o with trays := [], last := stTierTimeout } (each o.trays (fun tray => trayFail o.set tray) t))))) ∧
    (o.kind ≠ .write → o.kind ≠ .mirror → o.attempt = 2 →
      exec (.tierAttemptTimeout k) s = .next (poolPass (opEnded k stTierTimeout t)))) ∧
  (∀ (s : State) (set tray ns : Nat), running s = true → rbit s R.SET_VALID set = true → set < 64 → tray < rget s R.SET_NTRAYS set →
    let t := setTray set tray { trayOf s set tray with latency := ns } s
    let x := trayOf t set tray
    let med := median ((traysIn t set .up).map fun q => (trayOf t set q).latency)
    x.state = .up → ns * 100 ≤ med * rget t R.TIER_CFG_SLOW_PCT 0 → exec (.trayLatencyWindow set tray ns) s = .next t) ∧
  (∀ (s : State) (set tray t0 : Nat), running s = true → (trayOf s set tray).state = .slow → (trayOf s set tray).belowSince = some t0 →
    exec (.traySlowClear set tray) s =
      .next (setTray set tray { trayOf s set tray with state := .up, belowSince := none } (atTime (t0 + 1000000) s))) ∧
  (∀ (s : State) (set tray : Nat), running s = true → (trayOf s set tray).state = .rebuilding →
    unitsOpen s set tray = unitsAhead s set tray →
    let t := walkOn set tray (unitsAhead s set tray) s
    let x := trayOf t set tray
    let node := rget t R.TRAY_NODE (set * 32 + tray)
    let port := (nodePort t node).getD 0xFF
    exec (.trayRebuildDone set tray) s = .next (report ⟨0x07, 2, portPart t port, port, node, set, x.rebuildLost, 4096 * x.rebuilt⟩
      (setTray set tray { x with state := .up, errs := [], rebuildAt := 0, rebuilt := 0, rebuildLost := 0 } t))) ∧
  ∀ (s : State) (h : Nat) (c : Cmd) (rest : List HostCmd) (t : State), Begins s h 0x30 neverBusy c rest t →
    let first := c.arg 0 4
    let n := c.arg 4 4
    (first + n ≤ 2 ^ 20 → 8 * n ≤ c.bufLen → 0 < n → LeavesCmd (.s0Query h) s h rest (completeWith h c stOK
      (emit (.dmaWrite h c.buf (((List.range n).map fun i => dirEntry t (first + i)).foldl (· ++ ·) [])) t))) ∧
    ((2 ^ 20 < first + n ∨ c.bufLen < 8 * n) → LeavesCmd (.s0Query h) s h rest (completeWith h c stIllegal t))

/-- R31 to R34, R386, R397: a gallery issues again 1 µs after a change of its point; a gallery, stack or port that has been idle
for its time sleeps, a gallery only if no slot uses it in the next 10 µs; a unit wakes 1 µs and its latency before the slot that
uses it, and is awake after its latency, a gallery at the lowest point. The model's own choices in it: log 22, 40, 137. -/
def Obligations.SleepAndWakeUnits : Prop :=
  ∀ s : State, running s = true →
    (∀ g t0, (galOf s g).paused = some t0 →
      exec (.clockPointPauseEnd g) s = .next (setGal g { galOf s g with paused := none } (atTime (t0 + 1000) s))) ∧
    (∀ g, g < 32 → galRuns s g = true → galWork s g = false → (galOf s g).zeroFor = none →
      let t := atTime (max ((galOf s g).emptySince.getD 0) (galOf s g).queueEmptyAt + galIdleNs s) s
      let u := meterGallery g t
      (∀ at_, nextUse t 0 g = some at_ → at_ < t.clk.now + 10000 → exec (.galleryIdleSleep g) s = .next t) ∧
      ((∀ at_, nextUse t 0 g = some at_ → t.clk.now + 10000 ≤ at_) → exec (.galleryIdleSleep g) s = .next
        (toSleep (.gallery g) (setGal g { galOf u g with point := 0, paused := none, ungatedAt := none } u)))) ∧
    (∀ k, k < 20 → sleeps s (.stack k) = false → s.boot.stackBad.contains k = false →
      let t := atTime (lastUse s (.stack k) + stackIdleNs s) s
      exec (.stackSelfRefresh k) s = .next (toSleep (.stack k) t)) ∧
    (∀ n m, let t := atTime (lastUse s (.lane (4 * n)) + laneIdleNs s) s
      bestMask t n 1 = some m → linkUp s n = true → rbit s R.LINK_CTL_SLEEP_EN n = true → (linkOf s n).txWait = [] →
      (linkOf s n).widthSent = none → 1 < maskWidth (txMask s n) →
      let rest := (lanesOf (Nat.xor (2 ^ laneCount t n - 1) m)).filter fun i => laneGood t n i
      exec (.laneSleep n) s = .next (askWidth n (some m) (sendWidth n m
        (each rest (fun i u => toSleep (.lane (4 * n + i)) (rset R.LANE_STATE (4 * n + i) 2 u)) t)))) ∧
    (∀ kind unit at_, nextUse s kind unit = some at_ → sleeps s (sleepUnit kind unit) = true →
      at_ - wakeNs kind - 1000 < s.clk.nextB →
      exec (.slotWake kind unit) s = .next (beginWake (sleepUnit kind unit) (atTime (at_ - wakeNs kind - 1000) s))) ∧
    ∀ kind unit w, s.pkg.waking.find? (fun x => x.1 == sleepUnit kind unit) = some w →
      let t := atTime (w.2 + wakeNs kind) s
      let u : State := { t with pkg := { t.pkg with asleep := t.pkg.asleep.filter (· != sleepUnit kind unit),
                                                    waking := t.pkg.waking.filter fun x => x.1 != sleepUnit kind unit } }
      exec (.unitWakeDone kind unit) s = .next (match sleepUnit kind unit with
        | .gallery g => setGal g { galOf u g with point := 1, ungatedAt := some u.clk.now } u
        | .stack _ => poolPass u
        | .lane l => laneAwake l u)

/-- R277, R428, R429, R507, R511, R516 to R519: the governor runs at a slot start and at each multiple of 20 µs; the effective
limit moves once a millisecond, between 400 W and `LIMIT_W`; a sample writes the greatest temperatures and trips the package at
115 degrees or 105 in a stack; the trip is released below 85; the I3C target answers while it is driven; a measurement of the
galleries ends 40 µs after it began. The model's own choices in it: log 22, 75, 138, 139. -/
def Obligations.PowerAndHeatActions : Prop :=
  (∀ (s : State) (w : Nat), running s = true →
    let at_ := nextMultiple 20000 s.pkg.govAt s.clk.now
    (atSlot s = true → s.pkg.govAt ≠ some s.clk.now → exec (.governorRun w) s = .next (governEnd w (governPoints w s))) ∧
    (atSlot s = false → at_ ≤ s.clk.nextB →
      exec (.governorRun w) s = .next (governEnd w (governPoints w (atTime at_ s))))) ∧
  (∀ s : State, running s = true →
    let at_ := nextMultiple 1000000 s.pkg.effAt s.clk.now
    let t := atTime at_ s
    let eff := rget t R.THERM_STATUS_EFF_LIMIT_W 0
    let lim := rget t R.PKG_POWER_LIMIT_W 0
    let goes (v : Nat) : Prop := exec .effLimitTick s = .next (setEffLimit (min lim v) { t with pkg := { t.pkg with effAt := some at_ } })
    at_ ≤ s.clk.nextB →
      (s.pkg.dieHot = true → goes (max 400 (eff - 50))) ∧
      (s.pkg.dieHot = false → s.pkg.dieCool = true → goes (min lim (eff + 25))) ∧
      (s.pkg.dieHot = false → s.pkg.dieCool = false → goes eff)) ∧
  (∀ (s : State) (die hbms : List Nat) (w : Nat), s.pkg.phase ≠ .off → s.pkg.phase ≠ .standby →
    let t := match s.pkg.sampleAt with | some t0 => atTime (t0 + 100000) s | none => s
    let u := rset R.THERM_STATUS_TJ_MAX 0 (hottest die / 10) (rset R.THERM_STATUS_HBM_MAX 0 (hottest hbms / 10)
      { t with pkg := { t.pkg with sampleAt := some t.clk.now, power := w, restartOk := decide (hottest die < 850) } })
    (s.pkg.phase = .tripped → exec (.thermalSample die hbms w) s = .next u) ∧
    (s.pkg.phase ≠ .tripped → exec (.thermalSample die hbms w) s = .next (thermalRows die hbms u)) ∧
    (s.pkg.phase ≠ .tripped → (1150 ≤ hottest die ∨ 1050 ≤ hottest hbms) → ∃ v, exec (.thermalSample die hbms w) s = .next (trip v))) ∧
  (∀ s : State, s.pkg.phase = .tripped → s.pkg.thermtrip = true → s.pkg.restartOk = true →
    exec .thermtripRelease s = .next (emit (.pin .thermtrip true) { s with pkg := { s.pkg with thermtrip := false } })) ∧
  (∀ (s : State) (k : Nat), i3cOn s = true →
    (∀ a, i3cReg k = some a → exec (.i3cPrivateRead k) s = .next (emit (.i3c (toLE 8 (readWord 2 a s))) s)) ∧
    (i3cReg k = none → exec (.i3cPrivateRead k) s = .next (emit (.i3c (toLE 8 0)) s)) ∧
    exec (.i3cDynamicAddress k) s = .next { s with pkg := { s.pkg with i3cDyn := some (k % 128) } }) ∧
  (∀ s : State, running s = true → s.res.measuring = none →
    exec .maintNow s = .next { s with res := { s.res with measuring := some s.clk.now } }) ∧
  ∀ (s : State) (slacks : List Nat) (t0 : Nat), running s = true → s.res.measuring = some t0 →
    let u := atTime (t0 + 40000) s
    exec (.ageingMeasureDone slacks) s = .next (each ((List.range 32).filter fun g => !u.boot.galleryBad.contains g) (replan slacks)
      { u with res := { u.res with measuring := none } })

/-! ## Frames and the Hall -/

/-- R40, R66, R67, R346, R350, R373, R381, R382: a whole frame that arrives on a port is metered and checked in this order: its
tail, its version, its landing, the rules of its port, its policer, its generation; then it goes its way. Each check that fails
has its own end; a frame with a bad tail is counted and dropped, and where its first cell has left by cut-through it is counted,
marked and goes on. The model's own choices in it: log 15, 17, 30. -/
def Obligations.IngressChecksRefuse : Prop :=
  ∀ (s : State) (n : Nat) (bytes : List Byte), running s = true → n < 128 → isEth s n = false →
    let f := parseFrame bytes
    let t := countRx n f s
    lstate s n = 4 →
    let edge := isEndpointPort t n || (pfPort t n).role == 0 || (pfPort t n).role == 4
    let flaw := tailFlaw false f
    let v := if flaw ≠ 0 then rbump R.PDROP_RX_TAIL_BAD n t else t
    let w := if flaw ≠ 0 then (hasLeft n edge f v).2 else v
    let through := (hasLeft n edge f v).1 = true
    let f1 := if flaw ≠ 0 then { f with tailBad := true, reason := flaw } else f
    let g := if edge then { f1 with g := genLive w } else f1
    let status := if edge then ingressStatus w n g else sideStatus w n g
    let goes (u : State) : Prop := exec (.ingressFrame n bytes) s = .next u
    (flaw ≠ 0 → ¬ through → goes w) ∧
    ((flaw = 0 ∨ through) → f.ver ≠ 2 → goes (ingressEnd n edge f1 stUnsupported (countRefused n w))) ∧
    ((flaw = 0 ∨ through) → f.ver = 2 → lstate w n = 4 → landFor w n f1 = none → goes (rbump R.PDROP_RX_OVERRUN n w)) ∧
    (∀ l, (flaw = 0 ∨ through) → f.ver = 2 → lstate w n = 4 → landFor w n f1 = some l →
      (∀ st, status = some st → goes (ingressEnd n edge g st w)) ∧
      (∀ u, status = none → admitColour n g (countIn n g w) = (false, u) → goes (ingressEnd n true g (timeoutStatus g) u)) ∧
      (∀ u, status = none → admitColour n g (countIn n g w) = (true, u) →
        (genState u g.g = .retired → goes (dropStale g u)) ∧
        (genState u g.g ≠ .retired → goes (updateOff n (dispatchFrame n edge false l g u)))))

/-- R74 to R77, R483, R484: a frame on a port in Ethernet bulk personality with a bad FCS, too long or of another Ethertype is
counted and dropped, as is one that is shorter than its shim says; an operation that such a port does not take ends
`UNSUPPORTED`; any other shim becomes a transaction header. An access through BAR2 becomes a request of the host's
node, or reads all-ones. A request to a host's node is done by DMA in its inbound window, and denied outside it. The model's own
choices in it: log 60, 115, 116. -/
def Obligations.EdgeFramesEnter : Prop :=
  (∀ (s : State) (n dst mac etype : Nat) (bytes : List Byte) (fcs : Bool), running s = true → isEth s n = true → portUp s n = true →
    dst < 2 ^ 48 →
    let goes (u : State) : Prop := exec (.ethernetFrame n dst mac etype bytes fcs) s = .next u
    let t := { s with hall := { s.hall with ethPeer := tput s.hall.ethPeer n 0 mac } }
    let f := shimFrame t n bytes
    (fcs = false → goes (rbump R.ETH_FCS_BAD_COUNT n s)) ∧
    (fcs = true → 9216 < bytes.length + 18 → goes (rbump R.ETH_OVERSIZE_COUNT n s)) ∧
    (fcs = true → bytes.length + 18 ≤ 9216 → etype ≠ rget s R.ETH_CFG_ETHERTYPE 0 → goes (rbump R.ETH_ETYPE_DROP_COUNT n s)) ∧
    (fcs = true → bytes.length + 18 ≤ 9216 → etype = rget s R.ETH_CFG_ETHERTYPE 0 →
      let asks := f.opc = 0x01 ∨ f.opc = 0xA1
      (bytes.length < 16 → goes (rbump R.PDROP_RX_TAIL_BAD n t)) ∧
      (16 ≤ bytes.length → ethOpc f.opc = false → goes (ingressEnd n true f stUnsupported (countRx n f t))) ∧
      (16 ≤ bytes.length → ethOpc f.opc = true → ¬ asks → bytes.length < 16 + f.len → goes (rbump R.PDROP_RX_TAIL_BAD n t)) ∧
      (16 ≤ bytes.length → ethOpc f.opc = true → (asks ∨ 16 + f.len ≤ bytes.length) → goes (arrive n true f t)))) ∧
  (∀ (s : State) (h : Nat) (write : Bool) (off len : Nat) (bytes : List Byte), barsOn s h = true → rget s R.START_STATUS_PHASE 0 ≠ 5 →
    let t := wakeHall s
    let i := off / 2 ^ 32
    let o := off % 2 ^ 32
    let f := apertureFrame t h i o len write bytes
    let goes (u : State) : Prop := exec (.hostApertureAccess h write off len bytes) s = .next u
    let on := i < 16 ∧ len ≠ 0 ∧ o % 4096 + len ≤ 4096 ∧ rbit t R.APERTURE_EN (h * 16 + i) = true ∧ isReady t = true
    (on → ingressStatus t (128 + h) f = none → goes (dispatchFrame (128 + h) true false .none f t)) ∧
    (on → ∀ st, ingressStatus t (128 + h) f = some st → goes (apertureEnd h f st t)) ∧
    (¬ on → write = false → goes (emit (.pcieRead h (onesBytes len)) t)) ∧
    (¬ on → write = true → goes t)) ∧
  ∀ (s : State) (id h : Nat) (i : Inbox) (b : List Byte), running s = true → tget s.hall.inbox id = some i → i.host = some h →
    isHead s id i = true →
    let f := i.frame
    let t := takeInbox id s
    let at_ := rget t R.INBOUND_INBOUND_BASE h + f.offset
    let within (len : Nat) : Prop := f.offset + len ≤ rget t R.INBOUND_LEN_LEN h
    let goes (u : State) : Prop := exec (.hostInboundRequest id (some b)) s = .next u
    ((f.opc = 0x01 ∨ f.opc = 0xA1) → within f.len → goes (hostAnswer h f stOK (slice b 0 f.len) (emit (.dmaRead h at_ f.len) t))) ∧
    ((f.opc = 0x02 ∨ f.opc = 0xA0) → within f.len → goes (hostAnswer h f stOK [] (emit (.dmaWrite h at_ (slice f.payload 0 f.len)) t))) ∧
    ((f.opc = 0x01 ∨ f.opc = 0x02 ∨ f.opc = 0xA0 ∨ f.opc = 0xA1) → ¬ within f.len → goes (hostError h f stDenied t))

/-- R355, R364, R367, R372, R373, R384: one cell time is four iterations of request, grant and accept, of which the first moves
the pointers; the cells matched move, and a balcony copy goes last. The quiet frame has 64 slots of 33 cell times. The old
generation retires at its time, and what it has queued is dropped. An audit takes 317.8 µs; cells unreferenced in two audits are
freed. The Hall gates 100 µs after its last work if no port is up. The model's own choices in it: log 5, 22. -/
def Obligations.HallTimesEndWaits : Prop :=
  ∀ s : State, running s = true →
    (let o := allOffers (activeInputs (accountHeld s)) (accountHeld s)
     let a := iterate true o.1 [] o.2
     let b := iterate false o.1 a.1 a.2
     let c := iterate false o.1 b.1 b.2
     let d := iterate false o.1 c.1 c.2
     let t := sendBalcony (d.1.map (·.output)) (each d.1 moveCell d.2)
     let u := syncOff t
     exec .schedulerCellTime s = .next { u with hall := { u.hall with quietCell := u.hall.quietCell - 1 } }) ∧
    (quietPattern s = true → exec .quietSlot s =
      .next { s with hall := { s.hall with quietSlot := (s.hall.quietSlot + 1) % 64, quietCell := 33 } }) ∧
    (quietPattern s = false → exec .quietSlot s = .next s) ∧
    (∀ at_, s.hall.gen0 = .old at_ →
      let t := atTime at_ s
      exec .routeRetire s = .next (dropGeneration 0 (rset R.RETIRE_NS_TIME_NS 0 at_ (rset R.ROUTE_STATUS_OLD_VALID 0 0
        { t with hall := { t.hall with gen0 := .retired } })))) ∧
    (∀ at_, (∀ x, s.hall.gen0 ≠ .old x) → s.hall.gen1 = .old at_ →
      let t := atTime at_ s
      exec .routeRetire s = .next (dropGeneration 1 (rset R.RETIRE_NS_TIME_NS 0 at_ (rset R.ROUTE_STATUS_OLD_VALID 0 0
        { t with hall := { t.hall with gen1 := .retired } })))) ∧
    (s.hall.auditEnds = none → exec .auditNow s =
      .next (rset R.AUDIT_STATUS_RUNNING 0 1 { s with hall := { s.hall with auditEnds := some (s.clk.now + 317800) } })) ∧
    (s.hall.auditEnds ≠ none → exec .auditNow s = .next s) ∧
    (∀ e, s.hall.auditEnds = some e →
      let t := atTime e s
      let freed := min s.hall.auditSeen s.hall.lostCells
      let left := s.hall.lostCells - freed
      let u := rset R.AUDIT_STATUS_LAST_LEAKED 0 freed (rset R.AUDIT_STATUS_RUNNING 0 0 (rbump R.AUDIT_STATUS_AUDITS 0
        (radd R.LEAK_RECLAIMED_COUNT 0 freed { t with hall := { t.hall with lostCells := left, auditSeen := left, auditEnds := none } })))
      (freed = 0 → exec .bufferAuditDone s = .next u) ∧
      (freed ≠ 0 → exec .bufferAuditDone s = .next (report ⟨0x13, 0, none, 0xFF, 0, 0, freed, 0⟩ u))) ∧
    ((∀ n, n < 128 → portUp s n = false) →
      let t := atTime (s.hall.lastWork + 100000) s
      exec .hallGate s = .next { t with hall := { t.hall with gated := true } })

/-! ## Launches and instances -/

/-- R98 to R102, R106, R109, R112: a launch for this switch, well formed, whose slot and key pass, joins a gallery's queue,
whoever asks for it; one that does not ends with the status of its failed check. `PROG_LOAD` stages an image that passes its
checks, `KILL` stops an instance (cause 7), and a launch that is not dispatched by its deadline leaves its queue with
`NO_ANSWER`. The model's own choices in it: log 22, 40, 99. -/
def Obligations.LaunchesStartInstances : Prop :=
  (∀ (s : State) (id : Nat) (i : Inbox) (f : Frame) (n : Nat) (t : State) (e : Track), Serves s id i f n true t → f.opc = 0x30 →
    tget t.track.reqs n = some e →
    let due := if bitAt (leAt f.payload 2 1) 1 then none else some (e.accepted + 1000 * rget t R.XACT_CFG_REMOTE_TIMEOUT_US 0 - 5000)
    let r := launchOf f.payload (.request n) ((keyPart t f.pkey).getD 0) f.pkey f.src f.dst f.tag e.port due
    (f.dst = nodeSelf t → f.len = 72 → launchForm f.payload = true → launchStatus t r = none →
      exec (.launch id) s = .next (placeLaunch r t)) ∧
    (∀ st, f.dst = nodeSelf t → f.len = 72 → launchForm f.payload = true → launchStatus t r = some st →
      exec (.launch id) s = .next (launchEnd r st 0 1 t)) ∧
    (f.dst = nodeSelf t → launchForm f.payload = false → exec (.launch id) s = .next (refuse n true f stIllegal 1 t)) ∧
    (f.dst ≠ nodeSelf t → oneHop t f.dst = true → exec (.launch id) s = .next (sendTracked n t))) ∧
  (∀ (s : State) (h : Nat) (c : Cmd) (rest : List HostCmd) (t : State) (b : List Byte), Begins s h 0x11 neverBusy c rest t →
    c.bufLen = 72 → c.restZero 2 = true → launchForm (slice b 0 72) = true →
    let u := beginB h c c.tag t
    let r := { launchOf (slice b 0 72) (.host h c.tag) ((keyPart t (c.arg 0 2)).getD 0) (c.arg 0 2) 0x7FFF (nodeSelf t) 0 0xFF none with early := false }
    (launchStatus u r = none → LeavesCmd (.hostCommandLaunch h (some b)) s h rest (placeLaunch r u)) ∧
    (∀ st, launchStatus u r = some st → LeavesCmd (.hostCommandLaunch h (some b)) s h rest (launchEnd r st 0 1 u))) ∧
  (∀ (s : State) (h : Nat) (c : Cmd) (rest : List HostCmd) (t : State), Begins s h 0x12 neverBusy c rest t → c.restZero 8 = true →
    (thas t.seed.insts (c.arg 0 8) = true → LeavesCmd (.kill h) s h rest (completeWith h c stOK (instStop (c.arg 0 8) 7 t))) ∧
    (thas t.seed.insts (c.arg 0 8) = false → LeavesCmd (.kill h) s h rest (completeWith h c stIllegal t))) ∧
  (∀ (s : State) (h : Nat) (c : Cmd) (rest : List HostCmd) (t : State) (b : List Byte), Begins s h 0x10 neverBusy c rest t →
    c.arg 0 2 < 1024 → c.arg 2 1 < 64 → c.restZero 3 = true →
    (c.bufLen = 0 → LeavesCmd (.progLoad h (some b)) s h rest (stageCmd h c (c.arg 0 2) [] t)) ∧
    (c.bufLen ≠ 0 → (imageOf (slice b 0 c.bufLen)).isSome = true →
      LeavesCmd (.progLoad h (some b)) s h rest (stageCmd h c (c.arg 0 2) (slice b 0 c.bufLen) t)) ∧
    (c.bufLen ≠ 0 → imageOf (slice b 0 c.bufLen) = none → LeavesCmd (.progLoad h (some b)) s h rest (completeWith h c stIllegal t))) ∧
  ∀ (s : State) (n g : Nat) (r : LaunchRec), running s = true →
    let mine (q : LaunchRec) : Bool := q.by_ == .request n && q.deadline.isSome
    s.seed.held.find? mine = none → (List.range 32).find? (fun k => (galOf s k).queue.any mine) = some g →
    (galOf s g).queue.find? mine = some r →
    exec (.launchDeadline n) s = .next (placeHeld (launchEnd r stNoAnswer 0 3
      (atTime (r.deadline.getD 0) (setGal g { galOf s g with queue := (galOf s g).queue.erase r } s))))

/-- R39, R96, R100, R104 to R106, R110: the launch at the head of a gallery's queue is dispatched when pips and pages are free
and no other partition's bytes are there; a gallery that another partition used is zeroed first, and then every byte of its
stores reads zero and every other byte as before. An instance whose strands have halted and whose requests are answered ends
with its result; one that has faulted is told of once and is freed when its requests are answered; one that reaches its limit is
stopped (cause 4). The model's own choices in it: log 22, 42, 100. -/
def Obligations.InstancesEndOnce : Prop :=
  (∀ (s : State) (g : Nat) (r : LaunchRec) (q : List LaunchRec) (p : ProgSlot), running s = true → (galOf s g).queue = r :: q →
    (∀ b, r.by_ ≠ .pool b) → sleeps s (.gallery g) = false → (galOf s g).zeroFor = none → foreign s g r.part = false →
    progSlot s r.slot = some p → keyPart s r.pkey = some p.part →
    let x := galOf s g
    let pips := (freePips s g).take p.image.pips
    let text := if x.texts.any (fun y => y.slot == r.slot && y.version == p.version) then 0 else ceilDiv p.image.textLen 4096
    let need := ceilDiv (p.image.dataLen + p.image.gsLen) 4096
    let t := evictTexts g (text + need) p.version x.texts.length s
    let free := openPages t g
    (mustZero x r.part = true → galIdle s g = true → exec (.galleryDispatch g) s = .next (beginZero g r.part s)) ∧
    (mustZero x r.part = false → x.batches = [] → p.image.pips ≤ pips.length → text + need ≤ free.length →
      exec (.galleryDispatch g) s =
        .next (placeHeld (dispatchAt g r p pips (free.take text) ((free.drop text).take need) (popQueue g t)))) ∧
    (mustZero x r.part = false → (pips.length < p.image.pips ∨ x.batches ≠ []) → exec (.galleryDispatch g) s = .next s)) ∧
  (∀ (s : State) (g p : Nat), running s = true → g < 32 → (galOf s g).zeroFor = some p → s.seed.gals.length = 32 →
    Memory.wf s.seed.galMem = true → Memory.wf s.seed.pipMem = true →
    ∃ t, exec (.galleryZeroingDone g) s = .next t ∧
      galOf t g = { galOf s g with zeroFor := none, resident := some p, needZero := false, texts := [] } ∧
      (∀ k, k ≠ g → galOf t k = galOf s k) ∧
      (∀ a, mget t.seed.galMem a = if a / 2 ^ 23 = g then 0 else mget s.seed.galMem a) ∧
      (∀ a, mget t.seed.pipMem a = if a / (128 * 0x20000) = g then 0 else mget s.seed.pipMem a)) ∧
  (∀ (s : State) (n : Nat) (i : Inst), running s = true → tget s.seed.insts n = some i →
    (instQuiet s i = true → i.fault = none → instHalted s i = true → (∀ c, i.launch.by_ ≠ .col c) → i.launch.early = false →
      exec (.instanceEnd n) s = .next (launchEnd i.launch stOK i.result.toNat 3 (instFree n i s))) ∧
    (∀ f, i.fault = some f → f.told = false → i.launch.early = false → (∀ c, i.launch.by_ ≠ .col c) →
      ∀ u j, u = sfaultRec n i f (launchFault i f.status
        (launchEnd i.launch f.status 0 3 (setInst n { i with fault := some { f with told := true } } s))) →
      tget u.seed.insts n = some j → j.fault = some { f with told := true } → j.launch = i.launch →
        exec (.instanceEnd n) s = .next (if instQuiet u j then instFree n j u else u)) ∧
    (∀ f, i.fault = some f → f.told = true → (∀ c, i.launch.by_ ≠ .col c) →
      exec (.instanceEnd n) s = .next (if instQuiet s i then instFree n i s else s)) ∧
    (instQuiet s i = false → i.fault = none → exec (.instanceEnd n) s = .next s)) ∧
  ∀ (s : State) (n : Nat) (i : Inst), running s = true → tget s.seed.insts n = some i → i.fault = none →
    exec (.instanceTimeLimit n) s = .next (instStop n 4 (atTime i.limitAt s))

/-! ## Collectives and the timetable -/

/-- A frame of opcode `opc` for a collective is taken out of the inbox. -/
def Sys2Proof.Claims.TakesCol (s : State) (id opc : Nat) (i : Inbox) : Prop :=
  running s = true ∧ tget s.hall.inbox id = some i ∧ i.frame.opc = opc ∧ i.host = none ∧ isHead s id i = true

/-- R196, R200 to R205, R217 to R219, R221: a segment, partial or result of a running context and of its present run that comes
from a sender with credit is delivered as items, and spends one credit; one from a source that the record does not name is
denied, one of another run is stale, one without credit is refused, and one of a wrong form aborts the collective (reason 5). A
grant of the present run gives credit and lets what waits go; an abort from the parent or a child aborts here too. The model's
own choices in it: log 45, 96, 97. -/
def Obligations.CollectiveFramesAdvanceSegments : Prop :=
  ∀ (s : State) (id opc : Nat) (i : Inbox), TakesCol s id opc i →
    let f := i.frame
    let t := takeInbox id s
    (∀ (k : Instr) (c : Nat) (x : ColCtx), (k, opc) ∈ [(Instr.colSeg id, 0xC0), (.colPart id, 0xC1), (.colResult id, 0xC2)] →
      c = f.offset % 8192 → tget t.col.ctx c = some x →
      let allowed := colAllowed t f = true
      let current := colState t c = 3 ∧ bitsOf f.offset 47 1 = rget t R.COL_CTX_RP c
      (¬ allowed → exec k s = .next (faultRec f stDenied 0 i.port 0 t)) ∧
      (allowed → ¬ current → exec k s = .next (rbump R.COL_STALE_COUNT 0 t)) ∧
      (allowed → current → colSender x.record f = none →
        exec k s = .next (faultRec f stIllegal 0 i.port 0 (rbump R.COL_UNGRANTED_COUNT 0 t))) ∧
      (∀ ch key idx, allowed → current → colSender x.record f = some (ch, key, idx) →
        let credit := (tgetD x.senders key ⟨0, none, 0, false⟩).credit
        let u := spendCredit c key (bitAt f.offset 45) t
        (credit = 0 → exec k s = .next (faultRec f stIllegal 0 i.port 0 (rbump R.COL_UNGRANTED_COUNT 0 t))) ∧
        (credit ≠ 0 → colItems x.record ch f = none → exec k s = .next (colAbort c 5 (nodeSelf u) none u)) ∧
        (∀ items rep, credit ≠ 0 → colItems x.record ch f = some (items, rep) → exec k s =
          .next (colDeliver c ch idx items rep (if opc = 0xC1 then none else some (bitsOf f.offset 13 32)) u)))) ∧
    (∀ (c : Nat) (x : ColCtx),
      let w := leAt f.payload 0 2
      let rp := w / 32768
      let count := leAt f.payload 2 1
      let key := outKey (leAt f.payload 3 1) f.src rp
      let snd := tgetD x.senders key ⟨0, none, 0, false⟩
      opc = 0xF0 → c = w % 8192 → tget t.col.ctx c = some x → rp = rget t R.COL_CTX_RP c → colState t c = 3 → count ≠ 0 →
      ((x.record.isRoot = false ∧ f.src = x.record.parent) ∨ x.record.children.any (·.node == f.src) = true) →
      exec (.colGrant id) s =
        .next (colGoOn c (setCol c { x with senders := tset x.senders key { snd with credit := snd.credit + count } } t))) ∧
    (∀ (c : Nat) (x : ColCtx),
      let w := leAt f.payload 0 2
      let near := (!x.record.isRoot && f.src == x.record.parent) || x.record.children.any (·.node == f.src)
      opc = 0xF1 → c = w % 8192 → tget t.col.ctx c = some x →
      ((colRuns t c = true ∧ w / 32768 = rget t R.COL_CTX_RP c) →
        (near = true → exec (.colAbort id) s = .next (colAbort c 7 (leAt f.payload 4 2) (some f.src) t)) ∧
        (near = false → x.record.nodes.contains f.src = true →
          exec (.colAbort id) s = .next (colAbort c 8 (leAt f.payload 4 2) none t))) ∧
      (¬ (colRuns t c = true ∧ w / 32768 = rget t R.COL_CTX_RP c) → exec (.colAbort id) s = .next (rbump R.COL_STALE_COUNT 0 t)))

/-- R197, R198, R217, R218, R222, R224 to R228: a run without progress for `ABORT_MS` aborts (reason 2); an aborted context
without an instance is armed again after the drain interval; a sender that is late for `STRAGGLE_US` is reported once; records
and timetables that pass their checks are staged; and the entries of a slot act in their order at its start, once an epoch. The
model's own choices in it: log 22, 98, 102. -/
def Obligations.CollectiveRunsOpenAndClose : Prop :=
  (∀ (s : State) (c : Nat) (x : ColCtx), running s = true → tget s.col.ctx c = some x → colState s c = 3 →
    let t := atTime (x.progress + 1000000 * (if x.record.abortMs = 0 then 10000 else x.record.abortMs)) s
    exec (.colNoProgress c) s = .next (colAbort c 2 (nodeSelf t) none t)) ∧
  (∀ (s : State) (c : Nat) (x : ColCtx), running s = true → tget s.col.ctx c = some x → colState s c = 4 → x.inst = none →
    colQueued s c = false →
    exec (.colRearm c) s = .next (colArm c (atTime (x.abortAt.getD 0 + 1000 * rget s R.ROUTE_CTL_DRAIN_US 0) s))) ∧
  (∀ (s : State) (c k : Nat) (x : ColCtx) (y : Sender), running s = true → tget s.col.ctx c = some x → tget x.senders k = some y →
    colState s c = 3 → k < 2 * 65536 → y.told = false → straggleNs x ≤ y.late →
    exec (.straggler c k) s = .next (stragglerEvent c k 1 (endIdle s x k y).late x
      (setCol c { x with senders := tset x.senders k { y with told := true } } s))) ∧
  (∀ (s : State) (h : Nat) (c : Cmd) (rest : List HostCmd) (t : State) (b : List Byte), Begins s h 0x18 neverBusy c rest t →
    c.bufLen = 384 → c.restZero 0 = true → colStatic (slice b 0 384) = true →
    LeavesCmd (.colOpen h (some b)) s h rest (stageCmd h c (leAt (slice b 0 384) 0 2) (slice b 0 384) t)) ∧
  (∀ (s : State) (h : Nat) (c : Cmd) (rest : List HostCmd) (t : State), Begins s h 0x19 neverBusy c rest t →
    c.arg 0 2 < 8192 → c.restZero 2 = true → LeavesCmd (.colClose h) s h rest (stageCmd h c (c.arg 0 2) [] t)) ∧
  (∀ (s : State) (h : Nat) (c : Cmd) (rest : List HostCmd) (t : State), Begins s h 0x1A neverBusy c rest t →
    c.arg 0 2 < 8192 → c.restZero 2 = true →
    (colRuns t (c.arg 0 2) = true → LeavesCmd (.hostCommandColAbort h) s h rest
      (complete h c stOK (toLE 16 1) 0 (colAbort (c.arg 0 2) 1 (nodeSelf t) none t))) ∧
    (colRuns t (c.arg 0 2) = false → LeavesCmd (.hostCommandColAbort h) s h rest (complete h c stOK (toLE 16 0) 0 t))) ∧
  (∀ (s : State) (h : Nat) (c : Cmd) (rest : List HostCmd) (t : State) (b : List Byte), Begins s h 0x1B neverBusy c rest t →
    c.restZero 0 = true → c.bufLen ≠ 0 →
    (∀ x, timetableOf t (slice b 0 c.bufLen) = some x → (x.recs.any fun r => openedByCommand t r.num) = false →
      LeavesCmd (.ttLoad h (some b)) s h rest (rset R.TT_STATUS_STAGED 0 1 (stageCmd h c 0 (slice b 0 c.bufLen) t))) ∧
    (∀ x, timetableOf t (slice b 0 c.bufLen) = some x → (x.recs.any fun r => openedByCommand t r.num) = true →
      LeavesCmd (.ttLoad h (some b)) s h rest (completeWith h c stIllegal t)) ∧
    (timetableOf t (slice b 0 c.bufLen) = none → LeavesCmd (.ttLoad h (some b)) s h rest (completeWith h c stIllegal t))) ∧
  ∀ (s : State) (slot : Nat), running s = true → ttRuns s = true → slot < rget s R.TT_STATUS_NSLOTS 0 → s.col.slotsDone ≤ slot →
    let t := atTime (boundaryNow s + slotOffset s slot) s
    let u := { t with col := { t.col with slotsDone := slot + 1 } }
    exec (.slotStart slot) s =
      .next (each ((enum' (ttEntries u)).filter fun p => p.2.slot == slot) (fun p v => slotEntry p.1 p.2 v) u)

/-! ## Tables -/

/-- A table request `f` of opcode `opc`, tracked under `n`, is served at this switch: it names a live table `tb` and may use it. -/
def Sys2Proof.Claims.ServesTable (s : State) (id opc n tb : Nat) (f : Frame) (t : State) : Prop :=
  ∃ i, Serves s id i f n true t ∧ f.opc = opc ∧ f.dst = nodeSelf t ∧ 8 ≤ f.payload.length ∧ tb = leAt f.payload 0 2 ∧ tb < 4096 ∧
    tblStatus t tb f = none

/-- R236 to R239, R247, R250 to R253: a table request of this switch that passes its checks is accepted, queued or answered, and
one of a wrong form ends `ILLEGAL`. `GATHER_BATCH` begins a batch, and waits while 1,024 are in flight; `ROW_PUT` and
`SCATTER_ADD` join the writes of their table. `TABLE_PIN` holds the live version for its source until its time, extends a hold
that its source has, and is refused beyond the pins of a table or the holds of the switch; `TABLE_UNPIN` drops the hold.
`FILTER_TOPK` answers with the best keys, their ids and, where asked for, their rows, once no row it reads is held modified. The
model's own choices in it: log 1, 52, 103, 158. -/
def Obligations.TableRequestsAnswer : Prop :=
  ∀ (s : State) (id n tb : Nat) (f : Frame) (t : State),
    let p := f.payload
    let g := geoOf t tb
    (ServesTable s id 0x20 n tb f t → s.tbl.batches.length < 1024 → batchStatus t f tb = none →
      exec (.gatherBatch id) s = .next (batchAccept n f tb t)) ∧
    (∀ st, ServesTable s id 0x20 n tb f t → s.tbl.batches.length < 1024 → batchStatus t f tb = some st →
      exec (.gatherBatch id) s = .next (imageRefuse n true f st t)) ∧
    (1024 ≤ s.tbl.batches.length → running s = true → exec (.gatherBatch id) s = .next (waitBatch id s)) ∧
    (ServesTable s id 0x22 n tb f t →
      let formed := p.length = 16 + g.rb ∧ leAt p 2 2 = 0 ∧ leAt p 8 8 = 0
      (formed → exec (.rowPut id) s = .next (queueWrite n tb false f t)) ∧
      (¬ formed → exec (.rowPut id) s = .next (refuse n true f stIllegal 1 t))) ∧
    (ServesTable s id 0x23 n tb f t →
      let w := ((Fmt.ofCode (leAt p 2 1)).getD .fp32).width
      let formed := 32 ≤ p.length ∧ 1 ≤ leAt p 2 1 ∧ leAt p 2 1 ≤ 9 ∧ leAt p 3 1 < 16 ∧ leAt p 3 1 % 8 < 6 ∧ leAt p 4 4 ≠ 0 ∧
        leAt p 24 8 = 0 ∧ g.fmt ≠ 0 ∧ p.length = 32 + leAt p 4 4 * (4 + g.elems * w / 8)
      (formed → exec (.scatterAdd id) s = .next (queueWrite n tb true f t)) ∧
      (¬ formed → exec (.scatterAdd id) s = .next (refuse n true f stIllegal 1 t))) ∧
    (ServesTable s id 0x24 n tb f t → scanWaits s id = none →
      let ver := if leAt p 20 8 = 0 then liveVer t tb else leAt p 20 8
      let rows := (List.range (leAt p 16 4 - leAt p 12 4 + 1)).map (leAt p 12 4 + ·)
      let slots := scanSlots t tb ver p
      let u := each slots (fun a => heatAt none a g.rb) t
      let stale := slots.any fun a => (linesOf a g.rb).any (isStale u)
      let scan := filterScan u g tb ver p
      let none_ := if bitAt (leAt p 4 1) 3 then 0x7F800000 else 0xFF800000
      let pairs := scan.1.map (·.2) ++ List.replicate (leAt p 5 1 - scan.1.length) (none_, noSlot)
      let row (q : Nat × Nat) : List Byte := match (if q.2 = noSlot then none else rowSlot u tb ver q.2) with
        | some m => mread u.pool.mem (g.slotAt m) g.rb
        | none => List.replicate g.rb 0#8
      let image := (pairs.map fun q => toLE 4 q.1).foldl (· ++ ·) [] ++ (pairs.map fun q => toLE 4 q.2).foldl (· ++ ·) []
        ++ if bitAt (leAt p 4 1) 4 then (pairs.map row).foldl (· ++ ·) [] else []
      (filterForm t g tb p = false → exec (.filterTopk id) s = .next (imageRefuse n true f stIllegal t)) ∧
      (filterForm t g tb p = true → regionLive t tb = false → exec (.filterTopk id) s = .next (imageRefuse n true f stRevoked t)) ∧
      (filterForm t g tb p = true → regionLive t tb = true → dirBad u tb ver rows = true →
        exec (.filterTopk id) s = .next (imageFail n stTierError 0 0 0 ver 0 [] u)) ∧
      (filterForm t g tb p = true → regionLive t tb = true → dirBad u tb ver rows = false → stale = true →
        exec (.filterTopk id) s = .next (imageFail n stStaleLine 0 0 0 ver 0 [] u)) ∧
      (filterForm t g tb p = true → regionLive t tb = true → dirBad u tb ver rows = false → stale = false →
        exec (.filterTopk id) s = .next (sendImage n f image
          (batchPayload image.length scan.2.1 0 0 noSlot scan.2.2 ver []) (radd R.TBL_FETCH_FETCHES tb scan.2.1 u)))) ∧
    (ServesTable s id 0x25 n tb f t →
      let formed := p.length = 8 ∧ leAt p 2 2 = 0 ∧ 1 ≤ leAt p 4 4 ∧ leAt p 4 4 ≤ 60000
      let v := liveVer t tb
      let x := tblOf t tb
      let till := t.clk.now + 1000000 * leAt p 4 4
      let mine (h : Nat × Holder) : Bool := h.1 == v && (match h.2 with | .node m _ => m == f.src | .inst _ => false)
      (formed → x.holds.any mine = true → exec (.tablePin id) s = .next (closeTrack n stOK (toLE 8 v) 1 (setTbl tb { x with
        holds := x.holds.map fun h => if mine h then (v, match h.2 with | .node m e => .node m (max e till) | o => o) else h } t))) ∧
      (formed → x.holds.any mine = false → pinRoom t tb v = true → endpointHolds t < 16384 →
        exec (.tablePin id) s = .next (closeTrack n stOK (toLE 8 v) 1 (addHold tb v (.node f.src till) t))) ∧
      (formed → x.holds.any mine = false → (pinRoom t tb v = false ∨ 16384 ≤ endpointHolds t) →
        exec (.tablePin id) s = .next (refuse n true f stQuota 1 t)) ∧
      (¬ formed → exec (.tablePin id) s = .next (refuse n true f stIllegal 1 t))) ∧
    (ServesTable s id 0x26 n tb f t →
      let formed := p.length = 16 ∧ leAt p 2 6 = 0
      (formed → exec (.tableUnpin id) s = .next (closeTrack n stOK [] 1 (dropHolds tb
        (fun w h => w == leAt p 8 8 && (match h with | .node m _ => m == f.src | .inst _ => false)) t))) ∧
      (¬ formed → exec (.tableUnpin id) s = .next (refuse n true f stIllegal 1 t)))

/-- R232, R240, R243 to R245, R247 to R250: the directory of a started batch is read once its indices are in; a row that arrives
is folded into its bags, and one that fails ends the batch; a batch whose shares are done sends its image, and one that is late
ends `NO_ANSWER`. The first write of a table flips its rows when they are written; a superseded slot is freed two epochs later
if nothing holds its version; a lapsed hold is dropped; a directory area reads zero when its table serves. The model's own
choices in it: log 22, 41, 104. -/
def Obligations.TableTimesEndHolds : Prop :=
  ∀ s : State, running s = true →
    (∀ b y st, let t := poolPass s
      tget t.tbl.batches b = some y → y.fetching = false →
      ((enum' y.shares).any fun p => !p.2.started && !waitsOwn t b p.1) = false →
      (batchArrays y = some (.error st) → exec (.gatherDirectoryDone b) s = .next (batchFail b st t)) ∧
      (∀ starts indices, batchArrays y = some (.ok (starts, indices)) →
        exec (.gatherDirectoryDone b) s = .next (batchDirectory b { y with starts := starts, indices := indices } t))) ∧
    (∀ b share row y id g st bytes, let t := poolPass s
      tget t.tbl.batches b = some y →
      tfind y.fetch (fun _ f => f.kind == 2 && f.share == share && f.row == row && f.ans.isSome) = some (id, g) → g.ans = some (st, bytes) →
      (st ≠ stOK → exec (.gatherRowFetch b share row) s = .next (batchFail b st t)) ∧
      (st = stOK →
        let span := ((y.shares[share]?).bind fun x => x.rounds.head?).getD (0, 0)
        let y1 := foldRow { y with fetch := tdel y.fetch id } span.1 span.2 row bytes
        exec (.gatherRowFetch b share row) s =
          .next (if y1.fetch.any (fun q => q.2.share == share) then setBatch b y1 t else endRound b share y1 t))) ∧
    (∀ b y, tget s.tbl.batches b = some y → y.fetching = true → y.fetch = [] → y.shares.all (fun x => x.rounds.isEmpty) = true →
      let image := packRow ((Fmt.ofCode y.ofmt).getD .fp64).width ((batchImage y).map (·.1))
      ∃ payload, exec (.gatherBatchEnd b) s = .next (sendImage b y.frame image payload (dropBatch b s))) ∧
    (∀ b y, tget s.tbl.batches b = some y → exec (.gatherBatchDeadline b) s = .next (batchFail b stNoAnswer (atTime y.deadline s))) ∧
    (∀ tb w rest, let t := scatterWrite tb (poolPass s)
      let next (u : State) : State := scatterWrite tb (startWrites tb rest.length u)
      (tblOf t tb).writes = w :: rest → w.phase = 2 →
      (ioStatus w = none → exec (.rowFlip tb) s = .next t) ∧
      (ioStatus w = some stOK → regionLive t tb = true →
        exec (.rowFlip tb) s = .next (next (endWrite tb stOK (toLE 8 (liveVer (flipRows tb w.rows t) tb)) 0 (flipRows tb w.rows t)))) ∧
      (ioStatus w = some stOK → regionLive t tb = false → exec (.rowFlip tb) s = .next (next (endWrite tb stRevoked [] 0 t)))) ∧
    (∀ tb ver peer v m till, let hit (v : Nat) (h : Holder) : Bool := v == ver && (match h with | .node m _ => m == peer | .inst _ => false)
      (tblOf s tb).holds.find? (fun p => hit p.1 p.2) = some (v, .node m till) →
      exec (.pinHoldLapse tb ver peer) s = .next (dropHolds tb hit (atTime till s))) ∧
    (∀ tb slot u, let x := tblOf s tb
      x.superseded.find? (fun q => q.old == slot) = some u → rbit s R.TBL_VALID tb = true → u.epoch + 2 ≤ epochNow s →
      versionHeld s tb (slotVer s tb u.old) (slotVer s tb u.new) = false →
      let prev := slotPrev s tb u.old
      let t := setTag tb u.new (slotVer s tb u.new) prev (slotRow s tb u.new) s
      let rest := (x.superseded.filter fun v => v.old != slot).map fun v => if v.new = slot then { v with new := u.new } else v
      exec (.tableSlotFree tb slot) s = .next (radd R.TBL_STATUS_SLOTS_FREE tb 1
        (setTbl tb { x with superseded := rest } (setTag tb u.old 0 prev (slotRow s tb u.old) t)))) ∧
    (∀ tb, rbit s R.TBL_VALID tb = true → rbit s R.TBL_STATUS_READY tb = false → thas s.tbl.run tb = true →
      let d := dirRegion fun f => rget s f tb
      let t := clearStale (fun g => decide (d.1 ≤ g.line) && decide (g.line < d.2)) (atTime (tblOf s tb).zeroEnd s)
      (dirPlaced s tb = false → exec (.tableReady tb) s = .next (placeDir tb s)) ∧
      (dirPlaced s tb = true → linesQuiet s d.1 (d.2 - d.1) true = false →
        exec (.tableReady tb) s = .next (askLines d.1 (d.2 - d.1) true s)) ∧
      (dirPlaced s tb = true → linesQuiet s d.1 (d.2 - d.1) true = true → exec (.tableReady tb) s =
        .next (rset R.TBL_STATUS_READY tb 1 { t with pool := { t.pool with mem := mzero t.pool.mem d.1 (d.2 - d.1) } })))

/-! ## Weight streams and extents -/

/-- R282, R285, R286, R288, R289: a run starts at its prefetch point; when every byte is copied its buffer is ready; the answers
to its stores and its flag move it on, and a status other than `OK` ends it in error, with the plain flag in place of a withheld
one; a copy that is behind at half its lead is raised to level 1 and a run that waits too long to level 3; a first wait is
reported. The model's own choices in it: log 22, 90, 91. -/
def Obligations.WeightStreamsLeadAndCopy : Prop :=
  ∀ s : State, running s = true →
    (∀ p k at_, rbit s R.PLAN_VALID p = true → planState s p = 0 → prefetchNext s p = some (k, at_) →
      exec (.wsPrefetchPoint p) s = .next (planStart p 1 0 (some k) (atTime at_ s))) ∧
    (∀ p x, tget s.ws.plans p = some x →
      (planState s p = 1 → x.copied = true → x.failed = none → exec (.wsCopyComplete p) s = .next (rset R.WS_STATE_STATE p 2 s)) ∧
      (x.copied = false → exec (.wsCopyComplete p) s = .next (planGo p s)) ∧
      (∀ k e, x.slot = some (k, e) → planState s p = 1 → 2 * rget s R.WS_COPIED_BYTES p < x.cfg.srcLen →
        exec (.wsLevelHalfLead p) s = .next (raiseLevel p 1 (atTime
          (boundaryNow s + (e - epochNow s) * epochLen s + slotOffset s k - 500 * rget s R.PLAN_LEAD_US p) s))) ∧
      (x.cfg.srcLen ≤ 2 * rget s R.WS_COPIED_BYTES p → exec (.wsLevelHalfLead p) s = .next s) ∧
      (∀ w, x.waiting = some w →
        let esc := 1000 * (if x.cfg.escUs = 0 then 20 else x.cfg.escUs)
        exec (.wsEscalate p) s = .next (raiseLevel p 3 (atTime (w + (esc - x.late)) s))) ∧
      (x.waiting ≠ none → x.first = false → exec (.weightLate p) s =
        .next (weightLate p 1 (lateUs x) (x.cfg.outLen - x.sent) x (setPlan p { x with first := true } s))) ∧
      ((x.waiting = none ∨ x.first = true) → exec (.weightLate p) s = .next s)) ∧
    (∀ id i p x, tget s.hall.inbox id = some i →
      planOf s (fun x => i.port == 255 && isAnswer i.frame.cls && x.stores.contains i.frame.rsv) = some (p, x) →
      let left := x.stores.filter (· != i.frame.rsv)
      let st := i.frame.status
      (st = stOK ∨ x.repeating = true → exec (.wsStoreAnswer id) s =
        .next (planGo p (setPlan p { x with stores := left } (takeInbox id s)))) ∧
      (st ≠ stOK → x.repeating = false → exec (.wsStoreAnswer id) s = .next (planGo p (setPlan p
        { x with stores := left, failed := some (x.failed.getD st), storeFail := some (x.storeFail.getD st) } (takeInbox id s))))) ∧
    ∀ id i p x, tget s.hall.inbox id = some i →
      planOf s (fun x => i.port == 255 && isAnswer i.frame.cls && x.flag == some i.frame.rsv) = some (p, x) →
      let t := takeInbox id s
      (x.errSent = true → exec (.wsFlagAnswer id) s = .next (planEnd p x t)) ∧
      (x.errSent = false → x.repeating = false → x.failed = none → i.frame.status ≠ stWithheld →
        exec (.wsFlagAnswer id) s = .next (planEnd p x t)) ∧
      (x.errSent = false → x.repeating = false → i.frame.status = stWithheld → exec (.wsFlagAnswer id) s = .next
        (planGo p (setPlan p { x with flag := none, failed := some (x.failed.getD (x.storeFail.getD stWithheld)) } t))) ∧
      (x.errSent = false → x.repeating = true → exec (.wsFlagAnswer id) s = .next (planGo p (setPlan p { x with flag := none } t)))

/-- R297 to R299, R303 to R307, R342: grants and revocations of the right form are staged; a fenced extent is `DRAINING` when
the fence is confirmed, with a snoop for each line of it that a cache holds; it leaves `DRAINING` when nothing is left, once no
cache holds a line of it, or when what is left is abandoned; a scrubbed one, its granules zeroed, is free. A holder's lease is renewed while it is live, and lapses at its expiry. The
model's own choices in it: log 22, 149. -/
def Obligations.ExtentsStageGrants : Prop :=
  (∀ (s : State) (h : Nat) (c : Cmd) (rest : List HostCmd) (t : State), Begins s h 0x20 neverBusy c rest t →
    (grantForm c.args = true → LeavesCmd (.extGrant h) s h rest (stageCmd h c (c.arg 0 2) [] t)) ∧
    (grantForm c.args = false → LeavesCmd (.extGrant h) s h rest (completeWith h c stIllegal t))) ∧
  (∀ (s : State) (h : Nat) (c : Cmd) (rest : List HostCmd) (t : State), Begins s h 0x21 neverBusy c rest t →
    (c.restZero 2 = true → LeavesCmd (.extRevoke h) s h rest (stageCmd h c (c.arg 0 2) [] t)) ∧
    (c.restZero 2 = false → LeavesCmd (.extRevoke h) s h rest (completeWith h c stIllegal t))) ∧
  (∀ (s : State) (e : Nat) (x : Extent), running s = true → tget s.pool.extents e = some x →
    (x.state = 2 → exec (.fenceConfirmed e) s = .next (each (s.coh.tags.filter fun g => x.holds g.line && (g.state == 1 || g.state == 2))
      (fun g => sendSnoop g.slot g.line true e 2) (setExtent e { x with state := 3, tD := s.clk.now } s))) ∧
    (x.state = 3 → drainLeft s e x = [] →
      let held := s.coh.tags.filter fun g => x.holds g.line && (g.state == 1 || g.state == 2)
      (snoopsFor s e 2 = true → exec (.drainDone e) s = .next s) ∧
      (snoopsFor s e 2 = false → held = [] → exec (.drainDone e) s = .next (leaveDraining e s)) ∧
      (snoopsFor s e 2 = false → held ≠ [] →
        exec (.drainDone e) s = .next (each held (fun g => sendSnoop g.slot g.line true e 2) s))) ∧
    (x.state = 3 → drainLeft s e x ≠ [] → exec (.drainDone e) s = .next s) ∧
    (x.state = 3 →
      let t := atTime (x.tD + 1000 * rget s R.XACT_CFG_REMOTE_TIMEOUT_US 0) s
      let left := drainLeft t e x
      let u := poolPass (radd R.DRAIN_ABANDONED_COUNT 0 left.length (each left abandonReq t))
      exec (.drainTimeout e) s = .next (drainOver e x u)) ∧
    (x.state = 4 →
      let left := ((granulesIn s x).filter fun p => p.2.stair != 3 && !x.scrubbed.contains p.1).map (·.1)
      exec (.scrubDone e) s = .next (freeExtent e (each left scrubGranule
        (atTime (x.tD + ceilDiv (left.length * 2 ^ 20) (max 1 (rget s R.EXT_CFG_SCRUB_GBPS 0))) s)))) ∧
    (x.state ≠ 2 → exec (.fenceConfirmed e) s = .next s) ∧ (x.state ≠ 4 → exec (.scrubDone e) s = .next s)) ∧
  (∀ (s : State) (id : Nat) (i : Inbox), Hears s id 0xF2 i →
    let t := takeInbox id s
    let now := i.arrived / 1000
    (leaseOf t i.frame.src = none → exec (.leaseRenew id) s = .next (leaseState i.frame 0 0 t)) ∧
    (∀ k l, leaseOf t i.frame.src = some (k, l) → l.state = 1 →
      exec (.leaseRenew id) s = .next (leaseState i.frame (now + leaseUs t) 1 (leaseStart i.frame.src now t))) ∧
    (∀ k l, leaseOf t i.frame.src = some (k, l) → l.state ≠ 1 →
      exec (.leaseRenew id) s = .next (leaseState i.frame l.expiryUs 2 t))) ∧
  ∀ (s : State) (k : Nat) (l : Lease), running s = true → tget s.pool.leases k = some l → l.state = 1 →
    exec (.leaseExpiry k) s = .next (leaseLapse k l (atTime (l.expiryUs * 1000) s))

/-! ## Token streams -/

/-- Stream command `code` of host `h` begins with the context record `x`, of the right form, in its buffer (R310). -/
def Sys2Proof.Claims.Streams (s : State) (h code : Nat) (buf : Option (List Byte)) (c : Cmd) (rest : List HostCmd) (x : StreamCtx)
    (t : State) : Prop :=
  ∃ b, buf = some b ∧ Begins s h code (streamBusy (leAt b 0 4)) c rest t ∧ c.bufLen = 64 ∧ c.restZero 0 = true ∧
    ctxForm (code == 0x2B) b = true ∧ x = ctxOf b

/-- R310 to R312, R316 to R318: opening, accepting and taking over make a context, in the lowest free number, when the stream
has none here and its list is good, once no endpoint holds a line of the list modified; growing adds blocks to an owned one; a handoff closes its blocks to writes, awaits those in
flight and then changes the ledger; closing frees it, a lost one through the ledger, one that is gone after reading it; a query stores the record. Without its
buffer the command ends `LOAD_FAILED`. The model's own choices in it: log 81, 84. -/
def Obligations.StreamCommandsEditContexts : Prop :=
  ∀ (s : State) (h : Nat) (buf : Option (List Byte)) (c : Cmd) (rest : List HostCmd) (t : State),
    (∀ x, let makes (y : StreamCtx) (n : Nat) : Prop := ctxBySid t x.sid = none ∧ listStatus t y 0 = none ∧
            t.pool.streams.length < 262144 ∧ lowestFree t.pool.streams 262144 = some n
          let made (y : StreamCtx) (n : Nat) : State := mapCtx n 0 y (setCtx n { y with cmd := some (h, c.tag) } (beginB h c x.sid t))
      (∀ n, Streams s h 0x28 buf c rest x t → listBusy s h 0x28 x = false → makes x n → LeavesCmd (.streamOpen h buf) s h rest
        (startCas n .openCas (ledgerWord ((x.gen + 2 ^ 32 - 1) % 2 ^ 32) 0 0 0) (ledgerWord x.gen 1 (nodeSelf t) 0) (made x n))) ∧
      (∀ n, let y := { x with lstate := 2, step := .waitHanding, since := t.clk.now, nextPoll := t.clk.now };
        Streams s h 0x2B buf c rest x t → listBusy s h 0x2B x = false → makes y n → LeavesCmd (.streamAccept h buf) s h rest (readLedger n (made y n))) ∧
      (∀ n, let y := { x with lstate := 2, step := .takeRead, fromMirror := true };
        Streams s h 0x2C buf c rest x t → listBusy s h 0x2C x = false → sourceGone t x.peer = true → makes y n →
        LeavesCmd (.streamTakeover h buf) s h rest (readLedger n (made y n))) ∧
      (Streams s h 0x2C buf c rest x t → listBusy s h 0x2C x = false → sourceGone t x.peer = false →
        LeavesCmd (.streamTakeover h buf) s h rest (completeWith h c stIllegal t)) ∧
      ∀ n y, ctxBySid t x.sid = some (n, y) →
        (Streams s h 0x28 buf c rest x t → listBusy s h 0x28 x = false →
          LeavesCmd (.streamOpen h buf) s h rest (completeWith h c stIllegal t)) ∧
        (let z := { y with nblocks := x.nblocks, list := x.list };
          Streams s h 0x29 buf c rest x t → listBusy s h 0x29 x = false → y.lstate = 0 → y.nblocks ≤ x.nblocks → x.part = y.part → listStatus t z y.nblocks = none →
          LeavesCmd (.streamGrow h buf) s h rest (complete h c stOK (toLE 1 0) 0 (mapCtx n y.nblocks z (setCtx n z t)))) ∧
        (let u := setCtx n { y with lstate := 1, peer := x.peer, step := .drainWrites, cmd := some (h, c.tag) } (beginB h c x.sid t);
          Streams s h 0x2A buf c rest x t → y.lstate = 0 →
          LeavesCmd (.streamHandoff h buf) s h rest (if writesInFlight u n then u else sendHandCas n u)) ∧
        (Streams s h 0x2A buf c rest x t → y.lstate ≠ 0 → LeavesCmd (.streamHandoff h buf) s h rest (completeWith h c stIllegal t)) ∧
        (Streams s h 0x2D buf c rest x t → y.lstate = 3 → LeavesCmd (.streamClose h buf) s h rest
          (readLedger n (setCtx n { y with step := .closeRead, cmd := some (h, c.tag) } (beginB h c x.sid t)))) ∧
        (Streams s h 0x2D buf c rest x t → y.lstate ≠ 4 → y.lstate ≠ 3 →
          LeavesCmd (.streamClose h buf) s h rest (complete h c stOK (toLE 1 y.lstate) 0 (freeCtx n t))) ∧
        (Streams s h 0x2D buf c rest x t → y.lstate = 4 → LeavesCmd (.streamClose h buf) s h rest
          (startCas n .closeCas (ledgerWord y.gen 3 (nodeSelf t) 0) (ledgerWord ((y.gen + 1) % 2 ^ 32) 0 0 0)
            (setCtx n { y with cmd := some (h, c.tag) } (beginB h c x.sid t))))) ∧
    (∀ i code, (i, code) ∈ [(Instr.streamOpen h buf, 0x28), (.streamGrow h buf, 0x29), (.streamAccept h buf, 0x2B),
        (.streamTakeover h buf, 0x2C)] → running s = true →
      let x := ctxOf (buf.getD [])
      listBusy s h code x = true → exec i s = .next (askLines (addrOff x.list) (8 * x.nblocks) false s)) ∧
    (Begins s h 0x28 (streamBusy 0) c rest t → LeavesCmd (.streamOpen h none) s h rest (completeWith h c stLoadFailed t)) ∧
    ∀ n x, Begins s h 0x2E (fun c r => streamBusy (c.arg 0 4) c r) c rest t → ctxBySid t (c.arg 0 4) = some (n, x) →
      64 ≤ c.bufLen → c.restZero 4 = true →
      LeavesCmd (.streamQuery h) s h rest (completeWith h c stOK (emit (.dmaWrite h c.buf (ctxBytes x)) t))

/-- R316, R318: a party of a handoff reads the ledger at its time and acts on the answer, and its `CAS` decides what it becomes;
a `CAS` that ends `NO_ANSWER` is sent again at most three times; a pull that ends well moves on and one that fails turns to the
mirror or to `LOST`; a target that has waited `HANDOFF_MS` is gone. The home reverts entries whose deadline has passed at each
multiple of 100 µs. The model's own choices in it: log 22, 79, 80, 82, 83. -/
def Obligations.StreamRunsKeepTheLedger : Prop :=
  ∀ s : State, running s = true →
    (∀ n x k, tget s.pool.streams n = some x → x.pollId = some k →
      (∀ id i, ownAnswer s k = some (id, i) → exec (.ledgerPoll n) s = .next (ledgerRead n x i.frame (takeInbox id s))) ∧
      (ownAnswer s k = none → exec (.ledgerPoll n) s = .next s)) ∧
    (∀ n x, tget s.pool.streams n = some x → x.pollId = none →
      (x.step = .drainWrites → writesInFlight s n = false → exec (.ledgerPoll n) s = .next (sendHandCas n s)) ∧
      ((x.step ≠ .drainWrites ∨ writesInFlight s n = true) → polls x = true → (x.lstate ≠ 5 ∨ x.step ≠ .idle) →
        exec (.ledgerPoll n) s = .next (readLedger n (atTime x.nextPoll s)))) ∧
    (∀ id i n x, tget s.hall.inbox id = some i → i.port = 255 → isAnswer i.frame.cls = true →
      tfind s.pool.streams (fun _ x => x.casId == some i.frame.rsv) = some (n, x) →
      let t := takeInbox id s
      let u := modCtx n (fun y => { y with casId := none, pollOld := y.pollId.isSome }) t
      let old := leAt i.frame.payload 0 8
      (i.frame.status = stNoAnswer → x.casTries < 3 →
        exec (.ledgerCasAnswer id) s = .next (sendCasFrame n (modCtx n (fun y => { y with casTries := x.casTries + 1 }) u))) ∧
      (i.frame.status = stOK ∨ i.frame.status = stReplayed →
        exec (.ledgerCasAnswer id) s = .next (casOutcome n x (old == x.casCmp) old i.frame.status u))) ∧
    (∀ id i n x, tget s.hall.inbox id = some i → i.port = 255 → isAnswer i.frame.cls = true →
      tfind s.pool.streams (fun _ x => x.pullId == some i.frame.rsv) = some (n, x) → x.lstate = 2 →
      let t := takeInbox id s
      let u := modCtx n (fun y => { y with pullId := none }) t
      (x.step = .put → i.frame.status = stOK → exec (.streamPullAnswer id) s = .next (pieceDone n x u)) ∧
      (x.step = .put → i.frame.status ≠ stOK → exec (.streamPullAnswer id) s = .next (targetGone n x u)) ∧
      (x.step ≠ .put → i.frame.status ≠ stOK → x.fromMirror = false →
        exec (.streamPullAnswer id) s = .next (pullNext n (modCtx n (fun y => { y with fromMirror := true, part4k := 0 }) u))) ∧
      (x.step ≠ .put → i.frame.status ≠ stOK → x.fromMirror = true → exec (.streamPullAnswer id) s =
        .next (startCas n .lostCas x.casNew (ledgerWord ((x.gen + 1) % 2 ^ 32) 3 (nodeSelf t) 0) u)) ∧
      (i.frame.status = stOK → x.step = .list → exec (.streamPullAnswer id) s =
        .next (pullNext n (modCtx n (fun y => { y with srcBlocks := y.srcBlocks ++ listEntries x i.frame.payload }) u)))) ∧
    (∀ n x, tget s.pool.streams n = some x →
      (x.step = .waitHanding → exec (.streamAcceptTimeout n) s =
        .next (targetGone n x (atTime (x.since + 1000000 * rget s R.STREAM_CFG_HANDOFF_MS 0) s))) ∧
      (x.step ≠ .waitHanding → exec (.streamAcceptTimeout n) s = .next s)) ∧
    (let t := atTime ((s.clk.now / 100000 + 1) * 100000) s;
      exec .ledgerRevertTick s = .next (each (t.pool.handing.filter fun e => decide (e.2 ≤ nowUs t)) (fun e => revertEntry e.1) t))

/-! ## Ports and links -/

/-- R365, R398, R399, R504: the states of a Molza port. A signal, a retry or `RETRAIN` begins the training of a port that is
down and may train; its end aligns the lanes or brings the port down for 100 ms; alignment leads to `EXCHANGE`; alignment lost
in `UP` leads to `RECOVER`, which a `RESUME` with an unchanged incarnation ends, and which a changed one, or `HOLD_UP_US`, ends
in `DOWN`. A connector without its cable has its ports down. The model's own choices in it: log 22, 62, 67, 127. -/
def Obligations.LinkTrainingChangesState : Prop :=
  ∀ (s : State) (port : Nat), running s = true →
    let l := linkOf s port
    (lstate s port = 0 → mayTrain s port = true → exec (.portSignal port) s = .next (startTraining port s) ∧
      exec (.retrain port) s = .next (startTraining port s) ∧
      ∀ at_, l.retryAt = some at_ → exec (.trainingRetry port) s = .next (startTraining port (atTime at_ s))) ∧
    (lstate s port ≠ 0 → exec (.portSignal port) s = .next s) ∧
    (lstate s port = 4 ∨ lstate s port = 5 → exec (.retrain port) s = .next (toRecover port s) ∧
      (isEth s port = false → exec (.alignmentLost port) s = .next (toRecover port s))) ∧
    (lstate s port = 1 → l.prbs = true → exec (.prbsCheckDone port true) s = .next (toAligning port s) ∧
      let t := setLink port { l with prbs := false, usingSaved := false, stateSince := s.clk.now } s
      (isReady t = false → exec (.prbsCheckDone port false) s = .next (rset R.START_STATUS_FULL_TRAIN 0 1 t)) ∧
      (isReady t = true → exec (.prbsCheckDone port false) s = .next t)) ∧
    (lstate s port = 1 → l.prbs = false →
      (∀ settings, s.boot.savedWant.contains port = true → exec (.fullTrainingDone port settings) s =
        .next (toAligning port (setLink port { l with saved := enum' settings, usingSaved := false } s))) ∧
      let t := atTime (l.stateSince + 300000000) s
      exec (.trainingTimeout port) s = .next (toDown port (some (t.clk.now + 100000000)) t)) ∧
    (lstate s port = 2 → exec (.pairAligned port) s = .next (toExchange port s) ∧
      exec (.alignmentLost port) s = .next (toDown port none s)) ∧
    (lstate s port = 6 → l.aligned = false → l.resume = none → exec (.pairAligned port) s =
      .next (sendLink port (resumeBytes s port) (setLink port { l with aligned := true } s))) ∧
    (lstate s port = 6 → exec (.holdUpExpiry port) s =
      .next (portDown port none (atTime (l.stateSince + 1000 * rget s R.LINK_CFG_HOLD_UP_US port) s))) ∧
    (∀ inc seq, lstate s port = 6 → l.aligned = true → l.peerInc.any (· != inc) = true →
      lstate (portDown port none s) port = 0 → exec (.resume port inc seq) s = .next (portDown port none s)) ∧
    (∀ inc seq, lstate s port = 6 → l.aligned = true → l.peerInc.any (· != inc) = false →
      let back : LinkPort := { l with peerInc := some inc, resume := none, aligned := false, nakAt := none, again := 0, stateSince := s.clk.now };
      let u := pumpAll port (sendNak port (rset R.LINK_STATUS_LSTATE port l.former (setLink port back s)))
      lstate u port = 4 ∨ lstate u port = 5 →
      exec (.resume port inc seq) s = .next { u with hall := { u.hall with peerOff := tdel u.hall.peerOff port } }) ∧
    (∀ conn, s.pkg.cabAbsent.contains conn = true → exec (.cabPresN conn true) s =
      .next (each ((upTo 4).map fun i => 4 * conn + i) (fun n u => if lstate u n = 0 then u else portDown n none u) s)) ∧
    ∀ conn, exec (.cabPresN conn false) s = .next { s with pkg := { s.pkg with cabAbsent := s.pkg.cabAbsent.filter (· != conn) } }

/-- R79, R394 to R396, R400, R401, R410: a capability word in `EXCHANGE` is kept, and the port may come up; a good flit is taken
and a bad one counted and asked for again; a flit that has waited `REPLAY_US` is sent again with all that are held. A width
asked for is sent unless it names a failed lane, and a width announced is listened to. A lane over its rate becomes slow and one
that loses alignment failed, and one that stays good for 100 ms is good again. The model's own choices in it: log 22, 64, 68. -/
def Obligations.LinkFlitsKeepOrder : Prop :=
  ∀ (s : State) (port : Nat), running s = true →
    let l := linkOf s port
    let good (b : List Byte) : Bool := b.length == 256 && crc64 (b.take 248) == leAt b 248 8 && decide (leAt b 0 1 % 16 ≤ 4)
    (∀ word, lstate s port = 3 → isEth s port = false →
      let t := rset R.PEER_CAPS_CAPS port word (setLink port { l with capsGot := true } s)
      (hopPort t port = false ∨ bitAt word 16 = false → exec (.caps port word) s = .next (tryUp port t)) ∧
      (hopPort t port = true → bitAt word 16 = true → isInitiator t port = true → l.hop.cur = none → l.hop.offerAt = none →
        exec (.caps port word) s = .next (tryUp port (startOffer port t)))) ∧
    (∀ word, lstate s port ≠ 3 → exec (.caps port word) s = .next s) ∧
    (∀ b, isEth s port = false → lstate s port = 3 ∨ lstate s port = 4 ∨ lstate s port = 5 →
      (good b = true → exec (.flitReceive port b) s = .next (goodFlit port b s)) ∧
      (good b = false → exec (.flitReceive port b) s = .next (sendNak port (codewordsLost port (rbump R.CRC_BAD_COUNT port s)))) ∧
      (good b = true → leAt b 0 1 % 16 = 4 → exec (.tag port b) s = .next (goodFlit port b s))) ∧
    (∀ h held, l.held = h :: held → lstate s port = 3 ∨ linkUp s port = true →
      let t := atTime (h.at_ + 1000 * rget s R.LINK_CFG_REPLAY_US port) s
      exec (.replayTimeout port) s = .next (sendAgain port (linkOf t port).held t)) ∧
    (∀ m, linkUp s port = true → maskOk s port m = true →
      let failed := (lanesOf m).any fun i => rget s R.LANE_STATE (4 * port + i) == 3
      (failed = false → (lanesOf m).filter (fun i => sleeps s (.lane (4 * port + i))) = [] →
        exec (.widthAsk port m) s = .next (sendWidth port m s)) ∧
      (failed = true → exec (.widthAsk port m) s = .next s) ∧
      exec (.width port m) s = .next (setLink port { l with rxUnion := rxMask s port ||| m, rxNext := some m } s)) ∧
    (∀ lane, gangedAway s port = false → lane < laneCount s port →
      let t (ppm : Nat) := rset R.LANE_SER_PPM (4 * port + lane) ppm (countCorrected port ppm s)
      let limit := rget s R.LINK_CFG_LANE_SER_PPM port
      (∀ ppm, linkUp s port = true → bitAt (rxMask s port) lane = true → rget s R.LANE_STATE (4 * port + lane) = 0 →
        (limit < ppm → exec (.laneSerWindow port lane ppm) s = .next (dropLane port lane 1 0x03 (ppm * 100 / limit) (t ppm))) ∧
        (ppm ≤ limit → exec (.laneSerWindow port lane ppm) s = .next (t ppm))) ∧
      (linkUp s port = true → bitAt (rxMask s port) lane = true → rget s R.LANE_STATE (4 * port + lane) ≠ 3 →
        exec (.laneFailed port lane) s = .next (dropLane port lane 3 0x04 0 s))) ∧
    ∀ lane at_, tget l.goodSince lane = some at_ →
      let k := 4 * port + lane
      let u := setLink port { l with goodSince := tdel l.goodSince lane } (rset R.LANE_STATE k 0 (atTime (at_ + 100000000) s))
      (rget s R.LANE_STATE k = 1 ∨ rget s R.LANE_STATE k = 3) → ∀ m, bestMask u port 8 = some m → linkUp u port = true →
        (maskWidth (rxMask u port) < maskWidth m → exec (.laneRetrainGood port lane) s = .next (askWidth port (some m) u)) ∧
        (maskWidth m ≤ maskWidth (rxMask u port) → exec (.laneRetrainGood port lane) s = .next u)

/-! ## Hop keys and spares -/

/-- R446 to R448: the side that expects it takes an offer, an accept or a done: one that passes its checks goes on to the next
message and at last to the key, and one that does not is answered `ABORT` and fails the exchange. A failure before the first key
brings the port down; a later one is tried again after 1 s. Half of a key's life starts the next exchange, its end without a
next key stops the port 100 ms later, and the old key goes after 10 ms. The model's own choices in it: log 1, 22, 72. -/
def Obligations.HopKeysRoll : Prop :=
  ∀ (s : State) (port : Nat), running s = true →
    let l := linkOf s port
    let h := l.hop
    let refused (id : Nat) : State := keyFail port (sendKey port 4 id [] s)
    (∀ id b, keyPort s port = true → isInitiator s port = false →
      let ok := id = nextKeyId h ∧ keyCheck s port b 4918 (ascii "MOLZA-OFFER" ++ slice b 0 4918 ++ toLE 4 id) = true
      (ok → let rnd := freshRandom s; let kem := Config.kemEncaps (slice b 3734 1184) rnd.1; let head := keyHead rnd.2 ++ kem.1;
        let acc := head ++ Config.dsaSign dikSeed (Config.sha3 (ascii "MOLZA-ACCEPT" ++ b ++ head));
        exec (.offer port id b) s = .next (sendKey port 2 id acc (setHop port
          { hopClear h with offer := b, accept := acc, ss := kem.2, offerAt := some rnd.2.clk.now } rnd.2))) ∧
      (¬ ok → exec (.offer port id b) s = .next (refused id)) ∧
      (h.accept ≠ [] → let k := hopKeyOf h h.ss h.accept id s.clk.now
        (id = nextKeyId h → b = doneBytes k → exec (.done port id b) s = .next (keyAgreed port k s)) ∧
        (id ≠ nextKeyId h ∨ b ≠ doneBytes k → exec (.done port id b) s = .next (refused id)))) ∧
    (∀ id b t, keyPort s port = true → isInitiator s port = true → h.offerAt = some t →
      let ok := id = nextKeyId h ∧ keyCheck s port b 4822 (ascii "MOLZA-ACCEPT" ++ h.offer ++ slice b 0 4822) = true
      (ok → let k := hopKeyOf h (Config.kemDecaps h.kemD h.kemZ (slice b 3734 1088)) b id s.clk.now
        exec (.accept port id b) s = .next (keyAgreed port k (sendKey port 3 id (doneBytes k) s))) ∧
      (¬ ok → exec (.accept port id b) s = .next (refused id))) ∧
    (∀ id, keyPort s port = true → h.offerAt.isSome = true → exec (.abort port id) s = .next (keyFail port s)) ∧
    (∀ at_, h.offerAt = some at_ → exec (.keyDoneTimeout port) s = .next (keyFail port (atTime (at_ + 100000000) s))) ∧
    (h.offerAt = none → exec (.keyDoneTimeout port) s = .next s) ∧
    (∀ k, h.cur = some k → keyPort s port = true → isInitiator s port = true → h.next = none → h.offerAt = none → h.retryAt = none →
      exec (.rekeyStart port) s = .next (startOffer port (if halfUsed k then s else atTime (k.since + 1800000000000) s))) ∧
    (∀ at_, h.retryAt = some at_ → keyPort s port = true → isInitiator s port = true →
      exec (.rekeyRetry port) s = .next (startOffer port (atTime at_ s))) ∧
    (∀ k, h.cur = some k → h.next = none →
      (∀ at_, h.limitAt = some at_ → exec (.keyLimitReached port) s =
        .next (portDown port (some (at_ + 200000000)) (securityEvent port k.id 0 (atTime (at_ + 100000000) s)))) ∧
      (h.limitAt = none →
        let t := if 2 ^ 40 ≤ k.tx ∨ 2 ^ 40 ≤ k.rx then s else atTime (k.since + 3600000000000) s
        exec (.keyLimitReached port) s = .next (setHop port { h with limitAt := some t.clk.now } t))) ∧
    (h.old ≠ none → exec (.oldKeyRetire port) s = .next (setHop port { h with old := none } (atTime h.oldUntil s))) ∧
    (h.old = none → exec (.oldKeyRetire port) s = .next s)

/-- R415 to R419: a member that stays down for the wait, or a command, is a failure, which asks the group's spare. The ask is
sent again every 20 µs until the asking ends, which is reported. An ask is acted on; a refusal ends the asking and is reported;
a commit that is new goes to every neighbour but its sender, and its remap is staged. The model's own choices in it: log 22, 85,
86, 87. -/
def Obligations.SpareSwitchesAgree : Prop :=
  (∀ (s : State) (port : Nat), running s = true →
    (∀ at_, tget s.res.downSince port = some at_ →
      let t : State := { s with res := { s.res with downSince := tdel s.res.downSince port } }
      (lstate s port = 4 → exec (.subWaitExpiry port) s = .next t) ∧
      (lstate s port ≠ 4 → exec (.subWaitExpiry port) s =
        .next (detectFailure port 1 (atTime (at_ + 1000 * rget s R.SUB_CFG_SUB_WAIT_US 0) t)))) ∧
    (∀ a, askOf s port = some a →
      let t := atTime (a.sentAt + 20000) s
      (max s.clk.now (a.sentAt + 20000) < askEnd s a → exec (.subAskResend port) s =
        .next (sendCtl 0xF7 (rget t R.GRP_SPARE_SW a.group) (askBytes a)
          { t with res := { t.res with asks := t.res.asks.map fun x => if x = a then { x with sentAt := t.clk.now } else x } })) ∧
      exec (.subAskTimeout port) s = .next (subEvent 0x17 a.failed a.group 0 a.tD (some a.port) (dropAsk a (atTime (askEnd s a) s))))) ∧
  (∀ (s : State) (h : Nat) (c : Cmd) (rest : List HostCmd) (t : State), Begins s h 0x38 neverBusy c rest t →
    (c.arg 0 1 < 128 → c.restZero 1 = true →
      LeavesCmd (.subForce h) s h rest (completeWith h c stOK (detectFailure (c.arg 0 1) 3 t))) ∧
    (128 ≤ c.arg 0 1 ∨ c.restZero 1 = false → LeavesCmd (.subForce h) s h rest (completeWith h c stIllegal t))) ∧
  (∀ (s : State) (id : Nat) (i : Inbox), Hears s id 0xF7 i →
    exec (.subAsk id) s = .next (askIn i.frame.src i.arrived i.frame.payload (takeInbox id s))) ∧
  (∀ (s : State) (id : Nat) (i : Inbox), Hears s id 0xF8 i →
    let b := i.frame.payload
    let t := takeInbox id s
    ∀ a, t.res.asks.find? (fun a => a.group == leAt b 0 2 % 1024 && a.failed == leAt b 2 2 % 32768) = some a →
      (leAt b 4 1 = 2 ∨ leAt b 4 1 = 3 → exec (.subAnswer id) s = .next (subEvent 0x15 a.failed a.group 0 a.tD (some a.port) (dropAsk a t))) ∧
      (leAt b 4 1 ≠ 2 → leAt b 4 1 ≠ 3 → exec (.subAnswer id) s = .next (dropAsk a t))) ∧
  ∀ (s : State) (id : Nat) (i : Inbox), Hears s id 0xF9 i →
    let b := i.frame.payload
    let t := takeInbox id s
    let key := (leAt b 6 2, leAt b 16 4)
    (t.res.seen.contains key = true → exec (.subCommit id) s = .next t) ∧
    (t.res.seen.contains key = false →
      let u : State := { t with res := { t.res with seen := t.res.seen ++ [key] } }
      exec (.subCommit id) s = .next (stageRemap (leAt b 2 2 % 32768) (leAt b 20 2 % 32768) (leAt b 0 2 % 1024) (leAt b 8 8)
        (each ((neighbours u).filter (· != i.frame.src)) (fun n v => sendCtl 0xF9 n b v) u)))

/-! ## The Shell and its images -/

/-- Host `h` has request `req` of code `code` in the mailbox, and the Shell acts on it: outside recovery, or one of the requests that
recovery mode serves; a request for the owner alone comes from the owner (R454, R455, R489). -/
structure Sys2Proof.Claims.Asks (s : State) (h code : Nat) (owner : Bool) (req : List Byte) : Prop where
  running : running s = true
  runs : mboxRuns s h code = true
  phase : rget s R.START_STATUS_PHASE 0 ≠ 5 ∨ code = 1 ∨ code = 2 ∨ code = 10
  sender : owner = true → isOwner s h = true
  bytes : req = mboxReq s

/-- R439, R442, R445, R450, R451, R453 to R455: what a Shell request leaves in the mailbox and changes. The identity and a quote
are signed statements; a frame that passes its check is staged and one that fails leaves its code; a licence, an endorsement and
a Holone key are stored; a job key is opened, wrapped for an endpoint of its partition and closed. The model's own choices in
it: log 10, 47, 49. -/
def Obligations.ShellRequestsAnswer : Prop :=
  ∀ (s : State) (h : Nat) (req : List Byte),
    (Asks s h 1 false req → exec (.idGet h) s = .next (mboxEnd stOK (Config.dikCertificate ++ akStatement s) s)) ∧
    (Asks s h 2 false req → (req.length = 32 → exec (.quote h) s = .next
        (mboxEnd stOK (quoteBytes s req ++ Config.dsaSign (akSeed s) (Config.sha3 (quoteBytes s req))) s)) ∧
      (req.length ≠ 32 → exec (.quote h) s = .next (mboxEnd stIllegal [] s))) ∧
    (Asks s h 3 true req → (∀ f, frameCheck s req = .ok f → exec (.frameStage h) s = .next
        (mboxEnd stOK [] (rset R.FRAME_INFO_FRAME_REFUSED 0 0 { s with sec := { s.sec with stagedFrame := req } }))) ∧
      (∀ c, frameCheck s req = .error c →
        exec (.frameStage h) s = .next (mboxEnd (frameStatus c) [] (rset R.FRAME_INFO_FRAME_REFUSED 0 c s)))) ∧
    (Asks s h 4 true req →
      (licenceOk s req = true → exec (.licenceLoad h) s = .next (mboxEnd stOK [] { s with sec := { s.sec with licenceFlash := req } })) ∧
      (licenceOk s req = false → exec (.licenceLoad h) s = .next (mboxEnd stIllegal [] s))) ∧
    (Asks s h 5 true req →
      (req.length = sigLen → exec (.endorseSet h) s = .next (mboxEnd stOK [] { s with sec := { s.sec with endorsement := req } })) ∧
      (req.length ≠ sigLen → exec (.endorseSet h) s = .next (mboxEnd stIllegal [] s))) ∧
    (Asks s h 9 true req → (licensed s 3 = false → exec (.credSet h) s = .next (mboxEnd stUnsupported [] s)) ∧
      ∀ x, s.sec.holone[leAt req 0 1]? = some x → licensed s 3 = true → req.length = 36 → leAt req 0 1 < 4 → leAt req 1 3 = 0 →
        let key := if (req.drop 4).all (· == 0#8) then none else some (req.drop 4)
        exec (.credSet h) s =
          .next (mboxEnd stOK [] { s with sec := { s.sec with holone := s.sec.holone.set (leAt req 0 1) { x with key := key } } })) ∧
    (Asks s h 6 true req → s.sec.jobOpen = none → (jobMode s = false → exec (.jobOpen h) s = .next (mboxEnd stUnsupported [] s)) ∧
      (jobMode s = true → req ≠ [] → leAt req 0 1 < 64 → zeroFrom req 1 req.length = true →
        s.sec.frame.enabled.contains (leAt req 0 1) = true → s.sec.jobKeys.length < 4096 →
        let draw := drawBytes s
        let id := (nodeSelf s - 0x4000) * 2 ^ 22 + s.sec.jobCtr % 2 ^ 22
        let nb := epochNow s + 2
        let peers := otherPeers s
        let key : JobKey := ⟨leAt req 0 1, draw.1, nb, nodeSelf s, epochNow s, none, none⟩
        let t : State := { draw.2 with sec := { draw.2.sec with
          jobCtr := draw.2.sec.jobCtr + 1, jobKeys := tset draw.2.sec.jobKeys id key, jobOpen := some (id, peers.map fun p => (p.node, none)) } }
        exec (.jobOpen h) s = .next (jobOpenGo (each peers (sendInstall id (leAt req 0 1) nb draw.1) t)))) ∧
    (Asks s h 7 true req → licensed s 2 = true → req.length = 1190 → ∀ k, tget s.sec.jobKeys (leAt req 0 4) = some k →
      let here := (upTo 128).any fun n => isEndpointPort s n && portNode s n == some (leAt req 4 2) && (pfPort s n).part == k.part
      let w := wrapKey (req.drop 6) (leAt req 0 4) (toLE 4 (leAt req 0 4) ++ toLE 2 (leAt req 4 2)) k.key s
      (here = true → exec (.jobWrap h) s = .next (mboxEnd stOK w.1 w.2)) ∧
      (here = false → exec (.jobWrap h) s = .next (mboxEnd stDenied [] s))) ∧
    (Asks s h 8 true req → licensed s 2 = true → req.length = 4 →
      let id := leAt req 0 4
      (tget s.sec.jobKeys id = none → exec (.jobClose h) s = .next (mboxEnd stIllegal [] s)) ∧
      ∀ k, tget s.sec.jobKeys id = some k →
        let nb := epochNow s + 2
        let b := installBytes (installHead s id k.part true nb) []
        exec (.jobClose h) s =
          .next (mboxEnd stOK [] (each (otherPeers s) (fun p u => sendMgt 0xE1 p.node b u) (jobRemoveAt id nb s)))) ∧
    (Asks s h 10 false req →
      (h = 0 → rget s R.START_STATUS_PHASE 0 = 5 → exec (.recoveryImage h) s = .next (recoveryChunk req s)) ∧
      (h ≠ 0 ∨ rget s R.START_STATUS_PHASE 0 ≠ 5 → exec (.recoveryImage h) s = .next (mboxEnd stIllegal [] s)))

/-- R450, R453, R456 to R458, R470 to R475: a peer's key message and query are checked and answered; a key is destroyed at its
time. A Holone datagram of a good key and a new counter is acted on and answered, and any other is dropped; a locked slot opens
at its time. An image is staged unless another is, armed kinds are tried at the next reset, and its checks leave a result. The
model's own choices in it: log 22, 117, 131. -/
def Obligations.KeysAndImagesLoad : Prop :=
  (∀ (s : State) (id : Nat) (i : Inbox) (f : Frame) (n : Nat) (tracked : Bool) (t : State), Serves s id i f n tracked t → f.dst = nodeSelf t →
    (f.opc = 0xE1 → installCheck t f.payload = none → exec (.jobKeyInstall id) s = .next (mgtAnswer n tracked f stDenied [] t)) ∧
    (∀ k, f.opc = 0xE1 → installCheck t f.payload = some k →
      let r := installIn (leAt f.payload 0 4) k t
      exec (.jobKeyInstall id) s = .next (mgtAnswer n tracked f r.1 [] r.2)) ∧
    (f.opc = 0xE0 → let st := queryStatus (keyPart t f.pkey) f.payload
      (st = stOK → exec (.mgtQuery id) s = .next (mgtAnswer n tracked f st (readBytes 2 (leAt f.payload 0 4) (leAt f.payload 4 4) t) t)) ∧
      (st ≠ stOK → exec (.mgtQuery id) s = .next (refuse n tracked f st 0 t)))) ∧
  (∀ (s : State), running s = true →
    (∀ key at_, (tget s.sec.jobKeys key).bind (·.destroyAt) = some at_ →
      let t := atTime at_ s
      exec (.jobKeyDestroy key) s =
        .next { t with sec := { t.sec with jobKeys := tdel t.sec.jobKeys key, windows := t.sec.windows.filter fun w => w.key != key } }) ∧
    (∀ b x key, holoneOn s = true → b.length = 64 → s.sec.holone[leAt b 0 1]? = some x → x.lockedUntil = none → x.key = some key →
      let good := Config.hmac key (b.take 32) = b.drop 32 ∧ x.counter < leAt b 4 8
      (¬ good → exec (.holoneRequest b) s = .next (holoneDrop (leAt b 0 1) s)) ∧
      (good → let r := holoneAct (leAt b 0 1) (leAt b 1 1) (leAt b 12 4) (leAt b 16 8) (holoneAccept (leAt b 0 1) (leAt b 4 8) x s);
        let a := b.take 2 ++ toLE 1 r.1 ++ (b.take 16).drop 3 ++ toLE 8 r.2.1 ++ (b.take 32).drop 24
        exec (.holoneRequest b) s = .next (emit (.udp (a ++ Config.hmac key a)) r.2.2))) ∧
    (∀ b, holoneOn s = false → exec (.holoneRequest b) s = .next s) ∧
    (∀ k x at_, s.sec.holone[k]? = some x → x.lockedUntil = some at_ →
      let t := atTime at_ s
      exec (.holoneSlotUnlock k) s =
        .next { t with sec := { t.sec with holone := t.sec.holone.set k { x with lockedUntil := none } } }) ∧
    (rget s R.START_STATUS_PHASE 0 = 5 → ∀ b, exec (.tftpWriteRequest 1 b) s =
      .next { s with sec := { s.sec with recov := b, recovTotal := b.length }, boot := { s.boot with tftp := some 1 } }) ∧
    (∀ k, rget s R.START_STATUS_PHASE 0 ≠ 5 → 1 ≤ k → k ≤ 3 →
      (∀ b, rbit s R.SVC_CFG_TFTP_EN 0 = true →
        (stageRefusal s k = none → exec (.tftpWriteRequest k b) s = .next (beginImage k none b s)) ∧
        (∀ r, stageRefusal s k = some r → exec (.tftpWriteRequest k b) s = .next (tftpError (updRefuse k r s)))) ∧
      ((updOf s k).state = 1 →
        exec (.imageWriteDone k) s = .next (imageOver k (stagedCheck s k ((updOf s k).other.bytes k)) s))) ∧
    ∀ k, 1 ≤ k → k ≤ 3 → (updOf s k).state = 1 →
      exec (.imageTransferStall k) s = .next (imageOver k resBadSignature (atTime ((updOf s k).lastByte + 10000000000) s))) ∧
  ∀ (s : State) (h : Nat) (buf : Option (List Byte)) (c : Cmd) (rest : List HostCmd) (t : State),
    (Begins s h 0x40 stageBusy c rest t → 1 ≤ c.arg 0 1 → c.arg 0 1 ≤ 3 → c.restZero 1 = true →
      (staging t = true → LeavesCmd (.imageStage h buf) s h rest (completeWith h c stQuota t)) ∧
      (staging t = false →
        (∀ r, stageRefusal t (c.arg 0 1) = some r →
          LeavesCmd (.imageStage h buf) s h rest (completeWith h c stIllegal (updRefuse (c.arg 0 1) r t))) ∧
        (stageRefusal t (c.arg 0 1) = none →
          (buf = none → LeavesCmd (.imageStage h buf) s h rest (completeWith h c stLoadFailed t)) ∧
          ∀ b, buf = some b → LeavesCmd (.imageStage h buf) s h rest
            (beginImage (c.arg 0 1) (some h) (slice b 0 c.bufLen) (beginB h c (c.arg 0 1) t))))) ∧
    (Begins s h 0x41 maskBusy c rest t → maskForm c = true → armRefusal t = none →
      (armOk t (maskKinds c) = true → LeavesCmd (.imageArm h) s h rest (completeWith h c stOK
        (writeKinds (maskKinds c) (fun u => { u with state := 3, try_ := true, result := resOK }) t))) ∧
      (armOk t (maskKinds c) = false →
        LeavesCmd (.imageArm h) s h rest (completeWith h c stIllegal (refuseKinds resIncompatible c t)))) ∧
    (Begins s h 0x42 maskBusy c rest t → maskForm c = true → armRefusal t = none → LeavesCmd (.imageDisarm h) s h rest (completeWith h c stOK
      (writeKinds ((maskKinds c).filter fun k => (updOf t k).state == 3) (fun u => { u with state := 2, try_ := false, result := resOK }) t)))

/-! ## Hosts -/

/-- R482, R486, R487: `CLAIM`, `RENEW` and `RELEASE` move the ownership of the switch, which ends too when the lease reaches its
expiry or the owner's link goes down. A refused write is counted. Ending it, the owner's commands that have not begun end
`ACCESS_DENIED`. The model's own choices in it: log 22, 111, 112, 113. -/
def Obligations.OwnershipPassesByClaim : Prop :=
  ∀ (s : State) (h : Nat), barsOn s h = true → rget s R.START_STATUS_PHASE 0 ≠ 5 →
    let t := wakeHall s
    let takes (u : State) : State := raiseIrq 5 (rset R.HOST_LEASE_EXPIRY_US 0 (nowUs u + 100000) u)
    let denied : State := rbump R.HOST_DENIED_COUNT 0 t
    let own : State := rset R.HOST_OWN_OWNER 0 (h + 1) (setHost h { hostPort t h with claimAt := some t.clk.now } t)
    ((pfHost t h).canOwn = true → rget t R.HOST_OWN_OWNER 0 = 0 → exec (.claim h) s = .next (takes own)) ∧
    ((pfHost t h).canOwn = true → rget t R.HOST_OWN_OWNER 0 = h + 1 → exec (.claim h) s = .next t) ∧
    ((pfHost t h).canOwn = true → rget t R.HOST_OWN_OWNER 0 = 2 - h → (hostPort t (1 - h)).claimAt ≠ some t.clk.now →
      exec (.claim h) s = .next denied) ∧
    ((pfHost t h).canOwn = false → exec (.claim h) s = .next denied) ∧
    (isOwner t h = true → exec (.renew h) s = .next (rset R.HOST_LEASE_EXPIRY_US 0 (nowUs t + 100000) t) ∧
      exec (.release h) s = .next (endOwner t)) ∧
    (isOwner t h = false → exec (.renew h) s = .next denied ∧ exec (.release h) s = .next denied) ∧
    (rget s R.HOST_OWN_OWNER 0 = 0 → exec .ownerLeaseExpiry s = .next s) ∧
    (rget s R.HOST_OWN_OWNER 0 ≠ 0 → exec .ownerLeaseExpiry s =
      .next (endOwner (atTime (1000 * rget s R.HOST_LEASE_EXPIRY_US 0) s))) ∧
    (exec (.hostLinkDown h) s = .next (hostDown h (if isOwner s h then endOwner s else s))) ∧
    ∀ u, rget u R.HOST_OWN_OWNER 0 ≠ 0 →
      let o := rget u R.HOST_OWN_OWNER 0 - 1
      endOwner u = raiseIrq 5 (rset R.HOST_OWN_OWNER 0 0
        (each (hostPort u o).queue (fun c t => completeWith o (cmdOf c.bytes) stDenied t) (setHost o { hostPort u o with queue := [] } u)))

/-- R489 to R493, R495, R498, R502: a command of 64 bytes from a host that may send it joins the host's queue, and others are
counted; a completion is written into the ring while there is room; the ring's registers are written only while nothing is under
way. `STAGE_DISCARD` drops what is staged and `RESET` comes due 1 ms after its completion. A register write goes to the register
when it is aligned and the host may write it. The model's own choices in it: log 114. -/
def Obligations.HostWindowTakesCommands : Prop :=
  (∀ (s : State) (h : Nat), barsOn s h = true → rget s R.START_STATUS_PHASE 0 ≠ 5 →
    let t := wakeHall s
    let p := hostPort t h
    let may := (pfHost t h).canOwn = true ∨ (pfHost t h).canStandby = true
    (∀ b, b.length ≠ 64 → exec (.commandWindowWrite h b) s = .next (rbump R.CW_BAD_COUNT h t)) ∧
    (∀ b, b.length = 64 → (¬ may → exec (.commandWindowWrite h b) s = .next (rbump R.HOST_DENIED_COUNT 0 t)) ∧
      (may → 256 ≤ p.queue.length + p.running.length → exec (.commandWindowWrite h b) s = .next (rbump R.CW_FULL_COUNT h t)) ∧
      (may → p.queue.length + p.running.length < 256 →
        (isReady t = true → exec (.commandWindowWrite h b) s =
          .next (skipUnknown h (p.queue.length + 1) (setHost h { p with queue := p.queue ++ [⟨b⟩] } t))) ∧
        (isReady t = false → exec (.commandWindowWrite h b) s = .next (completeWith h (cmdOf b) stUnsupported t)))) ∧
    (∀ v, exec (.cqHeadWrite h v) s = .next (writeAll h (rset R.CQ_HEAD_HEAD h (v % 65536) t))) ∧
    (∀ v, cqFree t h = false → exec (.cqConfigWrite h (R.CQ_BASE_ADDR.addr h) v) s = .next t) ∧
    (∀ v, cqFree t h = true → exec (.cqConfigWrite h (R.CQ_BASE_ADDR.addr h) v) s =
      .next (cqRestart h (rset R.CQ_BASE_ADDR h (v % 2 ^ 64 / 64 * 64) t))) ∧
    (∀ v, 8 ≤ v → v ≤ 16 → cqFree t h = true →
      exec (.cqConfigWrite h (R.CQ_CFG_CQ_LOG2.addr h) v) s = .next (cqRestart h (rset R.CQ_CFG_CQ_LOG2 h v t)))) ∧
  (∀ (s : State) (h : Nat), running s = true → h ≤ 1 → exec (.commandCompletion h) s = .next (writeCompletion h s) ∧
    ((hostPort s h).heldCpl = [] → writeCompletion h s = s) ∧ (cqRoom s h = false → writeCompletion h s = s)) ∧
  (∀ (s : State) (h : Nat) (c : Cmd) (rest : List HostCmd) (t : State), Begins s h 0x02 neverBusy c rest t →
    (c.restZero 0 = true → LeavesCmd (.stageDiscard h) s h rest (completeWith h c stOK (discardStaged (hostSource h) c.tag t))) ∧
    (c.restZero 0 = false → LeavesCmd (.stageDiscard h) s h rest (completeWith h c stIllegal t))) ∧
  (∀ (s : State) (h : Nat) (c : Cmd) (rest : List HostCmd) (t : State), Begins s h 0x01 neverBusy c rest t →
    let u := completeWith h c stOK t
    (c.arg 0 1 ≤ 1 → c.restZero 1 = true →
      LeavesCmd (.reset h) s h rest (setHost h { hostPort u h with resetAt := some (c.arg 0 1 == 0, u.clk.now + 1000000) } u)) ∧
    (1 < c.arg 0 1 ∨ c.restZero 1 = false → LeavesCmd (.reset h) s h rest (completeWith h c stIllegal t))) ∧
  ∀ (s : State) (h off : Nat) (b : List Byte),
    let t := if mailboxAddr off then s else wakeHall s
    (barsOn s h = true → off < 0x1C00000 → b.length = 4 ∨ b.length = 8 → off % b.length = 0 → rget t R.START_STATUS_PHASE 0 ≠ 5 →
      (mayWrite t h off = true → exec (.registerWrite h off b) s = .next (writeReg h (hostSource h) off b t)) ∧
      (mayWrite t h off = false → exec (.registerWrite h off b) s = .next (rbump R.HOST_DENIED_COUNT 0 t))) ∧
    (barsOn s h = false → exec (.registerWrite h off b) s = .next s)

/-! ## Time, epochs and start-up -/

/-- R16, R17, R21, R496: how time is kept and epochs turn. A port that keeps time sends it; an edge of the external pulse per
second sets the slew of a locked grandmaster that follows it; without time for 100 ms a follower holds over, and a new
grandmaster steps to the latest peer and is locked. What is staged is frozen 2 µs before the boundary, once, and takes effect at
it. The model's own choices in it: log 22, 107, 147. -/
def Obligations.TimeAndEpochsTurn : Prop :=
  ∀ s : State, running s = true →
    (∀ port arr b, exec (.time port arr b) s = .next (timeIn port arr b s)) ∧
    (∀ port arr b, timePort (atTime arr s) port = false → exec (.time port arr b) s = .next (atTime arr s)) ∧
    (∀ port, timePort s port = true → exec (.timeSyncSend port) s = .next (sendPlain port 3 false (timePayload s port) s)) ∧
    (∀ port, timePort s port = false → exec (.timeSyncSend port) s = .next s) ∧
    (∀ arr, let t := atTime arr s
      (timeRole t = 1 → rbit t R.TIME_CTL_EXT_PPS_EN 0 = true → timeState t = 2 →
        exec (.ppsInEdge arr) s = .next (showOffset (ppsOffset arr) { t with clk := { t.clk with slew := ppsOffset arr } })) ∧
      (timeRole t ≠ 1 ∨ timeState t ≠ 2 → exec (.ppsInEdge arr) s = .next t)) ∧
    (let at_ := ceilDiv s.clk.now secondNs * secondNs;
      timeState s = 2 → at_ ≤ s.clk.nextB → exec .ppsOutPulse s =
        .next (emit (.pin .ppsOut false) (atTime (at_ + 1000) (emit (.pin .ppsOut true) (atTime at_ s))))) ∧
    (timeState s ≠ 2 → exec .ppsOutPulse s = .next s) ∧
    (timeRole s = 0 → timeState s = 1 ∨ timeState s = 2 → ∀ t, t = atTime (s.clk.lastSource + 100000001) s →
      exec .holdoverEntry s =
        .next (setTimeState 3 (rset R.TIME_STATUS_SYNC_PORT 0 0xFF { t with clk := { t.clk with hops := 0xFF, slew := 0 } }))) ∧
    (∀ at_, s.clk.acqSince = some at_ → timeRole s = 1 →
      let t := atTime (at_ + 100000000) s
      let locked (u : State) : State := setTimeState 2 (rset R.TIME_STATUS_OFFSET_NS 0 0 (rset R.TIME_STATUS_SYNC_PORT 0 0xFF
        { u with clk := { u.clk with acqSince := none, hops := 0, gmNode := nodeSelf u, everLocked := true } }))
      (latestPeer t = none → exec .acquiringEnd s = .next (locked t)) ∧
      ∀ p, latestPeer t = some p → exec .acquiringEnd s = .next (locked (stepForward (peerNow t p) p t))) ∧
    (s.clk.cutoff = false → exec .stageCutoff s = .next (cutoffNow (atTime (s.clk.nextB - 2000) s))) ∧
    (s.clk.cutoff = true → exec .stageCutoff s = .next s) ∧
    (let t := retireBefore s;
      (t.clk.cutoff = true → exec .epochBoundary s = .next (boundaryAll (atTime t.clk.nextB t))) ∧
      (t.clk.cutoff = false → let u := cutoffNow (atTime (t.clk.nextB - 2000) t)
        exec .epochBoundary s = .next (boundaryAll (atTime u.clk.nextB u))))

/-- R460, R462, R465 to R467, R470, R478, R480, R482, R493, R510, R511, R518: what starts, resets and stops the switch. The
self-test ends the test phase, a port trains or keeps its BARs disabled with the cause, and `READY` is entered when the start is
done; a warm reset, a heartbeat loss, a stalled trial, an SRAM error, `RESET_N` and the rails each restart it with their cause;
without the standby group nothing is kept and time stops. The model's own choices in it: log 22, 46, 118, 123, 124, 126, 130,
134. -/
def Obligations.StartsAndResetsLeaveState : Prop :=
  (∀ s : State, running s = true →
    let b := ensureBoot s
    (∀ m, rget b R.START_STATUS_PHASE 0 = 1 → b.boot.bootDone = true → exec (.selftestDone m) s = .next (raiseIrq 7 (selfTest m b))) ∧
    (∀ m, rget b R.START_STATUS_PHASE 0 ≠ 1 → exec (.selftestDone m) s = .next b) ∧
    (∀ h width speed, h ≤ 1 → b.boot.bootDone = true → speed = 32 ∨ speed = 64 →
      let cause := if width < 16 then 2 else if b.boot.hostBad.contains h then 3 else 0
      exec (.hostPortTrained h width speed) s = .next (rset R.HOST_PORT_RATE h (if speed = 32 then 5 else 6) (rset R.HOST_PORT_WIDTH h width
        (rset R.HOST_PORT_CAUSE h cause (rset R.HOST_PORT_BARS_EN h (b2n (cause == 0)) (setHost h { hostPort b h with linkUp := true } b)))))) ∧
    (startDone s = true → waitsLock s = false → exec .startupReady s = .next (enterReady s)) ∧
    (startDone s = false ∨ waitsLock s = true → exec .startupReady s = .next s) ∧
    (∀ at_, s.boot.firstExchange = some at_ → startDone s = true → waitsLock s = true →
      exec .followerReadyTimeout s = .next (enterReady (atTime (at_ + 5000000000) s))) ∧
    (s.pkg.holdup = false → exec .savedSettingsWrite s = .next (each s.boot.savedWant saveRegion s)) ∧
    (s.pkg.holdup = true → exec .savedSettingsWrite s = .next s) ∧
    (∀ at_, resetDue s = some (true, at_) → exec .warmReset s = .next (hostReset true at_ s)) ∧
    (resetDue s = none → rget s R.START_STATUS_PHASE 0 ≠ 5 → exec .warmReset s = .next (takeReset true causeHost false s)) ∧
    (s.boot.mgmtReleased ≠ none → exec .mgmtHeartbeatLoss s = .next (takeReset true causeHeartbeat false s)) ∧
    (onTrial s = true → isReady s = false → exec .trialTimeout s = .next (takeReset true causeTrial true
      (atTime (s.boot.t0 + (if rbit s R.START_STATUS_WARM 0 then 30000000000 else 120000000000)) s))) ∧
    (∀ ns, 10000 ≤ ns → exec (.resetNLow ns) s = .next (takeReset false causeResetN false s)) ∧
    (∀ ns, ns < 10000 → exec (.resetNLow ns) s = .next s) ∧
    exec .shellSramError s = .next (takeReset false causeSram false s)) ∧
  ∀ s : State,
    (let t : State := { s with pkg := { s.pkg with holdup := false, sealed := false }};
      exec (.holdupN true) s = .next t) ∧
    (let t : State := { s with pkg := { s.pkg with holdup := true }};
      (s.pkg.sealed = true → exec (.holdupN false) s = .next t) ∧ (s.pkg.sealed = false → exec (.holdupN false) s = .next (sealAll t))) ∧
    (s.pkg.phase = .start ∨ s.pkg.phase = .ready → exec .pwrokFall s = .next (mainStopped .standby s)) ∧
    (s.pkg.phase = .tripped → exec .pwrokFall s = .next { s with pkg := { s.pkg with pwrok := false } }) ∧
    (let t : State := { s with pkg := { s.pkg with pwrok := true }};
      (s.pkg.phase = .standby → exec .pwrokRise s = .next (takeReset false causePower false t)) ∧
      (s.pkg.phase = .tripped → s.pkg.thermtrip = false → s.pkg.pwrok = false →
        exec .pwrokRise s = .next (takeReset false causeThermal false t)) ∧
      (s.pkg.phase = .tripped → s.pkg.thermtrip = true → exec .pwrokRise s = .next s)) ∧
    (s.pkg.phase = .off → exec .standbyGroupUp s =
      .next { s with clk := Clock.reset, pkg := { s.pkg with phase := .standby, pwrok := false } } ∧ exec .standbyGroupDown s = .next s) ∧
    (s.pkg.phase ≠ .off → exec .standbyGroupUp s = .next s ∧ exec .standbyGroupDown s = .next { mainStopped .off s with clk := Clock.reset })

/-! ## The whole block -/

/-- A step takes the command at the front of the queue and executes it on the state with the queue's rest; on an empty queue one
nanosecond passes, and a due reset is taken (the model's choice, log 2). No word of the opcode table spells a command, so a word
put at the front of the queue leaves the state as it is. The model's own choices in it: log 2. -/
def Obligations.StepRunsFrontCommand : Prop :=
  (∀ (c : Instr) (s : State), step { s with pending := c :: s.pending } = exec c s) ∧
  (∀ s : State, s.pending = [] → step s = .next (tick s)) ∧
  (∀ s : State, s.pending = [] → running s = true → resetDue s = none → s.clk.slew = 0 → s.clk.now + 1 < 2 ^ 64 →
    step s = .next { s with clk := { s.clk with now := s.clk.now + 1 } }) ∧
  ∀ (s : State) (nbits w : Nat), decodeTableWord nbits w = none ∧ s.withFetchWord nbits w = s

/-- R17, R398, R462, R465, R486: the machine after reset, which is a cold start at its beginning: fabric time and the epoch
count stand at 0 in `FREE`, Stair 0 reads zero, nobody owns the switch, every port is down, no instance, table, extent or stream
is there, RWS fields hold the reset values of their columns, and nothing waits. Its memories are in canonical form. The model's
own choices in it: log 154. -/
def Obligations.ResetStateHoldsValues : Prop :=
  let s := State.reset
  Canonical s ∧ s.pending = [] ∧ running s = true ∧ s.clk.now = 0 ∧ epochNow s = 0 ∧ timeState s = 0 ∧
  rget s R.START_STATUS_PHASE 0 = 0 ∧ rget s R.HOST_OWN_OWNER 0 = 0 ∧ (∀ n, n < 128 → lstate s n = 0) ∧
  (∀ a, mread s.pool.mem a 1 = [0#8]) ∧ s.seed.insts = [] ∧ s.seed.strands = [] ∧ s.pool.extents = [] ∧ s.pool.streams = [] ∧
  s.tbl.batches = [] ∧ s.hall.inbox = [] ∧
  rget s R.EPOCH_CFG_EPOCH_LEN_US 0 = 1000 ∧ rget s R.XACT_CFG_REMOTE_TIMEOUT_US 0 = 1000 ∧
  ∀ n, n < 128 → rget s R.LINK_CFG_HOLD_UP_US n = 1000 ∧ rget s R.LINK_CFG_REPLAY_US n = 4

/-- Equal memories are equal data: a step from any state whose byte memories and register file are in canonical form (addresses and keys
strictly rising, nothing listed that reads as what is unlisted) ends in such a state. -/
def Obligations.StepKeepsCanonicalForm : Prop := ∀ s t : State, Canonical s → step s = .next t → Canonical t

/-- Every command of the block, in every state, goes on to a next state, neither fault nor refusal, and leaves the queue of the commands
that wait as it is; so `k` steps from any state with `k` commands in its queue take these `k` commands in their order, first in,
first out, and leave the rest. -/
def Obligations.CommandsLeaveQueueAlone : Prop :=
  (∀ (c : Instr) (s : State), ∃ t, exec c s = .next t ∧ t.pending = s.pending) ∧
  ∀ (l r : List Instr) (s : State), s.pending = l ++ r → ∃ t, runs l.length s = .next t ∧ t.pending = r
end

