-- ==== Sys2Proof/Laws/Compare.lean ====
section
/-! SUPPORT. What `CMP` writes into predicates: the bit of each element, and no other. -/
namespace Sys2Proof.Machine

theorem setTo_bit (p : Pred) {n : Nat} (b : Bool) {j : Nat} (hj : j < 16) :
    (Pred.setTo p n b).getLsbD j = if j = n then b else p.getLsbD j := by
  have h1 : (1#16 <<< n).getLsbD j = decide (j = n) := by
    rw [BitVec.getLsbD_shiftLeft, BitVec.getLsbD_one]
    by_cases h : j = n <;> by_cases h2 : j < n <;> simp [h, h2, hj] <;> omega
  unfold Pred.setTo
  cases b
  · simp only [Bool.false_eq_true, if_false, BitVec.getLsbD_and, BitVec.getLsbD_not, h1, hj, decide_true, Bool.true_and]
    by_cases h : j = n <;> simp [h]
  · simp only [if_true, BitVec.getLsbD_or, h1]
    by_cases h : j = n <;> simp [h]

theorem putP_pr (y : Strand) {d q : Nat} (v : Pred) (hl : y.p.length = 8) (hd : d < 8) :
    (y.putP d v).pr q = if q = d then v else y.pr q := by
  unfold Strand.putP Strand.pr
  by_cases h : q = d
  · subst h; simp [List.getD, hl, hd]
  · simp [List.getD, h, List.getElem?_set_ne (Ne.symm h)]

/-- The element whose result bit `j` of predicate `q` holds, and whether it holds one (R172). -/
def cmpOwner (f : Fmt) (d q j : Nat) : Nat := if f.elems = 8 then j / 2 else if f.elems = 16 then j else 2 * j + (q - d)
def cmpMine (f : Fmt) (d q : Nat) : Bool := decide (q = d) || (f.elems == 32 && q == d + 1)

/-- One element's write. -/
def cmpStep (f : Fmt) (g : Pred) (d : Nat) (r : Nat → Bool) (y : Strand) (e : Nat) : Strand :=
  if govOn f g e then
    match f.elems with
    | 8 => y.putP d (Pred.setTo (Pred.setTo (y.pr d) (2 * e) (r e)) (2 * e + 1) (r e))
    | 16 => y.putP d (Pred.setTo (y.pr d) e (r e))
    | _ => let q := d + e % 2; y.putP q (Pred.setTo (y.pr q) (e / 2) (r e))
  else y

theorem elems_cases (f : Fmt) : f.elems = 8 ∨ f.elems = 16 ∨ f.elems = 32 := by cases f <;> simp [Fmt.elems]

theorem cmpStep_bit (f : Fmt) (g : Pred) {d : Nat} (r : Nat → Bool) (y : Strand) (e : Nat) (hl : y.p.length = 8) (hd : d < 7)
    {q j : Nat} (hj : j < 16) :
    ((cmpStep f g d r y e).pr q).getLsbD j =
      if cmpMine f d q = true ∧ cmpOwner f d q j = e ∧ govOn f g e = true then r e else (y.pr q).getLsbD j := by
  unfold cmpStep
  by_cases hg : govOn f g e = true
  · rw [if_pos hg]
    rcases elems_cases f with h | h | h
    · simp only [h, cmpMine, cmpOwner, hg]
      rw [putP_pr _ _ hl (by omega)]
      by_cases hq : q = d
      · subst hq
        simp only [if_true, setTo_bit _ _ hj]
        by_cases h1 : j = 2 * e + 1
        · simp [h1]; intro h2; omega
        · by_cases h2 : j = 2 * e
          · simp [h2]
          · simp only [h1, h2, if_false]; rw [if_neg]; simp; omega
      · simp [hq]
    · simp only [h, cmpMine, cmpOwner, hg]
      rw [putP_pr _ _ hl (by omega)]
      by_cases hq : q = d
      · subst hq
        simp only [if_true, setTo_bit _ _ hj]
        by_cases h1 : j = e <;> simp [h1]
      · simp [hq]
    · simp only [h, cmpMine, cmpOwner, hg]
      rw [putP_pr _ _ hl (by omega)]
      by_cases hq : q = d + e % 2
      · subst hq
        simp only [if_true, setTo_bit _ _ hj]
        by_cases h1 : j = e / 2
        · rw [if_pos h1, if_pos]
          refine ⟨?_, ?_, trivial⟩
          · rcases Nat.mod_two_eq_zero_or_one e with h2 | h2 <;> simp [h2]
          · simp; omega
        · rw [if_neg h1, if_neg]
          rintro ⟨-, h2, -⟩
          simp at h2
          omega
      · rw [if_neg hq, if_neg]
        rintro ⟨h2, h3, -⟩
        simp at h2 h3
        omega
  · rw [if_neg hg, if_neg]
    rintro ⟨-, -, h⟩
    exact hg h

theorem cmpStep_rest (f : Fmt) (g : Pred) (d : Nat) (r : Nat → Bool) (y : Strand) (e : Nat) :
    cmpStep f g d r y e = { y with p := (cmpStep f g d r y e).p } ∧ (cmpStep f g d r y e).p.length = y.p.length := by
  unfold cmpStep
  split
  · split <;> simp [Strand.putP]
  · exact ⟨rfl, rfl⟩

theorem cmpFold_bit (f : Fmt) (g : Pred) {d : Nat} (r : Nat → Bool) (l : List Nat) (y : Strand) (hl : y.p.length = 8) (hd : d < 7)
    {q j : Nat} (hj : j < 16) :
    ((l.foldl (cmpStep f g d r) y).pr q).getLsbD j =
        (if cmpMine f d q = true ∧ cmpOwner f d q j ∈ l ∧ govOn f g (cmpOwner f d q j) = true then r (cmpOwner f d q j)
          else (y.pr q).getLsbD j)
      ∧ l.foldl (cmpStep f g d r) y = { y with p := (l.foldl (cmpStep f g d r) y).p }
      ∧ (l.foldl (cmpStep f g d r) y).p.length = 8 := by
  induction l generalizing y with
  | nil => simp [hl]
  | cons e l ih =>
    have hs := cmpStep_rest f g d r y e
    have h8 : (cmpStep f g d r y e).p.length = 8 := hs.2.trans hl
    obtain ⟨i1, i2, i3⟩ := ih _ h8
    rw [List.foldl_cons]
    refine ⟨?_, ?_, i3⟩
    · rw [i1, cmpStep_bit f g r y e hl hd hj]
      by_cases h1 : cmpMine f d q = true <;> by_cases h2 : cmpOwner f d q j = e
      · subst h2
        by_cases h3 : govOn f g (cmpOwner f d q j) = true <;> by_cases h4 : cmpOwner f d q j ∈ l <;> simp [h1, h3, h4]
      · simp [h1, h2]
      · simp [h1]
      · simp [h1]
    · rw [i2]
      have hz := hs.1
      simp only [Strand.mk.injEq]
      refine ⟨?_, ?_, ?_, trivial, ?_, ?_, ?_, ?_, ?_, ?_, ?_, ?_⟩ <;> rw [hz]

theorem cmpWrite_bit (f : Fmt) (g : Pred) {d : Nat} (r : Nat → Bool) (x : Strand) (hl : x.p.length = 8) (hd : d < 7)
    {q j : Nat} (hj : j < 16) :
    ((cmpWrite f g d r x).pr q).getLsbD j =
        (if cmpMine f d q = true ∧ govOn f g (cmpOwner f d q j) = true then r (cmpOwner f d q j) else (x.pr q).getLsbD j)
      ∧ cmpWrite f g d r x = { x with p := (cmpWrite f g d r x).p } ∧ (cmpWrite f g d r x).p.length = 8 := by
  have h := cmpFold_bit f g r (upTo f.elems) x hl hd (q := q) hj
  have e : cmpWrite f g d r x = (upTo f.elems).foldl (cmpStep f g d r) x := rfl
  rw [e]
  refine ⟨h.1.trans ?_, h.2⟩
  by_cases hm : cmpMine f d q = true
  · have : cmpOwner f d q j ∈ upTo f.elems := by
      rw [List.mem_range]
      unfold cmpOwner
      unfold cmpMine at hm
      rcases elems_cases f with h | h | h <;> simp [h] at hm ⊢ <;> omega
    simp [this]
  · simp [hm]

end Sys2Proof.Machine
end

