-- ==== Sys2Proof/Laws/Exec.lean ====
section
/-! SUPPORT. The meaning that `exec` calls for each command. -/
namespace Sys2Proof.Machine

theorem exec_movePassEnd (g : Nat) (s : State) : exec (.movePassEnd g) s = execMovePassEnd g s := rfl
theorem exec_moveHoldTimeout (g : Nat) (s : State) : exec (.moveHoldTimeout g) s = execMoveHoldTimeout g s := rfl
theorem exec_moveSourceFree (g : Nat) (s : State) : exec (.moveSourceFree g) s = execMoveSourceFree g s := rfl
theorem exec_clockPointPauseEnd (gal : Nat) (s : State) : exec (.clockPointPauseEnd gal) s = execClockPointPauseEnd gal s := rfl
theorem exec_galleryIdleSleep (gal : Nat) (s : State) : exec (.galleryIdleSleep gal) s = execGalleryIdleSleep gal s := rfl
theorem exec_stackSelfRefresh (stack : Nat) (s : State) : exec (.stackSelfRefresh stack) s = execStackSelfRefresh stack s := rfl
theorem exec_laneSleep (port : Nat) (s : State) : exec (.laneSleep port) s = execLaneSleep port s := rfl
theorem exec_slotWake (kind : Nat) (unit : Nat) (s : State) : exec (.slotWake kind unit) s = execSlotWake kind unit s := rfl
theorem exec_unitWakeDone (kind : Nat) (unit : Nat) (s : State) : exec (.unitWakeDone kind unit) s = execUnitWakeDone kind unit s := rfl
theorem exec_galleryZeroingDone (gal : Nat) (s : State) : exec (.galleryZeroingDone gal) s = execGalleryZeroingDone gal s := rfl
theorem exec_time (port : Nat) (arr : Nat) (bytes : List Byte) (s : State) : exec (.time port arr bytes) s = execTime port arr bytes s := rfl
theorem exec_timeSyncSend (port : Nat) (s : State) : exec (.timeSyncSend port) s = execTimeSyncSend port s := rfl
theorem exec_slotStart (slot : Nat) (s : State) : exec (.slotStart slot) s = execSlotStart slot s := rfl
theorem exec_ingressFrame (port : Nat) (frame : List Byte) (s : State) : exec (.ingressFrame port frame) s = execIngressFrame port frame s := rfl
theorem exec_ethernetFrame (port : Nat) (dst : Nat) (srcMac : Nat) (etype : Nat) (bytes : List Byte) (fcs : Bool) (s : State) : exec (.ethernetFrame port dst srcMac etype bytes fcs) s = execEthernetFrame port dst srcMac etype bytes fcs s := rfl
theorem exec_load (id : Nat) (s : State) : exec (.load id) s = execLoad id s := rfl
theorem exec_store (id : Nat) (s : State) : exec (.store id) s = execStore id s := rfl
theorem exec_ofStoreRelease (id : Nat) (s : State) : exec (.ofStoreRelease id) s = execOfStoreRelease id s := rfl
theorem exec_atomic (id : Nat) (s : State) : exec (.atomic id) s = execAtomic id s := rfl
theorem exec_answerEntryExpire (src : Nat) (tag : Nat) (s : State) : exec (.answerEntryExpire src tag) s = execAnswerEntryExpire src tag s := rfl
theorem exec_bulkPut (id : Nat) (s : State) : exec (.bulkPut id) s = execBulkPut id s := rfl
theorem exec_bulkGet (id : Nat) (s : State) : exec (.bulkGet id) s = execBulkGet id s := rfl
theorem exec_bulkPutMasked (id : Nat) (s : State) : exec (.bulkPutMasked id) s = execBulkPutMasked id s := rfl
theorem exec_bulkAtomic (id : Nat) (s : State) : exec (.bulkAtomic id) s = execBulkAtomic id s := rfl
theorem exec_trackerAnswer (id : Nat) (s : State) : exec (.trackerAnswer id) s = execTrackerAnswer id s := rfl
theorem exec_trackerTimeout (req : Nat) (s : State) : exec (.trackerTimeout req) s = execTrackerTimeout req s := rfl
theorem exec_caps (port : Nat) (word : Nat) (s : State) : exec (.caps port word) s = execCaps port word s := rfl
theorem exec_launch (id : Nat) (s : State) : exec (.launch id) s = execLaunch id s := rfl
theorem exec_galleryDispatch (gal : Nat) (s : State) : exec (.galleryDispatch gal) s = execGalleryDispatch gal s := rfl
theorem exec_instanceEnd (inst : Nat) (s : State) : exec (.instanceEnd inst) s = execInstanceEnd inst s := rfl
theorem exec_instanceTimeLimit (inst : Nat) (s : State) : exec (.instanceTimeLimit inst) s = execInstanceTimeLimit inst s := rfl
theorem exec_launchDeadline (req : Nat) (s : State) : exec (.launchDeadline req) s = execLaunchDeadline req s := rfl
theorem exec_strandFabricAnswer (k : Nat) (n : Nat) (s : State) : exec (.strandFabricAnswer k n) s = execStrandFabricAnswer k n s := rfl
theorem exec_waiteRelease (k : Nat) (s : State) : exec (.waiteRelease k) s = execWaiteRelease k s := rfl
theorem exec_nop (k : Nat) (s : State) : exec (.nop k) s = execNop k s := rfl
theorem exec_br (k : Nat) (s : State) : exec (.br k) s = execBr k s := rfl
theorem exec_loop (k : Nat) (s : State) : exec (.loop k) s = execLoop k s := rfl
theorem exec_waite (k : Nat) (s : State) : exec (.waite k) s = execWaite k s := rfl
theorem exec_bar (k : Nat) (s : State) : exec (.bar k) s = execBar k s := rfl
theorem exec_fence (k : Nat) (s : State) : exec (.fence k) s = execFence k s := rfl
theorem exec_raise (k : Nat) (s : State) : exec (.raise k) s = execRaise k s := rfl
theorem exec_halt (k : Nat) (s : State) : exec (.halt k) s = execHalt k s := rfl
theorem exec_recv (k : Nat) (s : State) : exec (.recv k) s = execRecv k s := rfl
theorem exec_send (k : Nat) (s : State) : exec (.send k) s = execSend k s := rfl
theorem exec_fwd (k : Nat) (s : State) : exec (.fwd k) s = execFwd k s := rfl
theorem exec_grant (k : Nat) (s : State) : exec (.grant k) s = execGrant k s := rfl
theorem exec_ldv (k : Nat) (s : State) : exec (.ldv k) s = execLdv k s := rfl
theorem exec_stv (k : Nat) (s : State) : exec (.stv k) s = execStv k s := rfl
theorem exec_lds (k : Nat) (s : State) : exec (.lds k) s = execLds k s := rfl
theorem exec_sts (k : Nat) (s : State) : exec (.sts k) s = execSts k s := rfl
theorem exec_gath (k : Nat) (s : State) : exec (.gath k) s = execGath k s := rfl
theorem exec_scat (k : Nat) (s : State) : exec (.scat k) s = execScat k s := rfl
theorem exec_atom (k : Nat) (s : State) : exec (.atom k) s = execAtom k s := rfl
theorem exec_pin (k : Nat) (s : State) : exec (.pin k) s = execPin k s := rfl
theorem exec_pinRelease (k : Nat) (s : State) : exec (.pinRelease k) s = execPinRelease k s := rfl
theorem exec_add (k : Nat) (s : State) : exec (.add k) s = execAdd k s := rfl
theorem exec_sub (k : Nat) (s : State) : exec (.sub k) s = execSub k s := rfl
theorem exec_mul (k : Nat) (s : State) : exec (.mul k) s = execMul k s := rfl
theorem exec_fma (k : Nat) (s : State) : exec (.fma k) s = execFma k s := rfl
theorem exec_div (k : Nat) (s : State) : exec (.div k) s = execDiv k s := rfl
theorem exec_max (k : Nat) (s : State) : exec (.max k) s = execMax k s := rfl
theorem exec_min (k : Nat) (s : State) : exec (.min k) s = execMin k s := rfl
theorem exec_cmp (k : Nat) (s : State) : exec (.cmp k) s = execCmp k s := rfl
theorem exec_sel (k : Nat) (s : State) : exec (.sel k) s = execSel k s := rfl
theorem exec_and (k : Nat) (s : State) : exec (.and k) s = execAnd k s := rfl
theorem exec_or (k : Nat) (s : State) : exec (.or k) s = execOr k s := rfl
theorem exec_xor (k : Nat) (s : State) : exec (.xor k) s = execXor k s := rfl
theorem exec_andn (k : Nat) (s : State) : exec (.andn k) s = execAndn k s := rfl
theorem exec_not (k : Nat) (s : State) : exec (.not k) s = execNot k s := rfl
theorem exec_shl (k : Nat) (s : State) : exec (.shl k) s = execShl k s := rfl
theorem exec_shr (k : Nat) (s : State) : exec (.shr k) s = execShr k s := rfl
theorem exec_sar (k : Nat) (s : State) : exec (.sar k) s = execSar k s := rfl
theorem exec_mov (k : Nat) (s : State) : exec (.mov k) s = execMov k s := rfl
theorem exec_bcast (k : Nat) (s : State) : exec (.bcast k) s = execBcast k s := rfl
theorem exec_bcasti (k : Nat) (s : State) : exec (.bcasti k) s = execBcasti k s := rfl
theorem exec_iota (k : Nat) (s : State) : exec (.iota k) s = execIota k s := rfl
theorem exec_ins (k : Nat) (s : State) : exec (.ins k) s = execIns k s := rfl
theorem exec_ext (k : Nat) (s : State) : exec (.ext k) s = execExt k s := rfl
theorem exec_sadd (k : Nat) (s : State) : exec (.sadd k) s = execSadd k s := rfl
theorem exec_ssub (k : Nat) (s : State) : exec (.ssub k) s = execSsub k s := rfl
theorem exec_smul (k : Nat) (s : State) : exec (.smul k) s = execSmul k s := rfl
theorem exec_sand (k : Nat) (s : State) : exec (.sand k) s = execSand k s := rfl
theorem exec_sor (k : Nat) (s : State) : exec (.sor k) s = execSor k s := rfl
theorem exec_sxor (k : Nat) (s : State) : exec (.sxor k) s = execSxor k s := rfl
theorem exec_sshl (k : Nat) (s : State) : exec (.sshl k) s = execSshl k s := rfl
theorem exec_sshr (k : Nat) (s : State) : exec (.sshr k) s = execSshr k s := rfl
theorem exec_ssar (k : Nat) (s : State) : exec (.ssar k) s = execSsar k s := rfl
theorem exec_smin (k : Nat) (s : State) : exec (.smin k) s = execSmin k s := rfl
theorem exec_smax (k : Nat) (s : State) : exec (.smax k) s = execSmax k s := rfl
theorem exec_sminu (k : Nat) (s : State) : exec (.sminu k) s = execSminu k s := rfl
theorem exec_smaxu (k : Nat) (s : State) : exec (.smaxu k) s = execSmaxu k s := rfl
theorem exec_slt (k : Nat) (s : State) : exec (.slt k) s = execSlt k s := rfl
theorem exec_sltu (k : Nat) (s : State) : exec (.sltu k) s = execSltu k s := rfl
theorem exec_seq (k : Nat) (s : State) : exec (.seq k) s = execSeq k s := rfl
theorem exec_smov (k : Nat) (s : State) : exec (.smov k) s = execSmov k s := rfl
theorem exec_slih (k : Nat) (s : State) : exec (.slih k) s = execSlih k s := rfl
theorem exec_pand (k : Nat) (s : State) : exec (.pand k) s = execPand k s := rfl
theorem exec_por (k : Nat) (s : State) : exec (.por k) s = execPor k s := rfl
theorem exec_pxor (k : Nat) (s : State) : exec (.pxor k) s = execPxor k s := rfl
theorem exec_pandn (k : Nat) (s : State) : exec (.pandn k) s = execPandn k s := rfl
theorem exec_pnot (k : Nat) (s : State) : exec (.pnot k) s = execPnot k s := rfl
theorem exec_pset (k : Nat) (s : State) : exec (.pset k) s = execPset k s := rfl
theorem exec_pfrom (k : Nat) (s : State) : exec (.pfrom k) s = execPfrom k s := rfl
theorem exec_pto (k : Nat) (s : State) : exec (.pto k) s = execPto k s := rfl
theorem exec_pcnt (k : Nat) (s : State) : exec (.pcnt k) s = execPcnt k s := rfl
theorem exec_neg (k : Nat) (s : State) : exec (.neg k) s = execNeg k s := rfl
theorem exec_abs (k : Nat) (s : State) : exec (.abs k) s = execAbs k s := rfl
theorem exec_sqrt (k : Nat) (s : State) : exec (.sqrt k) s = execSqrt k s := rfl
theorem exec_acc (k : Nat) (s : State) : exec (.acc k) s = execAcc k s := rfl
theorem exec_accm (k : Nat) (s : State) : exec (.accm k) s = execAccm k s := rfl
theorem exec_clra (k : Nat) (s : State) : exec (.clra k) s = execClra k s := rfl
theorem exec_rnd (k : Nat) (s : State) : exec (.rnd k) s = execRnd k s := rfl
theorem exec_pack (k : Nat) (s : State) : exec (.pack k) s = execPack k s := rfl
theorem exec_unpk (k : Nat) (s : State) : exec (.unpk k) s = execUnpk k s := rfl
theorem exec_topk (k : Nat) (s : State) : exec (.topk k) s = execTopk k s := rfl
theorem exec_cvt (k : Nat) (s : State) : exec (.cvt k) s = execCvt k s := rfl
theorem exec_xpnd (k : Nat) (s : State) : exec (.xpnd k) s = execXpnd k s := rfl
theorem exec_colSeg (id : Nat) (s : State) : exec (.colSeg id) s = execColSeg id s := rfl
theorem exec_colPart (id : Nat) (s : State) : exec (.colPart id) s = execColPart id s := rfl
theorem exec_colResult (id : Nat) (s : State) : exec (.colResult id) s = execColResult id s := rfl
theorem exec_colGrant (id : Nat) (s : State) : exec (.colGrant id) s = execColGrant id s := rfl
theorem exec_colAbort (id : Nat) (s : State) : exec (.colAbort id) s = execColAbort id s := rfl
theorem exec_colNoProgress (c : Nat) (s : State) : exec (.colNoProgress c) s = execColNoProgress c s := rfl
theorem exec_colRearm (c : Nat) (s : State) : exec (.colRearm c) s = execColRearm c s := rfl
theorem exec_straggler (c : Nat) (sender : Nat) (s : State) : exec (.straggler c sender) s = execStraggler c sender s := rfl
theorem exec_gatherBatch (id : Nat) (s : State) : exec (.gatherBatch id) s = execGatherBatch id s := rfl
theorem exec_gatherDirectoryDone (b : Nat) (s : State) : exec (.gatherDirectoryDone b) s = execGatherDirectoryDone b s := rfl
theorem exec_gatherRowFetch (b : Nat) (share : Nat) (row : Nat) (s : State) : exec (.gatherRowFetch b share row) s = execGatherRowFetch b share row s := rfl
theorem exec_gatherBatchEnd (b : Nat) (s : State) : exec (.gatherBatchEnd b) s = execGatherBatchEnd b s := rfl
theorem exec_gatherBatchDeadline (b : Nat) (s : State) : exec (.gatherBatchDeadline b) s = execGatherBatchDeadline b s := rfl
theorem exec_rowPut (id : Nat) (s : State) : exec (.rowPut id) s = execRowPut id s := rfl
theorem exec_rowFlip (tbl : Nat) (s : State) : exec (.rowFlip tbl) s = execRowFlip tbl s := rfl
theorem exec_scatterAdd (id : Nat) (s : State) : exec (.scatterAdd id) s = execScatterAdd id s := rfl
theorem exec_filterTopk (id : Nat) (s : State) : exec (.filterTopk id) s = execFilterTopk id s := rfl
theorem exec_tablePin (id : Nat) (s : State) : exec (.tablePin id) s = execTablePin id s := rfl
theorem exec_tableUnpin (id : Nat) (s : State) : exec (.tableUnpin id) s = execTableUnpin id s := rfl
theorem exec_pinHoldLapse (tbl : Nat) (ver : Nat) (peer : Nat) (s : State) : exec (.pinHoldLapse tbl ver peer) s = execPinHoldLapse tbl ver peer s := rfl
theorem exec_tableSlotFree (tbl : Nat) (tslot : Nat) (s : State) : exec (.tableSlotFree tbl tslot) s = execTableSlotFree tbl tslot s := rfl
theorem exec_tableReady (tbl : Nat) (s : State) : exec (.tableReady tbl) s = execTableReady tbl s := rfl
theorem exec_tierAnswer (op : Nat) (tray : Nat) (ok : Bool) (s : State) : exec (.tierAnswer op tray ok) s = execTierAnswer op tray ok s := rfl
theorem exec_tierAttemptTimeout (op : Nat) (s : State) : exec (.tierAttemptTimeout op) s = execTierAttemptTimeout op s := rfl
theorem exec_trayLatencyWindow (set : Nat) (tray : Nat) (ns : Nat) (s : State) : exec (.trayLatencyWindow set tray ns) s = execTrayLatencyWindow set tray ns s := rfl
theorem exec_traySlowClear (set : Nat) (tray : Nat) (s : State) : exec (.traySlowClear set tray) s = execTraySlowClear set tray s := rfl
theorem exec_wsPrefetchPoint (p : Nat) (s : State) : exec (.wsPrefetchPoint p) s = execWsPrefetchPoint p s := rfl
theorem exec_wsCopyComplete (p : Nat) (s : State) : exec (.wsCopyComplete p) s = execWsCopyComplete p s := rfl
theorem exec_wsStoreAnswer (id : Nat) (s : State) : exec (.wsStoreAnswer id) s = execWsStoreAnswer id s := rfl
theorem exec_wsFlagAnswer (id : Nat) (s : State) : exec (.wsFlagAnswer id) s = execWsFlagAnswer id s := rfl
theorem exec_weightLate (p : Nat) (s : State) : exec (.weightLate p) s = execWeightLate p s := rfl
theorem exec_extGrant (h : Nat) (s : State) : exec (.extGrant h) s = execExtGrant h s := rfl
theorem exec_extRevoke (h : Nat) (s : State) : exec (.extRevoke h) s = execExtRevoke h s := rfl
theorem exec_fenceConfirmed (e : Nat) (s : State) : exec (.fenceConfirmed e) s = execFenceConfirmed e s := rfl
theorem exec_drainDone (e : Nat) (s : State) : exec (.drainDone e) s = execDrainDone e s := rfl
theorem exec_drainTimeout (e : Nat) (s : State) : exec (.drainTimeout e) s = execDrainTimeout e s := rfl
theorem exec_scrubDone (e : Nat) (s : State) : exec (.scrubDone e) s = execScrubDone e s := rfl
theorem exec_leaseRenew (id : Nat) (s : State) : exec (.leaseRenew id) s = execLeaseRenew id s := rfl
theorem exec_leaseExpiry (l : Nat) (s : State) : exec (.leaseExpiry l) s = execLeaseExpiry l s := rfl
theorem exec_streamOpen (h : Nat) (buf : Option (List Byte)) (s : State) : exec (.streamOpen h buf) s = execStreamOpen h buf s := rfl
theorem exec_streamGrow (h : Nat) (buf : Option (List Byte)) (s : State) : exec (.streamGrow h buf) s = execStreamGrow h buf s := rfl
theorem exec_streamHandoff (h : Nat) (buf : Option (List Byte)) (s : State) : exec (.streamHandoff h buf) s = execStreamHandoff h buf s := rfl
theorem exec_streamAccept (h : Nat) (buf : Option (List Byte)) (s : State) : exec (.streamAccept h buf) s = execStreamAccept h buf s := rfl
theorem exec_streamTakeover (h : Nat) (buf : Option (List Byte)) (s : State) : exec (.streamTakeover h buf) s = execStreamTakeover h buf s := rfl
theorem exec_streamClose (h : Nat) (buf : Option (List Byte)) (s : State) : exec (.streamClose h buf) s = execStreamClose h buf s := rfl
theorem exec_streamQuery (h : Nat) (s : State) : exec (.streamQuery h) s = execStreamQuery h s := rfl
theorem exec_ledgerPoll (ctx : Nat) (s : State) : exec (.ledgerPoll ctx) s = execLedgerPoll ctx s := rfl
theorem exec_ledgerCasAnswer (id : Nat) (s : State) : exec (.ledgerCasAnswer id) s = execLedgerCasAnswer id s := rfl
theorem exec_streamPullAnswer (id : Nat) (s : State) : exec (.streamPullAnswer id) s = execStreamPullAnswer id s := rfl
theorem exec_streamAcceptTimeout (ctx : Nat) (s : State) : exec (.streamAcceptTimeout ctx) s = execStreamAcceptTimeout ctx s := rfl
theorem exec_cacheDeclare (id : Nat) (s : State) : exec (.cacheDeclare id) s = execCacheDeclare id s := rfl
theorem exec_cacheRelease (id : Nat) (s : State) : exec (.cacheRelease id) s = execCacheRelease id s := rfl
theorem exec_rdShared (id : Nat) (s : State) : exec (.rdShared id) s = execRdShared id s := rfl
theorem exec_rdOwn (id : Nat) (s : State) : exec (.rdOwn id) s = execRdOwn id s := rfl
theorem exec_upgrade (id : Nat) (s : State) : exec (.upgrade id) s = execUpgrade id s := rfl
theorem exec_wbDirty (id : Nat) (s : State) : exec (.wbDirty id) s = execWbDirty id s := rfl
theorem exec_evictClean (id : Nat) (s : State) : exec (.evictClean id) s = execEvictClean id s := rfl
theorem exec_snoopAnswer (id : Nat) (s : State) : exec (.snoopAnswer id) s = execSnoopAnswer id s := rfl
theorem exec_snoopTimeout (stag : Nat) (s : State) : exec (.snoopTimeout stag) s = execSnoopTimeout stag s := rfl
theorem exec_staleClear (h : Nat) (s : State) : exec (.staleClear h) s = execStaleClear h s := rfl
theorem exec_staleQuery (h : Nat) (s : State) : exec (.staleQuery h) s = execStaleQuery h s := rfl
theorem exec_portSignal (port : Nat) (s : State) : exec (.portSignal port) s = execPortSignal port s := rfl
theorem exec_retrain (port : Nat) (s : State) : exec (.retrain port) s = execRetrain port s := rfl
theorem exec_prbsCheckDone (port : Nat) (pass : Bool) (s : State) : exec (.prbsCheckDone port pass) s = execPrbsCheckDone port pass s := rfl
theorem exec_fullTrainingDone (port : Nat) (settings : List (List Byte)) (s : State) : exec (.fullTrainingDone port settings) s = execFullTrainingDone port settings s := rfl
theorem exec_trainingTimeout (port : Nat) (s : State) : exec (.trainingTimeout port) s = execTrainingTimeout port s := rfl
theorem exec_trainingRetry (port : Nat) (s : State) : exec (.trainingRetry port) s = execTrainingRetry port s := rfl
theorem exec_pairAligned (port : Nat) (s : State) : exec (.pairAligned port) s = execPairAligned port s := rfl
theorem exec_alignmentLost (port : Nat) (s : State) : exec (.alignmentLost port) s = execAlignmentLost port s := rfl
theorem exec_resume (port : Nat) (inc : Nat) (seq : Nat) (s : State) : exec (.resume port inc seq) s = execResume port inc seq s := rfl
theorem exec_holdUpExpiry (port : Nat) (s : State) : exec (.holdUpExpiry port) s = execHoldUpExpiry port s := rfl
theorem exec_flitReceive (port : Nat) (flit : List Byte) (s : State) : exec (.flitReceive port flit) s = execFlitReceive port flit s := rfl
theorem exec_replayTimeout (port : Nat) (s : State) : exec (.replayTimeout port) s = execReplayTimeout port s := rfl
theorem exec_tag (port : Nat) (flit : List Byte) (s : State) : exec (.tag port flit) s = execTag port flit s := rfl
theorem exec_widthAsk (port : Nat) (mask : Nat) (s : State) : exec (.widthAsk port mask) s = execWidthAsk port mask s := rfl
theorem exec_width (port : Nat) (mask : Nat) (s : State) : exec (.width port mask) s = execWidth port mask s := rfl
theorem exec_offer (port : Nat) (keyId : Nat) (bytes : List Byte) (s : State) : exec (.offer port keyId bytes) s = execOffer port keyId bytes s := rfl
theorem exec_accept (port : Nat) (keyId : Nat) (bytes : List Byte) (s : State) : exec (.accept port keyId bytes) s = execAccept port keyId bytes s := rfl
theorem exec_done (port : Nat) (keyId : Nat) (bytes : List Byte) (s : State) : exec (.done port keyId bytes) s = execDone port keyId bytes s := rfl
theorem exec_abort (port : Nat) (keyId : Nat) (s : State) : exec (.abort port keyId) s = execAbort port keyId s := rfl
theorem exec_keyDoneTimeout (port : Nat) (s : State) : exec (.keyDoneTimeout port) s = execKeyDoneTimeout port s := rfl
theorem exec_rekeyStart (port : Nat) (s : State) : exec (.rekeyStart port) s = execRekeyStart port s := rfl
theorem exec_subForce (h : Nat) (s : State) : exec (.subForce h) s = execSubForce h s := rfl
theorem exec_subAsk (id : Nat) (s : State) : exec (.subAsk id) s = execSubAsk id s := rfl
theorem exec_subAskTimeout (port : Nat) (s : State) : exec (.subAskTimeout port) s = execSubAskTimeout port s := rfl
theorem exec_subAnswer (id : Nat) (s : State) : exec (.subAnswer id) s = execSubAnswer id s := rfl
theorem exec_subCommit (id : Nat) (s : State) : exec (.subCommit id) s = execSubCommit id s := rfl
theorem exec_idGet (h : Nat) (s : State) : exec (.idGet h) s = execIdGet h s := rfl
theorem exec_quote (h : Nat) (s : State) : exec (.quote h) s = execQuote h s := rfl
theorem exec_frameStage (h : Nat) (s : State) : exec (.frameStage h) s = execFrameStage h s := rfl
theorem exec_licenceLoad (h : Nat) (s : State) : exec (.licenceLoad h) s = execLicenceLoad h s := rfl
theorem exec_jobOpen (h : Nat) (s : State) : exec (.jobOpen h) s = execJobOpen h s := rfl
theorem exec_jobWrap (h : Nat) (s : State) : exec (.jobWrap h) s = execJobWrap h s := rfl
theorem exec_jobClose (h : Nat) (s : State) : exec (.jobClose h) s = execJobClose h s := rfl
theorem exec_jobKeyInstall (id : Nat) (s : State) : exec (.jobKeyInstall id) s = execJobKeyInstall id s := rfl
theorem exec_mgtQuery (id : Nat) (s : State) : exec (.mgtQuery id) s = execMgtQuery id s := rfl
theorem exec_holoneRequest (bytes : List Byte) (s : State) : exec (.holoneRequest bytes) s = execHoloneRequest bytes s := rfl
theorem exec_imageStage (h : Nat) (buf : Option (List Byte)) (s : State) : exec (.imageStage h buf) s = execImageStage h buf s := rfl
theorem exec_imageArm (h : Nat) (s : State) : exec (.imageArm h) s = execImageArm h s := rfl
theorem exec_imageDisarm (h : Nat) (s : State) : exec (.imageDisarm h) s = execImageDisarm h s := rfl
theorem exec_claim (h : Nat) (s : State) : exec (.claim h) s = execClaim h s := rfl
theorem exec_renew (h : Nat) (s : State) : exec (.renew h) s = execRenew h s := rfl
theorem exec_release (h : Nat) (s : State) : exec (.release h) s = execRelease h s := rfl
theorem exec_hostLinkDown (h : Nat) (s : State) : exec (.hostLinkDown h) s = execHostLinkDown h s := rfl
theorem exec_commandWindowWrite (h : Nat) (bytes : List Byte) (s : State) : exec (.commandWindowWrite h bytes) s = execCommandWindowWrite h bytes s := rfl
theorem exec_commandCompletion (h : Nat) (s : State) : exec (.commandCompletion h) s = execCommandCompletion h s := rfl
theorem exec_cqHeadWrite (h : Nat) (val : Nat) (s : State) : exec (.cqHeadWrite h val) s = execCqHeadWrite h val s := rfl
theorem exec_cqConfigWrite (h : Nat) (off : Nat) (val : Nat) (s : State) : exec (.cqConfigWrite h off val) s = execCqConfigWrite h off val s := rfl
theorem exec_reset (h : Nat) (s : State) : exec (.reset h) s = execReset h s := rfl
theorem exec_stageDiscard (h : Nat) (s : State) : exec (.stageDiscard h) s = execStageDiscard h s := rfl
theorem exec_progLoad (h : Nat) (buf : Option (List Byte)) (s : State) : exec (.progLoad h buf) s = execProgLoad h buf s := rfl
theorem exec_hostCommandLaunch (h : Nat) (buf : Option (List Byte)) (s : State) : exec (.hostCommandLaunch h buf) s = execHostCommandLaunch h buf s := rfl
theorem exec_kill (h : Nat) (s : State) : exec (.kill h) s = execKill h s := rfl
theorem exec_colOpen (h : Nat) (buf : Option (List Byte)) (s : State) : exec (.colOpen h buf) s = execColOpen h buf s := rfl
theorem exec_colClose (h : Nat) (s : State) : exec (.colClose h) s = execColClose h s := rfl
theorem exec_hostCommandColAbort (h : Nat) (s : State) : exec (.hostCommandColAbort h) s = execHostCommandColAbort h s := rfl
theorem exec_ttLoad (h : Nat) (buf : Option (List Byte)) (s : State) : exec (.ttLoad h buf) s = execTtLoad h buf s := rfl
theorem exec_s0Query (h : Nat) (s : State) : exec (.s0Query h) s = execS0Query h s := rfl
theorem exec_hostApertureAccess (h : Nat) (write : Bool) (off : Nat) (len : Nat) (bytes : List Byte) (s : State) : exec (.hostApertureAccess h write off len bytes) s = execHostApertureAccess h write off len bytes s := rfl
theorem exec_hostInboundRequest (id : Nat) (buf : Option (List Byte)) (s : State) : exec (.hostInboundRequest id buf) s = execHostInboundRequest id buf s := rfl
theorem exec_registerWrite (h : Nat) (off : Nat) (bytes : List Byte) (s : State) : exec (.registerWrite h off bytes) s = execRegisterWrite h off bytes s := rfl
theorem exec_laneFailed (port : Nat) (lane : Nat) (s : State) : exec (.laneFailed port lane) s = execLaneFailed port lane s := rfl
theorem exec_governorRun (w : Nat) (s : State) : exec (.governorRun w) s = execGovernorRun w s := rfl
theorem exec_wsLevelHalfLead (p : Nat) (s : State) : exec (.wsLevelHalfLead p) s = execWsLevelHalfLead p s := rfl
theorem exec_wsEscalate (p : Nat) (s : State) : exec (.wsEscalate p) s = execWsEscalate p s := rfl
theorem exec_laneSerWindow (port : Nat) (lane : Nat) (ppm : Nat) (s : State) : exec (.laneSerWindow port lane ppm) s = execLaneSerWindow port lane ppm s := rfl
theorem exec_laneRetrainGood (port : Nat) (lane : Nat) (s : State) : exec (.laneRetrainGood port lane) s = execLaneRetrainGood port lane s := rfl
theorem exec_keyLimitReached (port : Nat) (s : State) : exec (.keyLimitReached port) s = execKeyLimitReached port s := rfl
theorem exec_oldKeyRetire (port : Nat) (s : State) : exec (.oldKeyRetire port) s = execOldKeyRetire port s := rfl
theorem exec_subWaitExpiry (port : Nat) (s : State) : exec (.subWaitExpiry port) s = execSubWaitExpiry port s := rfl
theorem exec_subAskResend (port : Nat) (s : State) : exec (.subAskResend port) s = execSubAskResend port s := rfl
theorem exec_trayRebuildDone (set : Nat) (tray : Nat) (s : State) : exec (.trayRebuildDone set tray) s = execTrayRebuildDone set tray s := rfl
theorem exec_ageingMeasureDone (slacks : List Nat) (s : State) : exec (.ageingMeasureDone slacks) s = execAgeingMeasureDone slacks s := rfl
theorem exec_endorseSet (h : Nat) (s : State) : exec (.endorseSet h) s = execEndorseSet h s := rfl
theorem exec_credSet (h : Nat) (s : State) : exec (.credSet h) s = execCredSet h s := rfl
theorem exec_recoveryImage (h : Nat) (s : State) : exec (.recoveryImage h) s = execRecoveryImage h s := rfl
theorem exec_jobKeyDestroy (key : Nat) (s : State) : exec (.jobKeyDestroy key) s = execJobKeyDestroy key s := rfl
theorem exec_holoneSlotUnlock (hslot : Nat) (s : State) : exec (.holoneSlotUnlock hslot) s = execHoloneSlotUnlock hslot s := rfl
theorem exec_resetNLow (ns : Nat) (s : State) : exec (.resetNLow ns) s = execResetNLow ns s := rfl
theorem exec_selftestDone (bytes : List Byte) (s : State) : exec (.selftestDone bytes) s = execSelftestDone bytes s := rfl
theorem exec_tftpWriteRequest (fk : Nat) (bytes : List Byte) (s : State) : exec (.tftpWriteRequest fk bytes) s = execTftpWriteRequest fk bytes s := rfl
theorem exec_imageWriteDone (fk : Nat) (s : State) : exec (.imageWriteDone fk) s = execImageWriteDone fk s := rfl
theorem exec_imageTransferStall (fk : Nat) (s : State) : exec (.imageTransferStall fk) s = execImageTransferStall fk s := rfl
theorem exec_holdupN (level : Bool) (s : State) : exec (.holdupN level) s = execHoldupN level s := rfl
theorem exec_thermalSample (temps : List Nat) (stemps : List Nat) (w : Nat) (s : State) : exec (.thermalSample temps stemps w) s = execThermalSample temps stemps w s := rfl
theorem exec_i3cPrivateRead (idx : Nat) (s : State) : exec (.i3cPrivateRead idx) s = execI3cPrivateRead idx s := rfl
theorem exec_i3cDynamicAddress (val : Nat) (s : State) : exec (.i3cDynamicAddress val) s = execI3cDynamicAddress val s := rfl
theorem exec_cabPresN (conn : Nat) (level : Bool) (s : State) : exec (.cabPresN conn level) s = execCabPresN conn level s := rfl
theorem exec_hostPortTrained (h : Nat) (width : Nat) (speed : Nat) (s : State) : exec (.hostPortTrained h width speed) s = execHostPortTrained h width speed s := rfl
theorem exec_ppsInEdge (arr : Nat) (s : State) : exec (.ppsInEdge arr) s = execPpsInEdge arr s := rfl
theorem exec_rekeyRetry (port : Nat) (s : State) : exec (.rekeyRetry port) s = execRekeyRetry port s := rfl
theorem exec_epochBoundary (s : State) : exec .epochBoundary s = execEpochBoundary s := rfl
theorem exec_stageCutoff (s : State) : exec .stageCutoff s = execStageCutoff s := rfl
theorem exec_routeRetire (s : State) : exec .routeRetire s = execRouteRetire s := rfl
theorem exec_hallGate (s : State) : exec .hallGate s = execHallGate s := rfl
theorem exec_holdoverEntry (s : State) : exec .holdoverEntry s = execHoldoverEntry s := rfl
theorem exec_acquiringEnd (s : State) : exec .acquiringEnd s = execAcquiringEnd s := rfl
theorem exec_quietSlot (s : State) : exec .quietSlot s = execQuietSlot s := rfl
theorem exec_schedulerCellTime (s : State) : exec .schedulerCellTime s = execSchedulerCellTime s := rfl
theorem exec_auditNow (s : State) : exec .auditNow s = execAuditNow s := rfl
theorem exec_bufferAuditDone (s : State) : exec .bufferAuditDone s = execBufferAuditDone s := rfl
theorem exec_ledgerRevertTick (s : State) : exec .ledgerRevertTick s = execLedgerRevertTick s := rfl
theorem exec_maintNow (s : State) : exec .maintNow s = execMaintNow s := rfl
theorem exec_pwrokRise (s : State) : exec .pwrokRise s = execPwrokRise s := rfl
theorem exec_pwrokFall (s : State) : exec .pwrokFall s = execPwrokFall s := rfl
theorem exec_warmReset (s : State) : exec .warmReset s = execWarmReset s := rfl
theorem exec_startupReady (s : State) : exec .startupReady s = execStartupReady s := rfl
theorem exec_mgmtHeartbeatLoss (s : State) : exec .mgmtHeartbeatLoss s = execMgmtHeartbeatLoss s := rfl
theorem exec_trialTimeout (s : State) : exec .trialTimeout s = execTrialTimeout s := rfl
theorem exec_ownerLeaseExpiry (s : State) : exec .ownerLeaseExpiry s = execOwnerLeaseExpiry s := rfl
theorem exec_effLimitTick (s : State) : exec .effLimitTick s = execEffLimitTick s := rfl
theorem exec_thermtripRelease (s : State) : exec .thermtripRelease s = execThermtripRelease s := rfl
theorem exec_ppsOutPulse (s : State) : exec .ppsOutPulse s = execPpsOutPulse s := rfl
theorem exec_shellSramError (s : State) : exec .shellSramError s = execShellSramError s := rfl
theorem exec_standbyGroupUp (s : State) : exec .standbyGroupUp s = execStandbyGroupUp s := rfl
theorem exec_standbyGroupDown (s : State) : exec .standbyGroupDown s = execStandbyGroupDown s := rfl
theorem exec_followerReadyTimeout (s : State) : exec .followerReadyTimeout s = execFollowerReadyTimeout s := rfl
theorem exec_savedSettingsWrite (s : State) : exec .savedSettingsWrite s = execSavedSettingsWrite s := rfl

end Sys2Proof.Machine
end

