-- ==== Sys2Proof/Laws/Tab.lean ====
section
/-! SUPPORT. Laws of sparse tables and byte memories: a read after a write, and that every operation keeps the canonical
form. -/
namespace Sys2Proof.Machine

variable {α : Type}

/-! ## Tables -/

theorem twf_cons {k : Nat} {v : α} {t : Tab α} : twf ((k, v) :: t) = true ↔ (∀ p ∈ t, k < p.1) ∧ twf t = true := by
  induction t generalizing k v with
  | nil => simp [twf]
  | cons q t ih =>
    obtain ⟨b, w⟩ := q
    simp only [twf, Bool.and_eq_true, decide_eq_true_eq, List.mem_cons, forall_eq_or_imp]
    rw [ih]
    constructor
    · rintro ⟨hab, hb, ht⟩
      exact ⟨⟨hab, fun p hp => lt_trans hab (hb p hp)⟩, hb, ht⟩
    · rintro ⟨⟨hab, _⟩, hb, ht⟩
      exact ⟨hab, hb, ht⟩

theorem tset_mem {t : Tab α} {a : Nat} {v : α} {p : Nat × α} (h : p ∈ tset t a v) : p = (a, v) ∨ p ∈ t := by
  induction t with
  | nil => simp_all [tset]
  | cons q t ih =>
    obtain ⟨k, w⟩ := q
    simp only [tset] at h
    split at h
    · simp_all
    · split at h
      · simp only [List.mem_cons] at h ⊢; tauto
      · simp only [List.mem_cons] at h ⊢
        rcases h with h | h
        · tauto
        · rcases ih h with h | h <;> tauto

theorem twf_tset {t : Tab α} (a : Nat) (v : α) (h : twf t = true) : twf (tset t a v) = true := by
  induction t with
  | nil => simp [tset, twf]
  | cons q t ih =>
    obtain ⟨k, w⟩ := q
    rw [twf_cons] at h
    simp only [tset]
    split
    · rename_i hlt
      rw [twf_cons, twf_cons]
      refine ⟨?_, h⟩
      intro p hp
      rcases List.mem_cons.mp hp with rfl | hp
      · exact hlt
      · exact lt_trans hlt (h.1 p hp)
    · split
      · rename_i he
        subst he
        rw [twf_cons]; exact h
      · rename_i h1 h2
        rw [twf_cons]
        refine ⟨?_, ih h.2⟩
        intro p hp
        rcases tset_mem hp with rfl | hp
        · omega
        · exact h.1 p hp

theorem tdel_mem {t : Tab α} {a : Nat} {p : Nat × α} (h : p ∈ tdel t a) : p ∈ t := by
  induction t with
  | nil => simp [tdel] at h
  | cons q t ih =>
    obtain ⟨k, w⟩ := q
    simp only [tdel] at h
    split at h
    · exact h
    · split at h
      · exact List.mem_cons_of_mem _ h
      · rcases List.mem_cons.mp h with h | h
        · exact h ▸ List.mem_cons_self
        · exact List.mem_cons_of_mem _ (ih h)

theorem twf_tdel {t : Tab α} (a : Nat) (h : twf t = true) : twf (tdel t a) = true := by
  induction t with
  | nil => simp [tdel, twf]
  | cons q t ih =>
    obtain ⟨k, w⟩ := q
    have hk := twf_cons.mp h
    simp only [tdel]
    split
    · exact h
    · split
      · exact hk.2
      · rw [twf_cons]
        exact ⟨fun p hp => hk.1 p (tdel_mem hp), ih hk.2⟩

theorem twf_tput [DecidableEq α] {t : Tab α} (a : Nat) (d v : α) (h : twf t = true) : twf (tput t a d v) = true := by
  unfold tput
  split
  · exact twf_tdel a h
  · exact twf_tset a v h

theorem twf_filter {t : Tab α} (f : Nat × α → Bool) (h : twf t = true) : twf (t.filter f) = true := by
  induction t with
  | nil => simp [twf]
  | cons q t ih =>
    obtain ⟨k, w⟩ := q
    have hk := twf_cons.mp h
    rw [List.filter_cons]
    split
    · rw [twf_cons]
      exact ⟨fun p hp => hk.1 p (List.mem_filter.mp hp).1, ih hk.2⟩
    · exact ih hk.2

/-- A read after a write of the same key. -/
@[simp] theorem tget_tset_self (t : Tab α) (a : Nat) (v : α) : tget (tset t a v) a = some v := by
  induction t with
  | nil => simp [tset, tget]
  | cons q t ih =>
    obtain ⟨k, w⟩ := q
    simp only [tset]
    split
    · simp [tget]
    · split
      · simp [tget]
      · rename_i h1 h2
        simp only [tget, if_neg h2, if_neg h1, ih]

/-- A read after a write of another key. -/
theorem tget_tset_ne (t : Tab α) {a b : Nat} (v : α) (h : b ≠ a) : tget (tset t a v) b = tget t b := by
  induction t with
  | nil => simp [tset, tget, h]
  | cons q t ih =>
    obtain ⟨k, w⟩ := q
    simp only [tset]
    split
    · rename_i hlt
      simp only [tget, if_neg h]
      split
      · rename_i hba
        rw [if_neg (by omega), if_pos (by omega)]
      · rfl
    · split
      · rename_i h1 h2
        subst h2
        simp only [tget, if_neg h]
      · simp only [tget, ih]

theorem tget_eq_none_of_lt {t : Tab α} {a : Nat} (h : ∀ p ∈ t, a < p.1) : tget t a = none := by
  cases t with
  | nil => rfl
  | cons q t =>
    obtain ⟨k, w⟩ := q
    have hk : a < k := h (k, w) List.mem_cons_self
    simp only [tget]
    rw [if_neg (by omega), if_pos hk]

/-- A removed key is no longer listed. -/
theorem tget_tdel_self {t : Tab α} (a : Nat) (h : twf t = true) : tget (tdel t a) a = none := by
  induction t with
  | nil => rfl
  | cons q t ih =>
    obtain ⟨k, w⟩ := q
    have hk := twf_cons.mp h
    simp only [tdel]
    split
    · rename_i hlt
      simp only [tget]
      rw [if_neg (by omega), if_pos hlt]
    · split
      · rename_i he
        exact tget_eq_none_of_lt (fun p hp => he ▸ hk.1 p hp)
      · rename_i h1 h2
        simp only [tget, if_neg h1, if_neg h2]
        exact ih hk.2

/-- Every other key keeps its entry. -/
theorem tget_tdel_ne {t : Tab α} {a b : Nat} (hw : twf t = true) (h : b ≠ a) : tget (tdel t a) b = tget t b := by
  induction t with
  | nil => rfl
  | cons q t ih =>
    obtain ⟨k, w⟩ := q
    have hk := twf_cons.mp hw
    simp only [tdel]
    split
    · rfl
    · split
      · rename_i h1 h2
        simp only [tget]
        rw [if_neg (by omega)]
        split
        · exact tget_eq_none_of_lt (fun p hp => lt_trans ‹b < k› (hk.1 p hp))
        · rfl
      · simp only [tget, ih hk.2]

@[simp] theorem tgetD_tset_self (t : Tab α) (a : Nat) (v d : α) : tgetD (tset t a v) a d = v := by simp [tgetD]

theorem tgetD_tset_ne (t : Tab α) {a b : Nat} (v d : α) (h : b ≠ a) : tgetD (tset t a v) b d = tgetD t b d := by
  simp [tgetD, tget_tset_ne t v h]

/-- A read after a write that may remove the key. -/
theorem tgetD_tput_self [DecidableEq α] {t : Tab α} (a : Nat) (d v : α) (h : twf t = true) : tgetD (tput t a d v) a d = v := by
  unfold tput
  split
  · rename_i hv
    simp [tgetD, tget_tdel_self a h, hv]
  · simp

theorem tgetD_tput_ne [DecidableEq α] {t : Tab α} {a b : Nat} (d v e : α) (hw : twf t = true) (h : b ≠ a) :
    tgetD (tput t a d v) b e = tgetD t b e := by
  unfold tput
  split
  · simp [tgetD, tget_tdel_ne hw h]
  · exact tgetD_tset_ne t v e h

/-! ## Byte memories -/

theorem Memory.wf_nil : Memory.wf [] = true := rfl

theorem Memory.wf_twf {m : Mem} (h : Memory.wf m = true) : twf m = true := by
  simp only [Memory.wf, Bool.and_eq_true] at h; exact h.1

theorem wf_mset {m : Mem} (a : Nat) (b : Byte) (h : Memory.wf m = true) : Memory.wf (mset m a b) = true := by
  simp only [Memory.wf, Bool.and_eq_true, List.all_eq_true] at h ⊢
  refine ⟨twf_tput a 0 b h.1, ?_⟩
  intro p hp
  unfold mset tput at hp
  split at hp
  · exact h.2 p (tdel_mem hp)
  · rcases tset_mem hp with rfl | hp
    · simpa using ‹¬b = 0›
    · exact h.2 p hp

theorem wf_mwrite {m : Mem} (a : Nat) (bs : List Byte) (h : Memory.wf m = true) : Memory.wf (mwrite m a bs) = true := by
  induction bs generalizing m a with
  | nil => exact h
  | cons b bs ih => exact ih _ (wf_mset a b h)

theorem wf_mwriteMasked {m : Mem} (a : Nat) (bs : List Byte) (ks : List Bool) (h : Memory.wf m = true) :
    Memory.wf (mwriteMasked m a bs ks) = true := by
  induction bs generalizing m a ks with
  | nil => simpa [mwriteMasked] using h
  | cons b bs ih =>
    cases ks with
    | nil => simpa [mwriteMasked] using h
    | cons k ks =>
      simp only [mwriteMasked]
      split
      · exact ih _ _ (wf_mset a b h)
      · exact ih _ _ h

theorem wf_mzero {m : Mem} (a n : Nat) (h : Memory.wf m = true) : Memory.wf (mzero m a n) = true := by
  simp only [Memory.wf, Bool.and_eq_true, List.all_eq_true] at h ⊢
  exact ⟨twf_filter _ h.1, fun p hp => h.2 p (List.mem_filter.mp hp).1⟩

theorem wf_foldl_mset {β : Type} (l : List β) (key : β → Nat) (byte : β → Byte) {m : Mem} (h : Memory.wf m = true) :
    Memory.wf (l.foldl (fun m p => mset m (key p) (byte p)) m) = true := by
  induction l generalizing m with
  | nil => exact h
  | cons x l ih => exact ih (wf_mset _ _ h)

/-- A byte reads as it was written. -/
theorem mget_mset_self {m : Mem} (a : Nat) (b : Byte) (h : Memory.wf m = true) : mget (mset m a b) a = b :=
  tgetD_tput_self a 0 b (Memory.wf_twf h)

/-- Every other byte reads as before. -/
theorem mget_mset_ne {m : Mem} {a c : Nat} (b : Byte) (h : Memory.wf m = true) (hc : c ≠ a) : mget (mset m a b) c = mget m c :=
  tgetD_tput_ne 0 b 0 (Memory.wf_twf h) hc

/-- Bytes outside a write read as before. -/
theorem mget_mwrite_out {m : Mem} (a : Nat) (bs : List Byte) {c : Nat} (h : Memory.wf m = true)
    (hc : c < a ∨ a + bs.length ≤ c) : mget (mwrite m a bs) c = mget m c := by
  induction bs generalizing m a with
  | nil => rfl
  | cons b bs ih =>
    simp only [mwrite, List.length_cons] at hc ⊢
    rw [ih _ (wf_mset a b h) (by omega), mget_mset_ne b h (by omega)]

/-- Bytes of a write read as written. -/
theorem mget_mwrite_in {m : Mem} (a : Nat) (bs : List Byte) {i : Nat} (h : Memory.wf m = true) (hi : i < bs.length) :
    mget (mwrite m a bs) (a + i) = bs[i] := by
  induction bs generalizing m a i with
  | nil => simp at hi
  | cons b bs ih =>
    simp only [mwrite]
    cases i with
    | zero =>
      rw [mget_mwrite_out _ _ (wf_mset a b h) (by omega)]
      simpa using mget_mset_self a b h
    | succ i =>
      have := ih (a + 1) (wf_mset a b h) (i := i) (by simpa using hi)
      simpa [Nat.add_assoc, Nat.add_comm 1 i] using this

end Sys2Proof.Machine
end

