-- ==== Sys2Proof/Laws/Keeps.lean ====
section
/-! SUPPORT. What every command keeps: the queue of waiting commands, and the canonical form of every memory. `Keeps s t`
says so of two states; the laws of this folder say it of every operation of the machine, so that a proof about a command
chains them and never unfolds an operation. -/
namespace Sys2Proof.Laws

open Sys2Proof.Machine Sys2Proof.Safety

/-- From `s` to `t` the queue is unchanged, and canonical memories stay canonical. -/
structure Keeps (s t : State) : Prop where
  queue : t.pending = s.pending
  canon : Canonical s → Canonical t

theorem Keeps.refl (s : State) : Keeps s s := ⟨rfl, id⟩

theorem Keeps.trans {s t u : State} (h : Keeps s t) (k : Keeps t u) : Keeps s u := ⟨k.queue.trans h.queue, fun c => k.canon (h.canon c)⟩

theorem Keeps.ite {s t u : State} {c : Prop} [Decidable c] (h : Keeps s t) (k : Keeps s u) : Keeps s (if c then t else u) := by
  split
  · exact h
  · exact k

/-- `Keeps` of the state in a pair. -/
structure KeepsP {α : Type} (s : State) (p : α × State) : Prop where
  snd : Keeps s p.2

/-- `Keeps` of the state in a triple. -/
structure KeepsT {α β : Type} (s : State) (p : α × β × State) : Prop where
  third : Keeps s p.2.2

/-- `Keeps` of the state that stands first in a pair. -/
structure KeepsF {α : Type} (s : State) (p : State × α) : Prop where
  fst : Keeps s p.1

/-- `Keeps` of the state that an operation may give. -/
structure KeepsO (s : State) (o : Option State) : Prop where
  some : ∀ t, o = Option.some t → Keeps s t

/-- `Keeps` of the state in a pair that an operation may give. -/
structure KeepsQ {α : Type} (s : State) (o : Option (α × State)) : Prop where
  some : ∀ a t, o = Option.some (a, t) → Keeps s t

/-- `Keeps` of the next state that a command answers. -/
structure KeepsN (s : State) (o : Out) : Prop where
  next : ∀ t, o = Host.Outcome.next t → Keeps s t

theorem KeepsP.mk' {α : Type} {s t : State} {a : α} (h : Keeps s t) : KeepsP s (a, t) := ⟨h⟩
theorem KeepsT.mk' {α β : Type} {s t : State} {a : α} {b : β} (h : Keeps s t) : KeepsT s (a, b, t) := ⟨h⟩
theorem KeepsF.mk' {α : Type} {s t : State} {a : α} (h : Keeps s t) : KeepsF s (t, a) := ⟨h⟩
theorem KeepsO.none (s : State) : KeepsO s Option.none := ⟨fun _ h => nomatch h⟩
theorem KeepsO.mk' {s t : State} (h : Keeps s t) : KeepsO s (Option.some t) := ⟨fun _ e => by cases e; exact h⟩
theorem KeepsO.map {α : Type} {s : State} {o : Option α} {f : α → State} (h : ∀ c, Keeps s (f c)) : KeepsO s (o.map f) := by
  cases o with
  | none => exact KeepsO.none s
  | some c => exact KeepsO.mk' (h c)
theorem KeepsQ.none {α : Type} (s : State) : KeepsQ (α := α) s Option.none := ⟨fun _ _ h => nomatch h⟩
theorem KeepsQ.mk' {α : Type} {s t : State} {a : α} (h : Keeps s t) : KeepsQ s (Option.some (a, t)) :=
  ⟨fun _ _ e => by cases e; exact h⟩
theorem KeepsN.mk' {s t : State} (h : Keeps s t) : KeepsN s (Host.Outcome.next t) := ⟨fun _ e => by cases e; exact h⟩

theorem KeepsP.eq {α : Type} {s t : State} {p : α × State} {a : α} (h : KeepsP s p) (e : p = (a, t)) : Keeps s t := by subst e; exact h.snd
theorem KeepsT.eq {α β : Type} {s t : State} {p : α × β × State} {a : α} {b : β} (h : KeepsT s p) (e : p = (a, b, t)) : Keeps s t := by
  subst e; exact h.third
theorem KeepsF.eq {α : Type} {s t : State} {p : State × α} {a : α} (h : KeepsF s p) (e : p = (t, a)) : Keeps s t := by subst e; exact h.fst
theorem KeepsO.eq {s t : State} {o : Option State} (h : KeepsO s o) (e : o = Option.some t) : Keeps s t := h.some t e
theorem KeepsQ.eq {α : Type} {s t : State} {o : Option (α × State)} {a : α} (h : KeepsQ s o) (e : o = Option.some (a, t)) : Keeps s t :=
  h.some a t e

/-- An update that leaves the queue and every memory alone. -/
theorem Keeps.upd {s0 u : State} (h : Keeps s0 u) {clk rf rings hall track pool coh seed col tbl ws link res sec boot host pkg out
    freeCtr nextId} (e1 : pool.mem = u.pool.mem) (e2 : seed.pipMem = u.seed.pipMem) (e3 : seed.galMem = u.seed.galMem)
    (e4 : sec.reqBuf = u.sec.reqBuf) (e5 : sec.rspBuf = u.sec.rspBuf) (e6 : rf.live = u.rf.live) :
    Keeps s0 ⟨clk, rf, rings, hall, track, pool, coh, seed, col, tbl, ws, link, res, sec, boot, host, pkg, out, freeCtr, nextId,
      u.pending⟩ := by
  refine ⟨h.queue, fun c => ?_⟩
  have k := h.canon c
  exact ⟨e1 ▸ k.pool, e2 ▸ k.pips, e3 ▸ k.galleries, e4 ▸ k.request, e5 ▸ k.response, e6 ▸ k.registers⟩

/-- An update that leaves the queue alone and writes memories in canonical form. -/
theorem Keeps.upd' {s0 u : State} (h : Keeps s0 u) {clk rf rings hall track pool coh seed col tbl ws link res sec boot host pkg out
    freeCtr nextId} (e1 : Canonical u → Memory.wf pool.mem = true) (e2 : Canonical u → Memory.wf seed.pipMem = true)
    (e3 : Canonical u → Memory.wf seed.galMem = true) (e4 : Canonical u → Memory.wf sec.reqBuf = true)
    (e5 : Canonical u → Memory.wf sec.rspBuf = true) (e6 : Canonical u → twf rf.live = true) :
    Keeps s0 ⟨clk, rf, rings, hall, track, pool, coh, seed, col, tbl, ws, link, res, sec, boot, host, pkg, out, freeCtr, nextId,
      u.pending⟩ :=
  ⟨h.queue, fun c => have k := h.canon c; ⟨e1 k, e2 k, e3 k, e4 k, e5 k, e6 k⟩⟩

/-! ## Folds -/

theorem each_keeps {α : Type} {s0 s : State} {l : List α} {f : α → State → State} (hf : ∀ x t, Keeps s0 t → Keeps s0 (f x t))
    (h : Keeps s0 s) : Keeps s0 (each l f s) := by
  unfold each
  induction l generalizing s with
  | nil => exact h
  | cons x l ih => exact ih (hf x s h)

theorem foldl_keeps {α : Type} {s0 s : State} {l : List α} {f : State → α → State} (hf : ∀ t x, Keeps s0 t → Keeps s0 (f t x))
    (h : Keeps s0 s) : Keeps s0 (l.foldl f s) := by
  induction l generalizing s with
  | nil => exact h
  | cons x l ih => exact ih (hf s x h)

theorem foldl_keepsP {α β : Type} {s0 : State} {l : List α} {p : β × State} {f : β × State → α → β × State}
    (hf : ∀ q x, KeepsP s0 q → KeepsP s0 (f q x)) (h : KeepsP s0 p) : KeepsP s0 (l.foldl f p) := by
  induction l generalizing p with
  | nil => exact h
  | cons x l ih => exact ih (hf p x h)

theorem foldl_keepsT {α β γ : Type} {s0 : State} {l : List α} {p : β × γ × State} {f : β × γ × State → α → β × γ × State}
    (hf : ∀ q x, KeepsT s0 q → KeepsT s0 (f q x)) (h : KeepsT s0 p) : KeepsT s0 (l.foldl f p) := by
  induction l generalizing p with
  | nil => exact h
  | cons x l ih => exact ih (hf p x h)

end Sys2Proof.Laws
end

