-- ==== Sys2Proof/Laws/KeepsOps.lean ====
section
/-! SUPPORT. What the operations of Machine/Ops.lean keep. -/
namespace Sys2Proof.Laws

open Sys2Proof.Machine Sys2Proof.Safety

theorem rset_keeps {f} {i} {v} {s} {s0 : State} (h : Keeps s0 s) : Keeps s0 (rset f i v s) := by
  unfold rset
  exact Keeps.upd' h (·.pool) (·.pips) (·.galleries) (·.request) (·.response) (fun c => twf_tput _ _ _ c.registers)

theorem radd_keeps {f} {i} {n} {s} {s0 : State} (h : Keeps s0 s) : Keeps s0 (radd f i n s) := by
  unfold radd
  repeat' with_reducible first | assumption | apply rset_keeps | intro _ | split | dsimp only | refine Keeps.upd ?_ rfl rfl rfl rfl rfl rfl

theorem rbump_keeps {f} {i} {s} {s0 : State} (h : Keeps s0 s) : Keeps s0 (rbump f i s) := by
  unfold rbump
  repeat' with_reducible first | assumption | apply radd_keeps | intro _ | split | dsimp only | refine Keeps.upd ?_ rfl rfl rfl rfl rfl rfl

theorem fresh_keeps {s} {s0 : State} (h : Keeps s0 s) : KeepsP s0 (fresh s) := by
  unfold fresh
  repeat' with_reducible first | assumption | apply KeepsP.mk' | intro _ | split | dsimp only | refine Keeps.upd ?_ rfl rfl rfl rfl rfl rfl

theorem pickFree_keeps {α : Type} {l : List α} {s} {s0 : State} (h : Keeps s0 s) : KeepsP s0 (pickFree l s) := by
  unfold pickFree
  repeat' with_reducible first | assumption | apply fresh_keeps | refine (fresh_keeps ?_).snd | apply KeepsP.mk' | refine KeepsP.eq ?_ (by assumption) | intro _ | split | dsimp only | refine Keeps.upd ?_ rfl rfl rfl rfl rfl rfl

theorem setHost_keeps {b0} {p} {s} {s0 : State} (h : Keeps s0 s) : Keeps s0 (setHost b0 p s) := by
  unfold setHost
  repeat' with_reducible first | assumption | intro _ | split | dsimp only | refine Keeps.upd ?_ rfl rfl rfl rfl rfl rfl

theorem emit_keeps {o} {s} {s0 : State} (h : Keeps s0 s) : Keeps s0 (emit o s) := by
  unfold emit
  repeat' with_reducible first | assumption | intro _ | split | dsimp only | refine Keeps.upd ?_ rfl rfl rfl rfl rfl rfl

theorem raiseOn_keeps {b0} {vec} {s} {s0 : State} (h : Keeps s0 s) : Keeps s0 (raiseOn b0 vec s) := by
  unfold raiseOn
  repeat' with_reducible first | assumption | apply setHost_keeps | apply emit_keeps | intro _ | split | dsimp only | refine Keeps.upd ?_ rfl rfl rfl rfl rfl rfl | refine Keeps.upd' ?_ ?_ ?_ ?_ ?_ ?_ ?_ | apply wf_mwrite | apply wf_mwriteMasked | apply wf_mzero | apply wf_foldl_mset | apply wf_mset | exact (‹Canonical _›).pool | exact (‹Canonical _›).pips | exact (‹Canonical _›).galleries | exact (‹Canonical _›).request | exact (‹Canonical _›).response | exact (‹Canonical _›).registers

theorem raiseIrq_keeps {vec} {s} {s0 : State} (h : Keeps s0 s) : Keeps s0 (raiseIrq vec s) := by
  unfold raiseIrq
  repeat' with_reducible first | assumption | apply raiseOn_keeps | intro _ | split | dsimp only | refine Keeps.upd ?_ rfl rfl rfl rfl rfl rfl

theorem ringAlert_keeps {r} {i} {s} {s0 : State} (h : Keeps s0 s) : Keeps s0 (ringAlert r i s) := by
  unfold ringAlert
  repeat' with_reducible first | assumption | apply raiseIrq_keeps | intro _ | split | dsimp only | refine Keeps.upd ?_ rfl rfl rfl rfl rfl rfl

theorem ringLose_keeps {r} {i} {s} {s0 : State} (h : Keeps s0 s) : Keeps s0 (ringLose r i s) := by
  unfold ringLose
  repeat' with_reducible first | assumption | apply rbump_keeps | intro _ | split | dsimp only | refine Keeps.upd ?_ rfl rfl rfl rfl rfl rfl

theorem ringCount_keeps {r} {i} {s} {s0 : State} (h : Keeps s0 s) : Keeps s0 (ringCount r i s) := by
  unfold ringCount
  repeat' with_reducible first | assumption | apply ringAlert_keeps | apply ringLose_keeps | apply rbump_keeps | intro _ | split | dsimp only | refine Keeps.upd ?_ rfl rfl rfl rfl rfl rfl

theorem ownerEvent_keeps {b} {s} {s0 : State} (h : Keeps s0 s) : Keeps s0 (ownerEvent b s) := by
  unfold ownerEvent
  repeat' with_reducible first | assumption | apply ringCount_keeps | intro _ | split | dsimp only | refine Keeps.upd ?_ rfl rfl rfl rfl rfl rfl

theorem setPhase_keeps {p} {s} {s0 : State} (h : Keeps s0 s) : Keeps s0 (setPhase p s) := by
  unfold setPhase
  repeat' with_reducible first | assumption | apply raiseIrq_keeps | apply rset_keeps | intro _ | split | dsimp only | refine Keeps.upd ?_ rfl rfl rfl rfl rfl rfl

theorem takeId_keeps {s} {s0 : State} (h : Keeps s0 s) : KeepsP s0 (takeId s) := by
  unfold takeId
  repeat' with_reducible first | assumption | apply KeepsP.mk' | intro _ | split | dsimp only | refine Keeps.upd ?_ rfl rfl rfl rfl rfl rfl

theorem stageEntry_keeps {b} {s} {s0 : State} (h : Keeps s0 s) : Keeps s0 (stageEntry b s) := by
  unfold stageEntry
  repeat' with_reducible first | assumption | apply ringCount_keeps | intro _ | split | dsimp only | refine Keeps.upd ?_ rfl rfl rfl rfl rfl rfl

theorem partEvent_keeps {p} {b} {s} {s0 : State} (h : Keeps s0 s) : Keeps s0 (partEvent p b s) := by
  unfold partEvent
  repeat' with_reducible first | assumption | apply ringCount_keeps | intro _ | split | dsimp only | refine Keeps.upd ?_ rfl rfl rfl rfl rfl rfl

theorem storeEvent_keeps {b} {part} {s} {s0 : State} (h : Keeps s0 s) : Keeps s0 (storeEvent b part s) := by
  unfold storeEvent
  repeat' with_reducible first | assumption | apply ownerEvent_keeps | apply partEvent_keeps | intro _ | split | dsimp only | refine Keeps.upd ?_ rfl rfl rfl rfl rfl rfl

theorem report_keeps {e} {s} {s0 : State} (h : Keeps s0 s) : Keeps s0 (report e s) := by
  unfold report
  repeat' with_reducible first | assumption | apply storeEvent_keeps | intro _ | split | dsimp only | refine Keeps.upd ?_ rfl rfl rfl rfl rfl rfl

theorem meter_keeps {p} {m} {n} {s} {s0 : State} (h : Keeps s0 s) : Keeps s0 (meter p m n s) := by
  unfold meter
  repeat' with_reducible first | assumption | intro _ | split | dsimp only | refine Keeps.upd ?_ rfl rfl rfl rfl rfl rfl

theorem faultIn_keeps {part} {f} {status} {origin} {port} {aux} {s} {s0 : State} (h : Keeps s0 s) : Keeps s0 (faultIn part f status origin port aux s) := by
  unfold faultIn
  repeat' with_reducible first | assumption | apply ringCount_keeps | intro _ | split | dsimp only | refine Keeps.upd ?_ rfl rfl rfl rfl rfl rfl

theorem rsat_keeps {f} {i} {n} {s} {s0 : State} (h : Keeps s0 s) : Keeps s0 (rsat f i n s) := by
  unfold rsat
  repeat' with_reducible first | assumption | apply rset_keeps | intro _ | split | dsimp only | refine Keeps.upd ?_ rfl rfl rfl rfl rfl rfl

theorem idle_keeps {s} {s0 : State} (h : Keeps s0 s) : Keeps s0 (idle s) := by
  unfold idle
  repeat' with_reducible first | assumption | intro _ | split | dsimp only | refine Keeps.upd ?_ rfl rfl rfl rfl rfl rfl

theorem faultRec_keeps {f} {status} {origin} {port} {aux} {s} {s0 : State} (h : Keeps s0 s) : Keeps s0 (faultRec f status origin port aux s) := by
  unfold faultRec
  repeat' with_reducible first | assumption | apply faultIn_keeps | intro _ | split | dsimp only | refine Keeps.upd ?_ rfl rfl rfl rfl rfl rfl

theorem freshRandom_keeps {s} {s0 : State} (h : Keeps s0 s) : KeepsP s0 (freshRandom s) := by
  unfold freshRandom
  repeat' with_reducible first | assumption | apply KeepsP.mk' | intro _ | split | dsimp only | refine Keeps.upd ?_ rfl rfl rfl rfl rfl rfl

theorem when__keeps {c} {f} {s} {s0 : State} (hf : ∀ t, Keeps s0 t → Keeps s0 (f t)) (h : Keeps s0 s) : Keeps s0 (when_ c f s) := by
  unfold when_
  repeat' with_reducible first | assumption | apply hf | intro _ | split | dsimp only | refine Keeps.upd ?_ rfl rfl rfl rfl rfl rfl

theorem atTime_keeps {t} {s} {s0 : State} (h : Keeps s0 s) : Keeps s0 (atTime t s) := by
  unfold atTime
  repeat' with_reducible first | assumption | intro _ | split | dsimp only | refine Keeps.upd ?_ rfl rfl rfl rfl rfl rfl

end Sys2Proof.Laws
end

