-- ==== Sys2Proof/Laws/KeepsBoot.lean ====
section
/-! SUPPORT. What the operations of Machine/Boot.lean keep. -/
namespace Sys2Proof.Laws

open Sys2Proof.Machine Sys2Proof.Safety

theorem fallBackAll_keeps {s} {s0 : State} (h : Keeps s0 s) : Keeps s0 (fallBackAll s) := by
  unfold fallBackAll
  repeat' with_reducible first | assumption | intro _ | split | dsimp only | refine Keeps.upd ?_ rfl rfl rfl rfl rfl rfl

theorem shellBank_keeps {s} {s0 : State} (h : Keeps s0 s) : KeepsQ s0 (shellBank s) := by
  unfold shellBank
  repeat' with_reducible first | assumption | apply fallBackAll_keeps | apply KeepsQ.mk' | apply KeepsQ.none | intro _ | split | dsimp only | refine Keeps.upd ?_ rfl rfl rfl rfl rfl rfl

theorem extendM_keeps {i} {d} {s} {s0 : State} (h : Keeps s0 s) : Keeps s0 (extendM i d s) := by
  unfold extendM
  repeat' with_reducible first | assumption | intro _ | split | dsimp only | refine Keeps.upd ?_ rfl rfl rfl rfl rfl rfl

theorem bootLicence_keeps {s} {s0 : State} (h : Keeps s0 s) : Keeps s0 (bootLicence s) := by
  unfold bootLicence
  repeat' with_reducible first | assumption | apply extendM_keeps | intro _ | split | dsimp only | refine Keeps.upd ?_ rfl rfl rfl rfl rfl rfl

theorem setUpd_keeps {k} {u} {s} {s0 : State} (h : Keeps s0 s) : Keeps s0 (setUpd k u s) := by
  unfold setUpd
  repeat' with_reducible first | assumption | intro _ | split | dsimp only | refine Keeps.upd ?_ rfl rfl rfl rfl rfl rfl

theorem runBank_keeps {k} {i} {s} {s0 : State} (h : Keeps s0 s) : Keeps s0 (runBank k i s) := by
  unfold runBank
  repeat' with_reducible first | assumption | apply setUpd_keeps | intro _ | split | dsimp only | refine Keeps.upd ?_ rfl rfl rfl rfl rfl rfl

theorem bootImage_keeps {k} {reg} {n} {s} {s0 : State} (h : Keeps s0 s) : KeepsO s0 (bootImage k reg n s) := by
  unfold bootImage
  repeat' with_reducible first | assumption | apply runBank_keeps | apply extendM_keeps | apply each_keeps | apply KeepsO.none | apply KeepsO.mk' | intro _ | split | dsimp only | refine Keeps.upd ?_ rfl rfl rfl rfl rfl rfl

theorem bootLinks_keeps {s} {s0 : State} (h : Keeps s0 s) : KeepsF s0 (bootLinks s) := by
  unfold bootLinks
  repeat' with_reducible first | assumption | apply bootImage_keeps | apply KeepsF.mk' | refine KeepsO.eq ?_ (by assumption) | intro _ | split | dsimp only | refine Keeps.upd ?_ rfl rfl rfl rfl rfl rfl

theorem applyFrame_keeps {f} {s} {s0 : State} (h : Keeps s0 s) : Keeps s0 (applyFrame f s) := by
  unfold applyFrame
  repeat' with_reducible first | assumption | intro _ | split | dsimp only | refine Keeps.upd ?_ rfl rfl rfl rfl rfl rfl

theorem bootFrame_keeps {s} {s0 : State} (h : Keeps s0 s) : Keeps s0 (bootFrame s) := by
  unfold bootFrame
  repeat' with_reducible first | assumption | apply applyFrame_keeps | apply rset_keeps | apply extendM_keeps | intro _ | split | dsimp only | refine Keeps.upd ?_ rfl rfl rfl rfl rfl rfl

theorem bootShell_keeps {i} {s} {s0 : State} (h : Keeps s0 s) : Keeps s0 (bootShell i s) := by
  unfold bootShell
  repeat' with_reducible first | assumption | apply runBank_keeps | apply bootFrame_keeps | apply bootLicence_keeps | apply extendM_keeps | apply rset_keeps | intro _ | split | dsimp only | refine Keeps.upd ?_ rfl rfl rfl rfl rfl rfl

theorem resetUpds_keeps {fallback} {s} {s0 : State} (h : Keeps s0 s) : Keeps s0 (resetUpds fallback s) := by
  unfold resetUpds
  repeat' with_reducible first | assumption | intro _ | split | dsimp only | refine Keeps.upd ?_ rfl rfl rfl rfl rfl rfl

theorem writeReport_keeps {m} {source} {s} {s0 : State} (h : Keeps s0 s) : Keeps s0 (writeReport m source s) := by
  unfold writeReport
  repeat' with_reducible first | assumption | apply extendM_keeps | intro _ | split | dsimp only | refine Keeps.upd ?_ rfl rfl rfl rfl rfl rfl

theorem warmReport_keeps {worn} {failed} {s} {s0 : State} (h : Keeps s0 s) : Keeps s0 (warmReport worn failed s) := by
  unfold warmReport
  repeat' with_reducible first | assumption | apply writeReport_keeps | intro _ | split | dsimp only | refine Keeps.upd ?_ rfl rfl rfl rfl rfl rfl

theorem bootMgmt_keeps {s} {s0 : State} (h : Keeps s0 s) : KeepsF s0 (bootMgmt s) := by
  unfold bootMgmt
  repeat' with_reducible first | assumption | apply bootImage_keeps | apply bootLinks_keeps | refine (bootLinks_keeps ?_).fst | apply KeepsF.mk' | refine KeepsF.eq ?_ (by assumption) | refine KeepsO.eq ?_ (by assumption) | intro _ | split | dsimp only | refine Keeps.upd ?_ rfl rfl rfl rfl rfl rfl

theorem bootRom_keeps {s} {s0 : State} (h : Keeps s0 s) : KeepsF s0 (bootRom s) := by
  unfold bootRom
  split
  · exact ⟨rset_keeps h⟩
  · rename_i e
    split at e
    · exact bootMgmt_keeps (bootShell_keeps (KeepsQ.eq (shellBank_keeps h) e))
    · cases e

theorem bootChain_keeps {s} {s0 : State} (h : Keeps s0 s) : KeepsF s0 (bootChain s) := by
  unfold bootChain
  repeat' with_reducible first | assumption | apply bootRom_keeps | refine (bootRom_keeps ?_).fst | apply extendM_keeps | apply KeepsF.mk' | refine KeepsF.eq ?_ (by assumption) | intro _ | split | dsimp only | refine Keeps.upd ?_ rfl rfl rfl rfl rfl rfl

end Sys2Proof.Laws
end

