-- ==== Sys2Proof/Laws/KeepsJob.lean ====
section
/-! SUPPORT. What the operations of Machine/Job.lean keep. -/
namespace Sys2Proof.Laws

open Sys2Proof.Machine Sys2Proof.Safety

theorem mboxEnd_keeps {status} {rsp} {s} {s0 : State} (h : Keeps s0 s) : Keeps s0 (mboxEnd status rsp s) := by
  unfold mboxEnd
  repeat' with_reducible first | assumption | apply rset_keeps | intro _ | split | dsimp only | refine Keeps.upd ?_ rfl rfl rfl rfl rfl rfl | refine Keeps.upd' ?_ ?_ ?_ ?_ ?_ ?_ ?_ | apply wf_mwrite | apply wf_mwriteMasked | apply wf_mzero | apply wf_foldl_mset | apply wf_mset | exact (‹Canonical _›).pool | exact (‹Canonical _›).pips | exact (‹Canonical _›).galleries | exact (‹Canonical _›).request | exact (‹Canonical _›).response | exact (‹Canonical _›).registers

theorem jobOpenGo_keeps {s} {s0 : State} (h : Keeps s0 s) : Keeps s0 (jobOpenGo s) := by
  unfold jobOpenGo
  repeat' with_reducible first | assumption | apply mboxEnd_keeps | intro _ | split | dsimp only | refine Keeps.upd ?_ rfl rfl rfl rfl rfl rfl

theorem jobAnswer_keeps {peer} {payload} {status} {s} {s0 : State} (h : Keeps s0 s) : Keeps s0 (jobAnswer peer payload status s) := by
  unfold jobAnswer
  repeat' with_reducible first | assumption | apply jobOpenGo_keeps | intro _ | split | dsimp only | refine Keeps.upd ?_ rfl rfl rfl rfl rfl rfl

theorem openJob_keeps {f} {s} {s0 : State} (h : Keeps s0 s) : KeepsP s0 (openJob f s) := by
  unfold openJob
  repeat' with_reducible first | assumption | apply rbump_keeps | apply KeepsP.mk' | intro _ | split | dsimp only | refine Keeps.upd ?_ rfl rfl rfl rfl rfl rfl

theorem sealJob_keeps {f} {s} {s0 : State} (h : Keeps s0 s) : KeepsP s0 (sealJob f s) := by
  unfold sealJob
  repeat' with_reducible first | assumption | apply KeepsP.mk' | intro _ | split | dsimp only | refine Keeps.upd ?_ rfl rfl rfl rfl rfl rfl

end Sys2Proof.Laws
end

