-- ==== Sys2Proof/Laws/KeepsRoute.lean ====
section
/-! SUPPORT. What the operations of Machine/Route.lean keep. -/
namespace Sys2Proof.Laws

open Sys2Proof.Machine Sys2Proof.Safety

theorem releasePart_keeps {p} {n} {s} {s0 : State} (h : Keeps s0 s) : Keeps s0 (releasePart p n s) := by
  unfold releasePart
  repeat' with_reducible first | assumption | intro _ | split | dsimp only | refine Keeps.upd ?_ rfl rfl rfl rfl rfl rfl

theorem colOffTurn_keeps {n} {was} {off} {s} {s0 : State} (h : Keeps s0 s) : Keeps s0 (colOffTurn n was off s) := by
  unfold colOffTurn
  repeat' with_reducible first | assumption | intro _ | split | dsimp only | refine Keeps.upd ?_ rfl rfl rfl rfl rfl rfl

theorem updateOff_keeps {n} {s} {s0 : State} (h : Keeps s0 s) : Keeps s0 (updateOff n s) := by
  unfold updateOff
  repeat' with_reducible first | assumption | apply colOffTurn_keeps | intro _ | split | dsimp only | refine Keeps.upd ?_ rfl rfl rfl rfl rfl rfl

theorem chargePart_keeps {p} {n} {s} {s0 : State} (h : Keeps s0 s) : Keeps s0 (chargePart p n s) := by
  unfold chargePart
  repeat' with_reducible first | assumption | intro _ | split | dsimp only | refine Keeps.upd ?_ rfl rfl rfl rfl rfl rfl

end Sys2Proof.Laws
end

