-- ==== Sys2Proof/Laws/KeepsHall.lean ====
section
/-! SUPPORT. What the operations of Machine/Hall.lean keep. -/
namespace Sys2Proof.Laws

open Sys2Proof.Machine Sys2Proof.Safety

theorem pairEnd_keeps {id} {ok} {s} {s0 : State} (h : Keeps s0 s) : Keeps s0 (pairEnd id ok s) := by
  unfold pairEnd
  repeat' with_reducible first | assumption | intro _ | split | dsimp only | refine Keeps.upd ?_ rfl rfl rfl rfl rfl rfl

theorem dropTrack_keeps {id} {s} {s0 : State} (h : Keeps s0 s) : Keeps s0 (dropTrack id s) := by
  unfold dropTrack
  repeat' with_reducible first | assumption | intro _ | split | dsimp only | refine Keeps.upd ?_ rfl rfl rfl rfl rfl rfl

theorem countRefused_keeps {n} {s} {s0 : State} (h : Keeps s0 s) : Keeps s0 (countRefused n s) := by
  unfold countRefused
  repeat' with_reducible first | assumption | apply rbump_keeps | intro _ | split | dsimp only | refine Keeps.upd ?_ rfl rfl rfl rfl rfl rfl

theorem dropAt_keeps {input} {u} {f} {status} {s} {s0 : State} (h : Keeps s0 s) : Keeps s0 (dropAt input u f status s) := by
  unfold dropAt
  repeat' with_reducible first | assumption | apply countRefused_keeps | apply faultRec_keeps | intro _ | split | dsimp only | refine Keeps.upd ?_ rfl rfl rfl rfl rfl rfl

theorem copyOutputs_keeps {input} {f} {how} {s} {s0 : State} (h : Keeps s0 s) : KeepsP s0 (copyOutputs input f how s) := by
  unfold copyOutputs
  repeat' with_reducible first | assumption | apply dropAt_keeps | apply each_keeps | apply KeepsP.mk' | intro _ | split | dsimp only | refine Keeps.upd ?_ rfl rfl rfl rfl rfl rfl

theorem noteCells_keeps {part} {n} {s} {s0 : State} (h : Keeps s0 s) : Keeps s0 (noteCells part n s) := by
  unfold noteCells
  repeat' with_reducible first | assumption | apply meter_keeps | intro _ | split | dsimp only | refine Keeps.upd ?_ rfl rfl rfl rfl rfl rfl

theorem enqueue_keeps {input} {outs} {landing} {part} {first} {whole} {f} {s} {s0 : State} (h : Keeps s0 s) : Keeps s0 (enqueue input outs landing part first whole f s) := by
  unfold enqueue
  repeat' with_reducible first | assumption | apply takeId_keeps | refine (takeId_keeps ?_).snd | apply noteCells_keeps | refine KeepsP.eq ?_ (by assumption) | intro _ | split | dsimp only | refine Keeps.upd ?_ rfl rfl rfl rfl rfl rfl

theorem toInbox_keeps {f} {port} {part} {host} {s} {s0 : State} (h : Keeps s0 s) : Keeps s0 (toInbox f port part host s) := by
  unfold toInbox
  repeat' with_reducible first | assumption | apply takeId_keeps | refine (takeId_keeps ?_).snd | refine KeepsP.eq ?_ (by assumption) | intro _ | split | dsimp only | refine Keeps.upd ?_ rfl rfl rfl rfl rfl rfl

theorem toOwn_keeps {f} {part} {s} {s0 : State} (h : Keeps s0 s) : Keeps s0 (toOwn f part s) := by
  unfold toOwn
  repeat' with_reducible first | assumption | apply noteCells_keeps | apply toInbox_keeps | intro _ | split | dsimp only | refine Keeps.upd ?_ rfl rfl rfl rfl rfl rfl

theorem noRoute_keeps {f} {s} {s0 : State} (h : Keeps s0 s) : Keeps s0 (noRoute f s) := by
  unfold noRoute
  repeat' with_reducible first | assumption | apply faultRec_keeps | apply rbump_keeps | intro _ | split | dsimp only | refine Keeps.upd ?_ rfl rfl rfl rfl rfl rfl

theorem sendAlong_keeps {input} {part} {how} {f} {s} {s0 : State} (h : Keeps s0 s) : Keeps s0 (sendAlong input part how f s) := by
  unfold sendAlong
  repeat' with_reducible first | assumption | apply copyOutputs_keeps | refine (copyOutputs_keeps ?_).snd | apply enqueue_keeps | apply rbump_keeps | apply dropAt_keeps | apply toOwn_keeps | apply noRoute_keeps | refine KeepsP.eq ?_ (by assumption) | intro _ | split | dsimp only | refine Keeps.upd ?_ rfl rfl rfl rfl rfl rfl

theorem sendRaw_keeps {input} {part} {how} {f} {s} {s0 : State} (h : Keeps s0 s) : Keeps s0 (sendRaw input part how f s) := by
  unfold sendRaw
  repeat' with_reducible first | assumption | apply sealJob_keeps | refine (sealJob_keeps ?_).snd | apply sendAlong_keeps | refine KeepsP.eq ?_ (by assumption) | intro _ | split | dsimp only | refine Keeps.upd ?_ rfl rfl rfl rfl rfl rfl

theorem answer_keeps {f} {status} {data} {s} {s0 : State} (h : Keeps s0 s) : Keeps s0 (answer f status data s) := by
  unfold answer
  repeat' with_reducible first | assumption | apply sendRaw_keeps | apply faultRec_keeps | intro _ | split | dsimp only | refine Keeps.upd ?_ rfl rfl rfl rfl rfl rfl

theorem closeTrackAt_keeps {id} {status} {data} {from_} {port} {aux} {s} {s0 : State} (h : Keeps s0 s) : Keeps s0 (closeTrackAt id status data from_ port aux s) := by
  unfold closeTrackAt
  repeat' with_reducible first | assumption | apply pairEnd_keeps | apply dropTrack_keeps | apply faultRec_keeps | apply answer_keeps | apply emit_keeps | apply jobAnswer_keeps | apply takeId_keeps | refine (takeId_keeps ?_).snd | refine KeepsP.eq ?_ (by assumption) | intro _ | split | dsimp only | refine Keeps.upd ?_ rfl rfl rfl rfl rfl rfl

theorem closeTrackErrorAt_keeps {id} {status} {from_} {port} {s} {s0 : State} (h : Keeps s0 s) : Keeps s0 (closeTrackErrorAt id status from_ port s) := by
  unfold closeTrackErrorAt
  repeat' with_reducible first | assumption | apply fresh_keeps | refine (fresh_keeps ?_).snd | apply closeTrackAt_keeps | refine KeepsP.eq ?_ (by assumption) | intro _ | split | dsimp only | refine Keeps.upd ?_ rfl rfl rfl rfl rfl rfl

theorem closeTrackError_keeps {id} {status} {from_} {s} {s0 : State} (h : Keeps s0 s) : Keeps s0 (closeTrackError id status from_ s) := by
  unfold closeTrackError
  repeat' with_reducible first | assumption | apply closeTrackErrorAt_keeps | intro _ | split | dsimp only | refine Keeps.upd ?_ rfl rfl rfl rfl rfl rfl

theorem answerError_keeps {f} {status} {s} {s0 : State} (h : Keeps s0 s) : Keeps s0 (answerError f status s) := by
  unfold answerError
  repeat' with_reducible first | assumption | apply answer_keeps | intro _ | split | dsimp only | refine Keeps.upd ?_ rfl rfl rfl rfl rfl rfl

theorem answerFree_keeps {f} {status} {s} {s0 : State} (h : Keeps s0 s) : Keeps s0 (answerFree f status s) := by
  unfold answerFree
  repeat' with_reducible first | assumption | apply fresh_keeps | refine (fresh_keeps ?_).snd | apply answer_keeps | apply answerError_keeps | refine KeepsP.eq ?_ (by assumption) | intro _ | split | dsimp only | refine Keeps.upd ?_ rfl rfl rfl rfl rfl rfl

theorem endFrame_keeps {f} {status} {from_} {port} {s} {s0 : State} (h : Keeps s0 s) : Keeps s0 (endFrame f status from_ port s) := by
  unfold endFrame
  repeat' with_reducible first | assumption | apply closeTrackErrorAt_keeps | apply answerFree_keeps | apply faultRec_keeps | intro _ | split | dsimp only | refine Keeps.upd ?_ rfl rfl rfl rfl rfl rfl

theorem sendRequest_keeps {input} {landing} {part} {first} {whole} {f} {s} {s0 : State} (h : Keeps s0 s) : Keeps s0 (sendRequest input landing part first whole f s) := by
  unfold sendRequest
  repeat' with_reducible first | assumption | apply closeTrackError_keeps | apply rbump_keeps | apply noRoute_keeps | apply toOwn_keeps | apply endFrame_keeps | apply countRefused_keeps | apply dropAt_keeps | apply enqueue_keeps | intro _ | split | dsimp only | refine Keeps.upd ?_ rfl rfl rfl rfl rfl rfl

theorem sendTracked_keeps {id} {s} {s0 : State} (h : Keeps s0 s) : Keeps s0 (sendTracked id s) := by
  unfold sendTracked
  repeat' with_reducible first | assumption | apply sendRequest_keeps | intro _ | split | dsimp only | refine Keeps.upd ?_ rfl rfl rfl rfl rfl rfl

theorem repeatTrack_keeps {id} {t} {s} {s0 : State} (h : Keeps s0 s) : Keeps s0 (repeatTrack id t s) := by
  unfold repeatTrack
  repeat' with_reducible first | assumption | apply sendTracked_keeps | intro _ | split | dsimp only | refine Keeps.upd ?_ rfl rfl rfl rfl rfl rfl

theorem landInbox_keeps {id} {s} {s0 : State} (h : Keeps s0 s) : Keeps s0 (landInbox id s) := by
  unfold landInbox
  repeat' with_reducible first | assumption | apply chargePart_keeps | intro _ | split | dsimp only | refine Keeps.upd ?_ rfl rfl rfl rfl rfl rfl

theorem releaseTag_keeps {a} {s} {s0 : State} (h : Keeps s0 s) : Keeps s0 (releaseTag a s) := by
  unfold releaseTag
  repeat' with_reducible first | assumption | intro _ | split | dsimp only | refine Keeps.upd ?_ rfl rfl rfl rfl rfl rfl

theorem closeTrackAux_keeps {id} {status} {data} {from_} {aux} {s} {s0 : State} (h : Keeps s0 s) : Keeps s0 (closeTrackAux id status data from_ aux s) := by
  unfold closeTrackAux
  repeat' with_reducible first | assumption | apply closeTrackAt_keeps | intro _ | split | dsimp only | refine Keeps.upd ?_ rfl rfl rfl rfl rfl rfl

theorem closeTrack_keeps {id} {status} {data} {from_} {s} {s0 : State} (h : Keeps s0 s) : Keeps s0 (closeTrack id status data from_ s) := by
  unfold closeTrack
  repeat' with_reducible first | assumption | apply closeTrackAux_keeps | intro _ | split | dsimp only | refine Keeps.upd ?_ rfl rfl rfl rfl rfl rfl

theorem addTrack_keeps {id} {origin} {orig} {sent} {accepted} {port} {held} {s} {s0 : State} (h : Keeps s0 s) : Keeps s0 (addTrack id origin orig sent accepted port held s) := by
  unfold addTrack
  repeat' with_reducible first | assumption | intro _ | split | dsimp only | refine Keeps.upd ?_ rfl rfl rfl rfl rfl rfl

theorem pairAdd_keeps {id} {f} {done} {s} {s0 : State} (h : Keeps s0 s) : Keeps s0 (pairAdd id f done s) := by
  unfold pairAdd
  repeat' with_reducible first | assumption | intro _ | split | dsimp only | refine Keeps.upd ?_ rfl rfl rfl rfl rfl rfl

theorem issue_keeps {origin} {f} {s} {s0 : State} (h : Keeps s0 s) : KeepsP s0 (issue origin f s) := by
  unfold issue
  repeat' with_reducible first | assumption | apply takeId_keeps | refine (takeId_keeps ?_).snd | apply addTrack_keeps | apply pairAdd_keeps | apply KeepsP.mk' | refine KeepsP.eq ?_ (by assumption) | intro _ | split | dsimp only | refine Keeps.upd ?_ rfl rfl rfl rfl rfl rfl

theorem takeInbox_keeps {id} {s} {s0 : State} (h : Keeps s0 s) : Keeps s0 (takeInbox id s) := by
  unfold takeInbox
  repeat' with_reducible first | assumption | intro _ | split | dsimp only | refine Keeps.upd ?_ rfl rfl rfl rfl rfl rfl

theorem takeTag_keeps {f} {u} {s} {s0 : State} (h : Keeps s0 s) : Keeps s0 (takeTag f u s) := by
  unfold takeTag
  repeat' with_reducible first | assumption | intro _ | split | dsimp only | refine Keeps.upd ?_ rfl rfl rfl rfl rfl rfl

end Sys2Proof.Laws
end

