-- ==== Sys2Proof/Laws/KeepsGranule.lean ====
section
/-! SUPPORT. What the operations of Machine/Granule.lean keep. -/
namespace Sys2Proof.Laws

open Sys2Proof.Machine Sys2Proof.Safety

theorem clearSkips_keeps {loc} {s} {s0 : State} (h : Keeps s0 s) : Keeps s0 (clearSkips loc s) := by
  unfold clearSkips
  repeat' with_reducible first | assumption | intro _ | split | dsimp only | refine Keeps.upd ?_ rfl rfl rfl rfl rfl rfl

theorem pickSlot_keeps {k} {s} {s0 : State} (h : Keeps s0 s) : KeepsP s0 (pickSlot k s) := by
  unfold pickSlot
  repeat' with_reducible first | assumption | apply fresh_keeps | refine (fresh_keeps ?_).snd | apply KeepsP.mk' | refine KeepsP.eq ?_ (by assumption) | intro _ | split | dsimp only | refine Keeps.upd ?_ rfl rfl rfl rfl rfl rfl

theorem setGranule_keeps {g} {x} {s} {s0 : State} (h : Keeps s0 s) : Keeps s0 (setGranule g x s) := by
  unfold setGranule
  repeat' with_reducible first | assumption | intro _ | split | dsimp only | refine Keeps.upd ?_ rfl rfl rfl rfl rfl rfl

theorem allocLower_keeps {g} {part} {stair} {ok} {s} {s0 : State} (h : Keeps s0 s) : KeepsP s0 (allocLower g part stair ok s) := by
  unfold allocLower
  repeat' with_reducible first | assumption | apply pickSlot_keeps | refine (pickSlot_keeps ?_).snd | apply clearSkips_keeps | apply setGranule_keeps | apply KeepsP.mk' | refine KeepsP.eq ?_ (by assumption) | intro _ | split | dsimp only | refine Keeps.upd ?_ rfl rfl rfl rfl rfl rfl

theorem allocBelow_keeps {g} {part} {s} {s0 : State} (h : Keeps s0 s) : KeepsP s0 (allocBelow g part s) := by
  unfold allocBelow
  repeat' with_reducible first | assumption | apply allocLower_keeps | refine (allocLower_keeps ?_).snd | apply KeepsP.mk' | refine KeepsP.eq ?_ (by assumption) | intro _ | split | dsimp only | refine Keeps.upd ?_ rfl rfl rfl rfl rfl rfl

theorem leaseSweep_keeps {s} {s0 : State} (h : Keeps s0 s) : Keeps s0 (leaseSweep s) := by
  unfold leaseSweep
  repeat' with_reducible first | assumption | intro _ | split | dsimp only | refine Keeps.upd ?_ rfl rfl rfl rfl rfl rfl

theorem sendCtl_keeps {opc} {dst} {payload} {s} {s0 : State} (h : Keeps s0 s) : Keeps s0 (sendCtl opc dst payload s) := by
  unfold sendCtl
  repeat' with_reducible first | assumption | apply sendRaw_keeps | intro _ | split | dsimp only | refine Keeps.upd ?_ rfl rfl rfl rfl rfl rfl

theorem setExtent_keeps {e} {x} {s} {s0 : State} (h : Keeps s0 s) : Keeps s0 (setExtent e x s) := by
  unfold setExtent
  repeat' with_reducible first | assumption | intro _ | split | dsimp only | refine Keeps.upd ?_ rfl rfl rfl rfl rfl rfl

theorem detectFailure_keeps {port} {cause} {s} {s0 : State} (h : Keeps s0 s) : Keeps s0 (detectFailure port cause s) := by
  unfold detectFailure
  repeat' with_reducible first | assumption | apply sendCtl_keeps | intro _ | split | dsimp only | refine Keeps.upd ?_ rfl rfl rfl rfl rfl rfl

theorem pickFrame_keeps {w} {s} {s0 : State} (h : Keeps s0 s) : KeepsP s0 (pickFrame w s) := by
  unfold pickFrame
  repeat' with_reducible first | assumption | apply fresh_keeps | refine (fresh_keeps ?_).snd | apply KeepsP.mk' | refine KeepsP.eq ?_ (by assumption) | intro _ | split | dsimp only | refine Keeps.upd ?_ rfl rfl rfl rfl rfl rfl

theorem allocS0_keeps {g} {part} {w} {s} {s0 : State} (h : Keeps s0 s) : KeepsP s0 (allocS0 g part w s) := by
  unfold allocS0
  repeat' with_reducible first | assumption | apply pickFrame_keeps | refine (pickFrame_keeps ?_).snd | apply setGranule_keeps | apply KeepsP.mk' | refine KeepsP.eq ?_ (by assumption) | intro _ | split | dsimp only | refine Keeps.upd ?_ rfl rfl rfl rfl rfl rfl

theorem meterStair_keeps {part} {stair} {write} {n} {s} {s0 : State} (h : Keeps s0 s) : Keeps s0 (meterStair part stair write n s) := by
  unfold meterStair
  repeat' with_reducible first | assumption | apply meter_keeps | intro _ | split | dsimp only | refine Keeps.upd ?_ rfl rfl rfl rfl rfl rfl

theorem allocate_keeps {g} {part} {s} {s0 : State} (h : Keeps s0 s) : KeepsP s0 (allocate g part s) := by
  unfold allocate
  repeat' with_reducible first | assumption | apply allocS0_keeps | refine (allocS0_keeps ?_).snd | apply allocBelow_keeps | refine (allocBelow_keeps ?_).snd | apply KeepsP.mk' | refine KeepsP.eq ?_ (by assumption) | intro _ | split | dsimp only | refine Keeps.upd ?_ rfl rfl rfl rfl rfl rfl

theorem leaseStart_keeps {node} {us} {s} {s0 : State} (h : Keeps s0 s) : Keeps s0 (leaseStart node us s) := by
  unfold leaseStart
  repeat' with_reducible first | assumption | intro _ | split | dsimp only | refine Keeps.upd ?_ rfl rfl rfl rfl rfl rfl

end Sys2Proof.Laws
end

