-- ==== Sys2Proof/Laws/KeepsSleep.lean ====
section
/-! SUPPORT. What the operations of Machine/Sleep.lean keep. -/
namespace Sys2Proof.Laws

open Sys2Proof.Machine Sys2Proof.Safety

theorem noteUse_keeps {u} {s} {s0 : State} (h : Keeps s0 s) : Keeps s0 (noteUse u s) := by
  unfold noteUse
  repeat' with_reducible first | assumption | intro _ | split | dsimp only | refine Keeps.upd ?_ rfl rfl rfl rfl rfl rfl

theorem beginWake_keeps {u} {s} {s0 : State} (h : Keeps s0 s) : Keeps s0 (beginWake u s) := by
  unfold beginWake
  repeat' with_reducible first | assumption | intro _ | split | dsimp only | refine Keeps.upd ?_ rfl rfl rfl rfl rfl rfl

theorem useLanes_keeps {n} {s} {s0 : State} (h : Keeps s0 s) : Keeps s0 (useLanes n s) := by
  unfold useLanes
  repeat' with_reducible first | assumption | apply noteUse_keeps | apply beginWake_keeps | apply each_keeps | intro _ | split | dsimp only | refine Keeps.upd ?_ rfl rfl rfl rfl rfl rfl

theorem wakeWing_keeps {w} {s} {s0 : State} (h : Keeps s0 s) : Keeps s0 (wakeWing w s) := by
  unfold wakeWing
  repeat' with_reducible first | assumption | apply beginWake_keeps | apply each_keeps | intro _ | split | dsimp only | refine Keeps.upd ?_ rfl rfl rfl rfl rfl rfl

theorem useWing_keeps {w} {s} {s0 : State} (h : Keeps s0 s) : Keeps s0 (useWing w s) := by
  unfold useWing
  repeat' with_reducible first | assumption | apply noteUse_keeps | apply beginWake_keeps | apply each_keeps | intro _ | split | dsimp only | refine Keeps.upd ?_ rfl rfl rfl rfl rfl rfl

end Sys2Proof.Laws
end

