-- ==== Sys2Proof/Laws/KeepsLinkTx.lean ====
section
/-! SUPPORT. What the operations of Machine/LinkTx.lean keep. -/
namespace Sys2Proof.Laws

open Sys2Proof.Machine Sys2Proof.Safety

theorem setLink_keeps {n} {l} {s} {s0 : State} (h : Keeps s0 s) : Keeps s0 (setLink n l s) := by
  unfold setLink
  repeat' with_reducible first | assumption | intro _ | split | dsimp only | refine Keeps.upd ?_ rfl rfl rfl rfl rfl rfl

theorem promoteKey_keeps {n} {s} {s0 : State} (h : Keeps s0 s) : Keeps s0 (promoteKey n s) := by
  unfold promoteKey
  repeat' with_reducible first | assumption | apply setLink_keeps | intro _ | split | dsimp only | refine Keeps.upd ?_ rfl rfl rfl rfl rfl rfl

theorem sendSeq_keeps {n} {ftype} {enc} {kid} {fstart} {gpos} {payload} {s} {s0 : State} (h : Keeps s0 s) : Keeps s0 (sendSeq n ftype enc kid fstart gpos payload s) := by
  unfold sendSeq
  repeat' with_reducible first | assumption | apply emit_keeps | apply setLink_keeps | intro _ | split | dsimp only | refine Keeps.upd ?_ rfl rfl rfl rfl rfl rfl

theorem sendGroup_keeps {n} {k} {flits} {s} {s0 : State} (h : Keeps s0 s) : Keeps s0 (sendGroup n k flits s) := by
  unfold sendGroup
  repeat' with_reducible first | assumption | apply sendSeq_keeps | apply setLink_keeps | apply each_keeps | apply foldl_keeps | apply foldl_keepsP | apply KeepsP.mk' | refine KeepsP.eq ?_ (by assumption) | refine (foldl_keepsP ?_ ?_).snd | exact ⟨‹_›⟩ | exact (‹KeepsP _ _›).snd | intro _ | split | dsimp only | refine Keeps.upd ?_ rfl rfl rfl rfl rfl rfl

theorem pump_keeps {n} {a1} {a2} {s0 : State} (h : Keeps s0 a2) : Keeps s0 (pump n a1 a2) := by
  induction a1 generalizing a2 with
  | zero =>
    unfold pump
    repeat' with_reducible first | assumption | apply ih | apply promoteKey_keeps | apply sendGroup_keeps | apply setLink_keeps | apply sendSeq_keeps | intro _ | split | dsimp only | refine Keeps.upd ?_ rfl rfl rfl rfl rfl rfl
  | succ n ih =>
    unfold pump
    repeat' with_reducible first | assumption | apply ih | apply promoteKey_keeps | apply sendGroup_keeps | apply setLink_keeps | apply sendSeq_keeps | intro _ | split | dsimp only | refine Keeps.upd ?_ rfl rfl rfl rfl rfl rfl

theorem pumpAll_keeps {n} {s} {s0 : State} (h : Keeps s0 s) : Keeps s0 (pumpAll n s) := by
  unfold pumpAll
  repeat' with_reducible first | assumption | apply pump_keeps | intro _ | split | dsimp only | refine Keeps.upd ?_ rfl rfl rfl rfl rfl rfl

theorem sendData_keeps {n} {f} {s} {s0 : State} (h : Keeps s0 s) : Keeps s0 (sendData n f s) := by
  unfold sendData
  repeat' with_reducible first | assumption | apply pumpAll_keeps | apply setLink_keeps | apply useLanes_keeps | intro _ | split | dsimp only | refine Keeps.upd ?_ rfl rfl rfl rfl rfl rfl

theorem sendLink_keeps {n} {payload} {s} {s0 : State} (h : Keeps s0 s) : Keeps s0 (sendLink n payload s) := by
  unfold sendLink
  repeat' with_reducible first | assumption | apply pumpAll_keeps | apply setLink_keeps | intro _ | split | dsimp only | refine Keeps.upd ?_ rfl rfl rfl rfl rfl rfl

theorem sendPlain_keeps {n} {ftype} {nak} {payload} {s} {s0 : State} (h : Keeps s0 s) : Keeps s0 (sendPlain n ftype nak payload s) := by
  unfold sendPlain
  repeat' with_reducible first | assumption | apply emit_keeps | intro _ | split | dsimp only | refine Keeps.upd ?_ rfl rfl rfl rfl rfl rfl

end Sys2Proof.Laws
end

