-- ==== Sys2Proof/Laws/KeepsIngress.lean ====
section
/-! SUPPORT. What the operations of Machine/Ingress.lean keep. -/
namespace Sys2Proof.Laws

open Sys2Proof.Machine Sys2Proof.Safety

theorem mirrorOne_keeps {tx} {port} {part} {f} {e} {s} {s0 : State} (h : Keeps s0 s) : Keeps s0 (mirrorOne tx port part f e s) := by
  unfold mirrorOne
  repeat' with_reducible first | assumption | apply rbump_keeps | intro _ | split | dsimp only | refine Keeps.upd ?_ rfl rfl rfl rfl rfl rfl

theorem mirror_keeps {tx} {port} {part} {f} {s} {s0 : State} (h : Keeps s0 s) : Keeps s0 (mirror tx port part f s) := by
  unfold mirror
  repeat' with_reducible first | assumption | apply mirrorOne_keeps | apply each_keeps | intro _ | split | dsimp only | refine Keeps.upd ?_ rfl rfl rfl rfl rfl rfl

theorem countIn_keeps {n} {f} {s} {s0 : State} (h : Keeps s0 s) : Keeps s0 (countIn n f s) := by
  unfold countIn
  repeat' with_reducible first | assumption | apply mirror_keeps | intro _ | split | dsimp only | refine Keeps.upd ?_ rfl rfl rfl rfl rfl rfl

theorem ingressEnd_keeps {n} {edge} {f} {status} {s} {s0 : State} (h : Keeps s0 s) : Keeps s0 (ingressEnd n edge f status s) := by
  unfold ingressEnd
  repeat' with_reducible first | assumption | apply faultRec_keeps | apply takeId_keeps | refine (takeId_keeps ?_).snd | apply pairAdd_keeps | apply answerFree_keeps | refine KeepsP.eq ?_ (by assumption) | intro _ | split | dsimp only | refine Keeps.upd ?_ rfl rfl rfl rfl rfl rfl

theorem countRx_keeps {n} {f} {s} {s0 : State} (h : Keeps s0 s) : Keeps s0 (countRx n f s) := by
  unfold countRx
  repeat' with_reducible first | assumption | apply meter_keeps | intro _ | split | dsimp only | refine Keeps.upd ?_ rfl rfl rfl rfl rfl rfl

theorem colourFrame_keeps {n} {f} {s} {s0 : State} (h : Keeps s0 s) : KeepsP s0 (colourFrame n f s) := by
  unfold colourFrame
  repeat' with_reducible first | assumption | apply KeepsP.mk' | intro _ | split | dsimp only | refine Keeps.upd ?_ rfl rfl rfl rfl rfl rfl

theorem admitColour_keeps {n} {f} {s} {s0 : State} (h : Keeps s0 s) : KeepsP s0 (admitColour n f s) := by
  unfold admitColour
  repeat' with_reducible first | assumption | apply colourFrame_keeps | refine (colourFrame_keeps ?_).snd | apply rbump_keeps | apply KeepsP.mk' | refine KeepsP.eq ?_ (by assumption) | intro _ | split | dsimp only | refine Keeps.upd ?_ rfl rfl rfl rfl rfl rfl

theorem dropStale_keeps {f} {s} {s0 : State} (h : Keeps s0 s) : Keeps s0 (dropStale f s) := by
  unfold dropStale
  repeat' with_reducible first | assumption | apply rbump_keeps | apply repeatTrack_keeps | apply endFrame_keeps | intro _ | split | dsimp only | refine Keeps.upd ?_ rfl rfl rfl rfl rfl rfl

theorem acceptCopy_pairAddIf_keeps {edge} {id} {f} {t} {s0 : State} (h : Keeps s0 t) : Keeps s0 (acceptCopy.pairAddIf edge id f t) := by
  unfold acceptCopy.pairAddIf
  repeat' with_reducible first | assumption | apply pairAdd_keeps | intro _ | split | dsimp only | refine Keeps.upd ?_ rfl rfl rfl rfl rfl rfl

theorem acceptCopy_keeps {n} {eth} {f} {s} {s0 : State} (h : Keeps s0 s) : Keeps s0 (acceptCopy n eth f s) := by
  unfold acceptCopy
  repeat' with_reducible first | assumption | apply takeId_keeps | refine (takeId_keeps ?_).snd | apply acceptCopy_pairAddIf_keeps | refine KeepsP.eq ?_ (by assumption) | intro _ | split | dsimp only | refine Keeps.upd ?_ rfl rfl rfl rfl rfl rfl

theorem transit_keeps {n} {landing} {part} {f} {s} {s0 : State} (h : Keeps s0 s) : Keeps s0 (transit n landing part f s) := by
  unfold transit
  repeat' with_reducible first | assumption | apply copyOutputs_keeps | refine (copyOutputs_keeps ?_).snd | apply enqueue_keeps | apply noteCells_keeps | apply rbump_keeps | apply sendRequest_keeps | refine KeepsP.eq ?_ (by assumption) | intro _ | split | dsimp only | refine Keeps.upd ?_ rfl rfl rfl rfl rfl rfl

theorem accept_keeps {n} {eth} {f} {s} {s0 : State} (h : Keeps s0 s) : Keeps s0 (accept n eth f s) := by
  unfold accept
  repeat' with_reducible first | assumption | apply noteCells_keeps | apply acceptCopy_keeps | intro _ | split | dsimp only | refine Keeps.upd ?_ rfl rfl rfl rfl rfl rfl

theorem acceptAnswer_keeps {n} {eth} {f} {s} {s0 : State} (h : Keeps s0 s) : Keeps s0 (acceptAnswer n eth f s) := by
  unfold acceptAnswer
  repeat' with_reducible first | assumption | apply closeTrack_keeps | apply accept_keeps | intro _ | split | dsimp only | refine Keeps.upd ?_ rfl rfl rfl rfl rfl rfl

theorem acceptOwn_keeps {n} {edge} {eth} {f} {s} {s0 : State} (h : Keeps s0 s) : Keeps s0 (acceptOwn n edge eth f s) := by
  unfold acceptOwn
  repeat' with_reducible first | assumption | apply ingressEnd_keeps | apply openJob_keeps | refine (openJob_keeps ?_).snd | apply accept_keeps | refine KeepsP.eq ?_ (by assumption) | intro _ | split | dsimp only | refine Keeps.upd ?_ rfl rfl rfl rfl rfl rfl

theorem dispatchFrame_keeps {n} {edge} {eth} {landing} {f} {s} {s0 : State} (h : Keeps s0 s) : Keeps s0 (dispatchFrame n edge eth landing f s) := by
  unfold dispatchFrame
  repeat' with_reducible first | assumption | apply acceptCopy_keeps | apply transit_keeps | apply releaseTag_keeps | apply acceptAnswer_keeps | apply acceptOwn_keeps | apply accept_keeps | intro _ | split | dsimp only | refine Keeps.upd ?_ rfl rfl rfl rfl rfl rfl

theorem takeIn_keeps {n} {edge} {eth} {landing} {f} {s} {s0 : State} (h : Keeps s0 s) : Keeps s0 (takeIn n edge eth landing f s) := by
  unfold takeIn
  repeat' with_reducible first | assumption | apply dropStale_keeps | apply dispatchFrame_keeps | apply updateOff_keeps | intro _ | split | dsimp only | refine Keeps.upd ?_ rfl rfl rfl rfl rfl rfl

theorem arriveOn_keeps {n} {edge} {eth} {landing} {f} {s} {s0 : State} (h : Keeps s0 s) : Keeps s0 (arriveOn n edge eth landing f s) := by
  unfold arriveOn
  repeat' with_reducible first | assumption | apply admitColour_keeps | refine (admitColour_keeps ?_).snd | apply countIn_keeps | apply takeIn_keeps | apply ingressEnd_keeps | refine KeepsP.eq ?_ (by assumption) | intro _ | split | dsimp only | refine Keeps.upd ?_ rfl rfl rfl rfl rfl rfl

theorem arriveWhole_keeps {n} {eth} {edge} {f} {s} {s0 : State} (h : Keeps s0 s) : Keeps s0 (arriveWhole n eth edge f s) := by
  unfold arriveWhole
  repeat' with_reducible first | assumption | apply ingressEnd_keeps | apply countRefused_keeps | apply rbump_keeps | apply arriveOn_keeps | intro _ | split | dsimp only | refine Keeps.upd ?_ rfl rfl rfl rfl rfl rfl

theorem hasLeft_keeps {n} {edge} {f} {s} {s0 : State} (h : Keeps s0 s) : KeepsP s0 (hasLeft n edge f s) := by
  unfold hasLeft
  repeat' with_reducible first | assumption | apply fresh_keeps | refine (fresh_keeps ?_).snd | apply KeepsP.mk' | refine KeepsP.eq ?_ (by assumption) | intro _ | split | dsimp only | refine Keeps.upd ?_ rfl rfl rfl rfl rfl rfl

theorem arrive_keeps {n} {eth} {f} {b3} {s0 : State} (h : Keeps s0 b3) : Keeps s0 (arrive n eth f b3) := by
  unfold arrive
  repeat' with_reducible first | assumption | apply countRx_keeps | apply arriveWhole_keeps | apply rbump_keeps | apply hasLeft_keeps | refine (hasLeft_keeps ?_).snd | refine KeepsP.eq ?_ (by assumption) | intro _ | split | dsimp only | refine Keeps.upd ?_ rfl rfl rfl rfl rfl rfl

theorem arriveEth_keeps {n} {srcMac} {etype} {bytes} {fcsGood} {s} {s0 : State} (h : Keeps s0 s) : Keeps s0 (arriveEth n srcMac etype bytes fcsGood s) := by
  unfold arriveEth
  repeat' with_reducible first | assumption | apply rbump_keeps | apply ingressEnd_keeps | apply countRx_keeps | apply arrive_keeps | intro _ | split | dsimp only | refine Keeps.upd ?_ rfl rfl rfl rfl rfl rfl

theorem noteResult_keeps {f} {s} {s0 : State} (h : Keeps s0 s) : Keeps s0 (noteResult f s) := by
  unfold noteResult
  repeat' with_reducible first | assumption | intro _ | split | dsimp only | refine Keeps.upd ?_ rfl rfl rfl rfl rfl rfl

theorem departPort_keeps {n} {part} {f} {s} {s0 : State} (h : Keeps s0 s) : Keeps s0 (departPort n part f s) := by
  unfold departPort
  repeat' with_reducible first | assumption | apply noteResult_keeps | apply mirror_keeps | apply meter_keeps | apply emit_keeps | apply sendData_keeps | intro _ | split | dsimp only | refine Keeps.upd ?_ rfl rfl rfl rfl rfl rfl

end Sys2Proof.Laws
end

