-- ==== Sys2Proof/Laws/KeepsFrames.lean ====
section
/-! SUPPORT. What the operations of Machine/Frames.lean keep. -/
namespace Sys2Proof.Laws

open Sys2Proof.Machine Sys2Proof.Safety

theorem startAudit_keeps {s} {s0 : State} (h : Keeps s0 s) : Keeps s0 (startAudit s) := by
  unfold startAudit
  repeat' with_reducible first | assumption | apply rset_keeps | intro _ | split | dsimp only | refine Keeps.upd ?_ rfl rfl rfl rfl rfl rfl

theorem whenRunning_keeps {f} {s} {s0 : State} (hf : ∀ t, Keeps s0 t → Keeps s0 (f t)) (h : Keeps s0 s) : KeepsN s0 (whenRunning f s) := by
  unfold whenRunning
  repeat' with_reducible first | assumption | apply hf | apply KeepsN.mk' | intro _ | split | dsimp only | refine Keeps.upd ?_ rfl rfl rfl rfl rfl rfl

theorem execIngressFrame_keeps {port} {bytes} {s} {s0 : State} (h : Keeps s0 s) : KeepsN s0 (execIngressFrame port bytes s) := by
  unfold execIngressFrame
  repeat' with_reducible first | assumption | apply whenRunning_keeps | apply arrive_keeps | apply KeepsN.mk' | intro _ | split | dsimp only | refine Keeps.upd ?_ rfl rfl rfl rfl rfl rfl

theorem dropGeneration_keeps {g} {s} {s0 : State} (h : Keeps s0 s) : Keeps s0 (dropGeneration g s) := by
  unfold dropGeneration
  repeat' with_reducible first | assumption | apply dropStale_keeps | apply each_keeps | intro _ | split | dsimp only | refine Keeps.upd ?_ rfl rfl rfl rfl rfl rfl

theorem retireGen_keeps {g} {time} {s} {s0 : State} (h : Keeps s0 s) : Keeps s0 (retireGen g time s) := by
  unfold retireGen
  repeat' with_reducible first | assumption | apply atTime_keeps | apply dropGeneration_keeps | apply rset_keeps | intro _ | split | dsimp only | refine Keeps.upd ?_ rfl rfl rfl rfl rfl rfl

theorem execRouteRetire_keeps {s} {s0 : State} (h : Keeps s0 s) : KeepsN s0 (execRouteRetire s) := by
  unfold execRouteRetire
  repeat' with_reducible first | assumption | apply whenRunning_keeps | apply retireGen_keeps | apply KeepsN.mk' | intro _ | split | dsimp only | refine Keeps.upd ?_ rfl rfl rfl rfl rfl rfl

theorem execAuditNow_keeps {s} {s0 : State} (h : Keeps s0 s) : KeepsN s0 (execAuditNow s) := by
  unfold execAuditNow
  repeat' with_reducible first | assumption | apply whenRunning_keeps | apply startAudit_keeps | apply KeepsN.mk' | intro _ | split | dsimp only | refine Keeps.upd ?_ rfl rfl rfl rfl rfl rfl

theorem accountHeld_keeps {s} {s0 : State} (h : Keeps s0 s) : Keeps s0 (accountHeld s) := by
  unfold accountHeld
  repeat' with_reducible first | assumption | apply radd_keeps | apply each_keeps | intro _ | split | dsimp only | refine Keeps.upd ?_ rfl rfl rfl rfl rfl rfl

theorem drrPick_keeps {u} {ready} {a2} {a3} {s0 : State} (h : Keeps s0 a3) : KeepsP s0 (drrPick u ready a2 a3) := by
  induction a2 generalizing a3 with
  | zero => unfold drrPick; exact ⟨h⟩
  | succ n ih =>
    unfold drrPick
    dsimp only
    split
    · exact ih (Keeps.upd h rfl rfl rfl rfl rfl rfl)
    · split
      · exact ⟨h⟩
      · split
        · exact ⟨Keeps.upd h rfl rfl rfl rfl rfl rfl⟩
        · exact ih (Keeps.upd h rfl rfl rfl rfl rfl rfl)

theorem offers_keeps {u} {s} {s0 : State} (h : Keeps s0 s) : KeepsP s0 (offers u s) := by
  unfold offers
  repeat' with_reducible first | assumption | apply drrPick_keeps | refine (drrPick_keeps ?_).snd | apply foldl_keeps | apply foldl_keepsP | apply KeepsP.mk' | refine KeepsP.eq ?_ (by assumption) | intro _ | split | dsimp only | refine Keeps.upd ?_ rfl rfl rfl rfl rfl rfl

theorem allOffers_keeps {a0} {a1} {s0 : State} (h : Keeps s0 a1) : KeepsP s0 (allOffers a0 a1) := by
  induction a0 generalizing a1 with
  | nil => unfold allOffers; exact ⟨h⟩
  | cons x l ih =>
    unfold allOffers
    exact ⟨(ih (offers_keeps h).snd).snd⟩

theorem iterate_keeps {first} {reqs} {m} {s} {s0 : State} (h : Keeps s0 s) : KeepsP s0 (iterate first reqs m s) := by
  unfold iterate
  repeat' with_reducible first | assumption | apply each_keeps | apply foldl_keeps | apply foldl_keepsP | apply KeepsP.mk' | intro _ | split | dsimp only | refine Keeps.upd ?_ rfl rfl rfl rfl rfl rfl

theorem sendCopy_keeps {port} {s} {s0 : State} (h : Keeps s0 s) : Keeps s0 (sendCopy port s) := by
  unfold sendCopy
  repeat' with_reducible first | assumption | apply rbump_keeps | apply emit_keeps | intro _ | split | dsimp only | refine Keeps.upd ?_ rfl rfl rfl rfl rfl rfl

theorem sendBalcony_keeps {matched} {s} {s0 : State} (h : Keeps s0 s) : Keeps s0 (sendBalcony matched s) := by
  unfold sendBalcony
  repeat' with_reducible first | assumption | apply sendCopy_keeps | apply each_keeps | intro _ | split | dsimp only | refine Keeps.upd ?_ rfl rfl rfl rfl rfl rfl

theorem chargeBuckets_keeps {f} {u} {s} {s0 : State} (h : Keeps s0 s) : Keeps s0 (chargeBuckets f u s) := by
  unfold chargeBuckets
  repeat' with_reducible first | assumption | apply each_keeps | intro _ | split | dsimp only | refine Keeps.upd ?_ rfl rfl rfl rfl rfl rfl

theorem departUnit_keeps {u} {f} {s} {s0 : State} (h : Keeps s0 s) : Keeps s0 (departUnit u f s) := by
  unfold departUnit
  repeat' with_reducible first | assumption | apply departPort_keeps | apply toInbox_keeps | intro _ | split | dsimp only | refine Keeps.upd ?_ rfl rfl rfl rfl rfl rfl

theorem moveCell_keeps {r} {s} {s0 : State} (h : Keeps s0 s) : Keeps s0 (moveCell r s) := by
  unfold moveCell
  repeat' with_reducible first | assumption | apply takeTag_keeps | apply chargeBuckets_keeps | apply departUnit_keeps | intro _ | split | dsimp only | refine Keeps.upd ?_ rfl rfl rfl rfl rfl rfl

theorem syncOff_keeps {s} {s0 : State} (h : Keeps s0 s) : Keeps s0 (syncOff s) := by
  unfold syncOff
  repeat' with_reducible first | assumption | apply updateOff_keeps | apply each_keeps | intro _ | split | dsimp only | refine Keeps.upd ?_ rfl rfl rfl rfl rfl rfl

theorem cellTime_keeps {s} {s0 : State} (h : Keeps s0 s) : Keeps s0 (cellTime s) := by
  unfold cellTime
  repeat' with_reducible first | assumption | apply accountHeld_keeps | apply allOffers_keeps | refine (allOffers_keeps ?_).snd | apply iterate_keeps | refine (iterate_keeps ?_).snd | apply sendBalcony_keeps | apply moveCell_keeps | apply syncOff_keeps | apply each_keeps | refine KeepsP.eq ?_ (by assumption) | intro _ | split | dsimp only | refine Keeps.upd ?_ rfl rfl rfl rfl rfl rfl

theorem execSchedulerCellTime_keeps {s} {s0 : State} (h : Keeps s0 s) : KeepsN s0 (execSchedulerCellTime s) := by
  unfold execSchedulerCellTime
  repeat' with_reducible first | assumption | apply whenRunning_keeps | apply cellTime_keeps | apply KeepsN.mk' | intro _ | split | dsimp only | refine Keeps.upd ?_ rfl rfl rfl rfl rfl rfl

theorem execHallGate_keeps {s} {s0 : State} (h : Keeps s0 s) : KeepsN s0 (execHallGate s) := by
  unfold execHallGate
  repeat' with_reducible first | assumption | apply whenRunning_keeps | apply atTime_keeps | apply KeepsN.mk' | intro _ | split | dsimp only | refine Keeps.upd ?_ rfl rfl rfl rfl rfl rfl

theorem execQuietSlot_keeps {s} {s0 : State} (h : Keeps s0 s) : KeepsN s0 (execQuietSlot s) := by
  unfold execQuietSlot
  repeat' with_reducible first | assumption | apply whenRunning_keeps | apply KeepsN.mk' | intro _ | split | dsimp only | refine Keeps.upd ?_ rfl rfl rfl rfl rfl rfl

theorem execBufferAuditDone_keeps {s} {s0 : State} (h : Keeps s0 s) : KeepsN s0 (execBufferAuditDone s) := by
  unfold execBufferAuditDone
  repeat' with_reducible first | assumption | apply whenRunning_keeps | apply atTime_keeps | apply rset_keeps | apply rbump_keeps | apply radd_keeps | apply report_keeps | apply KeepsN.mk' | intro _ | split | dsimp only | refine Keeps.upd ?_ rfl rfl rfl rfl rfl rfl

theorem execEthernetFrame_keeps {port} {dst} {srcMac} {etype} {bytes} {fcs} {s} {s0 : State} (h : Keeps s0 s) : KeepsN s0 (execEthernetFrame port dst srcMac etype bytes fcs s) := by
  unfold execEthernetFrame
  repeat' with_reducible first | assumption | apply whenRunning_keeps | apply arriveEth_keeps | apply KeepsN.mk' | intro _ | split | dsimp only | refine Keeps.upd ?_ rfl rfl rfl rfl rfl rfl

end Sys2Proof.Laws
end

