-- ==== Sys2Proof/Laws/KeepsHostCmd.lean ====
section
/-! SUPPORT. What the operations of Machine/HostCmd.lean keep. -/
namespace Sys2Proof.Laws

open Sys2Proof.Machine Sys2Proof.Safety

theorem completeRaw_keeps {b0} {tag} {code} {status} {result} {eff} {irq} {s} {s0 : State} (h : Keeps s0 s) : Keeps s0 (completeRaw b0 tag code status result eff irq s) := by
  unfold completeRaw
  repeat' with_reducible first | assumption | apply setHost_keeps | intro _ | split | dsimp only | refine Keeps.upd ?_ rfl rfl rfl rfl rfl rfl

theorem complete_keeps {b0} {c} {status} {result} {eff} {s} {s0 : State} (h : Keeps s0 s) : Keeps s0 (complete b0 c status result eff s) := by
  unfold complete
  repeat' with_reducible first | assumption | apply completeRaw_keeps | intro _ | split | dsimp only | refine Keeps.upd ?_ rfl rfl rfl rfl rfl rfl

theorem completeWith_keeps {b0} {c} {status} {s} {s0 : State} (h : Keeps s0 s) : Keeps s0 (completeWith b0 c status s) := by
  unfold completeWith
  repeat' with_reducible first | assumption | apply complete_keeps | intro _ | split | dsimp only | refine Keeps.upd ?_ rfl rfl rfl rfl rfl rfl

theorem skipUnknown_keeps {b0} {a1} {a2} {s0 : State} (h : Keeps s0 a2) : Keeps s0 (skipUnknown b0 a1 a2) := by
  induction a1 generalizing a2 with
  | zero =>
    unfold skipUnknown
    repeat' with_reducible first | assumption | apply ih | apply completeWith_keeps | apply setHost_keeps | intro _ | split | dsimp only | refine Keeps.upd ?_ rfl rfl rfl rfl rfl rfl
  | succ n ih =>
    unfold skipUnknown
    repeat' with_reducible first | assumption | apply ih | apply completeWith_keeps | apply setHost_keeps | intro _ | split | dsimp only | refine Keeps.upd ?_ rfl rfl rfl rfl rfl rfl

theorem withCmdOr_keeps {refused} {b1} {code} {busy} {act} {s} {s0 : State} (hrefused : ∀ x0 t, Keeps s0 t → Keeps s0 (refused x0 t)) (hact : ∀ x0 t, Keeps s0 t → Keeps s0 (act x0 t)) (h : Keeps s0 s) : KeepsN s0 (withCmdOr refused b1 code busy act s) := by
  unfold withCmdOr
  repeat' with_reducible first | assumption | apply hrefused | apply hact | apply whenRunning_keeps | apply setHost_keeps | apply completeWith_keeps | apply skipUnknown_keeps | apply KeepsN.mk' | intro _ | split | dsimp only | refine Keeps.upd ?_ rfl rfl rfl rfl rfl rfl

theorem withCmd_keeps {b0} {code} {busy} {act} {s} {s0 : State} (hact : ∀ x0 t, Keeps s0 t → Keeps s0 (act x0 t)) (h : Keeps s0 s) : KeepsN s0 (withCmd b0 code busy act s) := by
  unfold withCmd
  repeat' with_reducible first | assumption | apply hact | apply withCmdOr_keeps | apply KeepsN.mk' | intro _ | split | dsimp only | refine Keeps.upd ?_ rfl rfl rfl rfl rfl rfl

theorem beginB_keeps {b0} {c} {obj} {s} {s0 : State} (h : Keeps s0 s) : Keeps s0 (beginB b0 c obj s) := by
  unfold beginB
  repeat' with_reducible first | assumption | apply setHost_keeps | intro _ | split | dsimp only | refine Keeps.upd ?_ rfl rfl rfl rfl rfl rfl

theorem endB_keeps {b0} {code} {obj} {status} {result} {s} {s0 : State} (h : Keeps s0 s) : Keeps s0 (endB b0 code obj status result s) := by
  unfold endB
  repeat' with_reducible first | assumption | apply completeRaw_keeps | apply setHost_keeps | intro _ | split | dsimp only | refine Keeps.upd ?_ rfl rfl rfl rfl rfl rfl

theorem writeCompletion_keeps {b0} {s} {s0 : State} (h : Keeps s0 s) : Keeps s0 (writeCompletion b0 s) := by
  unfold writeCompletion
  repeat' with_reducible first | assumption | apply emit_keeps | apply setHost_keeps | apply rset_keeps | apply raiseOn_keeps | intro _ | split | dsimp only | refine Keeps.upd ?_ rfl rfl rfl rfl rfl rfl

theorem stageCmd_keeps {b0} {c} {obj} {bytes} {s} {s0 : State} (h : Keeps s0 s) : Keeps s0 (stageCmd b0 c obj bytes s) := by
  unfold stageCmd
  repeat' with_reducible first | assumption | apply complete_keeps | intro _ | split | dsimp only | refine Keeps.upd ?_ rfl rfl rfl rfl rfl rfl

end Sys2Proof.Laws
end

