-- ==== Sys2Proof/Laws/KeepsPlan.lean ====
section
/-! SUPPORT. What the operations of Machine/Plan.lean keep. -/
namespace Sys2Proof.Laws

open Sys2Proof.Machine Sys2Proof.Safety

theorem setPlan_keeps {p} {x} {s} {s0 : State} (h : Keeps s0 s) : Keeps s0 (setPlan p x s) := by
  unfold setPlan
  repeat' with_reducible first | assumption | intro _ | split | dsimp only | refine Keeps.upd ?_ rfl rfl rfl rfl rfl rfl

theorem planErrFlag_keeps {p} {status} {x} {s} {s0 : State} (h : Keeps s0 s) : Keeps s0 (planErrFlag p status x s) := by
  unfold planErrFlag
  repeat' with_reducible first | assumption | apply issue_keeps | refine (issue_keeps ?_).snd | apply setPlan_keeps | apply sendTracked_keeps | apply rbump_keeps | apply faultRec_keeps | refine KeepsP.eq ?_ (by assumption) | intro _ | split | dsimp only | refine Keeps.upd ?_ rfl rfl rfl rfl rfl rfl

theorem planFlag_keeps {p} {x} {s} {s0 : State} (h : Keeps s0 s) : Keeps s0 (planFlag p x s) := by
  unfold planFlag
  repeat' with_reducible first | assumption | apply issue_keeps | refine (issue_keeps ?_).snd | apply setPlan_keeps | apply closeTrackError_keeps | apply sendTracked_keeps | refine KeepsP.eq ?_ (by assumption) | intro _ | split | dsimp only | refine Keeps.upd ?_ rfl rfl rfl rfl rfl rfl

theorem planGo_finish_keeps {p} {s} {s0 : State} (h : Keeps s0 s) : Keeps s0 (planGo.finish p s) := by
  unfold planGo.finish
  repeat' with_reducible first | assumption | apply planErrFlag_keeps | apply planFlag_keeps | intro _ | split | dsimp only | refine Keeps.upd ?_ rfl rfl rfl rfl rfl rfl

theorem planSend_keeps {p} {a1} {a2} {s0 : State} (h : Keeps s0 a2) : Keeps s0 (planSend p a1 a2) := by
  induction a1 generalizing a2 with
  | zero =>
    unfold planSend
    repeat' with_reducible first | assumption | apply ih | apply issue_keeps | refine (issue_keeps ?_).snd | apply setPlan_keeps | apply rset_keeps | apply sendTracked_keeps | refine KeepsP.eq ?_ (by assumption) | intro _ | split | dsimp only | refine Keeps.upd ?_ rfl rfl rfl rfl rfl rfl
  | succ n ih =>
    unfold planSend
    repeat' with_reducible first | assumption | apply ih | apply issue_keeps | refine (issue_keeps ?_).snd | apply setPlan_keeps | apply rset_keeps | apply sendTracked_keeps | refine KeepsP.eq ?_ (by assumption) | intro _ | split | dsimp only | refine Keeps.upd ?_ rfl rfl rfl rfl rfl rfl

theorem planWait_keeps {p} {s} {s0 : State} (h : Keeps s0 s) : Keeps s0 (planWait p s) := by
  unfold planWait
  repeat' with_reducible first | assumption | apply setPlan_keeps | intro _ | split | dsimp only | refine Keeps.upd ?_ rfl rfl rfl rfl rfl rfl

theorem planGo_keeps {p} {s} {s0 : State} (h : Keeps s0 s) : Keeps s0 (planGo p s) := by
  unfold planGo
  repeat' with_reducible first | assumption | apply planGo_finish_keeps | apply rset_keeps | apply planSend_keeps | apply setPlan_keeps | apply planWait_keeps | intro _ | split | dsimp only | refine Keeps.upd ?_ rfl rfl rfl rfl rfl rfl

theorem planRead_keeps {p} {run} {off} {status} {data} {s} {s0 : State} (h : Keeps s0 s) : Keeps s0 (planRead p run off status data s) := by
  unfold planRead
  repeat' with_reducible first | assumption | apply planGo_keeps | apply setPlan_keeps | apply radd_keeps | intro _ | split | dsimp only | refine Keeps.upd ?_ rfl rfl rfl rfl rfl rfl

theorem raiseLevel_keeps {p} {l} {s} {s0 : State} (h : Keeps s0 s) : Keeps s0 (raiseLevel p l s) := by
  unfold raiseLevel
  repeat' with_reducible first | assumption | apply rset_keeps | intro _ | split | dsimp only | refine Keeps.upd ?_ rfl rfl rfl rfl rfl rfl

theorem planPort_keeps {n} {s} {s0 : State} (h : Keeps s0 s) : Keeps s0 (planPort n s) := by
  unfold planPort
  repeat' with_reducible first | assumption | apply planWait_keeps | apply each_keeps | intro _ | split | dsimp only | refine Keeps.upd ?_ rfl rfl rfl rfl rfl rfl

end Sys2Proof.Laws
end

