-- ==== Sys2Proof/Laws/KeepsSnoop.lean ====
section
/-! SUPPORT. What the operations of Machine/Snoop.lean keep. -/
namespace Sys2Proof.Laws

open Sys2Proof.Machine Sys2Proof.Safety

theorem setTags_keeps {ts} {s} {s0 : State} (h : Keeps s0 s) : Keeps s0 (setTags ts s) := by
  unfold setTags
  repeat' with_reducible first | assumption | intro _ | split | dsimp only | refine Keeps.upd ?_ rfl rfl rfl rfl rfl rfl

theorem dropTag_keeps {slot} {line} {s} {s0 : State} (h : Keeps s0 s) : Keeps s0 (dropTag slot line s) := by
  unfold dropTag
  repeat' with_reducible first | assumption | apply setTags_keeps | intro _ | split | dsimp only | refine Keeps.upd ?_ rfl rfl rfl rfl rfl rfl

theorem retag_keeps {slot} {line} {state} {s} {s0 : State} (h : Keeps s0 s) : Keeps s0 (retag slot line state s) := by
  unfold retag
  repeat' with_reducible first | assumption | apply setTags_keeps | intro _ | split | dsimp only | refine Keeps.upd ?_ rfl rfl rfl rfl rfl rfl

theorem logLost_keeps {node} {slot} {cause} {line} {s} {s0 : State} (h : Keeps s0 s) : Keeps s0 (logLost node slot cause line s) := by
  unfold logLost
  repeat' with_reducible first | assumption | apply ringCount_keeps | intro _ | split | dsimp only | refine Keeps.upd ?_ rfl rfl rfl rfl rfl rfl

theorem cacheState_keeps {node} {state} {slot} {ways} {reason} {freshReg} {s} {s0 : State} (h : Keeps s0 s) : Keeps s0 (cacheState node state slot ways reason freshReg s) := by
  unfold cacheState
  repeat' with_reducible first | assumption | apply sendCtl_keeps | intro _ | split | dsimp only | refine Keeps.upd ?_ rfl rfl rfl rfl rfl rfl

theorem freeDeadSlots_keeps {s} {s0 : State} (h : Keeps s0 s) : Keeps s0 (freeDeadSlots s) := by
  unfold freeDeadSlots
  repeat' with_reducible first | assumption | apply leaseSweep_keeps | intro _ | split | dsimp only | refine Keeps.upd ?_ rfl rfl rfl rfl rfl rfl

theorem slotLoss_keeps {slot} {cause} {s} {s0 : State} (h : Keeps s0 s) : Keeps s0 (slotLoss slot cause s) := by
  unfold slotLoss
  repeat' with_reducible first | assumption | apply logLost_keeps | apply setTags_keeps | apply cacheState_keeps | apply freeDeadSlots_keeps | apply report_keeps | apply each_keeps | intro _ | split | dsimp only | refine Keeps.upd ?_ rfl rfl rfl rfl rfl rfl

theorem emitSnoop_keeps {stag} {n} {s} {s0 : State} (h : Keeps s0 s) : Keeps s0 (emitSnoop stag n s) := by
  unfold emitSnoop
  repeat' with_reducible first | assumption | apply sendRaw_keeps | intro _ | split | dsimp only | refine Keeps.upd ?_ rfl rfl rfl rfl rfl rfl

theorem sendSnoop_keeps {slot} {line} {inv} {req} {purpose} {s} {s0 : State} (h : Keeps s0 s) : Keeps s0 (sendSnoop slot line inv req purpose s) := by
  unfold sendSnoop
  repeat' with_reducible first | assumption | apply takeId_keeps | refine (takeId_keeps ?_).snd | apply emitSnoop_keeps | refine KeepsP.eq ?_ (by assumption) | intro _ | split | dsimp only | refine Keeps.upd ?_ rfl rfl rfl rfl rfl rfl

theorem askLines_keeps {off} {len} {write} {s} {s0 : State} (h : Keeps s0 s) : Keeps s0 (askLines off len write s) := by
  unfold askLines
  repeat' with_reducible first | assumption | apply sendSnoop_keeps | apply each_keeps | intro _ | split | dsimp only | refine Keeps.upd ?_ rfl rfl rfl rfl rfl rfl

theorem freeReleasing_keeps {slot} {s} {s0 : State} (h : Keeps s0 s) : Keeps s0 (freeReleasing slot s) := by
  unfold freeReleasing
  repeat' with_reducible first | assumption | apply leaseSweep_keeps | intro _ | split | dsimp only | refine Keeps.upd ?_ rfl rfl rfl rfl rfl rfl

theorem endSnoop_keeps {stag} {s} {s0 : State} (h : Keeps s0 s) : Keeps s0 (endSnoop stag s) := by
  unfold endSnoop
  repeat' with_reducible first | assumption | intro _ | split | dsimp only | refine Keeps.upd ?_ rfl rfl rfl rfl rfl rfl

theorem clearStale_keeps {pick} {s} {s0 : State} (h : Keeps s0 s) : Keeps s0 (clearStale pick s) := by
  unfold clearStale
  repeat' with_reducible first | assumption | apply freeDeadSlots_keeps | apply setTags_keeps | intro _ | split | dsimp only | refine Keeps.upd ?_ rfl rfl rfl rfl rfl rfl

theorem grantTag_keeps {slot} {line} {state} {gtag} {s} {s0 : State} (h : Keeps s0 s) : Keeps s0 (grantTag slot line state gtag s) := by
  unfold grantTag
  repeat' with_reducible first | assumption | apply dropTag_keeps | intro _ | split | dsimp only | refine Keeps.upd ?_ rfl rfl rfl rfl rfl rfl

end Sys2Proof.Laws
end

