-- ==== Sys2Proof/Laws/KeepsTablePins.lean ====
section
/-! SUPPORT. What the operations of Machine/TablePins.lean keep. -/
namespace Sys2Proof.Laws

open Sys2Proof.Machine Sys2Proof.Safety

theorem syncPins_keeps {t} {s} {s0 : State} (h : Keeps s0 s) : Keeps s0 (syncPins t s) := by
  unfold syncPins
  repeat' with_reducible first | assumption | apply rset_keeps | apply foldl_keeps | apply foldl_keepsP | apply KeepsP.mk' | refine KeepsP.eq ?_ (by assumption) | refine (foldl_keepsP ?_ ?_).snd | exact ⟨‹_›⟩ | exact (‹KeepsP _ _›).snd | intro _ | split | dsimp only | refine Keeps.upd ?_ rfl rfl rfl rfl rfl rfl

theorem setTbl_keeps {t} {x} {s} {s0 : State} (h : Keeps s0 s) : Keeps s0 (setTbl t x s) := by
  unfold setTbl
  repeat' with_reducible first | assumption | intro _ | split | dsimp only | refine Keeps.upd ?_ rfl rfl rfl rfl rfl rfl

theorem addHold_keeps {t} {ver} {b2} {s} {s0 : State} (h : Keeps s0 s) : Keeps s0 (addHold t ver b2 s) := by
  unfold addHold
  repeat' with_reducible first | assumption | apply syncPins_keeps | apply setTbl_keeps | intro _ | split | dsimp only | refine Keeps.upd ?_ rfl rfl rfl rfl rfl rfl

theorem tableRead_keeps {t} {id} {status} {data} {s} {s0 : State} (h : Keeps s0 s) : Keeps s0 (tableRead t id status data s) := by
  unfold tableRead
  repeat' with_reducible first | assumption | intro _ | split | dsimp only | refine Keeps.upd ?_ rfl rfl rfl rfl rfl rfl

theorem dropHolds_keeps {t} {f} {s} {s0 : State} (h : Keeps s0 s) : Keeps s0 (dropHolds t f s) := by
  unfold dropHolds
  repeat' with_reducible first | assumption | apply syncPins_keeps | apply setTbl_keeps | intro _ | split | dsimp only | refine Keeps.upd ?_ rfl rfl rfl rfl rfl rfl

theorem dropNodePins_keeps {n} {s} {s0 : State} (h : Keeps s0 s) : Keeps s0 (dropNodePins n s) := by
  unfold dropNodePins
  repeat' with_reducible first | assumption | apply dropHolds_keeps | apply each_keeps | intro _ | split | dsimp only | refine Keeps.upd ?_ rfl rfl rfl rfl rfl rfl

theorem batchRead_keeps {b} {id} {status} {data} {s} {s0 : State} (h : Keeps s0 s) : Keeps s0 (batchRead b id status data s) := by
  unfold batchRead
  repeat' with_reducible first | assumption | intro _ | split | dsimp only | refine Keeps.upd ?_ rfl rfl rfl rfl rfl rfl

theorem dropInstPins_keeps {i} {s} {s0 : State} (h : Keeps s0 s) : Keeps s0 (dropInstPins i s) := by
  unfold dropInstPins
  repeat' with_reducible first | assumption | apply dropHolds_keeps | apply each_keeps | intro _ | split | dsimp only | refine Keeps.upd ?_ rfl rfl rfl rfl rfl rfl

end Sys2Proof.Laws
end

