-- ==== Sys2Proof/Laws/KeepsTier.lean ====
section
/-! SUPPORT. What the operations of Machine/Tier.lean keep. -/
namespace Sys2Proof.Laws

open Sys2Proof.Machine Sys2Proof.Safety

theorem setTray_keeps {set} {t} {x} {s} {s0 : State} (h : Keeps s0 s) : Keeps s0 (setTray set t x s) := by
  unfold setTray
  repeat' with_reducible first | assumption | intro _ | split | dsimp only | refine Keeps.upd ?_ rfl rfl rfl rfl rfl rfl

theorem trayFail_keeps {set} {t} {s} {s0 : State} (h : Keeps s0 s) : Keeps s0 (trayFail set t s) := by
  unfold trayFail
  repeat' with_reducible first | assumption | apply report_keeps | apply setTray_keeps | apply detectFailure_keeps | intro _ | split | dsimp only | refine Keeps.upd ?_ rfl rfl rfl rfl rfl rfl

theorem dropOp_keeps {k} {s} {s0 : State} (h : Keeps s0 s) : Keeps s0 (dropOp k s) := by
  unfold dropOp
  repeat' with_reducible first | assumption | intro _ | split | dsimp only | refine Keeps.upd ?_ rfl rfl rfl rfl rfl rfl

theorem endMove_keeps {g} {x} {s} {s0 : State} (h : Keeps s0 s) : Keeps s0 (endMove g x s) := by
  unfold endMove
  repeat' with_reducible first | assumption | apply setGranule_keeps | intro _ | split | dsimp only | refine Keeps.upd ?_ rfl rfl rfl rfl rfl rfl

theorem abandonMove_keeps {g} {s} {s0 : State} (h : Keeps s0 s) : Keeps s0 (abandonMove g s) := by
  unfold abandonMove
  repeat' with_reducible first | assumption | apply endMove_keeps | intro _ | split | dsimp only | refine Keeps.upd ?_ rfl rfl rfl rfl rfl rfl

theorem opEnded_keeps {k} {status} {s} {s0 : State} (h : Keeps s0 s) : Keeps s0 (opEnded k status s) := by
  unfold opEnded
  repeat' with_reducible first | assumption | apply dropOp_keeps | apply abandonMove_keeps | intro _ | split | dsimp only | refine Keeps.upd ?_ rfl rfl rfl rfl rfl rfl

theorem emitTray_keeps {set} {t} {off} {len} {write} {bytes} {s} {s0 : State} (h : Keeps s0 s) : Keeps s0 (emitTray set t off len write bytes s) := by
  unfold emitTray
  repeat' with_reducible first | assumption | apply emit_keeps | intro _ | split | dsimp only | refine Keeps.upd ?_ rfl rfl rfl rfl rfl rfl

theorem rebuildUnit_keeps {set} {tray} {x} {s} {s0 : State} (h : Keeps s0 s) : Keeps s0 (rebuildUnit set tray x s) := by
  unfold rebuildUnit
  repeat' with_reducible first | assumption | apply emitTray_keeps | apply setTray_keeps | apply each_keeps | intro _ | split | dsimp only | refine Keeps.upd ?_ rfl rfl rfl rfl rfl rfl

theorem walkOn_keeps {set} {tray} {units} {s} {s0 : State} (h : Keeps s0 s) : Keeps s0 (walkOn set tray units s) := by
  unfold walkOn
  repeat' with_reducible first | assumption | apply rebuildUnit_keeps | apply setTray_keeps | apply each_keeps | intro _ | split | dsimp only | refine Keeps.upd ?_ rfl rfl rfl rfl rfl rfl

theorem walkSome_keeps {set} {tray} {s} {s0 : State} (h : Keeps s0 s) : Keeps s0 (walkSome set tray s) := by
  unfold walkSome
  repeat' with_reducible first | assumption | apply fresh_keeps | refine (fresh_keeps ?_).snd | apply walkOn_keeps | refine KeepsP.eq ?_ (by assumption) | intro _ | split | dsimp only | refine Keeps.upd ?_ rfl rfl rfl rfl rfl rfl

theorem trayError_keeps {set} {t} {s} {s0 : State} (h : Keeps s0 s) : Keeps s0 (trayError set t s) := by
  unfold trayError
  repeat' with_reducible first | assumption | apply setTray_keeps | apply trayFail_keeps | intro _ | split | dsimp only | refine Keeps.upd ?_ rfl rfl rfl rfl rfl rfl

theorem setOp_keeps {k} {o} {s} {s0 : State} (h : Keeps s0 s) : Keeps s0 (setOp k o s) := by
  unfold setOp
  repeat' with_reducible first | assumption | intro _ | split | dsimp only | refine Keeps.upd ?_ rfl rfl rfl rfl rfl rfl

theorem writeCheck_keeps {k} {o} {s} {s0 : State} (h : Keeps s0 s) : Keeps s0 (writeCheck k o s) := by
  unfold writeCheck
  repeat' with_reducible first | assumption | apply setOp_keeps | apply opEnded_keeps | intro _ | split | dsimp only | refine Keeps.upd ?_ rfl rfl rfl rfl rfl rfl

theorem sendAttempt_keeps {k} {o} {trays} {attempt} {s} {s0 : State} (h : Keeps s0 s) : Keeps s0 (sendAttempt k o trays attempt s) := by
  unfold sendAttempt
  repeat' with_reducible first | assumption | apply emitTray_keeps | apply setOp_keeps | apply each_keeps | intro _ | split | dsimp only | refine Keeps.upd ?_ rfl rfl rfl rfl rfl rfl

theorem startWrite_keeps {k} {o} {s} {s0 : State} (h : Keeps s0 s) : Keeps s0 (startWrite k o s) := by
  unfold startWrite
  repeat' with_reducible first | assumption | apply opEnded_keeps | apply setOp_keeps | apply sendAttempt_keeps | intro _ | split | dsimp only | refine Keeps.upd ?_ rfl rfl rfl rfl rfl rfl

theorem copyOut_keeps {k} {o} {s} {s0 : State} (h : Keeps s0 s) : Keeps s0 (copyOut k o s) := by
  unfold copyOut
  repeat' with_reducible first | assumption | apply setOp_keeps | apply opEnded_keeps | intro _ | split | dsimp only | refine Keeps.upd ?_ rfl rfl rfl rfl rfl rfl

theorem readDone_keeps {k} {o} {s} {s0 : State} (h : Keeps s0 s) : Keeps s0 (readDone k o s) := by
  unfold readDone
  repeat' with_reducible first | assumption | apply startWrite_keeps | apply copyOut_keeps | apply opEnded_keeps | intro _ | split | dsimp only | refine Keeps.upd ?_ rfl rfl rfl rfl rfl rfl

theorem secondAttempt_keeps {k} {o} {tried} {s} {s0 : State} (h : Keeps s0 s) : Keeps s0 (secondAttempt k o tried s) := by
  unfold secondAttempt
  repeat' with_reducible first | assumption | apply opEnded_keeps | apply sendAttempt_keeps | intro _ | split | dsimp only | refine Keeps.upd ?_ rfl rfl rfl rfl rfl rfl

theorem opAnswer_keeps {k} {t} {ok} {s} {s0 : State} (h : Keeps s0 s) : Keeps s0 (opAnswer k t ok s) := by
  unfold opAnswer
  repeat' with_reducible first | assumption | apply trayError_keeps | apply writeCheck_keeps | apply readDone_keeps | apply setOp_keeps | apply secondAttempt_keeps | apply opEnded_keeps | intro _ | split | dsimp only | refine Keeps.upd ?_ rfl rfl rfl rfl rfl rfl

theorem opTimeout_keeps {k} {s} {s0 : State} (h : Keeps s0 s) : Keeps s0 (opTimeout k s) := by
  unfold opTimeout
  repeat' with_reducible first | assumption | apply trayFail_keeps | apply writeCheck_keeps | apply secondAttempt_keeps | apply trayError_keeps | apply opEnded_keeps | apply each_keeps | intro _ | split | dsimp only | refine Keeps.upd ?_ rfl rfl rfl rfl rfl rfl

theorem startOpNow_keeps {k} {o} {s} {s0 : State} (h : Keeps s0 s) : Keeps s0 (startOpNow k o s) := by
  unfold startOpNow
  repeat' with_reducible first | assumption | apply opEnded_keeps | apply startWrite_keeps | apply secondAttempt_keeps | apply sendAttempt_keeps | intro _ | split | dsimp only | refine Keeps.upd ?_ rfl rfl rfl rfl rfl rfl

theorem startOp_keeps {k} {s} {s0 : State} (h : Keeps s0 s) : Keeps s0 (startOp k s) := by
  unfold startOp
  repeat' with_reducible first | assumption | apply startOpNow_keeps | apply walkSome_keeps | apply each_keeps | intro _ | split | dsimp only | refine Keeps.upd ?_ rfl rfl rfl rfl rfl rfl

end Sys2Proof.Laws
end

