-- ==== Sys2Proof/Laws/KeepsPool.lean ====
section
/-! SUPPORT. What the operations of Machine/Pool.lean keep. -/
namespace Sys2Proof.Laws

open Sys2Proof.Machine Sys2Proof.Safety

theorem wf_writeMem (r : PoolReq) {m : Mem} (h : Memory.wf m = true) : Memory.wf (writeMem r m) = true := by
  unfold writeMem
  split
  · exact wf_mwrite _ _ h
  · exact wf_mwrite _ _ h
  · exact wf_mwrite _ _ h
  · exact wf_mwriteMasked _ _ _ h
  · exact wf_mwrite _ _ h
  · exact h

theorem dropReq_keeps {id} {s} {s0 : State} (h : Keeps s0 s) : Keeps s0 (dropReq id s) := by
  unfold dropReq
  repeat' with_reducible first | assumption | intro _ | split | dsimp only | refine Keeps.upd ?_ rfl rfl rfl rfl rfl rfl

theorem deliver_keeps {id} {r} {status} {data} {s} {s0 : State} (h : Keeps s0 s) : Keeps s0 (deliver id r status data s) := by
  unfold deliver
  repeat' with_reducible first | assumption | apply dropReq_keeps | apply planRead_keeps | apply batchRead_keeps | apply tableRead_keeps | apply closeTrack_keeps | apply rbump_keeps | apply faultRec_keeps | apply answer_keeps | intro _ | split | dsimp only | refine Keeps.upd ?_ rfl rfl rfl rfl rfl rfl

theorem storeAnswer_keeps {id} {status} {old} {s} {s0 : State} (h : Keeps s0 s) : Keeps s0 (storeAnswer id status old s) := by
  unfold storeAnswer
  repeat' with_reducible first | assumption | apply deliver_keeps | apply each_keeps | intro _ | split | dsimp only | refine Keeps.upd ?_ rfl rfl rfl rfl rfl rfl

theorem poolFinish_keeps {id} {status} {data} {s} {s0 : State} (h : Keeps s0 s) : Keeps s0 (poolFinish id status data s) := by
  unfold poolFinish
  repeat' with_reducible first | assumption | apply fresh_keeps | refine (fresh_keeps ?_).snd | apply deliver_keeps | apply storeAnswer_keeps | refine KeepsP.eq ?_ (by assumption) | intro _ | split | dsimp only | refine Keeps.upd ?_ rfl rfl rfl rfl rfl rfl

theorem applyTorn_keeps {r} {s} {s0 : State} (h : Keeps s0 s) : Keeps s0 (applyTorn r s) := by
  unfold applyTorn
  repeat' with_reducible first | assumption | apply fresh_keeps | refine (fresh_keeps ?_).snd | refine KeepsP.eq ?_ (by assumption) | intro _ | split | dsimp only | refine Keeps.upd ?_ rfl rfl rfl rfl rfl rfl | refine Keeps.upd' ?_ ?_ ?_ ?_ ?_ ?_ ?_ | apply wf_mwrite | apply wf_mwriteMasked | apply wf_mzero | apply wf_foldl_mset | apply wf_mset | apply wf_writeMem | exact (‹Canonical _›).pool | exact (‹Canonical _›).pips | exact (‹Canonical _›).galleries | exact (‹Canonical _›).request | exact (‹Canonical _›).response | exact (‹Canonical _›).registers

theorem applyWrite_keeps {r} {s} {s0 : State} (h : Keeps s0 s) : Keeps s0 (applyWrite r s) := by
  unfold applyWrite
  repeat' with_reducible first | assumption | apply clearStale_keeps | intro _ | split | dsimp only | refine Keeps.upd ?_ rfl rfl rfl rfl rfl rfl | refine Keeps.upd' ?_ ?_ ?_ ?_ ?_ ?_ ?_ | apply wf_mwrite | apply wf_mwriteMasked | apply wf_mzero | apply wf_foldl_mset | apply wf_mset | apply wf_writeMem | exact (‹Canonical _›).pool | exact (‹Canonical _›).pips | exact (‹Canonical _›).galleries | exact (‹Canonical _›).request | exact (‹Canonical _›).response | exact (‹Canonical _›).registers

theorem ledgerApply_keeps {off} {old} {new} {s} {s0 : State} (h : Keeps s0 s) : Keeps s0 (ledgerApply off old new s) := by
  unfold ledgerApply
  repeat' with_reducible first | assumption | intro _ | split | dsimp only | refine Keeps.upd ?_ rfl rfl rfl rfl rfl rfl | refine Keeps.upd' ?_ ?_ ?_ ?_ ?_ ?_ ?_ | apply wf_mwrite | apply wf_mwriteMasked | apply wf_mzero | apply wf_foldl_mset | apply wf_mset | exact (‹Canonical _›).pool | exact (‹Canonical _›).pips | exact (‹Canonical _›).galleries | exact (‹Canonical _›).request | exact (‹Canonical _›).response | exact (‹Canonical _›).registers

theorem grantTo_keeps {r} {state} {s} {s0 : State} (h : Keeps s0 s) : Keeps s0 (grantTo r state s) := by
  unfold grantTo
  repeat' with_reducible first | assumption | apply grantTag_keeps | intro _ | split | dsimp only | refine Keeps.upd ?_ rfl rfl rfl rfl rfl rfl

theorem completeReq_keeps {id} {s} {s0 : State} (h : Keeps s0 s) : Keeps s0 (completeReq id s) := by
  unfold completeReq
  repeat' with_reducible first | assumption | apply poolFinish_keeps | apply applyTorn_keeps | apply applyWrite_keeps | apply ledgerApply_keeps | apply grantTo_keeps | apply dropTag_keeps | intro _ | split | dsimp only | refine Keeps.upd ?_ rfl rfl rfl rfl rfl rfl

theorem toPhase_keeps {id} {p} {s} {s0 : State} (h : Keeps s0 s) : Keeps s0 (toPhase id p s) := by
  unfold toPhase
  repeat' with_reducible first | assumption | intro _ | split | dsimp only | refine Keeps.upd ?_ rfl rfl rfl rfl rfl rfl

theorem waitWake_keeps {id} {r} {ks} {s} {s0 : State} (h : Keeps s0 s) : Keeps s0 (waitWake id r ks s) := by
  unfold waitWake
  repeat' with_reducible first | assumption | apply beginWake_keeps | apply toPhase_keeps | apply chargePart_keeps | apply each_keeps | intro _ | split | dsimp only | refine Keeps.upd ?_ rfl rfl rfl rfl rfl rfl

theorem allocateAll_keeps {part} {a1} {a2} {s0 : State} (h : Keeps s0 a2) : KeepsP s0 (allocateAll part a1 a2) := by
  induction a1 generalizing a2 with
  | nil => unfold allocateAll; exact ⟨h⟩
  | cons x l ih =>
    unfold allocateAll
    split
    · exact ih (KeepsP.eq (allocate_keeps h) ‹_›)
    · exact ⟨KeepsP.eq (allocate_keeps h) ‹_›⟩

theorem meterAccess_keeps {r} {write} {s} {s0 : State} (h : Keeps s0 s) : Keeps s0 (meterAccess r write s) := by
  unfold meterAccess
  repeat' with_reducible first | assumption | apply meterStair_keeps | apply each_keeps | intro _ | split | dsimp only | refine Keeps.upd ?_ rfl rfl rfl rfl rfl rfl

theorem useStacks_keeps {ks} {s} {s0 : State} (h : Keeps s0 s) : Keeps s0 (useStacks ks s) := by
  unfold useStacks
  repeat' with_reducible first | assumption | apply noteUse_keeps | apply each_keeps | intro _ | split | dsimp only | refine Keeps.upd ?_ rfl rfl rfl rfl rfl rfl

theorem startOps_keeps {s} {s0 : State} (h : Keeps s0 s) : Keeps s0 (startOps s) := by
  unfold startOps
  repeat' with_reducible first | assumption | apply startOp_keeps | apply each_keeps | intro _ | split | dsimp only | refine Keeps.upd ?_ rfl rfl rfl rfl rfl rfl

theorem sendMirror_keeps {req} {f} {s} {s0 : State} (h : Keeps s0 s) : Keeps s0 (sendMirror req f s) := by
  unfold sendMirror
  repeat' with_reducible first | assumption | apply issue_keeps | refine (issue_keeps ?_).snd | apply sendTracked_keeps | apply setOp_keeps | refine KeepsP.eq ?_ (by assumption) | intro _ | split | dsimp only | refine Keeps.upd ?_ rfl rfl rfl rfl rfl rfl

theorem addOp_keeps {o} {s} {s0 : State} (h : Keeps s0 s) : Keeps s0 (addOp o s) := by
  unfold addOp
  repeat' with_reducible first | assumption | apply takeId_keeps | refine (takeId_keeps ?_).snd | apply setOp_keeps | refine KeepsP.eq ?_ (by assumption) | intro _ | split | dsimp only | refine Keeps.upd ?_ rfl rfl rfl rfl rfl rfl

theorem tierOps_keeps {id} {r} {pieces} {s} {s0 : State} (h : Keeps s0 s) : Keeps s0 (tierOps id r pieces s) := by
  unfold tierOps
  repeat' with_reducible first | assumption | apply completeReq_keeps | apply startOps_keeps | apply sendMirror_keeps | apply addOp_keeps | apply toPhase_keeps | apply each_keeps | apply foldl_keeps | apply foldl_keepsP | apply KeepsP.mk' | refine KeepsP.eq ?_ (by assumption) | refine (foldl_keepsP ?_ ?_).snd | exact ⟨‹_›⟩ | exact (‹KeepsP _ _›).snd | intro _ | split | dsimp only | refine Keeps.upd ?_ rfl rfl rfl rfl rfl rfl

theorem markMove_keeps {g} {bits} {s} {s0 : State} (h : Keeps s0 s) : Keeps s0 (markMove g bits s) := by
  unfold markMove
  repeat' with_reducible first | assumption | apply fresh_keeps | refine (fresh_keeps ?_).snd | refine KeepsP.eq ?_ (by assumption) | intro _ | split | dsimp only | refine Keeps.upd ?_ rfl rfl rfl rfl rfl rfl

theorem markWrite_keeps {r} {s} {s0 : State} (h : Keeps s0 s) : Keeps s0 (markWrite r s) := by
  unfold markWrite
  repeat' with_reducible first | assumption | apply setGranule_keeps | apply markMove_keeps | apply each_keeps | apply foldl_keeps | apply foldl_keepsP | apply KeepsP.mk' | refine KeepsP.eq ?_ (by assumption) | refine (foldl_keepsP ?_ ?_).snd | exact ⟨‹_›⟩ | exact (‹KeepsP _ _›).snd | intro _ | split | dsimp only | refine Keeps.upd ?_ rfl rfl rfl rfl rfl rfl

theorem tierAccess_keeps {id} {r} {pieces} {s} {s0 : State} (h : Keeps s0 s) : Keeps s0 (tierAccess id r pieces s) := by
  unfold tierAccess
  repeat' with_reducible first | assumption | apply meterAccess_keeps | apply useStacks_keeps | apply poolFinish_keeps | apply tierOps_keeps | apply markWrite_keeps | intro _ | split | dsimp only | refine Keeps.upd ?_ rfl rfl rfl rfl rfl rfl

theorem accessReq_keeps {id} {s} {s0 : State} (h : Keeps s0 s) : Keeps s0 (accessReq id s) := by
  unfold accessReq
  repeat' with_reducible first | assumption | apply KeepsP.mk' | apply completeReq_keeps | apply poolFinish_keeps | apply toPhase_keeps | apply allocateAll_keeps | refine (allocateAll_keeps ?_).snd | apply tierAccess_keeps | apply waitWake_keeps | refine KeepsP.eq ?_ (by assumption) | intro _ | split | dsimp only | refine Keeps.upd ?_ rfl rfl rfl rfl rfl rfl

theorem engineWrite_keeps {req} {off} {part} {data} {s} {s0 : State} (h : Keeps s0 s) : KeepsP s0 (engineWrite req off part data s) := by
  unfold engineWrite
  repeat' with_reducible first | assumption | apply allocate_keeps | refine (allocate_keeps ?_).snd | apply markWrite_keeps | apply addOp_keeps | apply startOps_keeps | apply sendMirror_keeps | apply each_keeps | apply KeepsP.mk' | refine KeepsP.eq ?_ (by assumption) | intro _ | split | dsimp only | refine Keeps.upd ?_ rfl rfl rfl rfl rfl rfl | refine Keeps.upd' ?_ ?_ ?_ ?_ ?_ ?_ ?_ | apply wf_mwrite | apply wf_mwriteMasked | apply wf_mzero | apply wf_foldl_mset | apply wf_mset | exact (‹Canonical _›).pool | exact (‹Canonical _›).pips | exact (‹Canonical _›).galleries | exact (‹Canonical _›).request | exact (‹Canonical _›).response | exact (‹Canonical _›).registers

theorem writeBack_keeps {req} {line} {data} {s} {s0 : State} (h : Keeps s0 s) : Keeps s0 (writeBack req line data s) := by
  unfold writeBack
  repeat' with_reducible first | assumption | apply engineWrite_keeps | refine (engineWrite_keeps ?_).snd | refine KeepsP.eq ?_ (by assumption) | intro _ | split | dsimp only | refine Keeps.upd ?_ rfl rfl rfl rfl rfl rfl

theorem setReq_keeps {id} {r} {s} {s0 : State} (h : Keeps s0 s) : Keeps s0 (setReq id r s) := by
  unfold setReq
  repeat' with_reducible first | assumption | intro _ | split | dsimp only | refine Keeps.upd ?_ rfl rfl rfl rfl rfl rfl

theorem beginReq_keeps {id} {s} {s0 : State} (h : Keeps s0 s) : Keeps s0 (beginReq id s) := by
  unfold beginReq
  repeat' with_reducible first | assumption | apply rbump_keeps | apply sendSnoop_keeps | apply toPhase_keeps | apply setReq_keeps | apply accessReq_keeps | apply each_keeps | intro _ | split | dsimp only | refine Keeps.upd ?_ rfl rfl rfl rfl rfl rfl

theorem endWake_keeps {landed} {r} {s} {s0 : State} (h : Keeps s0 s) : Keeps s0 (endWake landed r s) := by
  unfold endWake
  repeat' with_reducible first | assumption | apply releasePart_keeps | intro _ | split | dsimp only | refine Keeps.upd ?_ rfl rfl rfl rfl rfl rfl

theorem advance_keeps {id} {s} {s0 : State} (h : Keeps s0 s) : Keeps s0 (advance id s) := by
  unfold advance
  repeat' with_reducible first | assumption | apply beginReq_keeps | apply accessReq_keeps | apply endWake_keeps | apply setReq_keeps | apply completeReq_keeps | intro _ | split | dsimp only | refine Keeps.upd ?_ rfl rfl rfl rfl rfl rfl

theorem poolPass_keeps {s} {s0 : State} (h : Keeps s0 s) : Keeps s0 (poolPass s) := by
  unfold poolPass
  repeat' with_reducible first | assumption | apply advance_keeps | apply startOps_keeps | apply each_keeps | intro _ | split | dsimp only | refine Keeps.upd ?_ rfl rfl rfl rfl rfl rfl

theorem heatAt_keeps {wing} {off} {len} {s} {s0 : State} (h : Keeps s0 s) : Keeps s0 (heatAt wing off len s) := by
  unfold heatAt
  repeat' with_reducible first | assumption | apply setGranule_keeps | apply each_keeps | intro _ | split | dsimp only | refine Keeps.upd ?_ rfl rfl rfl rfl rfl rfl

theorem enterReq_keeps {id} {r} {e} {s} {s0 : State} (h : Keeps s0 s) : Keeps s0 (enterReq id r e s) := by
  unfold enterReq
  repeat' with_reducible first | assumption | apply takeId_keeps | refine (takeId_keeps ?_).snd | apply heatAt_keeps | apply setReq_keeps | refine KeepsP.eq ?_ (by assumption) | intro _ | split | dsimp only | refine Keeps.upd ?_ rfl rfl rfl rfl rfl rfl

theorem submit_keeps {id} {r} {own} {s} {s0 : State} (h : Keeps s0 s) : Keeps s0 (submit id r own s) := by
  unfold submit
  repeat' with_reducible first | assumption | apply poolFinish_keeps | apply setReq_keeps | apply poolPass_keeps | apply enterReq_keeps | intro _ | split | dsimp only | refine Keeps.upd ?_ rfl rfl rfl rfl rfl rfl

theorem maskMarks_keeps {mask} {s} {s0 : State} (h : Keeps s0 s) : KeepsP s0 (maskMarks mask s) := by
  unfold maskMarks
  repeat' with_reducible first | assumption | apply fresh_keeps | refine (fresh_keeps ?_).snd | apply KeepsP.mk' | refine KeepsP.eq ?_ (by assumption) | intro _ | split | dsimp only | refine Keeps.upd ?_ rfl rfl rfl rfl rfl rfl

end Sys2Proof.Laws
end

