-- ==== Sys2Proof/Laws/KeepsExtents.lean ====
section
/-! SUPPORT. What the operations of Machine/Extents.lean keep. -/
namespace Sys2Proof.Laws

open Sys2Proof.Machine Sys2Proof.Safety

theorem allocLedger_keeps {x} {s} {s0 : State} (h : Keeps s0 s) : Keeps s0 (allocLedger x s) := by
  unfold allocLedger
  repeat' with_reducible first | assumption | apply allocLower_keeps | refine (allocLower_keeps ?_).snd | apply each_keeps | refine KeepsP.eq ?_ (by assumption) | intro _ | split | dsimp only | refine Keeps.upd ?_ rfl rfl rfl rfl rfl rfl

theorem execExtGrant_keeps {b0} {s} {s0 : State} (h : Keeps s0 s) : KeepsN s0 (execExtGrant b0 s) := by
  unfold execExtGrant
  repeat' with_reducible first | assumption | apply withCmd_keeps | apply stageCmd_keeps | apply completeWith_keeps | apply KeepsN.mk' | intro _ | split | dsimp only | refine Keeps.upd ?_ rfl rfl rfl rfl rfl rfl

theorem abandonReq_keeps {id} {s} {s0 : State} (h : Keeps s0 s) : Keeps s0 (abandonReq id s) := by
  unfold abandonReq
  repeat' with_reducible first | assumption | apply dropReq_keeps | intro _ | split | dsimp only | refine Keeps.upd ?_ rfl rfl rfl rfl rfl rfl

theorem setCtx_keeps {c} {x} {s} {s0 : State} (h : Keeps s0 s) : Keeps s0 (setCtx c x s) := by
  unfold setCtx
  repeat' with_reducible first | assumption | intro _ | split | dsimp only | refine Keeps.upd ?_ rfl rfl rfl rfl rfl rfl

theorem streamCmdDone_keeps {c} {status} {s} {s0 : State} (h : Keeps s0 s) : Keeps s0 (streamCmdDone c status s) := by
  unfold streamCmdDone
  repeat' with_reducible first | assumption | apply setCtx_keeps | apply completeRaw_keeps | apply setHost_keeps | intro _ | split | dsimp only | refine Keeps.upd ?_ rfl rfl rfl rfl rfl rfl

theorem ctxLost_keeps {c} {s} {s0 : State} (h : Keeps s0 s) : Keeps s0 (ctxLost c s) := by
  unfold ctxLost
  repeat' with_reducible first | assumption | apply streamCmdDone_keeps | apply rbump_keeps | apply setCtx_keeps | intro _ | split | dsimp only | refine Keeps.upd ?_ rfl rfl rfl rfl rfl rfl

theorem fenceExtent_keeps {e} {s} {s0 : State} (h : Keeps s0 s) : Keeps s0 (fenceExtent e s) := by
  unfold fenceExtent
  repeat' with_reducible first | assumption | apply setExtent_keeps | apply abandonMove_keeps | apply ctxLost_keeps | apply each_keeps | intro _ | split | dsimp only | refine Keeps.upd ?_ rfl rfl rfl rfl rfl rfl

theorem freeExtent_keeps {e} {s} {s0 : State} (h : Keeps s0 s) : Keeps s0 (freeExtent e s) := by
  unfold freeExtent
  repeat' with_reducible first | assumption | apply setTags_keeps | apply poolPass_keeps | apply freeDeadSlots_keeps | intro _ | split | dsimp only | refine Keeps.upd ?_ rfl rfl rfl rfl rfl rfl | refine Keeps.upd' ?_ ?_ ?_ ?_ ?_ ?_ ?_ | apply wf_mwrite | apply wf_mwriteMasked | apply wf_mzero | apply wf_foldl_mset | apply wf_mset | exact (‹Canonical _›).pool | exact (‹Canonical _›).pips | exact (‹Canonical _›).galleries | exact (‹Canonical _›).request | exact (‹Canonical _›).response | exact (‹Canonical _›).registers

theorem scrubUnit_keeps {set} {slot} {u} {s} {s0 : State} (h : Keeps s0 s) : Keeps s0 (scrubUnit set slot u s) := by
  unfold scrubUnit
  repeat' with_reducible first | assumption | apply emitTray_keeps | apply each_keeps | intro _ | split | dsimp only | refine Keeps.upd ?_ rfl rfl rfl rfl rfl rfl

theorem scrubGranule_keeps {g} {s} {s0 : State} (h : Keeps s0 s) : Keeps s0 (scrubGranule g s) := by
  unfold scrubGranule
  repeat' with_reducible first | assumption | apply meterStair_keeps | apply useWing_keeps | apply scrubUnit_keeps | apply each_keeps | intro _ | split | dsimp only | refine Keeps.upd ?_ rfl rfl rfl rfl rfl rfl

theorem execScrubDone_keeps {e} {s} {s0 : State} (h : Keeps s0 s) : KeepsN s0 (execScrubDone e s) := by
  unfold execScrubDone
  repeat' with_reducible first | assumption | apply whenRunning_keeps | apply freeExtent_keeps | apply scrubGranule_keeps | apply atTime_keeps | apply each_keeps | apply KeepsN.mk' | intro _ | split | dsimp only | refine Keeps.upd ?_ rfl rfl rfl rfl rfl rfl

theorem leaveDraining_keeps {e} {s} {s0 : State} (h : Keeps s0 s) : Keeps s0 (leaveDraining e s) := by
  unfold leaveDraining
  repeat' with_reducible first | assumption | apply setExtent_keeps | apply freeExtent_keeps | intro _ | split | dsimp only | refine Keeps.upd ?_ rfl rfl rfl rfl rfl rfl

theorem walkFilter_keeps {e} {x} {s} {s0 : State} (h : Keeps s0 s) : Keeps s0 (walkFilter e x s) := by
  unfold walkFilter
  repeat' with_reducible first | assumption | apply sendSnoop_keeps | apply each_keeps | intro _ | split | dsimp only | refine Keeps.upd ?_ rfl rfl rfl rfl rfl rfl

theorem drainOver_keeps {e} {x} {s} {s0 : State} (h : Keeps s0 s) : Keeps s0 (drainOver e x s) := by
  unfold drainOver
  repeat' with_reducible first | assumption | apply leaveDraining_keeps | apply walkFilter_keeps | intro _ | split | dsimp only | refine Keeps.upd ?_ rfl rfl rfl rfl rfl rfl

theorem execDrainDone_keeps {e} {s} {s0 : State} (h : Keeps s0 s) : KeepsN s0 (execDrainDone e s) := by
  unfold execDrainDone
  repeat' with_reducible first | assumption | apply whenRunning_keeps | apply drainOver_keeps | apply KeepsN.mk' | intro _ | split | dsimp only | refine Keeps.upd ?_ rfl rfl rfl rfl rfl rfl

theorem reportObject_keeps {addr} {kind} {src} {status} {written} {s} {s0 : State} (h : Keeps s0 s) : Keeps s0 (reportObject addr kind src status written s) := by
  unfold reportObject
  repeat' with_reducible first | assumption | apply stageEntry_keeps | intro _ | split | dsimp only | refine Keeps.upd ?_ rfl rfl rfl rfl rfl rfl

theorem makeExtent_keeps {e} {x} {s} {s0 : State} (h : Keeps s0 s) : Keeps s0 (makeExtent e x s) := by
  unfold makeExtent
  repeat' with_reducible first | assumption | apply setExtent_keeps | apply leaseStart_keeps | apply allocLedger_keeps | intro _ | split | dsimp only | refine Keeps.upd ?_ rfl rfl rfl rfl rfl rfl

theorem commitExtents_keeps {cmds} {s} {s0 : State} (h : Keeps s0 s) : Keeps s0 (commitExtents cmds s) := by
  unfold commitExtents
  repeat' with_reducible first | assumption | apply reportObject_keeps | apply makeExtent_keeps | apply fenceExtent_keeps | apply each_keeps | intro _ | split | dsimp only | refine Keeps.upd ?_ rfl rfl rfl rfl rfl rfl

theorem scrubSoFar_keeps {e} {x} {s} {s0 : State} (h : Keeps s0 s) : Keeps s0 (scrubSoFar e x s) := by
  unfold scrubSoFar
  repeat' with_reducible first | assumption | apply setExtent_keeps | apply scrubGranule_keeps | apply each_keeps | intro _ | split | dsimp only | refine Keeps.upd ?_ rfl rfl rfl rfl rfl rfl

theorem execFenceConfirmed_keeps {e} {s} {s0 : State} (h : Keeps s0 s) : KeepsN s0 (execFenceConfirmed e s) := by
  unfold execFenceConfirmed
  repeat' with_reducible first | assumption | apply whenRunning_keeps | apply walkFilter_keeps | apply setExtent_keeps | apply KeepsN.mk' | intro _ | split | dsimp only | refine Keeps.upd ?_ rfl rfl rfl rfl rfl rfl

theorem execDrainTimeout_keeps {e} {s} {s0 : State} (h : Keeps s0 s) : KeepsN s0 (execDrainTimeout e s) := by
  unfold execDrainTimeout
  repeat' with_reducible first | assumption | apply whenRunning_keeps | apply atTime_keeps | apply drainOver_keeps | apply poolPass_keeps | apply radd_keeps | apply abandonReq_keeps | apply each_keeps | apply KeepsN.mk' | intro _ | split | dsimp only | refine Keeps.upd ?_ rfl rfl rfl rfl rfl rfl

theorem execExtRevoke_keeps {b0} {s} {s0 : State} (h : Keeps s0 s) : KeepsN s0 (execExtRevoke b0 s) := by
  unfold execExtRevoke
  repeat' with_reducible first | assumption | apply withCmd_keeps | apply stageCmd_keeps | apply completeWith_keeps | apply KeepsN.mk' | intro _ | split | dsimp only | refine Keeps.upd ?_ rfl rfl rfl rfl rfl rfl

end Sys2Proof.Laws
end

