-- ==== Sys2Proof/Laws/KeepsXact.lean ====
section
/-! SUPPORT. What the operations of Machine/Xact.lean keep. -/
namespace Sys2Proof.Laws

open Sys2Proof.Machine Sys2Proof.Safety

theorem refuse_keeps {n} {tracked} {f} {status} {from_} {s} {s0 : State} (h : Keeps s0 s) : Keeps s0 (refuse n tracked f status from_ s) := by
  unfold refuse
  repeat' with_reducible first | assumption | apply closeTrackError_keeps | apply answerFree_keeps | apply faultRec_keeps | intro _ | split | dsimp only | refine Keeps.upd ?_ rfl rfl rfl rfl rfl rfl

theorem sendAs_keeps {n} {f} {s} {s0 : State} (h : Keeps s0 s) : Keeps s0 (sendAs n f s) := by
  unfold sendAs
  repeat' with_reducible first | assumption | apply sendTracked_keeps | intro _ | split | dsimp only | refine Keeps.upd ?_ rfl rfl rfl rfl rfl rfl

theorem loadAct_keeps {n} {tracked} {f} {s} {s0 : State} (h : Keeps s0 s) : Keeps s0 (loadAct n tracked f s) := by
  unfold loadAct
  repeat' with_reducible first | assumption | apply refuse_keeps | apply submit_keeps | apply sendTracked_keeps | apply sendAs_keeps | intro _ | split | dsimp only | refine Keeps.upd ?_ rfl rfl rfl rfl rfl rfl

theorem mayEnter_keeps {id} {i} {s} {s0 : State} (h : Keeps s0 s) : KeepsT s0 (mayEnter id i s) := by
  unfold mayEnter
  repeat' with_reducible first | assumption | apply takeInbox_keeps | apply addTrack_keeps | apply KeepsT.mk' | intro _ | split | dsimp only | refine Keeps.upd ?_ rfl rfl rfl rfl rfl rfl

theorem serve_keeps {id} {ok} {act} {s} {s0 : State} (hact : ∀ x0 x1 x2 t, Keeps s0 t → Keeps s0 (act x0 x1 x2 t)) (h : Keeps s0 s) : KeepsN s0 (serve id ok act s) := by
  unfold serve
  repeat' with_reducible first | assumption | apply hact | apply whenRunning_keeps | apply mayEnter_keeps | refine (mayEnter_keeps ?_).third | apply KeepsN.mk' | refine KeepsT.eq ?_ (by assumption) | intro _ | split | dsimp only | refine Keeps.upd ?_ rfl rfl rfl rfl rfl rfl

theorem bulkAct_keeps {k} {n} {tracked} {f} {s} {s0 : State} (h : Keeps s0 s) : Keeps s0 (bulkAct k n tracked f s) := by
  unfold bulkAct
  repeat' with_reducible first | assumption | apply sendTracked_keeps | apply maskMarks_keeps | refine (maskMarks_keeps ?_).snd | apply submit_keeps | refine KeepsP.eq ?_ (by assumption) | intro _ | split | dsimp only | refine Keeps.upd ?_ rfl rfl rfl rfl rfl rfl

theorem execBulkPut_keeps {id} {s} {s0 : State} (h : Keeps s0 s) : KeepsN s0 (execBulkPut id s) := by
  unfold execBulkPut
  repeat' with_reducible first | assumption | apply serve_keeps | apply bulkAct_keeps | apply KeepsN.mk' | intro _ | split | dsimp only | refine Keeps.upd ?_ rfl rfl rfl rfl rfl rfl

theorem execBulkPutMasked_keeps {id} {s} {s0 : State} (h : Keeps s0 s) : KeepsN s0 (execBulkPutMasked id s) := by
  unfold execBulkPutMasked
  repeat' with_reducible first | assumption | apply serve_keeps | apply bulkAct_keeps | apply KeepsN.mk' | intro _ | split | dsimp only | refine Keeps.upd ?_ rfl rfl rfl rfl rfl rfl

theorem dropWaiting_keeps {f} {s} {s0 : State} (h : Keeps s0 s) : Keeps s0 (dropWaiting f s) := by
  unfold dropWaiting
  repeat' with_reducible first | assumption | intro _ | split | dsimp only | refine Keeps.upd ?_ rfl rfl rfl rfl rfl rfl

theorem execTrackerTimeout_keeps {req} {s} {s0 : State} (h : Keeps s0 s) : KeepsN s0 (execTrackerTimeout req s) := by
  unfold execTrackerTimeout
  repeat' with_reducible first | assumption | apply whenRunning_keeps | apply atTime_keeps | apply closeTrackError_keeps | apply dropWaiting_keeps | apply KeepsN.mk' | intro _ | split | dsimp only | refine Keeps.upd ?_ rfl rfl rfl rfl rfl rfl

theorem execLoad_keeps {id} {s} {s0 : State} (h : Keeps s0 s) : KeepsN s0 (execLoad id s) := by
  unfold execLoad
  repeat' with_reducible first | assumption | apply serve_keeps | apply loadAct_keeps | apply KeepsN.mk' | intro _ | split | dsimp only | refine Keeps.upd ?_ rfl rfl rfl rfl rfl rfl

theorem closeForwarded_keeps {id} {t} {a} {s} {s0 : State} (h : Keeps s0 s) : Keeps s0 (closeForwarded id t a s) := by
  unfold closeForwarded
  repeat' with_reducible first | assumption | apply pairEnd_keeps | apply dropTrack_keeps | apply faultRec_keeps | apply sendAlong_keeps | intro _ | split | dsimp only | refine Keeps.upd ?_ rfl rfl rfl rfl rfl rfl

theorem storeGo_keeps {n} {f} {s} {s0 : State} (h : Keeps s0 s) : Keeps s0 (storeGo n f s) := by
  unfold storeGo
  repeat' with_reducible first | assumption | apply submit_keeps | apply sendTracked_keeps | apply sendAs_keeps | intro _ | split | dsimp only | refine Keeps.upd ?_ rfl rfl rfl rfl rfl rfl

theorem ofGo_keeps {n} {f} {s} {s0 : State} (h : Keeps s0 s) : Keeps s0 (ofGo n f s) := by
  unfold ofGo
  repeat' with_reducible first | assumption | apply closeTrackError_keeps | apply storeGo_keeps | intro _ | split | dsimp only | refine Keeps.upd ?_ rfl rfl rfl rfl rfl rfl

theorem storeAct_keeps {n} {tracked} {f} {s} {s0 : State} (h : Keeps s0 s) : Keeps s0 (storeAct n tracked f s) := by
  unfold storeAct
  repeat' with_reducible first | assumption | apply refuse_keeps | apply storeGo_keeps | apply ofGo_keeps | intro _ | split | dsimp only | refine Keeps.upd ?_ rfl rfl rfl rfl rfl rfl

theorem takeAnswer_keeps {a} {s} {s0 : State} (h : Keeps s0 s) : Keeps s0 (takeAnswer a s) := by
  unfold takeAnswer
  repeat' with_reducible first | assumption | apply rbump_keeps | apply repeatTrack_keeps | apply countRefused_keeps | apply closeForwarded_keeps | apply closeTrack_keeps | intro _ | split | dsimp only | refine Keeps.upd ?_ rfl rfl rfl rfl rfl rfl

theorem atomicApply_keeps {n} {tracked} {aopc} {f} {s} {s0 : State} (h : Keeps s0 s) : Keeps s0 (atomicApply n tracked aopc f s) := by
  unfold atomicApply
  repeat' with_reducible first | assumption | apply submit_keeps | intro _ | split | dsimp only | refine Keeps.upd ?_ rfl rfl rfl rfl rfl rfl

theorem execAnswerEntryExpire_keeps {src} {tag} {s} {s0 : State} (h : Keeps s0 s) : KeepsN s0 (execAnswerEntryExpire src tag s) := by
  unfold execAnswerEntryExpire
  repeat' with_reducible first | assumption | apply whenRunning_keeps | apply atTime_keeps | apply KeepsN.mk' | intro _ | split | dsimp only | refine Keeps.upd ?_ rfl rfl rfl rfl rfl rfl

theorem mirrorAnswer_keeps {k} {status} {s} {s0 : State} (h : Keeps s0 s) : Keeps s0 (mirrorAnswer k status s) := by
  unfold mirrorAnswer
  repeat' with_reducible first | assumption | apply poolPass_keeps | apply opEnded_keeps | intro _ | split | dsimp only | refine Keeps.upd ?_ rfl rfl rfl rfl rfl rfl

theorem execTrackerAnswer_keeps {id} {s} {s0 : State} (h : Keeps s0 s) : KeepsN s0 (execTrackerAnswer id s) := by
  unfold execTrackerAnswer
  repeat' with_reducible first | assumption | apply whenRunning_keeps | apply mirrorAnswer_keeps | apply takeInbox_keeps | apply takeAnswer_keeps | apply KeepsN.mk' | intro _ | split | dsimp only | refine Keeps.upd ?_ rfl rfl rfl rfl rfl rfl

theorem execStore_keeps {id} {s} {s0 : State} (h : Keeps s0 s) : KeepsN s0 (execStore id s) := by
  unfold execStore
  repeat' with_reducible first | assumption | apply serve_keeps | apply storeAct_keeps | apply KeepsN.mk' | intro _ | split | dsimp only | refine Keeps.upd ?_ rfl rfl rfl rfl rfl rfl

theorem homeAtomic_keeps {n} {tracked} {aopc} {f} {s} {s0 : State} (h : Keeps s0 s) : Keeps s0 (homeAtomic n tracked aopc f s) := by
  unfold homeAtomic
  repeat' with_reducible first | assumption | apply deliver_keeps | apply refuse_keeps | apply setReq_keeps | apply atomicApply_keeps | intro _ | split | dsimp only | refine Keeps.upd ?_ rfl rfl rfl rfl rfl rfl

theorem atomicAct_keeps {n} {tracked} {f} {s} {s0 : State} (h : Keeps s0 s) : Keeps s0 (atomicAct n tracked f s) := by
  unfold atomicAct
  repeat' with_reducible first | assumption | apply homeAtomic_keeps | apply refuse_keeps | apply sendTracked_keeps | apply sendAs_keeps | intro _ | split | dsimp only | refine Keeps.upd ?_ rfl rfl rfl rfl rfl rfl

theorem execAtomic_keeps {id} {s} {s0 : State} (h : Keeps s0 s) : KeepsN s0 (execAtomic id s) := by
  unfold execAtomic
  repeat' with_reducible first | assumption | apply serve_keeps | apply atomicAct_keeps | apply KeepsN.mk' | intro _ | split | dsimp only | refine Keeps.upd ?_ rfl rfl rfl rfl rfl rfl

theorem execOfStoreRelease_keeps {id} {s} {s0 : State} (h : Keeps s0 s) : KeepsN s0 (execOfStoreRelease id s) := by
  unfold execOfStoreRelease
  repeat' with_reducible first | assumption | apply whenRunning_keeps | apply ofGo_keeps | apply KeepsN.mk' | intro _ | split | dsimp only | refine Keeps.upd ?_ rfl rfl rfl rfl rfl rfl

theorem execBulkAtomic_keeps {id} {s} {s0 : State} (h : Keeps s0 s) : KeepsN s0 (execBulkAtomic id s) := by
  unfold execBulkAtomic
  repeat' with_reducible first | assumption | apply serve_keeps | apply homeAtomic_keeps | apply sendTracked_keeps | apply KeepsN.mk' | intro _ | split | dsimp only | refine Keeps.upd ?_ rfl rfl rfl rfl rfl rfl

theorem execBulkGet_keeps {id} {s} {s0 : State} (h : Keeps s0 s) : KeepsN s0 (execBulkGet id s) := by
  unfold execBulkGet
  repeat' with_reducible first | assumption | apply serve_keeps | apply bulkAct_keeps | apply KeepsN.mk' | intro _ | split | dsimp only | refine Keeps.upd ?_ rfl rfl rfl rfl rfl rfl

end Sys2Proof.Laws
end

