-- ==== Sys2Proof/Laws/KeepsTokenStreams.lean ====
section
/-! SUPPORT. What the operations of Machine/TokenStreams.lean keep. -/
namespace Sys2Proof.Laws

open Sys2Proof.Machine Sys2Proof.Safety

theorem execStreamQuery_keeps {b0} {s} {s0 : State} (h : Keeps s0 s) : KeepsN s0 (execStreamQuery b0 s) := by
  unfold execStreamQuery
  repeat' with_reducible first | assumption | apply withCmd_keeps | apply completeWith_keeps | apply emit_keeps | apply KeepsN.mk' | intro _ | split | dsimp only | refine Keeps.upd ?_ rfl rfl rfl rfl rfl rfl

theorem modCtx_keeps {c} {f} {s} {s0 : State} (h : Keeps s0 s) : Keeps s0 (modCtx c f s) := by
  unfold modCtx
  repeat' with_reducible first | assumption | intro _ | split | dsimp only | refine Keeps.upd ?_ rfl rfl rfl rfl rfl rfl

theorem routeOwn_keeps {n} {f} {s} {s0 : State} (h : Keeps s0 s) : Keeps s0 (routeOwn n f s) := by
  unfold routeOwn
  repeat' with_reducible first | assumption | apply loadAct_keeps | apply storeAct_keeps | apply atomicAct_keeps | apply homeAtomic_keeps | apply sendTracked_keeps | apply bulkAct_keeps | intro _ | split | dsimp only | refine Keeps.upd ?_ rfl rfl rfl rfl rfl rfl

theorem sendCasFrame_keeps {c} {s} {s0 : State} (h : Keeps s0 s) : Keeps s0 (sendCasFrame c s) := by
  unfold sendCasFrame
  repeat' with_reducible first | assumption | apply issue_keeps | refine (issue_keeps ?_).snd | apply routeOwn_keeps | apply modCtx_keeps | refine KeepsP.eq ?_ (by assumption) | intro _ | split | dsimp only | refine Keeps.upd ?_ rfl rfl rfl rfl rfl rfl

theorem ask_keeps {origin} {f} {s} {s0 : State} (h : Keeps s0 s) : KeepsP s0 (ask origin f s) := by
  unfold ask
  repeat' with_reducible first | assumption | apply issue_keeps | refine (issue_keeps ?_).snd | apply routeOwn_keeps | apply KeepsP.mk' | refine KeepsP.eq ?_ (by assumption) | intro _ | split | dsimp only | refine Keeps.upd ?_ rfl rfl rfl rfl rfl rfl

theorem readLedger_keeps {c} {s} {s0 : State} (h : Keeps s0 s) : Keeps s0 (readLedger c s) := by
  unfold readLedger
  repeat' with_reducible first | assumption | apply ask_keeps | refine (ask_keeps ?_).snd | apply modCtx_keeps | refine KeepsP.eq ?_ (by assumption) | intro _ | split | dsimp only | refine Keeps.upd ?_ rfl rfl rfl rfl rfl rfl

theorem settle_keeps {c} {lstate} {status} {s} {s0 : State} (h : Keeps s0 s) : Keeps s0 (settle c lstate status s) := by
  unfold settle
  repeat' with_reducible first | assumption | apply streamCmdDone_keeps | apply modCtx_keeps | intro _ | split | dsimp only | refine Keeps.upd ?_ rfl rfl rfl rfl rfl rfl

theorem freeCtx_keeps {c} {s} {s0 : State} (h : Keeps s0 s) : Keeps s0 (freeCtx c s) := by
  unfold freeCtx
  repeat' with_reducible first | assumption | intro _ | split | dsimp only | refine Keeps.upd ?_ rfl rfl rfl rfl rfl rfl

theorem reverted_keeps {party} {x} {s} {s0 : State} (h : Keeps s0 s) : Keeps s0 (reverted party x s) := by
  unfold reverted
  repeat' with_reducible first | assumption | apply report_keeps | apply rbump_keeps | intro _ | split | dsimp only | refine Keeps.upd ?_ rfl rfl rfl rfl rfl rfl

theorem sourceBack_keeps {c} {status} {x} {s} {s0 : State} (h : Keeps s0 s) : Keeps s0 (sourceBack c status x s) := by
  unfold sourceBack
  repeat' with_reducible first | assumption | apply settle_keeps | apply reverted_keeps | intro _ | split | dsimp only | refine Keeps.upd ?_ rfl rfl rfl rfl rfl rfl

theorem startCas_keeps {c} {step} {cmp} {new} {s} {s0 : State} (h : Keeps s0 s) : Keeps s0 (startCas c step cmp new s) := by
  unfold startCas
  repeat' with_reducible first | assumption | apply sendCasFrame_keeps | apply modCtx_keeps | intro _ | split | dsimp only | refine Keeps.upd ?_ rfl rfl rfl rfl rfl rfl

theorem pullNext_keeps {c} {s} {s0 : State} (h : Keeps s0 s) : Keeps s0 (pullNext c s) := by
  unfold pullNext
  repeat' with_reducible first | assumption | apply startCas_keeps | apply ask_keeps | refine (ask_keeps ?_).snd | apply modCtx_keeps | refine KeepsP.eq ?_ (by assumption) | intro _ | split | dsimp only | refine Keeps.upd ?_ rfl rfl rfl rfl rfl rfl

theorem beginPull_keeps {c} {handing} {s} {s0 : State} (h : Keeps s0 s) : Keeps s0 (beginPull c handing s) := by
  unfold beginPull
  repeat' with_reducible first | assumption | apply pullNext_keeps | apply modCtx_keeps | intro _ | split | dsimp only | refine Keeps.upd ?_ rfl rfl rfl rfl rfl rfl

theorem targetGone_keeps {c} {x} {s} {s0 : State} (h : Keeps s0 s) : Keeps s0 (targetGone c x s) := by
  unfold targetGone
  repeat' with_reducible first | assumption | apply settle_keeps | apply reverted_keeps | intro _ | split | dsimp only | refine Keeps.upd ?_ rfl rfl rfl rfl rfl rfl

theorem casOutcome_keeps {c} {x} {applied} {old} {status} {s} {s0 : State} (h : Keeps s0 s) : Keeps s0 (casOutcome c x applied old status s) := by
  unfold casOutcome
  repeat' with_reducible first | assumption | apply settle_keeps | apply freeCtx_keeps | apply streamCmdDone_keeps | apply modCtx_keeps | apply sourceBack_keeps | apply beginPull_keeps | apply targetGone_keeps | apply rbump_keeps | apply ctxLost_keeps | intro _ | split | dsimp only | refine Keeps.upd ?_ rfl rfl rfl rfl rfl rfl

theorem casAnswer_keeps {c} {x} {a} {s} {s0 : State} (h : Keeps s0 s) : Keeps s0 (casAnswer c x a s) := by
  unfold casAnswer
  repeat' with_reducible first | assumption | apply modCtx_keeps | apply sendCasFrame_keeps | apply readLedger_keeps | apply casOutcome_keeps | intro _ | split | dsimp only | refine Keeps.upd ?_ rfl rfl rfl rfl rfl rfl

theorem streamCmd_keeps {b0} {code} {buf} {act} {s} {s0 : State} (hact : ∀ x0 x1 t, Keeps s0 t → Keeps s0 (act x0 x1 t)) (h : Keeps s0 s) : KeepsN s0 (streamCmd b0 code buf act s) := by
  unfold streamCmd
  repeat' with_reducible first | assumption | apply hact | apply withCmd_keeps | apply completeWith_keeps | apply KeepsN.mk' | intro _ | split | dsimp only | refine Keeps.upd ?_ rfl rfl rfl rfl rfl rfl

theorem listCmd_keeps {b0} {code} {buf} {act} {s} {s0 : State} (hact : ∀ x0 x1 t, Keeps s0 t → Keeps s0 (act x0 x1 t)) (h : Keeps s0 s) : KeepsN s0 (listCmd b0 code buf act s) := by
  unfold listCmd
  repeat' with_reducible first | assumption | apply hact | apply whenRunning_keeps | apply askLines_keeps | apply streamCmd_keeps | apply KeepsN.mk' | intro _ | split | dsimp only | refine Keeps.upd ?_ rfl rfl rfl rfl rfl rfl

theorem revertEntry_keeps {off} {s} {s0 : State} (h : Keeps s0 s) : Keeps s0 (revertEntry off s) := by
  unfold revertEntry
  repeat' with_reducible first | assumption | apply takeId_keeps | refine (takeId_keeps ?_).snd | apply poolPass_keeps | apply enterReq_keeps | refine KeepsP.eq ?_ (by assumption) | intro _ | split | dsimp only | refine Keeps.upd ?_ rfl rfl rfl rfl rfl rfl

theorem ledgerRead_keeps {c} {x} {a} {s} {s0 : State} (h : Keeps s0 s) : Keeps s0 (ledgerRead c x a s) := by
  unfold ledgerRead
  repeat' with_reducible first | assumption | apply modCtx_keeps | apply readLedger_keeps | apply freeCtx_keeps | apply streamCmdDone_keeps | apply settle_keeps | apply casOutcome_keeps | apply sourceBack_keeps | apply beginPull_keeps | apply startCas_keeps | intro _ | split | dsimp only | refine Keeps.upd ?_ rfl rfl rfl rfl rfl rfl

theorem sendHandCas_keeps {c} {s} {s0 : State} (h : Keeps s0 s) : Keeps s0 (sendHandCas c s) := by
  unfold sendHandCas
  repeat' with_reducible first | assumption | apply startCas_keeps | intro _ | split | dsimp only | refine Keeps.upd ?_ rfl rfl rfl rfl rfl rfl

theorem execLedgerPoll_keeps {ctx} {s} {s0 : State} (h : Keeps s0 s) : KeepsN s0 (execLedgerPoll ctx s) := by
  unfold execLedgerPoll
  repeat' with_reducible first | assumption | apply whenRunning_keeps | apply ledgerRead_keeps | apply takeInbox_keeps | apply sendHandCas_keeps | apply readLedger_keeps | apply atTime_keeps | apply modCtx_keeps | apply KeepsN.mk' | intro _ | split | dsimp only | refine Keeps.upd ?_ rfl rfl rfl rfl rfl rfl

theorem pieceDone_keeps {c} {x} {s} {s0 : State} (h : Keeps s0 s) : Keeps s0 (pieceDone c x s) := by
  unfold pieceDone
  repeat' with_reducible first | assumption | apply pullNext_keeps | apply modCtx_keeps | intro _ | split | dsimp only | refine Keeps.upd ?_ rfl rfl rfl rfl rfl rfl

theorem mapCtx_keeps {c} {from_} {x} {s} {s0 : State} (h : Keeps s0 s) : Keeps s0 (mapCtx c from_ x s) := by
  unfold mapCtx
  repeat' with_reducible first | assumption | apply each_keeps | intro _ | split | dsimp only | refine Keeps.upd ?_ rfl rfl rfl rfl rfl rfl

theorem execStreamGrow_keeps {b0} {buf} {s} {s0 : State} (h : Keeps s0 s) : KeepsN s0 (execStreamGrow b0 buf s) := by
  unfold execStreamGrow
  repeat' with_reducible first | assumption | apply listCmd_keeps | apply completeWith_keeps | apply complete_keeps | apply mapCtx_keeps | apply setCtx_keeps | apply KeepsN.mk' | intro _ | split | dsimp only | refine Keeps.upd ?_ rfl rfl rfl rfl rfl rfl

theorem putPiece_keeps {c} {off} {x} {bytes} {s} {s0 : State} (h : Keeps s0 s) : Keeps s0 (putPiece c off x bytes s) := by
  unfold putPiece
  repeat' with_reducible first | assumption | apply ask_keeps | refine (ask_keeps ?_).snd | apply modCtx_keeps | refine KeepsP.eq ?_ (by assumption) | intro _ | split | dsimp only | refine Keeps.upd ?_ rfl rfl rfl rfl rfl rfl

theorem pullAnswer_keeps {c} {x} {a} {s} {s0 : State} (h : Keeps s0 s) : Keeps s0 (pullAnswer c x a s) := by
  unfold pullAnswer
  repeat' with_reducible first | assumption | apply modCtx_keeps | apply pieceDone_keeps | apply targetGone_keeps | apply startCas_keeps | apply pullNext_keeps | apply putPiece_keeps | intro _ | split | dsimp only | refine Keeps.upd ?_ rfl rfl rfl rfl rfl rfl

theorem execStreamClose_keeps {b0} {buf} {s} {s0 : State} (h : Keeps s0 s) : KeepsN s0 (execStreamClose b0 buf s) := by
  unfold execStreamClose
  repeat' with_reducible first | assumption | apply streamCmd_keeps | apply completeWith_keeps | apply startCas_keeps | apply setCtx_keeps | apply beginB_keeps | apply readLedger_keeps | apply complete_keeps | apply freeCtx_keeps | apply KeepsN.mk' | intro _ | split | dsimp only | refine Keeps.upd ?_ rfl rfl rfl rfl rfl rfl

theorem execStreamAcceptTimeout_keeps {ctx} {s} {s0 : State} (h : Keeps s0 s) : KeepsN s0 (execStreamAcceptTimeout ctx s) := by
  unfold execStreamAcceptTimeout
  repeat' with_reducible first | assumption | apply whenRunning_keeps | apply targetGone_keeps | apply atTime_keeps | apply KeepsN.mk' | intro _ | split | dsimp only | refine Keeps.upd ?_ rfl rfl rfl rfl rfl rfl

theorem newCtx_keeps {b0} {c} {x} {go} {s} {s0 : State} (hgo : ∀ x0 t, Keeps s0 t → Keeps s0 (go x0 t)) (h : Keeps s0 s) : Keeps s0 (newCtx b0 c x go s) := by
  unfold newCtx
  repeat' with_reducible first | assumption | apply hgo | apply completeWith_keeps | apply mapCtx_keeps | apply setCtx_keeps | apply beginB_keeps | intro _ | split | dsimp only | refine Keeps.upd ?_ rfl rfl rfl rfl rfl rfl

theorem execStreamHandoff_keeps {b0} {buf} {s} {s0 : State} (h : Keeps s0 s) : KeepsN s0 (execStreamHandoff b0 buf s) := by
  unfold execStreamHandoff
  repeat' with_reducible first | assumption | apply streamCmd_keeps | apply completeWith_keeps | apply setCtx_keeps | apply beginB_keeps | apply sendHandCas_keeps | apply KeepsN.mk' | intro _ | split | dsimp only | refine Keeps.upd ?_ rfl rfl rfl rfl rfl rfl

theorem execStreamAccept_keeps {b0} {buf} {s} {s0 : State} (h : Keeps s0 s) : KeepsN s0 (execStreamAccept b0 buf s) := by
  unfold execStreamAccept
  repeat' with_reducible first | assumption | apply listCmd_keeps | apply newCtx_keeps | apply readLedger_keeps | apply KeepsN.mk' | intro _ | split | dsimp only | refine Keeps.upd ?_ rfl rfl rfl rfl rfl rfl

theorem execStreamTakeover_keeps {b0} {buf} {s} {s0 : State} (h : Keeps s0 s) : KeepsN s0 (execStreamTakeover b0 buf s) := by
  unfold execStreamTakeover
  repeat' with_reducible first | assumption | apply listCmd_keeps | apply completeWith_keeps | apply newCtx_keeps | apply readLedger_keeps | apply KeepsN.mk' | intro _ | split | dsimp only | refine Keeps.upd ?_ rfl rfl rfl rfl rfl rfl

theorem execStreamPullAnswer_keeps {id} {s} {s0 : State} (h : Keeps s0 s) : KeepsN s0 (execStreamPullAnswer id s) := by
  unfold execStreamPullAnswer
  repeat' with_reducible first | assumption | apply whenRunning_keeps | apply pullAnswer_keeps | apply takeInbox_keeps | apply KeepsN.mk' | intro _ | split | dsimp only | refine Keeps.upd ?_ rfl rfl rfl rfl rfl rfl

theorem execLedgerCasAnswer_keeps {id} {s} {s0 : State} (h : Keeps s0 s) : KeepsN s0 (execLedgerCasAnswer id s) := by
  unfold execLedgerCasAnswer
  repeat' with_reducible first | assumption | apply whenRunning_keeps | apply casAnswer_keeps | apply takeInbox_keeps | apply KeepsN.mk' | intro _ | split | dsimp only | refine Keeps.upd ?_ rfl rfl rfl rfl rfl rfl

theorem execStreamOpen_keeps {b0} {buf} {s} {s0 : State} (h : Keeps s0 s) : KeepsN s0 (execStreamOpen b0 buf s) := by
  unfold execStreamOpen
  repeat' with_reducible first | assumption | apply listCmd_keeps | apply newCtx_keeps | apply startCas_keeps | apply KeepsN.mk' | intro _ | split | dsimp only | refine Keeps.upd ?_ rfl rfl rfl rfl rfl rfl

theorem execLedgerRevertTick_keeps {s} {s0 : State} (h : Keeps s0 s) : KeepsN s0 (execLedgerRevertTick s) := by
  unfold execLedgerRevertTick
  repeat' with_reducible first | assumption | apply whenRunning_keeps | apply atTime_keeps | apply revertEntry_keeps | apply each_keeps | apply KeepsN.mk' | intro _ | split | dsimp only | refine Keeps.upd ?_ rfl rfl rfl rfl rfl rfl

end Sys2Proof.Laws
end

