-- ==== Sys2Proof/Laws/KeepsSeedCore.lean ====
section
/-! SUPPORT. What the operations of Machine/SeedCore.lean keep. -/
namespace Sys2Proof.Laws

open Sys2Proof.Machine Sys2Proof.Safety

theorem setStrand_keeps {k} {x} {s} {s0 : State} (h : Keeps s0 s) : Keeps s0 (setStrand k x s) := by
  unfold setStrand
  repeat' with_reducible first | assumption | intro _ | split | dsimp only | refine Keeps.upd ?_ rfl rfl rfl rfl rfl rfl

theorem sendStrand_keeps {k} {r} {s} {s0 : State} (h : Keeps s0 s) : Keeps s0 (sendStrand k r s) := by
  unfold sendStrand
  repeat' with_reducible first | assumption | apply issue_keeps | refine (issue_keeps ?_).snd | apply setStrand_keeps | apply closeTrackError_keeps | apply toOwn_keeps | apply routeOwn_keeps | refine KeepsP.eq ?_ (by assumption) | intro _ | split | dsimp only | refine Keeps.upd ?_ rfl rfl rfl rfl rfl rfl

theorem localWrite_keeps {i} {k} {sp} {bs} {s} {s0 : State} (h : Keeps s0 s) : Keeps s0 (localWrite i k sp bs s) := by
  unfold localWrite
  repeat' with_reducible first | assumption | apply foldl_keeps | apply foldl_keepsP | apply KeepsP.mk' | refine KeepsP.eq ?_ (by assumption) | refine (foldl_keepsP ?_ ?_).snd | exact ⟨‹_›⟩ | exact (‹KeepsP _ _›).snd | intro _ | split | dsimp only | refine Keeps.upd ?_ rfl rfl rfl rfl rfl rfl | refine Keeps.upd' ?_ ?_ ?_ ?_ ?_ ?_ ?_ | apply wf_mwrite | apply wf_mwriteMasked | apply wf_mzero | apply wf_foldl_mset | apply wf_mset | exact (‹Canonical _›).pool | exact (‹Canonical _›).pips | exact (‹Canonical _›).galleries | exact (‹Canonical _›).request | exact (‹Canonical _›).response | exact (‹Canonical _›).registers

theorem setInst_keeps {n} {i} {s} {s0 : State} (h : Keeps s0 s) : Keeps s0 (setInst n i s) := by
  unfold setInst
  repeat' with_reducible first | assumption | intro _ | split | dsimp only | refine Keeps.upd ?_ rfl rfl rfl rfl rfl rfl

theorem sendLoads_keeps {k} {i} {ps} {s} {s0 : State} (h : Keeps s0 s) : Keeps s0 (sendLoads k i ps s) := by
  unfold sendLoads
  repeat' with_reducible first | assumption | apply sendStrand_keeps | apply setStrand_keeps | apply each_keeps | intro _ | split | dsimp only | refine Keeps.upd ?_ rfl rfl rfl rfl rfl rfl

theorem setGal_keeps {g} {x} {s} {s0 : State} (h : Keeps s0 s) : Keeps s0 (setGal g x s) := by
  unfold setGal
  repeat' with_reducible first | assumption | intro _ | split | dsimp only | refine Keeps.upd ?_ rfl rfl rfl rfl rfl rfl

end Sys2Proof.Laws
end

