-- ==== Sys2Proof/Laws/KeepsPlace.lean ====
section
/-! SUPPORT. What the operations of Machine/Place.lean keep. -/
namespace Sys2Proof.Laws

open Sys2Proof.Machine Sys2Proof.Safety

theorem joinQueue_keeps {g} {r} {s} {s0 : State} (h : Keeps s0 s) : Keeps s0 (joinQueue g r s) := by
  unfold joinQueue
  repeat' with_reducible first | assumption | apply beginWake_keeps | apply setGal_keeps | intro _ | split | dsimp only | refine Keeps.upd ?_ rfl rfl rfl rfl rfl rfl

theorem placeLaunch_keeps {r} {s} {s0 : State} (h : Keeps s0 s) : Keeps s0 (placeLaunch r s) := by
  unfold placeLaunch
  repeat' with_reducible first | assumption | apply joinQueue_keeps | apply chargePart_keeps | intro _ | split | dsimp only | refine Keeps.upd ?_ rfl rfl rfl rfl rfl rfl

theorem placeHeld_keeps {s} {s0 : State} (h : Keeps s0 s) : Keeps s0 (placeHeld s) := by
  unfold placeHeld
  repeat' with_reducible first | assumption | apply joinQueue_keeps | apply releasePart_keeps | apply each_keeps | intro _ | split | dsimp only | refine Keeps.upd ?_ rfl rfl rfl rfl rfl rfl

end Sys2Proof.Laws
end

