-- ==== Sys2Proof/Laws/KeepsColCore.lean ====
section
/-! SUPPORT. What the operations of Machine/ColCore.lean keep. -/
namespace Sys2Proof.Laws

open Sys2Proof.Machine Sys2Proof.Safety

theorem stragglerEvent_keeps {c} {k} {phase} {late} {x} {s} {s0 : State} (h : Keeps s0 s) : Keeps s0 (stragglerEvent c k phase late x s) := by
  unfold stragglerEvent
  repeat' with_reducible first | assumption | apply report_keeps | intro _ | split | dsimp only | refine Keeps.upd ?_ rfl rfl rfl rfl rfl rfl

theorem colFigures_keeps {c} {s} {s0 : State} (h : Keeps s0 s) : Keeps s0 (colFigures c s) := by
  unfold colFigures
  repeat' with_reducible first | assumption | apply stragglerEvent_keeps | apply rset_keeps | apply foldl_keeps | apply foldl_keepsP | apply KeepsP.mk' | refine KeepsP.eq ?_ (by assumption) | refine (foldl_keepsP ?_ ?_).snd | exact ⟨‹_›⟩ | exact (‹KeepsP _ _›).snd | intro _ | split | dsimp only | refine Keeps.upd ?_ rfl rfl rfl rfl rfl rfl

theorem sendAbort_keeps {c} {rp} {reason} {first} {dst} {s} {s0 : State} (h : Keeps s0 s) : Keeps s0 (sendAbort c rp reason first dst s) := by
  unfold sendAbort
  repeat' with_reducible first | assumption | apply sendCtl_keeps | intro _ | split | dsimp only | refine Keeps.upd ?_ rfl rfl rfl rfl rfl rfl

theorem modCol_keeps {c} {f} {s} {s0 : State} (h : Keeps s0 s) : Keeps s0 (modCol c f s) := by
  unfold modCol
  repeat' with_reducible first | assumption | intro _ | split | dsimp only | refine Keeps.upd ?_ rfl rfl rfl rfl rfl rfl

theorem setCol_keeps {c} {x} {s} {s0 : State} (h : Keeps s0 s) : Keeps s0 (setCol c x s) := by
  unfold setCol
  repeat' with_reducible first | assumption | intro _ | split | dsimp only | refine Keeps.upd ?_ rfl rfl rfl rfl rfl rfl

theorem colClear_keeps {c} {s} {s0 : State} (h : Keeps s0 s) : Keeps s0 (colClear c s) := by
  unfold colClear
  repeat' with_reducible first | assumption | apply releasePart_keeps | apply setCol_keeps | intro _ | split | dsimp only | refine Keeps.upd ?_ rfl rfl rfl rfl rfl rfl

theorem colAbort_keeps {c} {reason} {first} {skip} {s} {s0 : State} (h : Keeps s0 s) : Keeps s0 (colAbort c reason first skip s) := by
  unfold colAbort
  repeat' with_reducible first | assumption | apply sendAbort_keeps | apply modCol_keeps | apply colClear_keeps | apply colFigures_keeps | apply rset_keeps | apply rbump_keeps | apply each_keeps | intro _ | split | dsimp only | refine Keeps.upd ?_ rfl rfl rfl rfl rfl rfl

theorem colRemap_keeps {node} {s} {s0 : State} (h : Keeps s0 s) : Keeps s0 (colRemap node s) := by
  unfold colRemap
  repeat' with_reducible first | assumption | apply colAbort_keeps | apply each_keeps | intro _ | split | dsimp only | refine Keeps.upd ?_ rfl rfl rfl rfl rfl rfl

theorem colSend_keeps {c} {x} {o} {s} {s0 : State} (h : Keeps s0 s) : Keeps s0 (colSend c x o s) := by
  unfold colSend
  repeat' with_reducible first | assumption | apply sendRaw_keeps | intro _ | split | dsimp only | refine Keeps.upd ?_ rfl rfl rfl rfl rfl rfl

theorem colFlush_keeps {c} {ch} {a2} {a3} {s0 : State} (h : Keeps s0 a3) : Keeps s0 (colFlush c ch a2 a3) := by
  induction a2 generalizing a3 with
  | zero =>
    unfold colFlush
    repeat' with_reducible first | assumption | apply ih | apply colSend_keeps | apply setCol_keeps | intro _ | split | dsimp only | refine Keeps.upd ?_ rfl rfl rfl rfl rfl rfl
  | succ n ih =>
    unfold colFlush
    repeat' with_reducible first | assumption | apply ih | apply colSend_keeps | apply setCol_keeps | intro _ | split | dsimp only | refine Keeps.upd ?_ rfl rfl rfl rfl rfl rfl

theorem colTake_keeps {c} {ch} {it} {s} {s0 : State} (h : Keeps s0 s) : Keeps s0 (colTake c ch it s) := by
  unfold colTake
  repeat' with_reducible first | assumption | apply setCol_keeps | apply colFlush_keeps | apply foldl_keeps | apply foldl_keepsP | apply KeepsP.mk' | refine KeepsP.eq ?_ (by assumption) | refine (foldl_keepsP ?_ ?_).snd | exact ⟨‹_›⟩ | exact (‹KeepsP _ _›).snd | intro _ | split | dsimp only | refine Keeps.upd ?_ rfl rfl rfl rfl rfl rfl

theorem colDrain_keeps {c} {ch} {a2} {a3} {s0 : State} (h : Keeps s0 a3) : Keeps s0 (colDrain c ch a2 a3) := by
  induction a2 generalizing a3 with
  | zero =>
    unfold colDrain
    repeat' with_reducible first | assumption | apply ih | apply colTake_keeps | apply setCol_keeps | intro _ | split | dsimp only | refine Keeps.upd ?_ rfl rfl rfl rfl rfl rfl
  | succ n ih =>
    unfold colDrain
    repeat' with_reducible first | assumption | apply ih | apply colTake_keeps | apply setCol_keeps | intro _ | split | dsimp only | refine Keeps.upd ?_ rfl rfl rfl rfl rfl rfl

theorem colPump_keeps {c} {s} {s0 : State} (h : Keeps s0 s) : Keeps s0 (colPump c s) := by
  unfold colPump
  repeat' with_reducible first | assumption | apply colDrain_keeps | apply colFlush_keeps | apply each_keeps | intro _ | split | dsimp only | refine Keeps.upd ?_ rfl rfl rfl rfl rfl rfl

theorem colMove_keeps {c} {s} {s0 : State} (h : Keeps s0 s) : Keeps s0 (colMove c s) := by
  unfold colMove
  repeat' with_reducible first | assumption | apply rset_keeps | apply setCol_keeps | intro _ | split | dsimp only | refine Keeps.upd ?_ rfl rfl rfl rfl rfl rfl

theorem colStart_keeps {c} {b1} {s0 : State} (h : Keeps s0 b1) : KeepsP s0 (colStart c b1) := by
  unfold colStart
  repeat' with_reducible first | assumption | apply colMove_keeps | apply rset_keeps | apply setCol_keeps | apply placeLaunch_keeps | apply KeepsP.mk' | intro _ | split | dsimp only | refine Keeps.upd ?_ rfl rfl rfl rfl rfl rfl

theorem colServe_keeps {c} {s} {s0 : State} (h : Keeps s0 s) : Keeps s0 (colServe c s) := by
  unfold colServe
  repeat' with_reducible first | assumption | apply colStart_keeps | refine (colStart_keeps ?_).snd | apply rset_keeps | refine KeepsP.eq ?_ (by assumption) | intro _ | split | dsimp only | refine Keeps.upd ?_ rfl rfl rfl rfl rfl rfl

theorem colRegallery_keeps {c} {s} {s0 : State} (h : Keeps s0 s) : Keeps s0 (colRegallery c s) := by
  unfold colRegallery
  repeat' with_reducible first | assumption | apply setCol_keeps | apply colServe_keeps | apply colMove_keeps | intro _ | split | dsimp only | refine Keeps.upd ?_ rfl rfl rfl rfl rfl rfl

theorem colPend_keeps {c} {s} {s0 : State} (h : Keeps s0 s) : Keeps s0 (colPend c s) := by
  unfold colPend
  repeat' with_reducible first | assumption | apply rsat_keeps | apply report_keeps | intro _ | split | dsimp only | refine Keeps.upd ?_ rfl rfl rfl rfl rfl rfl

theorem colTrigger_keeps {c} {slot} {s} {s0 : State} (h : Keeps s0 s) : Keeps s0 (colTrigger c slot s) := by
  unfold colTrigger
  repeat' with_reducible first | assumption | apply colStart_keeps | refine (colStart_keeps ?_).snd | apply colPend_keeps | apply rbump_keeps | refine KeepsP.eq ?_ (by assumption) | intro _ | split | dsimp only | refine Keeps.upd ?_ rfl rfl rfl rfl rfl rfl

theorem colOpenAt_keeps {r} {byTable} {s} {s0 : State} (h : Keeps s0 s) : Keeps s0 (colOpenAt r byTable s) := by
  unfold colOpenAt
  repeat' with_reducible first | assumption | apply rset_keeps | apply setCol_keeps | apply colMove_keeps | apply colTrigger_keeps | apply foldl_keeps | apply foldl_keepsP | apply KeepsP.mk' | refine KeepsP.eq ?_ (by assumption) | refine (foldl_keepsP ?_ ?_).snd | exact ⟨‹_›⟩ | exact (‹KeepsP _ _›).snd | intro _ | split | dsimp only | refine Keeps.upd ?_ rfl rfl rfl rfl rfl rfl

theorem colFree_keeps {c} {s} {s0 : State} (h : Keeps s0 s) : Keeps s0 (colFree c s) := by
  unfold colFree
  repeat' with_reducible first | assumption | apply rset_keeps | apply colOpenAt_keeps | intro _ | split | dsimp only | refine Keeps.upd ?_ rfl rfl rfl rfl rfl rfl

theorem colArm_keeps {c} {s} {s0 : State} (h : Keeps s0 s) : Keeps s0 (colArm c s) := by
  unfold colArm
  repeat' with_reducible first | assumption | apply colFree_keeps | apply colMove_keeps | apply rset_keeps | apply colServe_keeps | apply colTrigger_keeps | intro _ | split | dsimp only | refine Keeps.upd ?_ rfl rfl rfl rfl rfl rfl

theorem colGoOn_keeps {c} {s} {s0 : State} (h : Keeps s0 s) : Keeps s0 (colGoOn c s) := by
  unfold colGoOn
  repeat' with_reducible first | assumption | apply colPump_keeps | apply colAbort_keeps | intro _ | split | dsimp only | refine Keeps.upd ?_ rfl rfl rfl rfl rfl rfl

theorem colRunEnd_keeps {c} {s} {s0 : State} (h : Keeps s0 s) : Keeps s0 (colRunEnd c s) := by
  unfold colRunEnd
  repeat' with_reducible first | assumption | apply modCol_keeps | apply colClear_keeps | apply colFigures_keeps | apply colArm_keeps | apply rbump_keeps | intro _ | split | dsimp only | refine Keeps.upd ?_ rfl rfl rfl rfl rfl rfl

theorem colPut_keeps {c} {ch} {fwd} {it} {s} {s0 : State} (h : Keeps s0 s) : Keeps s0 (colPut c ch fwd it s) := by
  unfold colPut
  repeat' with_reducible first | assumption | apply colGoOn_keeps | apply setCol_keeps | intro _ | split | dsimp only | refine Keeps.upd ?_ rfl rfl rfl rfl rfl rfl

theorem colLost_keeps {s} {s0 : State} (h : Keeps s0 s) : Keeps s0 (colLost s) := by
  unfold colLost
  repeat' with_reducible first | assumption | apply colAbort_keeps | apply each_keeps | intro _ | split | dsimp only | refine Keeps.upd ?_ rfl rfl rfl rfl rfl rfl

theorem colPortDown_keeps {n} {s} {s0 : State} (h : Keeps s0 s) : Keeps s0 (colPortDown n s) := by
  unfold colPortDown
  repeat' with_reducible first | assumption | apply colAbort_keeps | apply each_keeps | intro _ | split | dsimp only | refine Keeps.upd ?_ rfl rfl rfl rfl rfl rfl

end Sys2Proof.Laws
end

