-- ==== Sys2Proof/Laws/KeepsInstance.lean ====
section
/-! SUPPORT. What the operations of Machine/Instance.lean keep. -/
namespace Sys2Proof.Laws

open Sys2Proof.Machine Sys2Proof.Safety

theorem stopStrand_keeps {k} {s} {s0 : State} (h : Keeps s0 s) : Keeps s0 (stopStrand k s) := by
  unfold stopStrand
  repeat' with_reducible first | assumption | apply setStrand_keeps | intro _ | split | dsimp only | refine Keeps.upd ?_ rfl rfl rfl rfl rfl rfl

theorem instFault_keeps {n} {cause} {status} {strand} {pc} {insn} {addr} {s} {s0 : State} (h : Keeps s0 s) : Keeps s0 (instFault n cause status strand pc insn addr s) := by
  unfold instFault
  repeat' with_reducible first | assumption | apply stopStrand_keeps | apply setInst_keeps | intro _ | split | dsimp only | refine Keeps.upd ?_ rfl rfl rfl rfl rfl rfl

theorem goTo_keeps {k} {pc} {s} {s0 : State} (h : Keeps s0 s) : Keeps s0 (goTo k pc s) := by
  unfold goTo
  repeat' with_reducible first | assumption | apply setStrand_keeps | apply instFault_keeps | intro _ | split | dsimp only | refine Keeps.upd ?_ rfl rfl rfl rfl rfl rfl

theorem dropTexts_keeps {g} {s} {s0 : State} (h : Keeps s0 s) : Keeps s0 (dropTexts g s) := by
  unfold dropTexts
  repeat' with_reducible first | assumption | apply setGal_keeps | intro _ | split | dsimp only | refine Keeps.upd ?_ rfl rfl rfl rfl rfl rfl

theorem issueInsn_keeps {k} {kind} {act} {s} {s0 : State} (hact : ∀ x0 x1 x2 t, Keeps s0 t → KeepsO s0 (act x0 x1 x2 t)) (h : Keeps s0 s) : KeepsN s0 (issueInsn k kind act s) := by
  unfold issueInsn
  refine KeepsN.mk' ?_
  split
  · exact h
  split
  · exact h
  split
  · exact h
  rename_i x _ _ i _
  split
  · exact h
  rename_i w _
  dsimp only
  split
  · have k := hact (Insn.of w) x i (meter i.part 3 1 s) (meter_keeps h)
    cases e : act (Insn.of w) x i (meter i.part 3 1 s) with
    | some u => exact k.some u e
    | none => exact h
  · exact h

theorem advance__keeps {k} {s} {s0 : State} (h : Keeps s0 s) : Keeps s0 (advance_ k s) := by
  unfold advance_
  repeat' with_reducible first | assumption | apply goTo_keeps | intro _ | split | dsimp only | refine Keeps.upd ?_ rfl rfl rfl rfl rfl rfl

theorem retire_keeps {k} {x} {s} {s0 : State} (h : Keeps s0 s) : Keeps s0 (retire k x s) := by
  unfold retire
  repeat' with_reducible first | assumption | apply advance__keeps | apply setStrand_keeps | intro _ | split | dsimp only | refine Keeps.upd ?_ rfl rfl rfl rfl rfl rfl

theorem regInsn_keeps {k} {kind} {f} {s} {s0 : State} (h : Keeps s0 s) : KeepsN s0 (regInsn k kind f s) := by
  unfold regInsn
  exact issueInsn_keeps (fun _ _ _ _ k => KeepsO.mk' (retire_keeps k)) h

theorem sfaultRec_keeps {n} {i} {f} {s} {s0 : State} (h : Keeps s0 s) : Keeps s0 (sfaultRec n i f s) := by
  unfold sfaultRec
  repeat' with_reducible first | assumption | apply ringCount_keeps | intro _ | split | dsimp only | refine Keeps.upd ?_ rfl rfl rfl rfl rfl rfl

theorem instStop_keeps {n} {cause} {s} {s0 : State} (h : Keeps s0 s) : Keeps s0 (instStop n cause s) := by
  unfold instStop
  repeat' with_reducible first | assumption | apply instFault_keeps | intro _ | split | dsimp only | refine Keeps.upd ?_ rfl rfl rfl rfl rfl rfl

theorem instFree_keeps {n} {i} {s} {s0 : State} (h : Keeps s0 s) : Keeps s0 (instFree n i s) := by
  unfold instFree
  repeat' with_reducible first | assumption | apply setGal_keeps | apply dropTexts_keeps | apply dropInstPins_keeps | intro _ | split | dsimp only | refine Keeps.upd ?_ rfl rfl rfl rfl rfl rfl

theorem launchEnd_keeps {r} {status} {result} {from_} {s} {s0 : State} (h : Keeps s0 s) : Keeps s0 (launchEnd r status result from_ s) := by
  unfold launchEnd
  repeat' with_reducible first | assumption | apply closeTrack_keeps | apply endB_keeps | apply colAbort_keeps | intro _ | split | dsimp only | refine Keeps.upd ?_ rfl rfl rfl rfl rfl rfl

theorem launchFault_keeps {i} {status} {s} {s0 : State} (h : Keeps s0 s) : Keeps s0 (launchFault i status s) := by
  unfold launchFault
  repeat' with_reducible first | assumption | apply faultIn_keeps | intro _ | split | dsimp only | refine Keeps.upd ?_ rfl rfl rfl rfl rfl rfl

theorem instTell_keeps {n} {s} {s0 : State} (h : Keeps s0 s) : Keeps s0 (instTell n s) := by
  unfold instTell
  repeat' with_reducible first | assumption | apply setInst_keeps | apply launchEnd_keeps | apply colAbort_keeps | apply sfaultRec_keeps | apply launchFault_keeps | intro _ | split | dsimp only | refine Keeps.upd ?_ rfl rfl rfl rfl rfl rfl

theorem strandFault_keeps {k} {cause} {status} {addr} {s} {s0 : State} (h : Keeps s0 s) : Keeps s0 (strandFault k cause status addr s) := by
  unfold strandFault
  repeat' with_reducible first | assumption | apply instFault_keeps | intro _ | split | dsimp only | refine Keeps.upd ?_ rfl rfl rfl rfl rfl rfl

theorem unitError_keeps {k} {s} {s0 : State} (h : Keeps s0 s) : Keeps s0 (unitError k s) := by
  unfold unitError
  repeat' with_reducible first | assumption | apply strandFault_keeps | intro _ | split | dsimp only | refine Keeps.upd ?_ rfl rfl rfl rfl rfl rfl

theorem instEnd_keeps {n} {b1} {s0 : State} (h : Keeps s0 b1) : Keeps s0 (instEnd n b1) := by
  unfold instEnd
  repeat' with_reducible first | assumption | apply instTell_keeps | apply instFree_keeps | apply modCol_keeps | apply colRunEnd_keeps | apply launchEnd_keeps | intro _ | split | dsimp only | refine Keeps.upd ?_ rfl rfl rfl rfl rfl rfl

end Sys2Proof.Laws
end

