-- ==== Sys2Proof/Laws/KeepsLaunch.lean ====
section
/-! SUPPORT. What the operations of Machine/Launch.lean keep. -/
namespace Sys2Proof.Laws

open Sys2Proof.Machine Sys2Proof.Safety

theorem execGalleryZeroingDone_keeps {gal} {s} {s0 : State} (h : Keeps s0 s) : KeepsN s0 (execGalleryZeroingDone gal s) := by
  unfold execGalleryZeroingDone
  repeat' with_reducible first | assumption | apply whenRunning_keeps | apply setGal_keeps | apply atTime_keeps | apply KeepsN.mk' | intro _ | split | dsimp only | refine Keeps.upd ?_ rfl rfl rfl rfl rfl rfl | refine Keeps.upd' ?_ ?_ ?_ ?_ ?_ ?_ ?_ | apply wf_mwrite | apply wf_mwriteMasked | apply wf_mzero | apply wf_foldl_mset | apply wf_mset | exact (‹Canonical _›).pool | exact (‹Canonical _›).pips | exact (‹Canonical _›).galleries | exact (‹Canonical _›).request | exact (‹Canonical _›).response | exact (‹Canonical _›).registers

theorem beginZero_keeps {g} {part} {s} {s0 : State} (h : Keeps s0 s) : Keeps s0 (beginZero g part s) := by
  unfold beginZero
  repeat' with_reducible first | assumption | apply setGal_keeps | intro _ | split | dsimp only | refine Keeps.upd ?_ rfl rfl rfl rfl rfl rfl

theorem popQueue_keeps {g} {s} {s0 : State} (h : Keeps s0 s) : Keeps s0 (popQueue g s) := by
  unfold popQueue
  repeat' with_reducible first | assumption | apply setGal_keeps | intro _ | split | dsimp only | refine Keeps.upd ?_ rfl rfl rfl rfl rfl rfl

theorem dispatchShare_keeps {g} {b} {r} {s} {s0 : State} (h : Keeps s0 s) : Keeps s0 (dispatchShare g b r s) := by
  unfold dispatchShare
  repeat' with_reducible first | assumption | apply popQueue_keeps | apply rbump_keeps | apply setGal_keeps | intro _ | split | dsimp only | refine Keeps.upd ?_ rfl rfl rfl rfl rfl rfl

theorem evictTexts_keeps {g} {n} {keep} {a3} {a4} {s0 : State} (h : Keeps s0 a4) : Keeps s0 (evictTexts g n keep a3 a4) := by
  induction a3 generalizing a4 with
  | zero =>
    unfold evictTexts
    repeat' with_reducible first | assumption | apply ih | apply setGal_keeps | intro _ | split | dsimp only | refine Keeps.upd ?_ rfl rfl rfl rfl rfl rfl
  | succ n ih =>
    unfold evictTexts
    repeat' with_reducible first | assumption | apply ih | apply setGal_keeps | intro _ | split | dsimp only | refine Keeps.upd ?_ rfl rfl rfl rfl rfl rfl

theorem zeroPip_keeps {p} {s} {s0 : State} (h : Keeps s0 s) : Keeps s0 (zeroPip p s) := by
  unfold zeroPip
  repeat' with_reducible first | assumption | intro _ | split | dsimp only | refine Keeps.upd ?_ rfl rfl rfl rfl rfl rfl | refine Keeps.upd' ?_ ?_ ?_ ?_ ?_ ?_ ?_ | apply wf_mwrite | apply wf_mwriteMasked | apply wf_mzero | apply wf_foldl_mset | apply wf_mset | exact (‹Canonical _›).pool | exact (‹Canonical _›).pips | exact (‹Canonical _›).galleries | exact (‹Canonical _›).request | exact (‹Canonical _›).response | exact (‹Canonical _›).registers

theorem dispatchAt_keeps {g} {r} {p} {pips} {text} {pages} {s} {s0 : State} (h : Keeps s0 s) : Keeps s0 (dispatchAt g r p pips text pages s) := by
  unfold dispatchAt
  repeat' with_reducible first | assumption | apply setInst_keeps | apply setGal_keeps | apply setStrand_keeps | apply localWrite_keeps | apply zeroPip_keeps | apply rbump_keeps | apply launchEnd_keeps | apply modCol_keeps | apply each_keeps | intro _ | split | dsimp only | refine Keeps.upd ?_ rfl rfl rfl rfl rfl rfl

theorem execGalleryDispatch_keeps {gal} {s} {s0 : State} (h : Keeps s0 s) : KeepsN s0 (execGalleryDispatch gal s) := by
  unfold execGalleryDispatch
  repeat' with_reducible first | assumption | apply whenRunning_keeps | apply beginZero_keeps | apply placeHeld_keeps | apply dispatchShare_keeps | apply launchEnd_keeps | apply popQueue_keeps | apply evictTexts_keeps | apply dispatchAt_keeps | apply KeepsN.mk' | intro _ | split | dsimp only | refine Keeps.upd ?_ rfl rfl rfl rfl rfl rfl

theorem execInstanceEnd_keeps {inst} {s} {s0 : State} (h : Keeps s0 s) : KeepsN s0 (execInstanceEnd inst s) := by
  unfold execInstanceEnd
  repeat' with_reducible first | assumption | apply whenRunning_keeps | apply instEnd_keeps | apply KeepsN.mk' | intro _ | split | dsimp only | refine Keeps.upd ?_ rfl rfl rfl rfl rfl rfl

theorem execInstanceTimeLimit_keeps {inst} {s} {s0 : State} (h : Keeps s0 s) : KeepsN s0 (execInstanceTimeLimit inst s) := by
  unfold execInstanceTimeLimit
  repeat' with_reducible first | assumption | apply whenRunning_keeps | apply instStop_keeps | apply atTime_keeps | apply KeepsN.mk' | intro _ | split | dsimp only | refine Keeps.upd ?_ rfl rfl rfl rfl rfl rfl

theorem launchGo_keeps {r} {s} {s0 : State} (h : Keeps s0 s) : Keeps s0 (launchGo r s) := by
  unfold launchGo
  repeat' with_reducible first | assumption | apply launchEnd_keeps | apply placeLaunch_keeps | intro _ | split | dsimp only | refine Keeps.upd ?_ rfl rfl rfl rfl rfl rfl

theorem execLaunch_keeps {id} {s} {s0 : State} (h : Keeps s0 s) : KeepsN s0 (execLaunch id s) := by
  unfold execLaunch
  repeat' with_reducible first | assumption | apply serve_keeps | apply refuse_keeps | apply sendTracked_keeps | apply launchGo_keeps | apply KeepsN.mk' | intro _ | split | dsimp only | refine Keeps.upd ?_ rfl rfl rfl rfl rfl rfl

theorem execProgLoad_keeps {b0} {buf} {s} {s0 : State} (h : Keeps s0 s) : KeepsN s0 (execProgLoad b0 buf s) := by
  unfold execProgLoad
  repeat' with_reducible first | assumption | apply withCmd_keeps | apply completeWith_keeps | apply stageCmd_keeps | apply KeepsN.mk' | intro _ | split | dsimp only | refine Keeps.upd ?_ rfl rfl rfl rfl rfl rfl

theorem execLaunchDeadline_keeps {req} {s} {s0 : State} (h : Keeps s0 s) : KeepsN s0 (execLaunchDeadline req s) := by
  unfold execLaunchDeadline
  repeat' with_reducible first | assumption | apply whenRunning_keeps | apply launchEnd_keeps | apply atTime_keeps | apply releasePart_keeps | apply placeHeld_keeps | apply setGal_keeps | apply KeepsN.mk' | intro _ | split | dsimp only | refine Keeps.upd ?_ rfl rfl rfl rfl rfl rfl

theorem execKill_keeps {b0} {s} {s0 : State} (h : Keeps s0 s) : KeepsN s0 (execKill b0 s) := by
  unfold execKill
  repeat' with_reducible first | assumption | apply withCmd_keeps | apply completeWith_keeps | apply instStop_keeps | apply KeepsN.mk' | intro _ | split | dsimp only | refine Keeps.upd ?_ rfl rfl rfl rfl rfl rfl

theorem execHostCommandLaunch_keeps {b0} {buf} {s} {s0 : State} (h : Keeps s0 s) : KeepsN s0 (execHostCommandLaunch b0 buf s) := by
  unfold execHostCommandLaunch
  repeat' with_reducible first | assumption | apply withCmd_keeps | apply completeWith_keeps | apply launchGo_keeps | apply beginB_keeps | apply KeepsN.mk' | intro _ | split | dsimp only | refine Keeps.upd ?_ rfl rfl rfl rfl rfl rfl

end Sys2Proof.Laws
end

