-- ==== Sys2Proof/Laws/KeepsWeightStreams.lean ====
section
/-! SUPPORT. What the operations of Machine/WeightStreams.lean keep. -/
namespace Sys2Proof.Laws

open Sys2Proof.Machine Sys2Proof.Safety

theorem weightLate_keeps {p} {phase} {mag} {v2} {x} {s} {s0 : State} (h : Keeps s0 s) : Keeps s0 (weightLate p phase mag v2 x s) := by
  unfold weightLate
  repeat' with_reducible first | assumption | apply report_keeps | intro _ | split | dsimp only | refine Keeps.upd ?_ rfl rfl rfl rfl rfl rfl

theorem planTrim_keeps {p} {s} {s0 : State} (h : Keeps s0 s) : Keeps s0 (planTrim p s) := by
  unfold planTrim
  repeat' with_reducible first | assumption | apply setPlan_keeps | intro _ | split | dsimp only | refine Keeps.upd ?_ rfl rfl rfl rfl rfl rfl

theorem planIssue_keeps {p} {run} {c} {u} {s} {s0 : State} (h : Keeps s0 s) : Keeps s0 (planIssue p run c u s) := by
  unfold planIssue
  repeat' with_reducible first | assumption | apply planRead_keeps | apply takeId_keeps | refine (takeId_keeps ?_).snd | apply enterReq_keeps | refine KeepsP.eq ?_ (by assumption) | intro _ | split | dsimp only | refine Keeps.upd ?_ rfl rfl rfl rfl rfl rfl

theorem planStart_keeps {p} {state} {level} {slot} {s} {s0 : State} (h : Keeps s0 s) : Keeps s0 (planStart p state level slot s) := by
  unfold planStart
  repeat' with_reducible first | assumption | apply rset_keeps | apply setPlan_keeps | apply wakeWing_keeps | apply planGo_keeps | apply poolPass_keeps | apply planIssue_keeps | apply each_keeps | intro _ | split | dsimp only | refine Keeps.upd ?_ rfl rfl rfl rfl rfl rfl

theorem planEnd_keeps {p} {x} {s} {s0 : State} (h : Keeps s0 s) : Keeps s0 (planEnd p x s) := by
  unfold planEnd
  repeat' with_reducible first | assumption | apply weightLate_keeps | apply rset_keeps | apply planTrim_keeps | apply setPlan_keeps | apply planStart_keeps | intro _ | split | dsimp only | refine Keeps.upd ?_ rfl rfl rfl rfl rfl rfl

theorem execWsFlagAnswer_keeps {id} {s} {s0 : State} (h : Keeps s0 s) : KeepsN s0 (execWsFlagAnswer id s) := by
  unfold execWsFlagAnswer
  repeat' with_reducible first | assumption | apply whenRunning_keeps | apply takeInbox_keeps | apply planEnd_keeps | apply planGo_keeps | apply setPlan_keeps | apply KeepsN.mk' | intro _ | split | dsimp only | refine Keeps.upd ?_ rfl rfl rfl rfl rfl rfl

theorem planUnflag_keeps {p} {x} {s} {s0 : State} (h : Keeps s0 s) : Keeps s0 (planUnflag p x s) := by
  unfold planUnflag
  repeat' with_reducible first | assumption | apply setPlan_keeps | apply dropTrack_keeps | intro _ | split | dsimp only | refine Keeps.upd ?_ rfl rfl rfl rfl rfl rfl

theorem planRemap_keeps {node} {s} {s0 : State} (h : Keeps s0 s) : Keeps s0 (planRemap node s) := by
  unfold planRemap
  repeat' with_reducible first | assumption | apply planGo_keeps | apply planWait_keeps | apply planUnflag_keeps | apply setPlan_keeps | apply each_keeps | intro _ | split | dsimp only | refine Keeps.upd ?_ rfl rfl rfl rfl rfl rfl

theorem execWsStoreAnswer_keeps {id} {s} {s0 : State} (h : Keeps s0 s) : KeepsN s0 (execWsStoreAnswer id s) := by
  unfold execWsStoreAnswer
  repeat' with_reducible first | assumption | apply whenRunning_keeps | apply planGo_keeps | apply setPlan_keeps | apply takeInbox_keeps | apply KeepsN.mk' | intro _ | split | dsimp only | refine Keeps.upd ?_ rfl rfl rfl rfl rfl rfl

theorem execWsLevelHalfLead_keeps {p} {s} {s0 : State} (h : Keeps s0 s) : KeepsN s0 (execWsLevelHalfLead p s) := by
  unfold execWsLevelHalfLead
  repeat' with_reducible first | assumption | apply whenRunning_keeps | apply raiseLevel_keeps | apply atTime_keeps | apply KeepsN.mk' | intro _ | split | dsimp only | refine Keeps.upd ?_ rfl rfl rfl rfl rfl rfl

theorem execWsEscalate_keeps {p} {s} {s0 : State} (h : Keeps s0 s) : KeepsN s0 (execWsEscalate p s) := by
  unfold execWsEscalate
  repeat' with_reducible first | assumption | apply whenRunning_keeps | apply raiseLevel_keeps | apply atTime_keeps | apply KeepsN.mk' | intro _ | split | dsimp only | refine Keeps.upd ?_ rfl rfl rfl rfl rfl rfl

theorem planBusy_keeps {p} {s} {s0 : State} (h : Keeps s0 s) : Keeps s0 (planBusy p s) := by
  unfold planBusy
  repeat' with_reducible first | assumption | apply rbump_keeps | apply rsat_keeps | intro _ | split | dsimp only | refine Keeps.upd ?_ rfl rfl rfl rfl rfl rfl

theorem putFrame_keeps {p} {r : Option Nat × State} {s0 : State} (h : KeepsP s0 r) : Keeps s0 (putFrame p r) := by
  unfold putFrame
  split
  · exact Keeps.upd h.snd rfl rfl rfl rfl rfl rfl
  · exact h.snd

theorem takeFrames_keeps {p} {w} {a2} {a3} {s0 : State} (h : Keeps s0 a3) : Keeps s0 (takeFrames p w a2 a3) := by
  induction a2 generalizing a3 with
  | zero => unfold takeFrames; exact h
  | succ n ih =>
    unfold takeFrames
    exact ih (putFrame_keeps (pickFrame_keeps h))

theorem planVoid_keeps {p} {s} {s0 : State} (h : Keeps s0 s) : Keeps s0 (planVoid p s) := by
  unfold planVoid
  repeat' with_reducible first | assumption | apply setPlan_keeps | apply rset_keeps | intro _ | split | dsimp only | refine Keeps.upd ?_ rfl rfl rfl rfl rfl rfl

theorem planCommitted_keeps {p} {was} {s} {s0 : State} (h : Keeps s0 s) : Keeps s0 (planCommitted p was s) := by
  unfold planCommitted
  repeat' with_reducible first | assumption | apply setPlan_keeps | apply rset_keeps | apply takeFrames_keeps | apply planTrim_keeps | apply planVoid_keeps | apply foldl_keeps | apply foldl_keepsP | apply KeepsP.mk' | refine KeepsP.eq ?_ (by assumption) | refine (foldl_keepsP ?_ ?_).snd | exact ⟨‹_›⟩ | exact (‹KeepsP _ _›).snd | intro _ | split | dsimp only | refine Keeps.upd ?_ rfl rfl rfl rfl rfl rfl

theorem planDeliver_keeps {p} {s} {s0 : State} (h : Keeps s0 s) : Keeps s0 (planDeliver p s) := by
  unfold planDeliver
  repeat' with_reducible first | assumption | apply planGo_keeps | apply rset_keeps | apply raiseLevel_keeps | intro _ | split | dsimp only | refine Keeps.upd ?_ rfl rfl rfl rfl rfl rfl

theorem planSlotStart_keeps {p} {slot} {s} {s0 : State} (h : Keeps s0 s) : Keeps s0 (planSlotStart p slot s) := by
  unfold planSlotStart
  repeat' with_reducible first | assumption | apply planStart_keeps | apply planBusy_keeps | apply planDeliver_keeps | intro _ | split | dsimp only | refine Keeps.upd ?_ rfl rfl rfl rfl rfl rfl

theorem planSweep_keeps {s} {s0 : State} (h : Keeps s0 s) : Keeps s0 (planSweep s) := by
  unfold planSweep
  repeat' with_reducible first | assumption | apply planVoid_keeps | apply each_keeps | intro _ | split | dsimp only | refine Keeps.upd ?_ rfl rfl rfl rfl rfl rfl

theorem execWeightLate_keeps {p} {s} {s0 : State} (h : Keeps s0 s) : KeepsN s0 (execWeightLate p s) := by
  unfold execWeightLate
  repeat' with_reducible first | assumption | apply whenRunning_keeps | apply weightLate_keeps | apply setPlan_keeps | apply KeepsN.mk' | intro _ | split | dsimp only | refine Keeps.upd ?_ rfl rfl rfl rfl rfl rfl

theorem execWsCopyComplete_keeps {p} {s} {s0 : State} (h : Keeps s0 s) : KeepsN s0 (execWsCopyComplete p s) := by
  unfold execWsCopyComplete
  repeat' with_reducible first | assumption | apply whenRunning_keeps | apply rset_keeps | apply planGo_keeps | apply KeepsN.mk' | intro _ | split | dsimp only | refine Keeps.upd ?_ rfl rfl rfl rfl rfl rfl

theorem execWsPrefetchPoint_keeps {p} {s} {s0 : State} (h : Keeps s0 s) : KeepsN s0 (execWsPrefetchPoint p s) := by
  unfold execWsPrefetchPoint
  repeat' with_reducible first | assumption | apply whenRunning_keeps | apply planStart_keeps | apply atTime_keeps | apply KeepsN.mk' | intro _ | split | dsimp only | refine Keeps.upd ?_ rfl rfl rfl rfl rfl rfl

end Sys2Proof.Laws
end

