-- ==== Sys2Proof/Laws/KeepsColTable.lean ====
section
/-! SUPPORT. What the operations of Machine/ColTable.lean keep. -/
namespace Sys2Proof.Laws

open Sys2Proof.Machine Sys2Proof.Safety

theorem ttBoundary_keeps {s} {s0 : State} (h : Keeps s0 s) : Keeps s0 (ttBoundary s) := by
  unfold ttBoundary
  repeat' with_reducible first | assumption | apply rset_keeps | apply report_keeps | intro _ | split | dsimp only | refine Keeps.upd ?_ rfl rfl rfl rfl rfl rfl

theorem execColOpen_keeps {b0} {buf} {s} {s0 : State} (h : Keeps s0 s) : KeepsN s0 (execColOpen b0 buf s) := by
  unfold execColOpen
  repeat' with_reducible first | assumption | apply withCmd_keeps | apply completeWith_keeps | apply stageCmd_keeps | apply KeepsN.mk' | intro _ | split | dsimp only | refine Keeps.upd ?_ rfl rfl rfl rfl rfl rfl

theorem execHostCommandColAbort_keeps {b0} {s} {s0 : State} (h : Keeps s0 s) : KeepsN s0 (execHostCommandColAbort b0 s) := by
  unfold execHostCommandColAbort
  repeat' with_reducible first | assumption | apply withCmd_keeps | apply completeWith_keeps | apply colAbort_keeps | apply complete_keeps | apply KeepsN.mk' | intro _ | split | dsimp only | refine Keeps.upd ?_ rfl rfl rfl rfl rfl rfl

theorem execSlotWake_keeps {kind} {unit} {s} {s0 : State} (h : Keeps s0 s) : KeepsN s0 (execSlotWake kind unit s) := by
  unfold execSlotWake
  repeat' with_reducible first | assumption | apply whenRunning_keeps | apply beginWake_keeps | apply atTime_keeps | apply KeepsN.mk' | intro _ | split | dsimp only | refine Keeps.upd ?_ rfl rfl rfl rfl rfl rfl

theorem ttFailed_keeps {x} {r} {st} {s} {s0 : State} (h : Keeps s0 s) : Keeps s0 (ttFailed x r st s) := by
  unfold ttFailed
  repeat' with_reducible first | assumption | apply reportObject_keeps | intro _ | split | dsimp only | refine Keeps.upd ?_ rfl rfl rfl rfl rfl rfl

theorem execTtLoad_keeps {b0} {buf} {s} {s0 : State} (h : Keeps s0 s) : KeepsN s0 (execTtLoad b0 buf s) := by
  unfold execTtLoad
  repeat' with_reducible first | assumption | apply withCmd_keeps | apply rset_keeps | apply stageCmd_keeps | apply completeWith_keeps | apply KeepsN.mk' | intro _ | split | dsimp only | refine Keeps.upd ?_ rfl rfl rfl rfl rfl rfl

theorem ttCheckOne_keeps {source} {acc : List TtEntry × State} {p} {s0 : State} (h : KeepsP s0 acc) : KeepsP s0 (ttCheckOne source acc p) := by
  unfold ttCheckOne
  dsimp only
  split
  · exact ⟨reportObject_keeps h.snd⟩
  · exact ⟨h.snd⟩

theorem ttCheck_keeps {x} {es} {s} {s0 : State} (h : Keeps s0 s) : KeepsP s0 (ttCheck x es s) := by
  unfold ttCheck
  exact foldl_keepsP (fun _ _ k => ttCheckOne_keeps k) ⟨h⟩

theorem slotEntry_keeps {k} {e} {s} {s0 : State} (h : Keeps s0 s) : Keeps s0 (slotEntry k e s) := by
  unfold slotEntry
  repeat' with_reducible first | assumption | apply colTrigger_keeps | apply launchGo_keeps | apply planSlotStart_keeps | intro _ | split | dsimp only | refine Keeps.upd ?_ rfl rfl rfl rfl rfl rfl

theorem colClose_keeps {c} {s} {s0 : State} (h : Keeps s0 s) : Keeps s0 (colClose c s) := by
  unfold colClose
  repeat' with_reducible first | assumption | apply colFree_keeps | apply rset_keeps | intro _ | split | dsimp only | refine Keeps.upd ?_ rfl rfl rfl rfl rfl rfl

theorem colCommit_keeps {x} {s} {s0 : State} (h : Keeps s0 s) : Keeps s0 (colCommit x s) := by
  unfold colCommit
  repeat' with_reducible first | assumption | apply reportObject_keeps | apply colOpenAt_keeps | apply colClose_keeps | intro _ | split | dsimp only | refine Keeps.upd ?_ rfl rfl rfl rfl rfl rfl

theorem ttClose_keeps {x} {next} {c} {s} {s0 : State} (h : Keeps s0 s) : Keeps s0 (ttClose x next c s) := by
  unfold ttClose
  repeat' with_reducible first | assumption | apply colClose_keeps | apply modCol_keeps | apply ttFailed_keeps | intro _ | split | dsimp only | refine Keeps.upd ?_ rfl rfl rfl rfl rfl rfl

theorem execColClose_keeps {b0} {s} {s0 : State} (h : Keeps s0 s) : KeepsN s0 (execColClose b0 s) := by
  unfold execColClose
  repeat' with_reducible first | assumption | apply withCmd_keeps | apply completeWith_keeps | apply stageCmd_keeps | apply KeepsN.mk' | intro _ | split | dsimp only | refine Keeps.upd ?_ rfl rfl rfl rfl rfl rfl

theorem ttOpen_keeps {x} {r} {s} {s0 : State} (h : Keeps s0 s) : Keeps s0 (ttOpen x r s) := by
  unfold ttOpen
  repeat' with_reducible first | assumption | apply ttFailed_keeps | apply colOpenAt_keeps | intro _ | split | dsimp only | refine Keeps.upd ?_ rfl rfl rfl rfl rfl rfl

theorem ttCommit_keeps {x} {s} {s0 : State} (h : Keeps s0 s) : Keeps s0 (ttCommit x s) := by
  unfold ttCommit
  repeat' with_reducible first | assumption | apply ttClose_keeps | apply ttOpen_keeps | apply ttCheck_keeps | refine (ttCheck_keeps ?_).snd | apply rset_keeps | apply each_keeps | refine KeepsP.eq ?_ (by assumption) | intro _ | split | dsimp only | refine Keeps.upd ?_ rfl rfl rfl rfl rfl rfl

theorem execSlotStart_keeps {slot} {s} {s0 : State} (h : Keeps s0 s) : KeepsN s0 (execSlotStart slot s) := by
  unfold execSlotStart
  repeat' with_reducible first | assumption | apply whenRunning_keeps | apply atTime_keeps | apply slotEntry_keeps | apply each_keeps | apply KeepsN.mk' | intro _ | split | dsimp only | refine Keeps.upd ?_ rfl rfl rfl rfl rfl rfl

end Sys2Proof.Laws
end

