-- ==== Sys2Proof/Laws/KeepsTables.lean ====
section
/-! SUPPORT. What the operations of Machine/Tables.lean keep. -/
namespace Sys2Proof.Laws

open Sys2Proof.Machine Sys2Proof.Safety

theorem dirGranule_keeps {part} {g} {s} {s0 : State} (h : Keeps s0 s) : Keeps s0 (dirGranule part g s) := by
  unfold dirGranule
  repeat' with_reducible first | assumption | apply setGranule_keeps | apply allocS0_keeps | refine (allocS0_keeps ?_).snd | apply pickFrame_keeps | refine (pickFrame_keeps ?_).snd | apply abandonMove_keeps | refine KeepsP.eq ?_ (by assumption) | intro _ | split | dsimp only | refine Keeps.upd ?_ rfl rfl rfl rfl rfl rfl

theorem placeDir_keeps {t} {s} {s0 : State} (h : Keeps s0 s) : Keeps s0 (placeDir t s) := by
  unfold placeDir
  repeat' with_reducible first | assumption | apply dirGranule_keeps | apply each_keeps | intro _ | split | dsimp only | refine Keeps.upd ?_ rfl rfl rfl rfl rfl rfl

theorem tableMade_keeps {t} {s} {s0 : State} (h : Keeps s0 s) : Keeps s0 (tableMade t s) := by
  unfold tableMade
  repeat' with_reducible first | assumption | apply setTbl_keeps | apply rset_keeps | apply placeDir_keeps | apply each_keeps | intro _ | split | dsimp only | refine Keeps.upd ?_ rfl rfl rfl rfl rfl rfl

theorem endWrite_keeps {t} {status} {data} {aux} {s} {s0 : State} (h : Keeps s0 s) : Keeps s0 (endWrite t status data aux s) := by
  unfold endWrite
  repeat' with_reducible first | assumption | apply setTbl_keeps | apply radd_keeps | apply closeTrackAux_keeps | intro _ | split | dsimp only | refine Keeps.upd ?_ rfl rfl rfl rfl rfl rfl

theorem engineRow_keeps {k} {origin} {pkey} {off} {len} {data} {wing} {s} {s0 : State} (h : Keeps s0 s) : KeepsP s0 (engineRow k origin pkey off len data wing s) := by
  unfold engineRow
  repeat' with_reducible first | assumption | apply takeId_keeps | refine (takeId_keeps ?_).snd | apply enterReq_keeps | apply KeepsP.mk' | refine KeepsP.eq ?_ (by assumption) | intro _ | split | dsimp only | refine Keeps.upd ?_ rfl rfl rfl rfl rfl rfl

theorem setHeadWrite_keeps {t} {w} {s} {s0 : State} (h : Keeps s0 s) : Keeps s0 (setHeadWrite t w s) := by
  unfold setHeadWrite
  repeat' with_reducible first | assumption | apply setTbl_keeps | intro _ | split | dsimp only | refine Keeps.upd ?_ rfl rfl rfl rfl rfl rfl

theorem issueWrites_keeps {t} {w} {new} {s} {s0 : State} (h : Keeps s0 s) : Keeps s0 (issueWrites t w new s) := by
  unfold issueWrites
  repeat' with_reducible first | assumption | apply endWrite_keeps | apply engineRow_keeps | refine (engineRow_keeps ?_).snd | apply setHeadWrite_keeps | apply poolPass_keeps | apply rset_keeps | apply foldl_keeps | apply foldl_keepsP | apply KeepsP.mk' | refine KeepsP.eq ?_ (by assumption) | refine (foldl_keepsP ?_ ?_).snd | exact ⟨‹_›⟩ | exact (‹KeepsP _ _›).snd | intro _ | split | dsimp only | refine Keeps.upd ?_ rfl rfl rfl rfl rfl rfl

theorem scatterWrite_keeps {t} {s} {s0 : State} (h : Keeps s0 s) : Keeps s0 (scatterWrite t s) := by
  unfold scatterWrite
  repeat' with_reducible first | assumption | apply endWrite_keeps | apply issueWrites_keeps | intro _ | split | dsimp only | refine Keeps.upd ?_ rfl rfl rfl rfl rfl rfl

theorem serveTable_keeps {id} {opc} {fail} {act} {s} {s0 : State} (hfail : ∀ x0 x1 x2 x3 t, Keeps s0 t → Keeps s0 (fail x0 x1 x2 x3 t)) (hact : ∀ x0 x1 x2 t, Keeps s0 t → Keeps s0 (act x0 x1 x2 t)) (h : Keeps s0 s) : KeepsN s0 (serveTable id opc fail act s) := by
  unfold serveTable
  repeat' with_reducible first | assumption | apply hfail | apply hact | apply serve_keeps | apply refuse_keeps | apply KeepsN.mk' | intro _ | split | dsimp only | refine Keeps.upd ?_ rfl rfl rfl rfl rfl rfl

theorem tblRefuse_keeps {n} {tracked} {f} {status} {s} {s0 : State} (h : Keeps s0 s) : Keeps s0 (tblRefuse n tracked f status s) := by
  unfold tblRefuse
  repeat' with_reducible first | assumption | apply refuse_keeps | intro _ | split | dsimp only | refine Keeps.upd ?_ rfl rfl rfl rfl rfl rfl

theorem gatherDetail_keeps {part} {t} {status} {nbad} {ver} {bad} {s} {s0 : State} (h : Keeps s0 s) : KeepsP s0 (gatherDetail part t status nbad ver bad s) := by
  unfold gatherDetail
  repeat' with_reducible first | assumption | apply rbump_keeps | apply KeepsP.mk' | intro _ | split | dsimp only | refine Keeps.upd ?_ rfl rfl rfl rfl rfl rfl

theorem badRows_keeps {t} {w} {status} {bad} {s} {s0 : State} (h : Keeps s0 s) : Keeps s0 (badRows t w status bad s) := by
  unfold badRows
  repeat' with_reducible first | assumption | apply gatherDetail_keeps | refine (gatherDetail_keeps ?_).snd | apply endWrite_keeps | refine KeepsP.eq ?_ (by assumption) | intro _ | split | dsimp only | refine Keeps.upd ?_ rfl rfl rfl rfl rfl rfl

theorem beginWrite_keeps {t} {s} {s0 : State} (h : Keeps s0 s) : Keeps s0 (beginWrite t s) := by
  unfold beginWrite
  repeat' with_reducible first | assumption | apply endWrite_keeps | apply badRows_keeps | apply issueWrites_keeps | apply engineRow_keeps | refine (engineRow_keeps ?_).snd | apply poolPass_keeps | apply setHeadWrite_keeps | apply foldl_keeps | apply foldl_keepsP | apply KeepsP.mk' | refine KeepsP.eq ?_ (by assumption) | refine (foldl_keepsP ?_ ?_).snd | exact ⟨‹_›⟩ | exact (‹KeepsP _ _›).snd | intro _ | split | dsimp only | refine Keeps.upd ?_ rfl rfl rfl rfl rfl rfl

theorem startWrites_keeps {t} {a1} {a2} {s0 : State} (h : Keeps s0 a2) : Keeps s0 (startWrites t a1 a2) := by
  induction a1 generalizing a2 with
  | zero =>
    unfold startWrites
    repeat' with_reducible first | assumption | apply ih | apply beginWrite_keeps | intro _ | split | dsimp only | refine Keeps.upd ?_ rfl rfl rfl rfl rfl rfl
  | succ n ih =>
    unfold startWrites
    repeat' with_reducible first | assumption | apply ih | apply beginWrite_keeps | intro _ | split | dsimp only | refine Keeps.upd ?_ rfl rfl rfl rfl rfl rfl

theorem queueWrite_keeps {n} {t} {scatter} {f} {s} {s0 : State} (h : Keeps s0 s) : Keeps s0 (queueWrite n t scatter f s) := by
  unfold queueWrite
  repeat' with_reducible first | assumption | apply setTbl_keeps | apply scatterWrite_keeps | apply startWrites_keeps | intro _ | split | dsimp only | refine Keeps.upd ?_ rfl rfl rfl rfl rfl rfl

theorem execRowPut_keeps {id} {s} {s0 : State} (h : Keeps s0 s) : KeepsN s0 (execRowPut id s) := by
  unfold execRowPut
  repeat' with_reducible first | assumption | apply serveTable_keeps | apply tblRefuse_keeps | apply queueWrite_keeps | apply KeepsN.mk' | intro _ | split | dsimp only | refine Keeps.upd ?_ rfl rfl rfl rfl rfl rfl

theorem execTablePin_keeps {id} {s} {s0 : State} (h : Keeps s0 s) : KeepsN s0 (execTablePin id s) := by
  unfold execTablePin
  repeat' with_reducible first | assumption | apply serveTable_keeps | apply tblRefuse_keeps | apply closeTrack_keeps | apply setTbl_keeps | apply addHold_keeps | apply KeepsN.mk' | intro _ | split | dsimp only | refine Keeps.upd ?_ rfl rfl rfl rfl rfl rfl

theorem setDir_keeps {t} {r} {n} {s} {s0 : State} (h : Keeps s0 s) : Keeps s0 (setDir t r n s) := by
  unfold setDir
  repeat' with_reducible first | assumption | intro _ | split | dsimp only | refine Keeps.upd ?_ rfl rfl rfl rfl rfl rfl | refine Keeps.upd' ?_ ?_ ?_ ?_ ?_ ?_ ?_ | apply wf_mwrite | apply wf_mwriteMasked | apply wf_mzero | apply wf_foldl_mset | apply wf_mset | exact (‹Canonical _›).pool | exact (‹Canonical _›).pips | exact (‹Canonical _›).galleries | exact (‹Canonical _›).request | exact (‹Canonical _›).response | exact (‹Canonical _›).registers

theorem setTag_keeps {t} {n} {ver} {prev} {row} {s} {s0 : State} (h : Keeps s0 s) : Keeps s0 (setTag t n ver prev row s) := by
  unfold setTag
  repeat' with_reducible first | assumption | intro _ | split | dsimp only | refine Keeps.upd ?_ rfl rfl rfl rfl rfl rfl | refine Keeps.upd' ?_ ?_ ?_ ?_ ?_ ?_ ?_ | apply wf_mwrite | apply wf_mwriteMasked | apply wf_mzero | apply wf_foldl_mset | apply wf_mset | exact (‹Canonical _›).pool | exact (‹Canonical _›).pips | exact (‹Canonical _›).galleries | exact (‹Canonical _›).request | exact (‹Canonical _›).response | exact (‹Canonical _›).registers

theorem flipRows_keeps {t} {rows} {s} {s0 : State} (h : Keeps s0 s) : Keeps s0 (flipRows t rows s) := by
  unfold flipRows
  repeat' with_reducible first | assumption | apply setDir_keeps | apply setTag_keeps | apply setTbl_keeps | apply rset_keeps | apply each_keeps | intro _ | split | dsimp only | refine Keeps.upd ?_ rfl rfl rfl rfl rfl rfl

theorem execRowFlip_keeps {tbl} {s} {s0 : State} (h : Keeps s0 s) : KeepsN s0 (execRowFlip tbl s) := by
  unfold execRowFlip
  repeat' with_reducible first | assumption | apply whenRunning_keeps | apply scatterWrite_keeps | apply poolPass_keeps | apply startWrites_keeps | apply endWrite_keeps | apply flipRows_keeps | apply KeepsN.mk' | intro _ | split | dsimp only | refine Keeps.upd ?_ rfl rfl rfl rfl rfl rfl

theorem execTableReady_keeps {tbl} {s} {s0 : State} (h : Keeps s0 s) : KeepsN s0 (execTableReady tbl s) := by
  unfold execTableReady
  repeat' with_reducible first | assumption | apply whenRunning_keeps | apply placeDir_keeps | apply askLines_keeps | apply clearStale_keeps | apply atTime_keeps | apply rset_keeps | apply KeepsN.mk' | intro _ | split | dsimp only | refine Keeps.upd ?_ rfl rfl rfl rfl rfl rfl | refine Keeps.upd' ?_ ?_ ?_ ?_ ?_ ?_ ?_ | apply wf_mwrite | apply wf_mwriteMasked | apply wf_mzero | apply wf_foldl_mset | apply wf_mset | exact (‹Canonical _›).pool | exact (‹Canonical _›).pips | exact (‹Canonical _›).galleries | exact (‹Canonical _›).request | exact (‹Canonical _›).response | exact (‹Canonical _›).registers

theorem tableRetired_keeps {t} {s} {s0 : State} (h : Keeps s0 s) : Keeps s0 (tableRetired t s) := by
  unfold tableRetired
  repeat' with_reducible first | assumption | apply endWrite_keeps | apply dropHolds_keeps | apply setGranule_keeps | apply rset_keeps | apply setTbl_keeps | apply each_keeps | intro _ | split | dsimp only | refine Keeps.upd ?_ rfl rfl rfl rfl rfl rfl

theorem execTableSlotFree_keeps {tbl} {tslot} {s} {s0 : State} (h : Keeps s0 s) : KeepsN s0 (execTableSlotFree tbl tslot s) := by
  unfold execTableSlotFree
  repeat' with_reducible first | assumption | apply whenRunning_keeps | apply setTag_keeps | apply radd_keeps | apply setTbl_keeps | apply KeepsN.mk' | intro _ | split | dsimp only | refine Keeps.upd ?_ rfl rfl rfl rfl rfl rfl

theorem execScatterAdd_keeps {id} {s} {s0 : State} (h : Keeps s0 s) : KeepsN s0 (execScatterAdd id s) := by
  unfold execScatterAdd
  repeat' with_reducible first | assumption | apply serveTable_keeps | apply tblRefuse_keeps | apply queueWrite_keeps | apply KeepsN.mk' | intro _ | split | dsimp only | refine Keeps.upd ?_ rfl rfl rfl rfl rfl rfl

theorem execPinHoldLapse_keeps {tbl} {ver} {peer} {s} {s0 : State} (h : Keeps s0 s) : KeepsN s0 (execPinHoldLapse tbl ver peer s) := by
  unfold execPinHoldLapse
  repeat' with_reducible first | assumption | apply whenRunning_keeps | apply dropHolds_keeps | apply atTime_keeps | apply KeepsN.mk' | intro _ | split | dsimp only | refine Keeps.upd ?_ rfl rfl rfl rfl rfl rfl

theorem execTableUnpin_keeps {id} {s} {s0 : State} (h : Keeps s0 s) : KeepsN s0 (execTableUnpin id s) := by
  unfold execTableUnpin
  repeat' with_reducible first | assumption | apply serveTable_keeps | apply tblRefuse_keeps | apply closeTrack_keeps | apply dropHolds_keeps | apply KeepsN.mk' | intro _ | split | dsimp only | refine Keeps.upd ?_ rfl rfl rfl rfl rfl rfl

end Sys2Proof.Laws
end

