-- ==== Sys2Proof/Laws/KeepsCutoff.lean ====
section
/-! SUPPORT. What the operations of Machine/Cutoff.lean keep. -/
namespace Sys2Proof.Laws

open Sys2Proof.Machine Sys2Proof.Safety

theorem clampTo_keeps {f} {i} {v} {s} {s0 : State} (h : Keeps s0 s) : Keeps s0 (clampTo f i v s) := by
  unfold clampTo
  repeat' with_reducible first | assumption | apply stageEntry_keeps | intro _ | split | dsimp only | refine Keeps.upd ?_ rfl rfl rfl rfl rfl rfl

theorem ruleQuiet_keeps {s} {s0 : State} (h : Keeps s0 s) : Keeps s0 (ruleQuiet s) := by
  unfold ruleQuiet
  repeat' with_reducible first | assumption | apply clampTo_keeps | apply each_keeps | intro _ | split | dsimp only | refine Keeps.upd ?_ rfl rfl rfl rfl rfl rfl

theorem ruleSets_keeps {s} {s0 : State} (h : Keeps s0 s) : Keeps s0 (ruleSets s) := by
  unfold ruleSets
  repeat' with_reducible first | assumption | apply clampTo_keeps | apply each_keeps | intro _ | split | dsimp only | refine Keeps.upd ?_ rfl rfl rfl rfl rfl rfl

theorem clampRanges_keeps {s} {s0 : State} (h : Keeps s0 s) : Keeps s0 (clampRanges s) := by
  unfold clampRanges
  repeat' with_reducible first | assumption | apply clampTo_keeps | apply each_keeps | intro _ | split | dsimp only | refine Keeps.upd ?_ rfl rfl rfl rfl rfl rfl

theorem ruleLink_keeps {s} {s0 : State} (h : Keeps s0 s) : Keeps s0 (ruleLink s) := by
  unfold ruleLink
  repeat' with_reducible first | assumption | apply clampTo_keeps | apply each_keeps | intro _ | split | dsimp only | refine Keeps.upd ?_ rfl rfl rfl rfl rfl rfl

theorem ruleMirrors_keeps {s} {s0 : State} (h : Keeps s0 s) : Keeps s0 (ruleMirrors s) := by
  unfold ruleMirrors
  repeat' with_reducible first | assumption | apply clampTo_keeps | apply each_keeps | intro _ | split | dsimp only | refine Keeps.upd ?_ rfl rfl rfl rfl rfl rfl

theorem rulePorts_keeps {s} {s0 : State} (h : Keeps s0 s) : Keeps s0 (rulePorts s) := by
  unfold rulePorts
  repeat' with_reducible first | assumption | apply clampTo_keeps | apply each_keeps | intro _ | split | dsimp only | refine Keeps.upd ?_ rfl rfl rfl rfl rfl rfl

theorem ruleFree_keeps {s} {s0 : State} (h : Keeps s0 s) : Keeps s0 (ruleFree s) := by
  unfold ruleFree
  repeat' with_reducible first | assumption | apply clampTo_keeps | intro _ | split | dsimp only | refine Keeps.upd ?_ rfl rfl rfl rfl rfl rfl

theorem ruleTimeouts_keeps {s} {s0 : State} (h : Keeps s0 s) : Keeps s0 (ruleTimeouts s) := by
  unfold ruleTimeouts
  repeat' with_reducible first | assumption | apply clampTo_keeps | intro _ | split | dsimp only | refine Keeps.upd ?_ rfl rfl rfl rfl rfl rfl

theorem ruleGrants_keeps {s} {s0 : State} (h : Keeps s0 s) : Keeps s0 (ruleGrants s) := by
  unfold ruleGrants
  repeat' with_reducible first | assumption | apply clampTo_keeps | apply foldl_keeps | apply foldl_keepsP | apply KeepsP.mk' | refine KeepsP.eq ?_ (by assumption) | refine (foldl_keepsP ?_ ?_).snd | exact ⟨‹_›⟩ | exact (‹KeepsP _ _›).snd | intro _ | split | dsimp only | refine Keeps.upd ?_ rfl rfl rfl rfl rfl rfl

theorem ruleEpoch_keeps {s} {s0 : State} (h : Keeps s0 s) : Keeps s0 (ruleEpoch s) := by
  unfold ruleEpoch
  repeat' with_reducible first | assumption | apply clampTo_keeps | intro _ | split | dsimp only | refine Keeps.upd ?_ rfl rfl rfl rfl rfl rfl

theorem ruleSlots_keeps {s} {s0 : State} (h : Keeps s0 s) : Keeps s0 (ruleSlots s) := by
  unfold ruleSlots
  repeat' with_reducible first | assumption | apply clampTo_keeps | apply each_keeps | intro _ | split | dsimp only | refine Keeps.upd ?_ rfl rfl rfl rfl rfl rfl

theorem cutDown_keeps {f} {unit} {idx} {acc : Nat × State} {s0 : State} (h : KeepsP s0 acc) : KeepsP s0 (cutDown f unit idx acc) := by
  unfold cutDown
  exact foldl_keepsP (fun _ _ hq => ⟨clampTo_keeps hq.snd⟩) h

theorem ruleTrays_keeps {s} {s0 : State} (h : Keeps s0 s) : Keeps s0 (ruleTrays s) := by
  unfold ruleTrays
  exact (cutDown_keeps ⟨h⟩).snd

theorem ruleLandings_keeps {s} {s0 : State} (h : Keeps s0 s) : Keeps s0 (ruleLandings s) := by
  unfold ruleLandings
  exact (cutDown_keeps (cutDown_keeps ⟨h⟩)).snd

theorem ruleQuotas_keeps {s} {s0 : State} (h : Keeps s0 s) : Keeps s0 (ruleQuotas s) := by
  unfold ruleQuotas
  exact (cutDown_keeps ⟨each_keeps (fun _ _ k => clampTo_keeps k) h⟩).snd

theorem rulePkeys_keeps {every} {s} {s0 : State} (h : Keeps s0 s) : Keeps s0 (rulePkeys every s) := by
  unfold rulePkeys
  repeat' with_reducible first | assumption | apply clampTo_keeps | apply each_keeps | apply foldl_keeps | apply foldl_keepsP | apply KeepsP.mk' | refine KeepsP.eq ?_ (by assumption) | refine (foldl_keepsP ?_ ?_).snd | exact ⟨‹_›⟩ | exact (‹KeepsP _ _›).snd | intro _ | split | dsimp only | refine Keeps.upd ?_ rfl rfl rfl rfl rfl rfl

theorem relate_keeps {every} {s} {s0 : State} (h : Keeps s0 s) : Keeps s0 (relate every s) := by
  unfold relate
  repeat' with_reducible first | assumption | apply ruleFree_keeps | apply ruleTimeouts_keeps | apply ruleGrants_keeps | apply ruleEpoch_keeps | apply ruleQuiet_keeps | apply ruleSlots_keeps | apply ruleTrays_keeps | apply ruleLandings_keeps | apply ruleQuotas_keeps | apply ruleSets_keeps | apply ruleMirrors_keeps | apply rulePkeys_keeps | apply rulePorts_keeps | apply ruleLink_keeps | intro _ | split | dsimp only | refine Keeps.upd ?_ rfl rfl rfl rfl rfl rfl

theorem commitVals_keeps {vs} {s} {s0 : State} (h : Keeps s0 s) : Keeps s0 (commitVals vs s) := by
  unfold commitVals
  repeat' with_reducible first | assumption | apply rset_keeps | apply each_keeps | intro _ | split | dsimp only | refine Keeps.upd ?_ rfl rfl rfl rfl rfl rfl

theorem preview_keeps {s} {s0 : State} (h : Keeps s0 s) : Keeps s0 (preview s) := by
  unfold preview
  repeat' with_reducible first | assumption | apply commitVals_keeps | intro _ | split | dsimp only | refine Keeps.upd ?_ rfl rfl rfl rfl rfl rfl

theorem refuseObject_keeps {a} {status} {k} {s} {s0 : State} (h : Keeps s0 s) : Keeps s0 (refuseObject a status k s) := by
  unfold refuseObject
  repeat' with_reducible first | assumption | apply stageEntry_keeps | intro _ | split | dsimp only | refine Keeps.upd ?_ rfl rfl rfl rfl rfl rfl

theorem checkObjects_keeps {a} {check} {take} {trial s s0 : State} (h : Keeps s0 s) :
    Keeps s0 (checkObjects a check take trial s).2 := by
  unfold checkObjects
  have g : ∀ (l : List Nat) (acc : State × State), Keeps s0 acc.2 → Keeps s0 (l.foldl (fun (acc : State × State) k =>
      match check acc.1 (fget acc.2) k with
      | some st => (acc.1, refuseObject a st k acc.2)
      | none => (take k (commitVals (objFrozen a k acc.2) acc.1), acc.2)) acc).2 := by
    intro l
    induction l with
    | nil => exact fun _ k => k
    | cons x l ih =>
      intro acc k
      refine ih _ ?_
      dsimp only
      split
      · exact refuseObject_keeps k
      · exact k
  exact g _ _ h

theorem checkAll_keeps {s} {s0 : State} (h : Keeps s0 s) : Keeps s0 (checkAll s) := by
  unfold checkAll
  exact checkObjects_keeps (checkObjects_keeps (checkObjects_keeps h))

theorem checkStage_keeps {s} {s0 : State} (h : Keeps s0 s) : Keeps s0 (checkStage s) := by
  unfold checkStage
  repeat' with_reducible first | assumption | apply relate_keeps | apply clampRanges_keeps | apply checkAll_keeps | intro _ | split | dsimp only | refine Keeps.upd ?_ rfl rfl rfl rfl rfl rfl

theorem freeze_keeps {s} {s0 : State} (h : Keeps s0 s) : Keeps s0 (freeze s) := by
  unfold freeze
  repeat' with_reducible first | assumption | intro _ | split | dsimp only | refine Keeps.upd ?_ rfl rfl rfl rfl rfl rfl

theorem cutoffNow_keeps {s} {s0 : State} (h : Keeps s0 s) : Keeps s0 (cutoffNow s) := by
  unfold cutoffNow
  repeat' with_reducible first | assumption | apply checkStage_keeps | apply freeze_keeps | intro _ | split | dsimp only | refine Keeps.upd ?_ rfl rfl rfl rfl rfl rfl

theorem execStageCutoff_keeps {s} {s0 : State} (h : Keeps s0 s) : KeepsN s0 (execStageCutoff s) := by
  unfold execStageCutoff
  repeat' with_reducible first | assumption | apply whenRunning_keeps | apply cutoffNow_keeps | apply atTime_keeps | apply KeepsN.mk' | intro _ | split | dsimp only | refine Keeps.upd ?_ rfl rfl rfl rfl rfl rfl

end Sys2Proof.Laws
end

