-- ==== Sys2Proof/Laws/KeepsCoherence.lean ====
section
/-! SUPPORT. What the operations of Machine/Coherence.lean keep. -/
namespace Sys2Proof.Laws

open Sys2Proof.Machine Sys2Proof.Safety

theorem onCtl_keeps {id} {opc} {act} {s} {s0 : State} (hact : ∀ x0 t, Keeps s0 t → Keeps s0 (act x0 t)) (h : Keeps s0 s) : KeepsN s0 (onCtl id opc act s) := by
  unfold onCtl
  repeat' with_reducible first | assumption | apply hact | apply whenRunning_keeps | apply takeInbox_keeps | apply KeepsN.mk' | intro _ | split | dsimp only | refine Keeps.upd ?_ rfl rfl rfl rfl rfl rfl

theorem declareCache_keeps {port} {eth} {node} {lines} {s} {s0 : State} (h : Keeps s0 s) : Keeps s0 (declareCache port eth node lines s) := by
  unfold declareCache
  repeat' with_reducible first | assumption | apply cacheState_keeps | apply leaseStart_keeps | intro _ | split | dsimp only | refine Keeps.upd ?_ rfl rfl rfl rfl rfl rfl

theorem execCacheDeclare_keeps {id} {s} {s0 : State} (h : Keeps s0 s) : KeepsN s0 (execCacheDeclare id s) := by
  unfold execCacheDeclare
  repeat' with_reducible first | assumption | apply onCtl_keeps | apply declareCache_keeps | apply KeepsN.mk' | intro _ | split | dsimp only | refine Keeps.upd ?_ rfl rfl rfl rfl rfl rfl

theorem releaseCache_keeps {node} {s} {s0 : State} (h : Keeps s0 s) : Keeps s0 (releaseCache node s) := by
  unfold releaseCache
  repeat' with_reducible first | assumption | apply cacheState_keeps | apply sendSnoop_keeps | apply setTags_keeps | apply freeReleasing_keeps | apply each_keeps | intro _ | split | dsimp only | refine Keeps.upd ?_ rfl rfl rfl rfl rfl rfl

theorem execStaleClear_keeps {b0} {s} {s0 : State} (h : Keeps s0 s) : KeepsN s0 (execStaleClear b0 s) := by
  unfold execStaleClear
  repeat' with_reducible first | assumption | apply withCmd_keeps | apply completeWith_keeps | apply clearStale_keeps | apply KeepsN.mk' | intro _ | split | dsimp only | refine Keeps.upd ?_ rfl rfl rfl rfl rfl rfl

theorem coherentAct_keeps {k} {n} {tracked} {f} {s} {s0 : State} (h : Keeps s0 s) : Keeps s0 (coherentAct k n tracked f s) := by
  unfold coherentAct
  repeat' with_reducible first | assumption | apply refuse_keeps | apply submit_keeps | intro _ | split | dsimp only | refine Keeps.upd ?_ rfl rfl rfl rfl rfl rfl

theorem execRdOwn_keeps {id} {s} {s0 : State} (h : Keeps s0 s) : KeepsN s0 (execRdOwn id s) := by
  unfold execRdOwn
  repeat' with_reducible first | assumption | apply serve_keeps | apply coherentAct_keeps | apply KeepsN.mk' | intro _ | split | dsimp only | refine Keeps.upd ?_ rfl rfl rfl rfl rfl rfl

theorem execUpgrade_keeps {id} {s} {s0 : State} (h : Keeps s0 s) : KeepsN s0 (execUpgrade id s) := by
  unfold execUpgrade
  repeat' with_reducible first | assumption | apply serve_keeps | apply coherentAct_keeps | apply KeepsN.mk' | intro _ | split | dsimp only | refine Keeps.upd ?_ rfl rfl rfl rfl rfl rfl

theorem execEvictClean_keeps {id} {s} {s0 : State} (h : Keeps s0 s) : KeepsN s0 (execEvictClean id s) := by
  unfold execEvictClean
  repeat' with_reducible first | assumption | apply serve_keeps | apply coherentAct_keeps | apply KeepsN.mk' | intro _ | split | dsimp only | refine Keeps.upd ?_ rfl rfl rfl rfl rfl rfl

theorem execSnoopTimeout_keeps {stag} {s} {s0 : State} (h : Keeps s0 s) : KeepsN s0 (execSnoopTimeout stag s) := by
  unfold execSnoopTimeout
  repeat' with_reducible first | assumption | apply whenRunning_keeps | apply rbump_keeps | apply atTime_keeps | apply emitSnoop_keeps | apply poolPass_keeps | apply slotLoss_keeps | apply KeepsN.mk' | intro _ | split | dsimp only | refine Keeps.upd ?_ rfl rfl rfl rfl rfl rfl

theorem snoopOver_keeps {stag} {n} {data} {s} {s0 : State} (h : Keeps s0 s) : Keeps s0 (snoopOver stag n data s) := by
  unfold snoopOver
  repeat' with_reducible first | assumption | apply endSnoop_keeps | apply dropTag_keeps | apply retag_keeps | apply writeBack_keeps | apply poolPass_keeps | apply freeReleasing_keeps | intro _ | split | dsimp only | refine Keeps.upd ?_ rfl rfl rfl rfl rfl rfl

theorem execSnoopAnswer_keeps {id} {s} {s0 : State} (h : Keeps s0 s) : KeepsN s0 (execSnoopAnswer id s) := by
  unfold execSnoopAnswer
  repeat' with_reducible first | assumption | apply whenRunning_keeps | apply snoopOver_keeps | apply takeInbox_keeps | apply KeepsN.mk' | intro _ | split | dsimp only | refine Keeps.upd ?_ rfl rfl rfl rfl rfl rfl

theorem execCacheRelease_keeps {id} {s} {s0 : State} (h : Keeps s0 s) : KeepsN s0 (execCacheRelease id s) := by
  unfold execCacheRelease
  repeat' with_reducible first | assumption | apply onCtl_keeps | apply poolPass_keeps | apply releaseCache_keeps | apply KeepsN.mk' | intro _ | split | dsimp only | refine Keeps.upd ?_ rfl rfl rfl rfl rfl rfl

theorem execWbDirty_keeps {id} {s} {s0 : State} (h : Keeps s0 s) : KeepsN s0 (execWbDirty id s) := by
  unfold execWbDirty
  repeat' with_reducible first | assumption | apply serve_keeps | apply coherentAct_keeps | apply KeepsN.mk' | intro _ | split | dsimp only | refine Keeps.upd ?_ rfl rfl rfl rfl rfl rfl

theorem execStaleQuery_keeps {b0} {s} {s0 : State} (h : Keeps s0 s) : KeepsN s0 (execStaleQuery b0 s) := by
  unfold execStaleQuery
  repeat' with_reducible first | assumption | apply withCmd_keeps | apply completeWith_keeps | apply emit_keeps | apply complete_keeps | apply foldl_keeps | apply foldl_keepsP | apply KeepsN.mk' | apply KeepsP.mk' | refine (foldl_keepsP ?_ ?_).snd | exact ⟨‹_›⟩ | exact (‹KeepsP _ _›).snd | intro _ | split | dsimp only | refine Keeps.upd ?_ rfl rfl rfl rfl rfl rfl

theorem execRdShared_keeps {id} {s} {s0 : State} (h : Keeps s0 s) : KeepsN s0 (execRdShared id s) := by
  unfold execRdShared
  repeat' with_reducible first | assumption | apply serve_keeps | apply coherentAct_keeps | apply KeepsN.mk' | intro _ | split | dsimp only | refine Keeps.upd ?_ rfl rfl rfl rfl rfl rfl

end Sys2Proof.Laws
end

