-- ==== Sys2Proof/Laws/KeepsGather.lean ====
section
/-! SUPPORT. What the operations of Machine/Gather.lean keep. -/
namespace Sys2Proof.Laws

open Sys2Proof.Machine Sys2Proof.Safety

theorem waitBatch_keeps {id} {s} {s0 : State} (h : Keeps s0 s) : Keeps s0 (waitBatch id s) := by
  unfold waitBatch
  repeat' with_reducible first | assumption | apply landInbox_keeps | intro _ | split | dsimp only | refine Keeps.upd ?_ rfl rfl rfl rfl rfl rfl

theorem imageFail_keeps {n} {status} {fetches} {spills} {nbad} {ver} {aux} {bad} {s} {s0 : State} (h : Keeps s0 s) : Keeps s0 (imageFail n status fetches spills nbad ver aux bad s) := by
  unfold imageFail
  repeat' with_reducible first | assumption | apply closeTrackAux_keeps | intro _ | split | dsimp only | refine Keeps.upd ?_ rfl rfl rfl rfl rfl rfl

theorem sendImage_keeps {n} {f} {image} {payload} {s} {s0 : State} (h : Keeps s0 s) : Keeps s0 (sendImage n f image payload s) := by
  unfold sendImage
  repeat' with_reducible first | assumption | apply sendRaw_keeps | apply closeTrack_keeps | apply each_keeps | intro _ | split | dsimp only | refine Keeps.upd ?_ rfl rfl rfl rfl rfl rfl

theorem leaveGallery_keeps {b} {g} {s} {s0 : State} (h : Keeps s0 s) : Keeps s0 (leaveGallery b g s) := by
  unfold leaveGallery
  repeat' with_reducible first | assumption | apply fresh_keeps | refine (fresh_keeps ?_).snd | apply setGal_keeps | apply meter_keeps | refine KeepsP.eq ?_ (by assumption) | intro _ | split | dsimp only | refine Keeps.upd ?_ rfl rfl rfl rfl rfl rfl

theorem dropBatch_keeps {b} {s} {s0 : State} (h : Keeps s0 s) : Keeps s0 (dropBatch b s) := by
  unfold dropBatch
  repeat' with_reducible first | assumption | apply releasePart_keeps | apply leaveGallery_keeps | apply setGal_keeps | apply placeHeld_keeps | apply each_keeps | intro _ | split | dsimp only | refine Keeps.upd ?_ rfl rfl rfl rfl rfl rfl

theorem execGatherBatchEnd_keeps {b} {s} {s0 : State} (h : Keeps s0 s) : KeepsN s0 (execGatherBatchEnd b s) := by
  unfold execGatherBatchEnd
  repeat' with_reducible first | assumption | apply whenRunning_keeps | apply sendImage_keeps | apply dropBatch_keeps | apply KeepsN.mk' | intro _ | split | dsimp only | refine Keeps.upd ?_ rfl rfl rfl rfl rfl rfl

theorem placeShares_keeps {b} {part} {wantG} {f} {base} {s} {s0 : State} (h : Keeps s0 s) : Keeps s0 (placeShares b part wantG f base s) := by
  unfold placeShares
  repeat' with_reducible first | assumption | apply joinQueue_keeps | apply placeLaunch_keeps | apply foldl_keeps | apply foldl_keepsP | apply KeepsP.mk' | refine KeepsP.eq ?_ (by assumption) | refine (foldl_keepsP ?_ ?_).snd | exact ⟨‹_›⟩ | exact (‹KeepsP _ _›).snd | intro _ | split | dsimp only | refine Keeps.upd ?_ rfl rfl rfl rfl rfl rfl

theorem setBatch_keeps {b} {y} {s} {s0 : State} (h : Keeps s0 s) : Keeps s0 (setBatch b y s) := by
  unfold setBatch
  repeat' with_reducible first | assumption | intro _ | split | dsimp only | refine Keeps.upd ?_ rfl rfl rfl rfl rfl rfl

theorem issueRound_keeps {b} {j} {s} {s0 : State} (h : Keeps s0 s) : Keeps s0 (issueRound b j s) := by
  unfold issueRound
  repeat' with_reducible first | assumption | apply engineRow_keeps | refine (engineRow_keeps ?_).snd | apply radd_keeps | apply setBatch_keeps | apply foldl_keeps | apply foldl_keepsP | apply KeepsP.mk' | refine KeepsP.eq ?_ (by assumption) | refine (foldl_keepsP ?_ ?_).snd | exact ⟨‹_›⟩ | exact (‹KeepsP _ _›).snd | intro _ | split | dsimp only | refine Keeps.upd ?_ rfl rfl rfl rfl rfl rfl

theorem issueShare_keeps {b} {j} {s} {s0 : State} (h : Keeps s0 s) : Keeps s0 (issueShare b j s) := by
  unfold issueShare
  repeat' with_reducible first | assumption | apply setBatch_keeps | apply leaveGallery_keeps | apply issueRound_keeps | intro _ | split | dsimp only | refine Keeps.upd ?_ rfl rfl rfl rfl rfl rfl

theorem imageRefuse_keeps {n} {tracked} {f} {status} {s} {s0 : State} (h : Keeps s0 s) : Keeps s0 (imageRefuse n tracked f status s) := by
  unfold imageRefuse
  repeat' with_reducible first | assumption | apply imageFail_keeps | apply fresh_keeps | refine (fresh_keeps ?_).snd | apply refuse_keeps | refine KeepsP.eq ?_ (by assumption) | intro _ | split | dsimp only | refine Keeps.upd ?_ rfl rfl rfl rfl rfl rfl

theorem execFilterTopk_keeps {id} {s} {s0 : State} (h : Keeps s0 s) : KeepsN s0 (execFilterTopk id s) := by
  unfold execFilterTopk
  repeat' with_reducible first | assumption | apply whenRunning_keeps | apply askLines_keeps | apply serveTable_keeps | apply imageRefuse_keeps | apply heatAt_keeps | apply imageFail_keeps | apply sendImage_keeps | apply radd_keeps | apply each_keeps | apply foldl_keeps | apply foldl_keepsP | apply KeepsN.mk' | apply KeepsP.mk' | refine (foldl_keepsP ?_ ?_).snd | exact ⟨‹_›⟩ | exact (‹KeepsP _ _›).snd | intro _ | split | dsimp only | refine Keeps.upd ?_ rfl rfl rfl rfl rfl rfl

theorem endRound_keeps {b} {j} {y} {s} {s0 : State} (h : Keeps s0 s) : Keeps s0 (endRound b j y s) := by
  unfold endRound
  repeat' with_reducible first | assumption | apply placeHeld_keeps | apply leaveGallery_keeps | apply setBatch_keeps | apply poolPass_keeps | apply issueRound_keeps | apply radd_keeps | intro _ | split | dsimp only | refine Keeps.upd ?_ rfl rfl rfl rfl rfl rfl

theorem batchAccept_keeps {n} {f} {t} {s} {s0 : State} (h : Keeps s0 s) : Keeps s0 (batchAccept n f t s) := by
  unfold batchAccept
  repeat' with_reducible first | assumption | apply engineRow_keeps | refine (engineRow_keeps ?_).snd | apply poolPass_keeps | apply placeShares_keeps | apply setBatch_keeps | refine KeepsP.eq ?_ (by assumption) | intro _ | split | dsimp only | refine Keeps.upd ?_ rfl rfl rfl rfl rfl rfl

theorem issueShares_keeps {b} {s} {s0 : State} (h : Keeps s0 s) : Keeps s0 (issueShares b s) := by
  unfold issueShares
  repeat' with_reducible first | assumption | apply issueShare_keeps | apply each_keeps | intro _ | split | dsimp only | refine Keeps.upd ?_ rfl rfl rfl rfl rfl rfl

theorem batchFail_keeps {b} {status} {s} {s0 : State} (h : Keeps s0 s) : Keeps s0 (batchFail b status s) := by
  unfold batchFail
  repeat' with_reducible first | assumption | apply imageFail_keeps | apply dropBatch_keeps | intro _ | split | dsimp only | refine Keeps.upd ?_ rfl rfl rfl rfl rfl rfl

theorem execGatherBatchDeadline_keeps {b} {s} {s0 : State} (h : Keeps s0 s) : KeepsN s0 (execGatherBatchDeadline b s) := by
  unfold execGatherBatchDeadline
  repeat' with_reducible first | assumption | apply whenRunning_keeps | apply batchFail_keeps | apply atTime_keeps | apply mayEnter_keeps | refine (mayEnter_keeps ?_).third | apply imageRefuse_keeps | apply KeepsN.mk' | refine KeepsT.eq ?_ (by assumption) | intro _ | split | dsimp only | refine Keeps.upd ?_ rfl rfl rfl rfl rfl rfl

theorem batchDirectory_keeps {b} {y} {s} {s0 : State} (h : Keeps s0 s) : Keeps s0 (batchDirectory b y s) := by
  unfold batchDirectory
  repeat' with_reducible first | assumption | apply batchFail_keeps | apply gatherDetail_keeps | refine (gatherDetail_keeps ?_).snd | apply dropBatch_keeps | apply imageFail_keeps | apply poolPass_keeps | apply issueShares_keeps | apply setBatch_keeps | apply foldl_keeps | apply foldl_keepsP | apply KeepsP.mk' | refine KeepsP.eq ?_ (by assumption) | refine (foldl_keepsP ?_ ?_).snd | exact ⟨‹_›⟩ | exact (‹KeepsP _ _›).snd | intro _ | split | dsimp only | refine Keeps.upd ?_ rfl rfl rfl rfl rfl rfl

theorem execGatherBatch_keeps {id} {s} {s0 : State} (h : Keeps s0 s) : KeepsN s0 (execGatherBatch id s) := by
  unfold execGatherBatch
  repeat' with_reducible first | assumption | apply whenRunning_keeps | apply waitBatch_keeps | apply serveTable_keeps | apply imageRefuse_keeps | apply batchAccept_keeps | apply KeepsN.mk' | intro _ | split | dsimp only | refine Keeps.upd ?_ rfl rfl rfl rfl rfl rfl

theorem execGatherRowFetch_keeps {b} {share} {row} {s} {s0 : State} (h : Keeps s0 s) : KeepsN s0 (execGatherRowFetch b share row s) := by
  unfold execGatherRowFetch
  repeat' with_reducible first | assumption | apply whenRunning_keeps | apply poolPass_keeps | apply batchFail_keeps | apply setBatch_keeps | apply endRound_keeps | apply KeepsN.mk' | intro _ | split | dsimp only | refine Keeps.upd ?_ rfl rfl rfl rfl rfl rfl

theorem execGatherDirectoryDone_keeps {b} {s} {s0 : State} (h : Keeps s0 s) : KeepsN s0 (execGatherDirectoryDone b s) := by
  unfold execGatherDirectoryDone
  repeat' with_reducible first | assumption | apply whenRunning_keeps | apply poolPass_keeps | apply issueShares_keeps | apply batchFail_keeps | apply batchDirectory_keeps | apply KeepsN.mk' | intro _ | split | dsimp only | refine Keeps.upd ?_ rfl rfl rfl rfl rfl rfl

end Sys2Proof.Laws
end

