-- ==== Sys2Proof/Laws/KeepsLeases.lean ====
section
/-! SUPPORT. What the operations of Machine/Leases.lean keep. -/
namespace Sys2Proof.Laws

open Sys2Proof.Machine Sys2Proof.Safety

theorem endWrites_keeps {t} {s} {s0 : State} (h : Keeps s0 s) : Keeps s0 (endWrites t s) := by
  unfold endWrites
  repeat' with_reducible first | assumption | apply endWrite_keeps | apply each_keeps | intro _ | split | dsimp only | refine Keeps.upd ?_ rfl rfl rfl rfl rfl rfl

theorem fenceEnds_keeps {s} {s0 : State} (h : Keeps s0 s) : Keeps s0 (fenceEnds s) := by
  unfold fenceEnds
  repeat' with_reducible first | assumption | apply endWrites_keeps | apply batchFail_keeps | apply planGo_keeps | apply setPlan_keeps | apply each_keeps | intro _ | split | dsimp only | refine Keeps.upd ?_ rfl rfl rfl rfl rfl rfl

theorem leaseLapse_keeps {l} {x} {s} {s0 : State} (h : Keeps s0 s) : Keeps s0 (leaseLapse l x s) := by
  unfold leaseLapse
  repeat' with_reducible first | assumption | apply fenceExtent_keeps | apply report_keeps | apply slotLoss_keeps | apply fenceEnds_keeps | apply poolPass_keeps | apply leaseSweep_keeps | apply each_keeps | intro _ | split | dsimp only | refine Keeps.upd ?_ rfl rfl rfl rfl rfl rfl

theorem execLeaseExpiry_keeps {l} {s} {s0 : State} (h : Keeps s0 s) : KeepsN s0 (execLeaseExpiry l s) := by
  unfold execLeaseExpiry
  repeat' with_reducible first | assumption | apply whenRunning_keeps | apply leaseLapse_keeps | apply atTime_keeps | apply KeepsN.mk' | intro _ | split | dsimp only | refine Keeps.upd ?_ rfl rfl rfl rfl rfl rfl

theorem leaseState_keeps {f} {expiry} {state} {s} {s0 : State} (h : Keeps s0 s) : Keeps s0 (leaseState f expiry state s) := by
  unfold leaseState
  repeat' with_reducible first | assumption | apply sendRaw_keeps | intro _ | split | dsimp only | refine Keeps.upd ?_ rfl rfl rfl rfl rfl rfl

theorem execLeaseRenew_keeps {id} {s} {s0 : State} (h : Keeps s0 s) : KeepsN s0 (execLeaseRenew id s) := by
  unfold execLeaseRenew
  repeat' with_reducible first | assumption | apply onCtl_keeps | apply leaseState_keeps | apply leaseStart_keeps | apply KeepsN.mk' | intro _ | split | dsimp only | refine Keeps.upd ?_ rfl rfl rfl rfl rfl rfl

end Sys2Proof.Laws
end

