-- ==== Sys2Proof/Laws/KeepsLinkState.lean ====
section
/-! SUPPORT. What the operations of Machine/LinkState.lean keep. -/
namespace Sys2Proof.Laws

open Sys2Proof.Machine Sys2Proof.Safety

theorem versionCheck_keeps {n} {s} {s0 : State} (h : Keeps s0 s) : Keeps s0 (versionCheck n s) := by
  unfold versionCheck
  repeat' with_reducible first | assumption | apply rset_keeps | apply setLink_keeps | intro _ | split | dsimp only | refine Keeps.upd ?_ rfl rfl rfl rfl rfl rfl

theorem flushFrame_keeps {n} {b1} {s} {s0 : State} (h : Keeps s0 s) : Keeps s0 (flushFrame n b1 s) := by
  unfold flushFrame
  repeat' with_reducible first | assumption | apply rbump_keeps | apply closeTrackError_keeps | intro _ | split | dsimp only | refine Keeps.upd ?_ rfl rfl rfl rfl rfl rfl

theorem lanesGood_keeps {n} {s} {s0 : State} (h : Keeps s0 s) : Keeps s0 (lanesGood n s) := by
  unfold lanesGood
  repeat' with_reducible first | assumption | apply rset_keeps | apply each_keeps | intro _ | split | dsimp only | refine Keeps.upd ?_ rfl rfl rfl rfl rfl rfl

theorem askWidth_keeps {n} {mask} {s} {s0 : State} (h : Keeps s0 s) : Keeps s0 (askWidth n mask s) := by
  unfold askWidth
  repeat' with_reducible first | assumption | apply sendLink_keeps | intro _ | split | dsimp only | refine Keeps.upd ?_ rfl rfl rfl rfl rfl rfl

theorem lanesUp_keeps {n} {s} {s0 : State} (h : Keeps s0 s) : Keeps s0 (lanesUp n s) := by
  unfold lanesUp
  repeat' with_reducible first | assumption | apply rset_keeps | apply each_keeps | intro _ | split | dsimp only | refine Keeps.upd ?_ rfl rfl rfl rfl rfl rfl

theorem toDown_keeps {n} {retry} {s} {s0 : State} (h : Keeps s0 s) : Keeps s0 (toDown n retry s) := by
  unfold toDown
  repeat' with_reducible first | assumption | apply rset_keeps | apply lanesUp_keeps | apply setLink_keeps | intro _ | split | dsimp only | refine Keeps.upd ?_ rfl rfl rfl rfl rfl rfl

theorem freeTags_keeps {n} {s} {s0 : State} (h : Keeps s0 s) : Keeps s0 (freeTags n s) := by
  unfold freeTags
  repeat' with_reducible first | assumption | intro _ | split | dsimp only | refine Keeps.upd ?_ rfl rfl rfl rfl rfl rfl

theorem portDown_keeps {n} {retry} {s} {s0 : State} (h : Keeps s0 s) : Keeps s0 (portDown n retry s) := by
  unfold portDown
  repeat' with_reducible first | assumption | apply toDown_keeps | apply flushFrame_keeps | apply freeTags_keeps | apply trayFail_keeps | apply colPortDown_keeps | apply each_keeps | intro _ | split | dsimp only | refine Keeps.upd ?_ rfl rfl rfl rfl rfl rfl

theorem toRecover_keeps {n} {s} {s0 : State} (h : Keeps s0 s) : Keeps s0 (toRecover n s) := by
  unfold toRecover
  repeat' with_reducible first | assumption | apply rbump_keeps | apply rset_keeps | apply setLink_keeps | intro _ | split | dsimp only | refine Keeps.upd ?_ rfl rfl rfl rfl rfl rfl

theorem sendAgain_keeps {n} {held} {s} {s0 : State} (h : Keeps s0 s) : Keeps s0 (sendAgain n held s) := by
  unfold sendAgain
  repeat' with_reducible first | assumption | apply rbump_keeps | apply toRecover_keeps | apply setLink_keeps | apply emit_keeps | apply each_keeps | intro _ | split | dsimp only | refine Keeps.upd ?_ rfl rfl rfl rfl rfl rfl

theorem tryUp_keeps {n} {s} {s0 : State} (h : Keeps s0 s) : Keeps s0 (tryUp n s) := by
  unfold tryUp
  repeat' with_reducible first | assumption | apply pumpAll_keeps | apply versionCheck_keeps | intro _ | split | dsimp only | refine Keeps.upd ?_ rfl rfl rfl rfl rfl rfl

theorem toExchange_keeps {n} {s} {s0 : State} (h : Keeps s0 s) : Keeps s0 (toExchange n s) := by
  unfold toExchange
  repeat' with_reducible first | assumption | apply lanesGood_keeps | apply rset_keeps | apply setLink_keeps | apply tryUp_keeps | apply sendLink_keeps | intro _ | split | dsimp only | refine Keeps.upd ?_ rfl rfl rfl rfl rfl rfl

theorem startTraining_keeps {n} {s} {s0 : State} (h : Keeps s0 s) : Keeps s0 (startTraining n s) := by
  unfold startTraining
  repeat' with_reducible first | assumption | apply rset_keeps | apply emit_keeps | apply setLink_keeps | intro _ | split | dsimp only | refine Keeps.upd ?_ rfl rfl rfl rfl rfl rfl

theorem toAligning_keeps {n} {s} {s0 : State} (h : Keeps s0 s) : Keeps s0 (toAligning n s) := by
  unfold toAligning
  repeat' with_reducible first | assumption | apply setLink_keeps | apply rset_keeps | intro _ | split | dsimp only | refine Keeps.upd ?_ rfl rfl rfl rfl rfl rfl

end Sys2Proof.Laws
end

