-- ==== Sys2Proof/Laws/KeepsOwner.lean ====
section
/-! SUPPORT. What the operations of Machine/Owner.lean keep. -/
namespace Sys2Proof.Laws

open Sys2Proof.Machine Sys2Proof.Safety

theorem hostDown_keeps {b0} {s} {s0 : State} (h : Keeps s0 s) : Keeps s0 (hostDown b0 s) := by
  unfold hostDown
  repeat' with_reducible first | assumption | apply setHost_keeps | apply rset_keeps | apply each_keeps | intro _ | split | dsimp only | refine Keeps.upd ?_ rfl rfl rfl rfl rfl rfl

theorem endOwner_keeps {s} {s0 : State} (h : Keeps s0 s) : Keeps s0 (endOwner s) := by
  unfold endOwner
  repeat' with_reducible first | assumption | apply setHost_keeps | apply raiseIrq_keeps | apply rset_keeps | apply completeWith_keeps | apply each_keeps | intro _ | split | dsimp only | refine Keeps.upd ?_ rfl rfl rfl rfl rfl rfl

theorem execHostLinkDown_keeps {b0} {s} {s0 : State} (h : Keeps s0 s) : KeepsN s0 (execHostLinkDown b0 s) := by
  unfold execHostLinkDown
  repeat' with_reducible first | assumption | apply whenRunning_keeps | apply hostDown_keeps | apply endOwner_keeps | apply KeepsN.mk' | intro _ | split | dsimp only | refine Keeps.upd ?_ rfl rfl rfl rfl rfl rfl

theorem cqRestart_keeps {b0} {s} {s0 : State} (h : Keeps s0 s) : Keeps s0 (cqRestart b0 s) := by
  unfold cqRestart
  repeat' with_reducible first | assumption | apply rset_keeps | intro _ | split | dsimp only | refine Keeps.upd ?_ rfl rfl rfl rfl rfl rfl

theorem cqLogIn_keeps {b0} {v} {s} {s0 : State} (h : Keeps s0 s) : Keeps s0 (cqLogIn b0 v s) := by
  unfold cqLogIn
  repeat' with_reducible first | assumption | apply cqRestart_keeps | apply rset_keeps | intro _ | split | dsimp only | refine Keeps.upd ?_ rfl rfl rfl rfl rfl rfl

theorem wakeHall_keeps {s} {s0 : State} (h : Keeps s0 s) : Keeps s0 (wakeHall s) := by
  unfold wakeHall
  repeat' with_reducible first | assumption | intro _ | split | dsimp only | refine Keeps.upd ?_ rfl rfl rfl rfl rfl rfl

theorem hostWork_keeps {b0} {act} {s} {s0 : State} (hact : ∀ t, Keeps s0 t → Keeps s0 (act t)) (h : Keeps s0 s) : KeepsN s0 (hostWork b0 act s) := by
  unfold hostWork
  repeat' with_reducible first | assumption | apply hact | apply wakeHall_keeps | apply KeepsN.mk' | intro _ | split | dsimp only | refine Keeps.upd ?_ rfl rfl rfl rfl rfl rfl

theorem hostDenied_keeps {s} {s0 : State} (h : Keeps s0 s) : Keeps s0 (hostDenied s) := by
  unfold hostDenied
  repeat' with_reducible first | assumption | apply rbump_keeps | intro _ | split | dsimp only | refine Keeps.upd ?_ rfl rfl rfl rfl rfl rfl

theorem leaseOwner_keeps {s} {s0 : State} (h : Keeps s0 s) : Keeps s0 (leaseOwner s) := by
  unfold leaseOwner
  repeat' with_reducible first | assumption | apply rset_keeps | intro _ | split | dsimp only | refine Keeps.upd ?_ rfl rfl rfl rfl rfl rfl

theorem takeOwner_keeps {b0} {s} {s0 : State} (h : Keeps s0 s) : Keeps s0 (takeOwner b0 s) := by
  unfold takeOwner
  repeat' with_reducible first | assumption | apply raiseIrq_keeps | apply leaseOwner_keeps | apply rset_keeps | apply setHost_keeps | intro _ | split | dsimp only | refine Keeps.upd ?_ rfl rfl rfl rfl rfl rfl

theorem claimIn_keeps {b0} {s} {s0 : State} (h : Keeps s0 s) : Keeps s0 (claimIn b0 s) := by
  unfold claimIn
  repeat' with_reducible first | assumption | apply hostDenied_keeps | apply takeOwner_keeps | intro _ | split | dsimp only | refine Keeps.upd ?_ rfl rfl rfl rfl rfl rfl

theorem execClaim_keeps {b0} {s} {s0 : State} (h : Keeps s0 s) : KeepsN s0 (execClaim b0 s) := by
  unfold execClaim
  repeat' with_reducible first | assumption | apply hostWork_keeps | apply claimIn_keeps | apply KeepsN.mk' | intro _ | split | dsimp only | refine Keeps.upd ?_ rfl rfl rfl rfl rfl rfl

theorem cqBaseIn_keeps {b0} {v} {s} {s0 : State} (h : Keeps s0 s) : Keeps s0 (cqBaseIn b0 v s) := by
  unfold cqBaseIn
  repeat' with_reducible first | assumption | apply cqRestart_keeps | apply rset_keeps | intro _ | split | dsimp only | refine Keeps.upd ?_ rfl rfl rfl rfl rfl rfl

theorem execCqConfigWrite_keeps {b0} {off} {val} {s} {s0 : State} (h : Keeps s0 s) : KeepsN s0 (execCqConfigWrite b0 off val s) := by
  unfold execCqConfigWrite
  repeat' with_reducible first | assumption | apply hostWork_keeps | apply cqBaseIn_keeps | apply cqLogIn_keeps | apply KeepsN.mk' | intro _ | split | dsimp only | refine Keeps.upd ?_ rfl rfl rfl rfl rfl rfl

theorem writeAll_keeps {b0} {s} {s0 : State} (h : Keeps s0 s) : Keeps s0 (writeAll b0 s) := by
  unfold writeAll
  repeat' with_reducible first | assumption | apply writeCompletion_keeps | apply each_keeps | intro _ | split | dsimp only | refine Keeps.upd ?_ rfl rfl rfl rfl rfl rfl

theorem cqHeadIn_keeps {b0} {v} {s} {s0 : State} (h : Keeps s0 s) : Keeps s0 (cqHeadIn b0 v s) := by
  unfold cqHeadIn
  repeat' with_reducible first | assumption | apply writeAll_keeps | apply rset_keeps | intro _ | split | dsimp only | refine Keeps.upd ?_ rfl rfl rfl rfl rfl rfl

theorem releaseIn_keeps {b0} {s} {s0 : State} (h : Keeps s0 s) : Keeps s0 (releaseIn b0 s) := by
  unfold releaseIn
  repeat' with_reducible first | assumption | apply endOwner_keeps | apply hostDenied_keeps | intro _ | split | dsimp only | refine Keeps.upd ?_ rfl rfl rfl rfl rfl rfl

theorem execRelease_keeps {b0} {s} {s0 : State} (h : Keeps s0 s) : KeepsN s0 (execRelease b0 s) := by
  unfold execRelease
  repeat' with_reducible first | assumption | apply hostWork_keeps | apply releaseIn_keeps | apply KeepsN.mk' | intro _ | split | dsimp only | refine Keeps.upd ?_ rfl rfl rfl rfl rfl rfl

theorem execCommandCompletion_keeps {b0} {s} {s0 : State} (h : Keeps s0 s) : KeepsN s0 (execCommandCompletion b0 s) := by
  unfold execCommandCompletion
  repeat' with_reducible first | assumption | apply whenRunning_keeps | apply writeCompletion_keeps | apply KeepsN.mk' | intro _ | split | dsimp only | refine Keeps.upd ?_ rfl rfl rfl rfl rfl rfl

theorem execReset_keeps {b0} {s} {s0 : State} (h : Keeps s0 s) : KeepsN s0 (execReset b0 s) := by
  unfold execReset
  repeat' with_reducible first | assumption | apply withCmd_keeps | apply completeWith_keeps | apply setHost_keeps | apply KeepsN.mk' | intro _ | split | dsimp only | refine Keeps.upd ?_ rfl rfl rfl rfl rfl rfl

theorem execOwnerLeaseExpiry_keeps {s} {s0 : State} (h : Keeps s0 s) : KeepsN s0 (execOwnerLeaseExpiry s) := by
  unfold execOwnerLeaseExpiry
  repeat' with_reducible first | assumption | apply whenRunning_keeps | apply endOwner_keeps | apply atTime_keeps | apply KeepsN.mk' | intro _ | split | dsimp only | refine Keeps.upd ?_ rfl rfl rfl rfl rfl rfl

theorem renewIn_keeps {b0} {s} {s0 : State} (h : Keeps s0 s) : Keeps s0 (renewIn b0 s) := by
  unfold renewIn
  repeat' with_reducible first | assumption | apply leaseOwner_keeps | apply hostDenied_keeps | intro _ | split | dsimp only | refine Keeps.upd ?_ rfl rfl rfl rfl rfl rfl

theorem execRenew_keeps {b0} {s} {s0 : State} (h : Keeps s0 s) : KeepsN s0 (execRenew b0 s) := by
  unfold execRenew
  repeat' with_reducible first | assumption | apply hostWork_keeps | apply renewIn_keeps | apply KeepsN.mk' | intro _ | split | dsimp only | refine Keeps.upd ?_ rfl rfl rfl rfl rfl rfl

theorem commandIn_keeps {b0} {bytes} {s} {s0 : State} (h : Keeps s0 s) : Keeps s0 (commandIn b0 bytes s) := by
  unfold commandIn
  repeat' with_reducible first | assumption | apply rbump_keeps | apply hostDenied_keeps | apply completeWith_keeps | apply skipUnknown_keeps | apply setHost_keeps | intro _ | split | dsimp only | refine Keeps.upd ?_ rfl rfl rfl rfl rfl rfl

theorem execCommandWindowWrite_keeps {b0} {bytes} {s} {s0 : State} (h : Keeps s0 s) : KeepsN s0 (execCommandWindowWrite b0 bytes s) := by
  unfold execCommandWindowWrite
  repeat' with_reducible first | assumption | apply hostWork_keeps | apply commandIn_keeps | apply KeepsN.mk' | intro _ | split | dsimp only | refine Keeps.upd ?_ rfl rfl rfl rfl rfl rfl

theorem discardStaged_keeps {src} {tag} {s} {s0 : State} (h : Keeps s0 s) : Keeps s0 (discardStaged src tag s) := by
  unfold discardStaged
  repeat' with_reducible first | assumption | apply stageEntry_keeps | apply rset_keeps | intro _ | split | dsimp only | refine Keeps.upd ?_ rfl rfl rfl rfl rfl rfl

theorem execStageDiscard_keeps {b0} {s} {s0 : State} (h : Keeps s0 s) : KeepsN s0 (execStageDiscard b0 s) := by
  unfold execStageDiscard
  repeat' with_reducible first | assumption | apply withCmd_keeps | apply completeWith_keeps | apply discardStaged_keeps | apply KeepsN.mk' | intro _ | split | dsimp only | refine Keeps.upd ?_ rfl rfl rfl rfl rfl rfl

theorem execCqHeadWrite_keeps {b0} {val} {s} {s0 : State} (h : Keeps s0 s) : KeepsN s0 (execCqHeadWrite b0 val s) := by
  unfold execCqHeadWrite
  repeat' with_reducible first | assumption | apply hostWork_keeps | apply cqHeadIn_keeps | apply KeepsN.mk' | intro _ | split | dsimp only | refine Keeps.upd ?_ rfl rfl rfl rfl rfl rfl

end Sys2Proof.Laws
end

