-- ==== Sys2Proof/Laws/KeepsTimeSync.lean ====
section
/-! SUPPORT. What the operations of Machine/TimeSync.lean keep. -/
namespace Sys2Proof.Laws

open Sys2Proof.Machine Sys2Proof.Safety

theorem setTimeState_keeps {v} {s} {s0 : State} (h : Keeps s0 s) : Keeps s0 (setTimeState v s) := by
  unfold setTimeState
  repeat' with_reducible first | assumption | apply rset_keeps | apply report_keeps | intro _ | split | dsimp only | refine Keeps.upd ?_ rfl rfl rfl rfl rfl rfl

theorem takeEpoch_keeps {p} {s} {s0 : State} (h : Keeps s0 s) : Keeps s0 (takeEpoch p s) := by
  unfold takeEpoch
  repeat' with_reducible first | assumption | apply rset_keeps | intro _ | split | dsimp only | refine Keeps.upd ?_ rfl rfl rfl rfl rfl rfl

theorem stepForward_keeps {t} {p} {s} {s0 : State} (h : Keeps s0 s) : Keeps s0 (stepForward t p s) := by
  unfold stepForward
  repeat' with_reducible first | assumption | apply takeEpoch_keeps | intro _ | split | dsimp only | refine Keeps.upd ?_ rfl rfl rfl rfl rfl rfl

theorem enterHoldover_keeps {s} {s0 : State} (h : Keeps s0 s) : Keeps s0 (enterHoldover s) := by
  unfold enterHoldover
  repeat' with_reducible first | assumption | apply setTimeState_keeps | apply rset_keeps | intro _ | split | dsimp only | refine Keeps.upd ?_ rfl rfl rfl rfl rfl rfl

theorem showOffset_keeps {o} {s} {s0 : State} (h : Keeps s0 s) : Keeps s0 (showOffset o s) := by
  unfold showOffset
  repeat' with_reducible first | assumption | apply rset_keeps | intro _ | split | dsimp only | refine Keeps.upd ?_ rfl rfl rfl rfl rfl rfl

theorem learnEpoch_keeps {p} {s} {s0 : State} (h : Keeps s0 s) : Keeps s0 (learnEpoch p s) := by
  unfold learnEpoch
  repeat' with_reducible first | assumption | apply takeEpoch_keeps | intro _ | split | dsimp only | refine Keeps.upd ?_ rfl rfl rfl rfl rfl rfl

theorem follow_keeps {n} {p} {o} {s} {s0 : State} (h : Keeps s0 s) : Keeps s0 (follow n p o s) := by
  unfold follow
  repeat' with_reducible first | assumption | apply rset_keeps | apply showOffset_keeps | apply report_keeps | apply setTimeState_keeps | apply stepForward_keeps | apply learnEpoch_keeps | intro _ | split | dsimp only | refine Keeps.upd ?_ rfl rfl rfl rfl rfl rfl

theorem timeIn_keeps {n} {arr} {b} {b3} {s0 : State} (h : Keeps s0 b3) : Keeps s0 (timeIn n arr b b3) := by
  unfold timeIn
  repeat' with_reducible first | assumption | apply atTime_keeps | apply follow_keeps | intro _ | split | dsimp only | refine Keeps.upd ?_ rfl rfl rfl rfl rfl rfl

theorem execAcquiringEnd_keeps {s} {s0 : State} (h : Keeps s0 s) : KeepsN s0 (execAcquiringEnd s) := by
  unfold execAcquiringEnd
  repeat' with_reducible first | assumption | apply whenRunning_keeps | apply atTime_keeps | apply stepForward_keeps | apply setTimeState_keeps | apply rset_keeps | apply KeepsN.mk' | intro _ | split | dsimp only | refine Keeps.upd ?_ rfl rfl rfl rfl rfl rfl

theorem execTime_keeps {port} {arr} {bytes} {s} {s0 : State} (h : Keeps s0 s) : KeepsN s0 (execTime port arr bytes s) := by
  unfold execTime
  repeat' with_reducible first | assumption | apply whenRunning_keeps | apply timeIn_keeps | apply KeepsN.mk' | intro _ | split | dsimp only | refine Keeps.upd ?_ rfl rfl rfl rfl rfl rfl

theorem startAcquiring_keeps {s} {s0 : State} (h : Keeps s0 s) : Keeps s0 (startAcquiring s) := by
  unfold startAcquiring
  repeat' with_reducible first | assumption | apply setTimeState_keeps | intro _ | split | dsimp only | refine Keeps.upd ?_ rfl rfl rfl rfl rfl rfl

theorem execHoldoverEntry_keeps {s} {s0 : State} (h : Keeps s0 s) : KeepsN s0 (execHoldoverEntry s) := by
  unfold execHoldoverEntry
  repeat' with_reducible first | assumption | apply whenRunning_keeps | apply enterHoldover_keeps | apply atTime_keeps | apply KeepsN.mk' | intro _ | split | dsimp only | refine Keeps.upd ?_ rfl rfl rfl rfl rfl rfl

theorem execTimeSyncSend_keeps {port} {s} {s0 : State} (h : Keeps s0 s) : KeepsN s0 (execTimeSyncSend port s) := by
  unfold execTimeSyncSend
  repeat' with_reducible first | assumption | apply whenRunning_keeps | apply sendPlain_keeps | apply KeepsN.mk' | intro _ | split | dsimp only | refine Keeps.upd ?_ rfl rfl rfl rfl rfl rfl

end Sys2Proof.Laws
end

