-- ==== Sys2Proof/Laws/KeepsReset.lean ====
section
/-! SUPPORT. What the operations of Machine/Reset.lean keep. -/
namespace Sys2Proof.Laws

open Sys2Proof.Machine Sys2Proof.Safety

theorem warmTables_keeps {s} {s0 : State} (h : Keeps s0 s) : Keeps s0 (warmTables s) := by
  unfold warmTables
  repeat' with_reducible first | assumption | apply syncPins_keeps | apply radd_keeps | apply setTbl_keeps | apply each_keeps | intro _ | split | dsimp only | refine Keeps.upd ?_ rfl rfl rfl rfl rfl rfl

theorem canonical_of {s : State} (h1 : Memory.wf s.pool.mem = true) (h2 : s.seed.pipMem = []) (h3 : s.seed.galMem = [])
    (h4 : s.sec.reqBuf = []) (h5 : s.sec.rspBuf = []) (h6 : twf s.rf.live = true) : Canonical s :=
  ⟨h1, by rw [h2]; rfl, by rw [h3]; rfl, by rw [h4]; rfl, by rw [h5]; rfl, h6⟩

theorem warmState_keeps {b0} {s0 : State} (h : Keeps s0 b0) : Keeps s0 (warmState b0) := by
  unfold warmState
  dsimp only
  have k := warmTables_keeps (each_keeps (l := b0.pool.extents.filter fun e => e.2.state == 4) (fun e t k => scrubSoFar_keeps (e := e.1) (x := e.2) k) h)
  refine rset_keeps (rset_keeps (rset_keeps ?_))
  have e : ∀ t : State, t.pending = (warmTables (each (b0.pool.extents.filter fun e => e.2.state == 4) (fun e => scrubSoFar e.1 e.2) b0)).pending → (Canonical (warmTables (each (b0.pool.extents.filter fun e => e.2.state == 4) (fun e => scrubSoFar e.1 e.2) b0)) → Canonical t) → Keeps s0 t :=
    fun t q c => ⟨q.trans k.queue, fun d => c (k.canon d)⟩
  have k1 := fun t (q : t.pending = (warmTables (each (b0.pool.extents.filter fun e => e.2.state == 4) (fun e => scrubSoFar e.1 e.2) b0)).pending) (h1 : t.pool.mem = (warmTables (each (b0.pool.extents.filter fun e => e.2.state == 4) (fun e => scrubSoFar e.1 e.2) b0)).pool.mem) h2 h3 h4 h5
      (h6 : t.rf.live = (warmTables (each (b0.pool.extents.filter fun e => e.2.state == 4) (fun e => scrubSoFar e.1 e.2) b0)).rf.live.filter fun p => warmKeeps p.1) =>
    e t q fun c => canonical_of (h1 ▸ c.pool) h2 h3 h4 h5 (h6 ▸ twf_filter _ c.registers)
  refine Keeps.ite (rset_keeps ?_) ?_
  · exact k1 _ rfl rfl rfl rfl rfl rfl rfl
  · exact k1 _ rfl rfl rfl rfl rfl rfl rfl

theorem coldState_keeps {s} {s0 : State} (h : Keeps s0 s) : Keeps s0 (coldState s) := by
  unfold coldState
  exact ⟨h.queue, fun _ => ⟨rfl, rfl, rfl, rfl, rfl, rfl⟩⟩

theorem warmTime_keeps {s} {s0 : State} (h : Keeps s0 s) : Keeps s0 (warmTime s) := by
  unfold warmTime
  repeat' with_reducible first | assumption | apply setTimeState_keeps | intro _ | split | dsimp only | refine Keeps.upd ?_ rfl rfl rfl rfl rfl rfl

theorem startOnce_keeps {warm} {cause} {fallback} {s} {s0 : State} (h : Keeps s0 s) : KeepsF s0 (startOnce warm cause fallback s) := by
  unfold startOnce
  repeat' with_reducible first | assumption | apply rset_keeps | apply resetUpds_keeps | apply warmState_keeps | apply coldState_keeps | apply bootChain_keeps | refine (bootChain_keeps ?_).fst | apply warmTime_keeps | apply warmReport_keeps | apply KeepsF.mk' | refine KeepsF.eq ?_ (by assumption) | intro _ | split | dsimp only | refine Keeps.upd ?_ rfl rfl rfl rfl rfl rfl

theorem takeReset_keeps {warm} {cause} {fallback} {s} {s0 : State} (h : Keeps s0 s) : Keeps s0 (takeReset warm cause fallback s) := by
  unfold takeReset
  repeat' with_reducible first | assumption | apply startOnce_keeps | refine (startOnce_keeps ?_).fst | refine KeepsF.eq ?_ (by assumption) | intro _ | split | dsimp only | refine Keeps.upd ?_ rfl rfl rfl rfl rfl rfl

theorem execShellSramError_keeps {s} {s0 : State} (h : Keeps s0 s) : KeepsN s0 (execShellSramError s) := by
  unfold execShellSramError
  repeat' with_reducible first | assumption | apply whenRunning_keeps | apply takeReset_keeps | apply KeepsN.mk' | intro _ | split | dsimp only | refine Keeps.upd ?_ rfl rfl rfl rfl rfl rfl

theorem hostReset_keeps {warm} {at_} {s} {s0 : State} (h : Keeps s0 s) : Keeps s0 (hostReset warm at_ s) := by
  unfold hostReset
  repeat' with_reducible first | assumption | apply takeReset_keeps | apply atTime_keeps | intro _ | split | dsimp only | refine Keeps.upd ?_ rfl rfl rfl rfl rfl rfl

theorem tick_keeps {s} {s0 : State} (h : Keeps s0 s) : Keeps s0 (tick s) := by
  unfold tick
  repeat' with_reducible first | assumption | apply idle_keeps | apply hostReset_keeps | intro _ | split | dsimp only | refine Keeps.upd ?_ rfl rfl rfl rfl rfl rfl

theorem execResetNLow_keeps {ns} {s} {s0 : State} (h : Keeps s0 s) : KeepsN s0 (execResetNLow ns s) := by
  unfold execResetNLow
  repeat' with_reducible first | assumption | apply whenRunning_keeps | apply takeReset_keeps | apply KeepsN.mk' | intro _ | split | dsimp only | refine Keeps.upd ?_ rfl rfl rfl rfl rfl rfl

theorem mainStopped_keeps {phase} {s} {s0 : State} (h : Keeps s0 s) : Keeps s0 (mainStopped phase s) := by
  unfold mainStopped
  repeat' with_reducible first | assumption | apply coldState_keeps | intro _ | split | dsimp only | refine Keeps.upd ?_ rfl rfl rfl rfl rfl rfl

theorem execStandbyGroupDown_keeps {s} {s0 : State} (h : Keeps s0 s) : KeepsN s0 (execStandbyGroupDown s) := by
  unfold execStandbyGroupDown
  repeat' with_reducible first | assumption | apply mainStopped_keeps | apply KeepsN.mk' | intro _ | split | dsimp only | refine Keeps.upd ?_ rfl rfl rfl rfl rfl rfl

theorem execTrialTimeout_keeps {s} {s0 : State} (h : Keeps s0 s) : KeepsN s0 (execTrialTimeout s) := by
  unfold execTrialTimeout
  repeat' with_reducible first | assumption | apply whenRunning_keeps | apply takeReset_keeps | apply atTime_keeps | apply KeepsN.mk' | intro _ | split | dsimp only | refine Keeps.upd ?_ rfl rfl rfl rfl rfl rfl

theorem execPwrokFall_keeps {s} {s0 : State} (h : Keeps s0 s) : KeepsN s0 (execPwrokFall s) := by
  unfold execPwrokFall
  repeat' with_reducible first | assumption | apply mainStopped_keeps | apply KeepsN.mk' | intro _ | split | dsimp only | refine Keeps.upd ?_ rfl rfl rfl rfl rfl rfl

theorem execWarmReset_keeps {s} {s0 : State} (h : Keeps s0 s) : KeepsN s0 (execWarmReset s) := by
  unfold execWarmReset
  repeat' with_reducible first | assumption | apply whenRunning_keeps | apply hostReset_keeps | apply takeReset_keeps | apply KeepsN.mk' | intro _ | split | dsimp only | refine Keeps.upd ?_ rfl rfl rfl rfl rfl rfl

theorem execMgmtHeartbeatLoss_keeps {s} {s0 : State} (h : Keeps s0 s) : KeepsN s0 (execMgmtHeartbeatLoss s) := by
  unfold execMgmtHeartbeatLoss
  repeat' with_reducible first | assumption | apply whenRunning_keeps | apply takeReset_keeps | apply KeepsN.mk' | intro _ | split | dsimp only | refine Keeps.upd ?_ rfl rfl rfl rfl rfl rfl

theorem execStandbyGroupUp_keeps {s} {s0 : State} (h : Keeps s0 s) : KeepsN s0 (execStandbyGroupUp s) := by
  unfold execStandbyGroupUp
  repeat' with_reducible first | assumption | apply KeepsN.mk' | intro _ | split | dsimp only | refine Keeps.upd ?_ rfl rfl rfl rfl rfl rfl

theorem execPwrokRise_keeps {s} {s0 : State} (h : Keeps s0 s) : KeepsN s0 (execPwrokRise s) := by
  unfold execPwrokRise
  repeat' with_reducible first | assumption | apply takeReset_keeps | apply KeepsN.mk' | intro _ | split | dsimp only | refine Keeps.upd ?_ rfl rfl rfl rfl rfl rfl

theorem ensureBoot_keeps {s} {s0 : State} (h : Keeps s0 s) : Keeps s0 (ensureBoot s) := by
  unfold ensureBoot
  repeat' with_reducible first | assumption | apply bootChain_keeps | refine (bootChain_keeps ?_).fst | apply startOnce_keeps | refine (startOnce_keeps ?_).fst | apply rset_keeps | refine KeepsF.eq ?_ (by assumption) | intro _ | split | dsimp only | refine Keeps.upd ?_ rfl rfl rfl rfl rfl rfl

end Sys2Proof.Laws
end

