-- ==== Sys2Proof/Laws/KeepsPackage.lean ====
section
/-! SUPPORT. What the operations of Machine/Package.lean keep. -/
namespace Sys2Proof.Laws

open Sys2Proof.Machine Sys2Proof.Safety

theorem execI3cDynamicAddress_keeps {val} {s} {s0 : State} (h : Keeps s0 s) : KeepsN s0 (execI3cDynamicAddress val s) := by
  unfold execI3cDynamicAddress
  repeat' with_reducible first | assumption | apply KeepsN.mk' | intro _ | split | dsimp only | refine Keeps.upd ?_ rfl rfl rfl rfl rfl rfl

theorem countThrottle_keeps {s} {s0 : State} (h : Keeps s0 s) : Keeps s0 (countThrottle s) := by
  unfold countThrottle
  repeat' with_reducible first | assumption | apply radd_keeps | intro _ | split | dsimp only | refine Keeps.upd ?_ rfl rfl rfl rfl rfl rfl

theorem execI3cPrivateRead_keeps {idx} {s} {s0 : State} (h : Keeps s0 s) : KeepsN s0 (execI3cPrivateRead idx s) := by
  unfold execI3cPrivateRead
  repeat' with_reducible first | assumption | apply emit_keeps | apply KeepsN.mk' | intro _ | split | dsimp only | refine Keeps.upd ?_ rfl rfl rfl rfl rfl rfl

theorem execThermtripRelease_keeps {s} {s0 : State} (h : Keeps s0 s) : KeepsN s0 (execThermtripRelease s) := by
  unfold execThermtripRelease
  repeat' with_reducible first | assumption | apply emit_keeps | apply KeepsN.mk' | intro _ | split | dsimp only | refine Keeps.upd ?_ rfl rfl rfl rfl rfl rfl

theorem trip_keeps {s} {s0 : State} (h : Keeps s0 s) : Keeps s0 (trip s) := by
  unfold trip
  repeat' with_reducible first | assumption | apply mainStopped_keeps | apply emit_keeps | intro _ | split | dsimp only | refine Keeps.upd ?_ rfl rfl rfl rfl rfl rfl

theorem setEffLimit_keeps {v} {b1} {s0 : State} (h : Keeps s0 b1) : Keeps s0 (setEffLimit v b1) := by
  unfold setEffLimit
  repeat' with_reducible first | assumption | apply countThrottle_keeps | apply rset_keeps | intro _ | split | dsimp only | refine Keeps.upd ?_ rfl rfl rfl rfl rfl rfl

theorem limitCommitted_keeps {was} {s} {s0 : State} (h : Keeps s0 s) : Keeps s0 (limitCommitted was s) := by
  unfold limitCommitted
  repeat' with_reducible first | assumption | apply setEffLimit_keeps | intro _ | split | dsimp only | refine Keeps.upd ?_ rfl rfl rfl rfl rfl rfl

theorem execPpsOutPulse_keeps {s} {s0 : State} (h : Keeps s0 s) : KeepsN s0 (execPpsOutPulse s) := by
  unfold execPpsOutPulse
  repeat' with_reducible first | assumption | apply whenRunning_keeps | apply emit_keeps | apply atTime_keeps | apply KeepsN.mk' | intro _ | split | dsimp only | refine Keeps.upd ?_ rfl rfl rfl rfl rfl rfl

theorem thermalRows_keeps {die} {hbms} {s} {s0 : State} (h : Keeps s0 s) : Keeps s0 (thermalRows die hbms s) := by
  unfold thermalRows
  repeat' with_reducible first | assumption | apply rset_keeps | apply emit_keeps | apply trip_keeps | intro _ | split | dsimp only | refine Keeps.upd ?_ rfl rfl rfl rfl rfl rfl

theorem execPpsInEdge_keeps {arr} {s} {s0 : State} (h : Keeps s0 s) : KeepsN s0 (execPpsInEdge arr s) := by
  unfold execPpsInEdge
  repeat' with_reducible first | assumption | apply whenRunning_keeps | apply atTime_keeps | apply showOffset_keeps | apply KeepsN.mk' | intro _ | split | dsimp only | refine Keeps.upd ?_ rfl rfl rfl rfl rfl rfl

theorem execThermalSample_keeps {temps} {stemps} {w} {s} {s0 : State} (h : Keeps s0 s) : KeepsN s0 (execThermalSample temps stemps w s) := by
  unfold execThermalSample
  repeat' with_reducible first | assumption | apply atTime_keeps | apply rset_keeps | apply thermalRows_keeps | apply KeepsN.mk' | intro _ | split | dsimp only | refine Keeps.upd ?_ rfl rfl rfl rfl rfl rfl

theorem execEffLimitTick_keeps {s} {s0 : State} (h : Keeps s0 s) : KeepsN s0 (execEffLimitTick s) := by
  unfold execEffLimitTick
  repeat' with_reducible first | assumption | apply whenRunning_keeps | apply atTime_keeps | apply setEffLimit_keeps | apply KeepsN.mk' | intro _ | split | dsimp only | refine Keeps.upd ?_ rfl rfl rfl rfl rfl rfl

end Sys2Proof.Laws
end

