-- ==== Sys2Proof/Laws/KeepsHopKeys.lean ====
section
/-! SUPPORT. What the operations of Machine/HopKeys.lean keep. -/
namespace Sys2Proof.Laws

open Sys2Proof.Machine Sys2Proof.Safety

theorem drawBytes_keeps {s} {s0 : State} (h : Keeps s0 s) : KeepsP s0 (drawBytes s) := by
  unfold drawBytes
  repeat' with_reducible first | assumption | apply freshRandom_keeps | refine (freshRandom_keeps ?_).snd | apply KeepsP.mk' | refine KeepsP.eq ?_ (by assumption) | intro _ | split | dsimp only | refine Keeps.upd ?_ rfl rfl rfl rfl rfl rfl

theorem sendKey_keeps {n} {kmsg} {keyId} {msg} {s} {s0 : State} (h : Keeps s0 s) : Keeps s0 (sendKey n kmsg keyId msg s) := by
  unfold sendKey
  repeat' with_reducible first | assumption | apply sendLink_keeps | apply each_keeps | intro _ | split | dsimp only | refine Keeps.upd ?_ rfl rfl rfl rfl rfl rfl

theorem setHop_keeps {n} {b1} {s} {s0 : State} (h : Keeps s0 s) : Keeps s0 (setHop n b1 s) := by
  unfold setHop
  repeat' with_reducible first | assumption | apply setLink_keeps | intro _ | split | dsimp only | refine Keeps.upd ?_ rfl rfl rfl rfl rfl rfl

theorem startOffer_keeps {n} {s} {s0 : State} (h : Keeps s0 s) : Keeps s0 (startOffer n s) := by
  unfold startOffer
  repeat' with_reducible first | assumption | apply drawBytes_keeps | refine (drawBytes_keeps ?_).snd | apply sendKey_keeps | apply setHop_keeps | refine KeepsP.eq ?_ (by assumption) | intro _ | split | dsimp only | refine Keeps.upd ?_ rfl rfl rfl rfl rfl rfl

theorem execRekeyRetry_keeps {port} {s} {s0 : State} (h : Keeps s0 s) : KeepsN s0 (execRekeyRetry port s) := by
  unfold execRekeyRetry
  repeat' with_reducible first | assumption | apply whenRunning_keeps | apply atTime_keeps | apply startOffer_keeps | apply setHop_keeps | apply KeepsN.mk' | intro _ | split | dsimp only | refine Keeps.upd ?_ rfl rfl rfl rfl rfl rfl

theorem securityEvent_keeps {n} {keyId} {fails} {s} {s0 : State} (h : Keeps s0 s) : Keeps s0 (securityEvent n keyId fails s) := by
  unfold securityEvent
  repeat' with_reducible first | assumption | apply report_keeps | intro _ | split | dsimp only | refine Keeps.upd ?_ rfl rfl rfl rfl rfl rfl

theorem keyFail_keeps {n} {s} {s0 : State} (h : Keeps s0 s) : Keeps s0 (keyFail n s) := by
  unfold keyFail
  repeat' with_reducible first | assumption | apply portDown_keeps | apply securityEvent_keeps | apply setHop_keeps | intro _ | split | dsimp only | refine Keeps.upd ?_ rfl rfl rfl rfl rfl rfl

theorem keyAgreed_keeps {n} {k} {s} {s0 : State} (h : Keeps s0 s) : Keeps s0 (keyAgreed n k s) := by
  unfold keyAgreed
  repeat' with_reducible first | assumption | apply tryUp_keeps | apply setHop_keeps | apply pumpAll_keeps | intro _ | split | dsimp only | refine Keeps.upd ?_ rfl rfl rfl rfl rfl rfl

theorem acceptIn_keeps {n} {keyId} {msg} {s} {s0 : State} (h : Keeps s0 s) : Keeps s0 (acceptIn n keyId msg s) := by
  unfold acceptIn
  repeat' with_reducible first | assumption | apply keyFail_keeps | apply sendKey_keeps | apply keyAgreed_keeps | intro _ | split | dsimp only | refine Keeps.upd ?_ rfl rfl rfl rfl rfl rfl

theorem execAccept_keeps {port} {keyId} {bytes} {s} {s0 : State} (h : Keeps s0 s) : KeepsN s0 (execAccept port keyId bytes s) := by
  unfold execAccept
  repeat' with_reducible first | assumption | apply whenRunning_keeps | apply acceptIn_keeps | apply KeepsN.mk' | intro _ | split | dsimp only | refine Keeps.upd ?_ rfl rfl rfl rfl rfl rfl

theorem execKeyDoneTimeout_keeps {port} {s} {s0 : State} (h : Keeps s0 s) : KeepsN s0 (execKeyDoneTimeout port s) := by
  unfold execKeyDoneTimeout
  repeat' with_reducible first | assumption | apply whenRunning_keeps | apply keyFail_keeps | apply atTime_keeps | apply KeepsN.mk' | intro _ | split | dsimp only | refine Keeps.upd ?_ rfl rfl rfl rfl rfl rfl

theorem execKeyLimitReached_keeps {port} {s} {s0 : State} (h : Keeps s0 s) : KeepsN s0 (execKeyLimitReached port s) := by
  unfold execKeyLimitReached
  repeat' with_reducible first | assumption | apply whenRunning_keeps | apply portDown_keeps | apply securityEvent_keeps | apply atTime_keeps | apply setHop_keeps | apply KeepsN.mk' | intro _ | split | dsimp only | refine Keeps.upd ?_ rfl rfl rfl rfl rfl rfl

theorem doneIn_keeps {n} {keyId} {msg} {s} {s0 : State} (h : Keeps s0 s) : Keeps s0 (doneIn n keyId msg s) := by
  unfold doneIn
  repeat' with_reducible first | assumption | apply keyAgreed_keeps | apply keyFail_keeps | apply sendKey_keeps | intro _ | split | dsimp only | refine Keeps.upd ?_ rfl rfl rfl rfl rfl rfl

theorem abortIn_keeps {n} {keyId} {s} {s0 : State} (h : Keeps s0 s) : Keeps s0 (abortIn n keyId s) := by
  unfold abortIn
  repeat' with_reducible first | assumption | apply keyFail_keeps | apply setHop_keeps | intro _ | split | dsimp only | refine Keeps.upd ?_ rfl rfl rfl rfl rfl rfl

theorem execAbort_keeps {port} {keyId} {s} {s0 : State} (h : Keeps s0 s) : KeepsN s0 (execAbort port keyId s) := by
  unfold execAbort
  repeat' with_reducible first | assumption | apply whenRunning_keeps | apply abortIn_keeps | apply KeepsN.mk' | intro _ | split | dsimp only | refine Keeps.upd ?_ rfl rfl rfl rfl rfl rfl

theorem execOldKeyRetire_keeps {port} {s} {s0 : State} (h : Keeps s0 s) : KeepsN s0 (execOldKeyRetire port s) := by
  unfold execOldKeyRetire
  repeat' with_reducible first | assumption | apply whenRunning_keeps | apply setHop_keeps | apply atTime_keeps | apply KeepsN.mk' | intro _ | split | dsimp only | refine Keeps.upd ?_ rfl rfl rfl rfl rfl rfl

theorem offerIn_keeps {n} {keyId} {msg} {s} {s0 : State} (h : Keeps s0 s) : Keeps s0 (offerIn n keyId msg s) := by
  unfold offerIn
  repeat' with_reducible first | assumption | apply keyFail_keeps | apply sendKey_keeps | apply freshRandom_keeps | refine (freshRandom_keeps ?_).snd | apply setHop_keeps | refine KeepsP.eq ?_ (by assumption) | intro _ | split | dsimp only | refine Keeps.upd ?_ rfl rfl rfl rfl rfl rfl

theorem keyMessage_keeps {n} {kmsg} {keyId} {msg} {s} {s0 : State} (h : Keeps s0 s) : Keeps s0 (keyMessage n kmsg keyId msg s) := by
  unfold keyMessage
  repeat' with_reducible first | assumption | apply offerIn_keeps | apply acceptIn_keeps | apply doneIn_keeps | apply abortIn_keeps | intro _ | split | dsimp only | refine Keeps.upd ?_ rfl rfl rfl rfl rfl rfl

theorem keyFragment_keeps {n} {p} {s} {s0 : State} (h : Keeps s0 s) : Keeps s0 (keyFragment n p s) := by
  unfold keyFragment
  repeat' with_reducible first | assumption | apply setHop_keeps | apply keyMessage_keeps | apply foldl_keeps | apply foldl_keepsP | apply KeepsP.mk' | refine KeepsP.eq ?_ (by assumption) | refine (foldl_keepsP ?_ ?_).snd | exact ⟨‹_›⟩ | exact (‹KeepsP _ _›).snd | intro _ | split | dsimp only | refine Keeps.upd ?_ rfl rfl rfl rfl rfl rfl

theorem execDone_keeps {port} {keyId} {bytes} {s} {s0 : State} (h : Keeps s0 s) : KeepsN s0 (execDone port keyId bytes s) := by
  unfold execDone
  repeat' with_reducible first | assumption | apply whenRunning_keeps | apply doneIn_keeps | apply KeepsN.mk' | intro _ | split | dsimp only | refine Keeps.upd ?_ rfl rfl rfl rfl rfl rfl

theorem execRekeyStart_keeps {port} {s} {s0 : State} (h : Keeps s0 s) : KeepsN s0 (execRekeyStart port s) := by
  unfold execRekeyStart
  repeat' with_reducible first | assumption | apply whenRunning_keeps | apply startOffer_keeps | apply atTime_keeps | apply KeepsN.mk' | intro _ | split | dsimp only | refine Keeps.upd ?_ rfl rfl rfl rfl rfl rfl

theorem execOffer_keeps {port} {keyId} {bytes} {s} {s0 : State} (h : Keeps s0 s) : KeepsN s0 (execOffer port keyId bytes s) := by
  unfold execOffer
  repeat' with_reducible first | assumption | apply whenRunning_keeps | apply offerIn_keeps | apply KeepsN.mk' | intro _ | split | dsimp only | refine Keeps.upd ?_ rfl rfl rfl rfl rfl rfl

end Sys2Proof.Laws
end

