-- ==== Sys2Proof/Laws/KeepsLinkRows.lean ====
section
/-! SUPPORT. What the operations of Machine/LinkRows.lean keep. -/
namespace Sys2Proof.Laws

open Sys2Proof.Machine Sys2Proof.Safety

theorem sendWidth_keeps {n} {m} {s} {s0 : State} (h : Keeps s0 s) : Keeps s0 (sendWidth n m s) := by
  unfold sendWidth
  repeat' with_reducible first | assumption | apply sendLink_keeps | apply setLink_keeps | intro _ | split | dsimp only | refine Keeps.upd ?_ rfl rfl rfl rfl rfl rfl

theorem widthAskIn_keeps {n} {m} {s} {s0 : State} (h : Keeps s0 s) : Keeps s0 (widthAskIn n m s) := by
  unfold widthAskIn
  repeat' with_reducible first | assumption | apply sendWidth_keeps | apply beginWake_keeps | apply each_keeps | intro _ | split | dsimp only | refine Keeps.upd ?_ rfl rfl rfl rfl rfl rfl

theorem execWidthAsk_keeps {port} {mask} {s} {s0 : State} (h : Keeps s0 s) : KeepsN s0 (execWidthAsk port mask s) := by
  unfold execWidthAsk
  repeat' with_reducible first | assumption | apply whenRunning_keeps | apply widthAskIn_keeps | apply KeepsN.mk' | intro _ | split | dsimp only | refine Keeps.upd ?_ rfl rfl rfl rfl rfl rfl

theorem execCabPresN_keeps {conn} {level} {s} {s0 : State} (h : Keeps s0 s) : KeepsN s0 (execCabPresN conn level s) := by
  unfold execCabPresN
  repeat' with_reducible first | assumption | apply whenRunning_keeps | apply portDown_keeps | apply each_keeps | apply KeepsN.mk' | intro _ | split | dsimp only | refine Keeps.upd ?_ rfl rfl rfl rfl rfl rfl

theorem execTrainingTimeout_keeps {port} {s} {s0 : State} (h : Keeps s0 s) : KeepsN s0 (execTrainingTimeout port s) := by
  unfold execTrainingTimeout
  repeat' with_reducible first | assumption | apply whenRunning_keeps | apply atTime_keeps | apply toDown_keeps | apply KeepsN.mk' | intro _ | split | dsimp only | refine Keeps.upd ?_ rfl rfl rfl rfl rfl rfl

theorem countCorrected_keeps {n} {ppm} {s} {s0 : State} (h : Keeps s0 s) : Keeps s0 (countCorrected n ppm s) := by
  unfold countCorrected
  repeat' with_reducible first | assumption | apply fresh_keeps | refine (fresh_keeps ?_).snd | apply radd_keeps | refine KeepsP.eq ?_ (by assumption) | intro _ | split | dsimp only | refine Keeps.upd ?_ rfl rfl rfl rfl rfl rfl

theorem execLaneRetrainGood_keeps {port} {lane} {s} {s0 : State} (h : Keeps s0 s) : KeepsN s0 (execLaneRetrainGood port lane s) := by
  unfold execLaneRetrainGood
  repeat' with_reducible first | assumption | apply whenRunning_keeps | apply rset_keeps | apply atTime_keeps | apply setLink_keeps | apply askWidth_keeps | apply KeepsN.mk' | intro _ | split | dsimp only | refine Keeps.upd ?_ rfl rfl rfl rfl rfl rfl

theorem dropLane_keeps {n} {l} {st} {code} {mag} {s} {s0 : State} (h : Keeps s0 s) : Keeps s0 (dropLane n l st code mag s) := by
  unfold dropLane
  repeat' with_reducible first | assumption | apply rset_keeps | apply askWidth_keeps | apply report_keeps | intro _ | split | dsimp only | refine Keeps.upd ?_ rfl rfl rfl rfl rfl rfl

theorem execLaneSerWindow_keeps {port} {lane} {ppm} {s} {s0 : State} (h : Keeps s0 s) : KeepsN s0 (execLaneSerWindow port lane ppm s) := by
  unfold execLaneSerWindow
  repeat' with_reducible first | assumption | apply whenRunning_keeps | apply rset_keeps | apply countCorrected_keeps | apply dropLane_keeps | apply setLink_keeps | apply KeepsN.mk' | intro _ | split | dsimp only | refine Keeps.upd ?_ rfl rfl rfl rfl rfl rfl

theorem sendNak_keeps {n} {s} {s0 : State} (h : Keeps s0 s) : Keeps s0 (sendNak n s) := by
  unfold sendNak
  repeat' with_reducible first | assumption | apply sendPlain_keeps | apply setLink_keeps | intro _ | split | dsimp only | refine Keeps.upd ?_ rfl rfl rfl rfl rfl rfl

theorem dataIn_keeps {n} {payload} {s} {s0 : State} (h : Keeps s0 s) : Keeps s0 (dataIn n payload s) := by
  unfold dataIn
  repeat' with_reducible first | assumption | apply arrive_keeps | apply setLink_keeps | apply useLanes_keeps | apply each_keeps | intro _ | split | dsimp only | refine Keeps.upd ?_ rfl rfl rfl rfl rfl rfl

theorem capsIn_keeps {n} {word} {s} {s0 : State} (h : Keeps s0 s) : Keeps s0 (capsIn n word s) := by
  unfold capsIn
  repeat' with_reducible first | assumption | apply rset_keeps | apply setLink_keeps | apply startOffer_keeps | apply tryUp_keeps | intro _ | split | dsimp only | refine Keeps.upd ?_ rfl rfl rfl rfl rfl rfl

theorem widthIn_keeps {n} {m} {s} {s0 : State} (h : Keeps s0 s) : Keeps s0 (widthIn n m s) := by
  unfold widthIn
  repeat' with_reducible first | assumption | apply setLink_keeps | intro _ | split | dsimp only | refine Keeps.upd ?_ rfl rfl rfl rfl rfl rfl

theorem resumeIn_keeps {n} {inc} {seq} {s} {s0 : State} (h : Keeps s0 s) : Keeps s0 (resumeIn n inc seq s) := by
  unfold resumeIn
  repeat' with_reducible first | assumption | apply setLink_keeps | apply portDown_keeps | apply rset_keeps | apply pumpAll_keeps | apply sendNak_keeps | intro _ | split | dsimp only | refine Keeps.upd ?_ rfl rfl rfl rfl rfl rfl

theorem linkIn_keeps {n} {p} {s} {s0 : State} (h : Keeps s0 s) : Keeps s0 (linkIn n p s) := by
  unfold linkIn
  repeat' with_reducible first | assumption | apply capsIn_keeps | apply widthAskIn_keeps | apply widthIn_keeps | apply resumeIn_keeps | apply keyFragment_keeps | intro _ | split | dsimp only | refine Keeps.upd ?_ rfl rfl rfl rfl rfl rfl

theorem tagIn_keeps {n} {flit} {s} {s0 : State} (h : Keeps s0 s) : Keeps s0 (tagIn n flit s) := by
  unfold tagIn
  repeat' with_reducible first | assumption | apply dataIn_keeps | apply setLink_keeps | apply rbump_keeps | apply portDown_keeps | apply securityEvent_keeps | apply sendNak_keeps | apply each_keeps | apply foldl_keeps | apply foldl_keepsP | apply KeepsP.mk' | refine KeepsP.eq ?_ (by assumption) | refine (foldl_keepsP ?_ ?_).snd | exact ⟨‹_›⟩ | exact (‹KeepsP _ _›).snd | intro _ | split | dsimp only | refine Keeps.upd ?_ rfl rfl rfl rfl rfl rfl

theorem seqIn_keeps {n} {ftype} {enc} {flit} {s} {s0 : State} (h : Keeps s0 s) : Keeps s0 (seqIn n ftype enc flit s) := by
  unfold seqIn
  repeat' with_reducible first | assumption | apply setLink_keeps | apply sendNak_keeps | apply dataIn_keeps | apply linkIn_keeps | apply tagIn_keeps | intro _ | split | dsimp only | refine Keeps.upd ?_ rfl rfl rfl rfl rfl rfl

theorem execWidth_keeps {port} {mask} {s} {s0 : State} (h : Keeps s0 s) : KeepsN s0 (execWidth port mask s) := by
  unfold execWidth
  repeat' with_reducible first | assumption | apply whenRunning_keeps | apply widthIn_keeps | apply KeepsN.mk' | intro _ | split | dsimp only | refine Keeps.upd ?_ rfl rfl rfl rfl rfl rfl

theorem execResume_keeps {port} {inc} {seq} {s} {s0 : State} (h : Keeps s0 s) : KeepsN s0 (execResume port inc seq s) := by
  unfold execResume
  repeat' with_reducible first | assumption | apply whenRunning_keeps | apply resumeIn_keeps | apply KeepsN.mk' | intro _ | split | dsimp only | refine Keeps.upd ?_ rfl rfl rfl rfl rfl rfl

theorem execLaneFailed_keeps {port} {lane} {s} {s0 : State} (h : Keeps s0 s) : KeepsN s0 (execLaneFailed port lane s) := by
  unfold execLaneFailed
  repeat' with_reducible first | assumption | apply whenRunning_keeps | apply dropLane_keeps | apply KeepsN.mk' | intro _ | split | dsimp only | refine Keeps.upd ?_ rfl rfl rfl rfl rfl rfl

theorem onoffIn_keeps {n} {bits} {s} {s0 : State} (h : Keeps s0 s) : Keeps s0 (onoffIn n bits s) := by
  unfold onoffIn
  repeat' with_reducible first | assumption | apply rbump_keeps | apply planPort_keeps | intro _ | split | dsimp only | refine Keeps.upd ?_ rfl rfl rfl rfl rfl rfl

theorem flitAfter_keeps {n} {b1} {before} {was6} {owed} {s} {s0 : State} (h : Keeps s0 s) : Keeps s0 (flitAfter n b1 before was6 owed s) := by
  unfold flitAfter
  repeat' with_reducible first | assumption | apply onoffIn_keeps | apply pumpAll_keeps | apply sendPlain_keeps | intro _ | split | dsimp only | refine Keeps.upd ?_ rfl rfl rfl rfl rfl rfl

theorem retrainPort_keeps {n} {s} {s0 : State} (h : Keeps s0 s) : Keeps s0 (retrainPort n s) := by
  unfold retrainPort
  repeat' with_reducible first | assumption | apply startTraining_keeps | apply toRecover_keeps | intro _ | split | dsimp only | refine Keeps.upd ?_ rfl rfl rfl rfl rfl rfl

theorem execRetrain_keeps {port} {s} {s0 : State} (h : Keeps s0 s) : KeepsN s0 (execRetrain port s) := by
  unfold execRetrain
  repeat' with_reducible first | assumption | apply whenRunning_keeps | apply retrainPort_keeps | apply KeepsN.mk' | intro _ | split | dsimp only | refine Keeps.upd ?_ rfl rfl rfl rfl rfl rfl

theorem execReplayTimeout_keeps {port} {s} {s0 : State} (h : Keeps s0 s) : KeepsN s0 (execReplayTimeout port s) := by
  unfold execReplayTimeout
  repeat' with_reducible first | assumption | apply whenRunning_keeps | apply atTime_keeps | apply sendAgain_keeps | apply KeepsN.mk' | intro _ | split | dsimp only | refine Keeps.upd ?_ rfl rfl rfl rfl rfl rfl

theorem followWidth_keeps {n} {s} {s0 : State} (h : Keeps s0 s) : Keeps s0 (followWidth n s) := by
  unfold followWidth
  repeat' with_reducible first | assumption | apply rbump_keeps | apply setLink_keeps | apply rset_keeps | intro _ | split | dsimp only | refine Keeps.upd ?_ rfl rfl rfl rfl rfl rfl

theorem flitBody_keeps {n} {b1} {behind} {was6} {flit} {s} {s0 : State} (h : Keeps s0 s) : Keeps s0 (flitBody n b1 behind was6 flit s) := by
  unfold flitBody
  repeat' with_reducible first | assumption | apply timeIn_keeps | apply seqIn_keeps | apply linkIn_keeps | apply sendNak_keeps | intro _ | split | dsimp only | refine Keeps.upd ?_ rfl rfl rfl rfl rfl rfl

theorem execPrbsCheckDone_keeps {port} {pass} {s} {s0 : State} (h : Keeps s0 s) : KeepsN s0 (execPrbsCheckDone port pass s) := by
  unfold execPrbsCheckDone
  repeat' with_reducible first | assumption | apply whenRunning_keeps | apply toAligning_keeps | apply setLink_keeps | apply rset_keeps | apply KeepsN.mk' | intro _ | split | dsimp only | refine Keeps.upd ?_ rfl rfl rfl rfl rfl rfl

theorem execPortSignal_keeps {port} {s} {s0 : State} (h : Keeps s0 s) : KeepsN s0 (execPortSignal port s) := by
  unfold execPortSignal
  repeat' with_reducible first | assumption | apply whenRunning_keeps | apply startTraining_keeps | apply KeepsN.mk' | intro _ | split | dsimp only | refine Keeps.upd ?_ rfl rfl rfl rfl rfl rfl

theorem execPairAligned_keeps {port} {s} {s0 : State} (h : Keeps s0 s) : KeepsN s0 (execPairAligned port s) := by
  unfold execPairAligned
  repeat' with_reducible first | assumption | apply whenRunning_keeps | apply toExchange_keeps | apply sendLink_keeps | apply setLink_keeps | apply resumeIn_keeps | apply KeepsN.mk' | intro _ | split | dsimp only | refine Keeps.upd ?_ rfl rfl rfl rfl rfl rfl

theorem widthAcked_keeps {n} {s} {s0 : State} (h : Keeps s0 s) : Keeps s0 (widthAcked n s) := by
  unfold widthAcked
  repeat' with_reducible first | assumption | apply rbump_keeps | apply setLink_keeps | apply rset_keeps | intro _ | split | dsimp only | refine Keeps.upd ?_ rfl rfl rfl rfl rfl rfl

theorem execTrainingRetry_keeps {port} {s} {s0 : State} (h : Keeps s0 s) : KeepsN s0 (execTrainingRetry port s) := by
  unfold execTrainingRetry
  repeat' with_reducible first | assumption | apply whenRunning_keeps | apply startTraining_keeps | apply atTime_keeps | apply KeepsN.mk' | intro _ | split | dsimp only | refine Keeps.upd ?_ rfl rfl rfl rfl rfl rfl

theorem execCaps_keeps {port} {word} {s} {s0 : State} (h : Keeps s0 s) : KeepsN s0 (execCaps port word s) := by
  unfold execCaps
  repeat' with_reducible first | assumption | apply whenRunning_keeps | apply capsIn_keeps | apply KeepsN.mk' | intro _ | split | dsimp only | refine Keeps.upd ?_ rfl rfl rfl rfl rfl rfl

theorem ackIn_keeps {n} {ack} {s} {s0 : State} (h : Keeps s0 s) : Keeps s0 (ackIn n ack s) := by
  unfold ackIn
  repeat' with_reducible first | assumption | apply widthAcked_keeps | apply setLink_keeps | intro _ | split | dsimp only | refine Keeps.upd ?_ rfl rfl rfl rfl rfl rfl

theorem headerIn_keeps {n} {b1} {was6} {s} {s0 : State} (h : Keeps s0 s) : Keeps s0 (headerIn n b1 was6 s) := by
  unfold headerIn
  repeat' with_reducible first | assumption | apply onoffIn_keeps | apply followWidth_keeps | apply ackIn_keeps | apply sendAgain_keeps | intro _ | split | dsimp only | refine Keeps.upd ?_ rfl rfl rfl rfl rfl rfl

theorem goodFlit_keeps {n} {flit} {s} {s0 : State} (h : Keeps s0 s) : Keeps s0 (goodFlit n flit s) := by
  unfold goodFlit
  repeat' with_reducible first | assumption | apply headerIn_keeps | apply flitAfter_keeps | apply flitBody_keeps | intro _ | split | dsimp only | refine Keeps.upd ?_ rfl rfl rfl rfl rfl rfl

theorem execAlignmentLost_keeps {port} {s} {s0 : State} (h : Keeps s0 s) : KeepsN s0 (execAlignmentLost port s) := by
  unfold execAlignmentLost
  repeat' with_reducible first | assumption | apply whenRunning_keeps | apply portDown_keeps | apply toRecover_keeps | apply toDown_keeps | apply KeepsN.mk' | intro _ | split | dsimp only | refine Keeps.upd ?_ rfl rfl rfl rfl rfl rfl

theorem codewordsLost_keeps {n} {s} {s0 : State} (h : Keeps s0 s) : Keeps s0 (codewordsLost n s) := by
  unfold codewordsLost
  repeat' with_reducible first | assumption | apply fresh_keeps | refine (fresh_keeps ?_).snd | apply radd_keeps | refine KeepsP.eq ?_ (by assumption) | intro _ | split | dsimp only | refine Keeps.upd ?_ rfl rfl rfl rfl rfl rfl

theorem flitIn_keeps {n} {flit} {s} {s0 : State} (h : Keeps s0 s) : Keeps s0 (flitIn n flit s) := by
  unfold flitIn
  repeat' with_reducible first | assumption | apply goodFlit_keeps | apply codewordsLost_keeps | apply rbump_keeps | apply sendNak_keeps | intro _ | split | dsimp only | refine Keeps.upd ?_ rfl rfl rfl rfl rfl rfl

theorem execFlitReceive_keeps {port} {flit} {s} {s0 : State} (h : Keeps s0 s) : KeepsN s0 (execFlitReceive port flit s) := by
  unfold execFlitReceive
  repeat' with_reducible first | assumption | apply whenRunning_keeps | apply flitIn_keeps | apply KeepsN.mk' | intro _ | split | dsimp only | refine Keeps.upd ?_ rfl rfl rfl rfl rfl rfl

theorem execHoldUpExpiry_keeps {port} {s} {s0 : State} (h : Keeps s0 s) : KeepsN s0 (execHoldUpExpiry port s) := by
  unfold execHoldUpExpiry
  repeat' with_reducible first | assumption | apply whenRunning_keeps | apply portDown_keeps | apply atTime_keeps | apply KeepsN.mk' | intro _ | split | dsimp only | refine Keeps.upd ?_ rfl rfl rfl rfl rfl rfl

theorem execTag_keeps {port} {flit} {s} {s0 : State} (h : Keeps s0 s) : KeepsN s0 (execTag port flit s) := by
  unfold execTag
  repeat' with_reducible first | assumption | apply whenRunning_keeps | apply flitIn_keeps | apply KeepsN.mk' | intro _ | split | dsimp only | refine Keeps.upd ?_ rfl rfl rfl rfl rfl rfl

theorem execFullTrainingDone_keeps {port} {settings} {s} {s0 : State} (h : Keeps s0 s) : KeepsN s0 (execFullTrainingDone port settings s) := by
  unfold execFullTrainingDone
  repeat' with_reducible first | assumption | apply whenRunning_keeps | apply setLink_keeps | apply toAligning_keeps | apply KeepsN.mk' | intro _ | split | dsimp only | refine Keeps.upd ?_ rfl rfl rfl rfl rfl rfl

end Sys2Proof.Laws
end

