-- ==== Sys2Proof/Laws/KeepsPower.lean ====
section
/-! SUPPORT. What the operations of Machine/Power.lean keep. -/
namespace Sys2Proof.Laws

open Sys2Proof.Machine Sys2Proof.Safety

theorem setPoint_keeps {g} {p} {s} {s0 : State} (h : Keeps s0 s) : Keeps s0 (setPoint g p s) := by
  unfold setPoint
  repeat' with_reducible first | assumption | apply setGal_keeps | intro _ | split | dsimp only | refine Keeps.upd ?_ rfl rfl rfl rfl rfl rfl

theorem toSleep_keeps {u} {s} {s0 : State} (h : Keeps s0 s) : Keeps s0 (toSleep u s) := by
  unfold toSleep
  repeat' with_reducible first | assumption | intro _ | split | dsimp only | refine Keeps.upd ?_ rfl rfl rfl rfl rfl rfl

theorem meterGallery_keeps {g} {s} {s0 : State} (h : Keeps s0 s) : Keeps s0 (meterGallery g s) := by
  unfold meterGallery
  repeat' with_reducible first | assumption | apply setGal_keeps | apply meter_keeps | intro _ | split | dsimp only | refine Keeps.upd ?_ rfl rfl rfl rfl rfl rfl

theorem execGalleryIdleSleep_keeps {gal} {s} {s0 : State} (h : Keeps s0 s) : KeepsN s0 (execGalleryIdleSleep gal s) := by
  unfold execGalleryIdleSleep
  repeat' with_reducible first | assumption | apply whenRunning_keeps | apply atTime_keeps | apply meterGallery_keeps | apply toSleep_keeps | apply setGal_keeps | apply KeepsN.mk' | intro _ | split | dsimp only | refine Keeps.upd ?_ rfl rfl rfl rfl rfl rfl

theorem execStackSelfRefresh_keeps {stack} {s} {s0 : State} (h : Keeps s0 s) : KeepsN s0 (execStackSelfRefresh stack s) := by
  unfold execStackSelfRefresh
  repeat' with_reducible first | assumption | apply whenRunning_keeps | apply toSleep_keeps | apply atTime_keeps | apply KeepsN.mk' | intro _ | split | dsimp only | refine Keeps.upd ?_ rfl rfl rfl rfl rfl rfl

theorem laneAwake_keeps {lane} {s} {s0 : State} (h : Keeps s0 s) : Keeps s0 (laneAwake lane s) := by
  unfold laneAwake
  repeat' with_reducible first | assumption | apply rset_keeps | apply askWidth_keeps | apply sendWidth_keeps | intro _ | split | dsimp only | refine Keeps.upd ?_ rfl rfl rfl rfl rfl rfl

theorem execUnitWakeDone_keeps {kind} {unit} {s} {s0 : State} (h : Keeps s0 s) : KeepsN s0 (execUnitWakeDone kind unit s) := by
  unfold execUnitWakeDone
  repeat' with_reducible first | assumption | apply whenRunning_keeps | apply atTime_keeps | apply setGal_keeps | apply poolPass_keeps | apply laneAwake_keeps | apply KeepsN.mk' | intro _ | split | dsimp only | refine Keeps.upd ?_ rfl rfl rfl rfl rfl rfl

theorem lowerOne_keeps {r : GovRun} {g} {s0 : State} (h : Keeps s0 r.st) : Keeps s0 (lowerOne r g).st := by
  unfold lowerOne
  dsimp only
  split
  · exact h
  · exact setPoint_keeps h

theorem raiseOne_keeps {limit} {guard} {p0} {r : GovRun} {g} {s0 : State} (h : Keeps s0 r.st) : Keeps s0 (raiseOne limit guard p0 r g).st := by
  unfold raiseOne
  dsimp only
  split
  · exact h
  · split
    · exact h
    · exact setPoint_keeps h

theorem goStraight_keeps {r : GovRun} {g} {s0 : State} (h : Keeps s0 r.st) : Keeps s0 (goStraight r g).st := by
  unfold goStraight
  exact setPoint_keeps h

theorem foldl_keepsG {α : Type} {s0 : State} {l : List α} {r : GovRun} {f : GovRun → α → GovRun}
    (hf : ∀ q x, Keeps s0 q.st → Keeps s0 (f q x).st) (h : Keeps s0 r.st) : Keeps s0 (l.foldl f r).st := by
  induction l generalizing r with
  | nil => exact h
  | cons x l ih => exact ih (hf r x h)

theorem governPoints_keeps {w} {s} {s0 : State} (h : Keeps s0 s) : Keeps s0 (governPoints w s).st := by
  unfold governPoints
  dsimp only
  refine foldl_keepsG (fun _ _ k => raiseOne_keeps k) ?_
  show Keeps s0 (ite _ _ _ : GovRun).st
  have k0 := foldl_keepsG (l := (upTo 32).filter fun g => galRuns s g && straight s g) (f := goStraight) (r := ⟨0, 10 * (w : Int), false, s⟩)
    (fun _ _ k => goStraight_keeps k) h
  split
  · exact foldl_keepsG (fun _ _ k => lowerOne_keeps k) k0
  · exact k0

theorem governEnd_keeps {w} {r : GovRun} {s0 : State} (h : Keeps s0 r.st) : Keeps s0 (governEnd w r) := by
  unfold governEnd
  dsimp only
  split
  · exact report_keeps (Keeps.upd (rset_keeps (rset_keeps h)) rfl rfl rfl rfl rfl rfl)
  · exact Keeps.upd (rset_keeps (rset_keeps h)) rfl rfl rfl rfl rfl rfl

theorem govern_keeps {w} {s} {s0 : State} (h : Keeps s0 s) : Keeps s0 (govern w s) := by
  unfold govern
  exact governEnd_keeps (governPoints_keeps h)

theorem execGovernorRun_keeps {w} {s} {s0 : State} (h : Keeps s0 s) : KeepsN s0 (execGovernorRun w s) := by
  unfold execGovernorRun
  repeat' with_reducible first | assumption | apply whenRunning_keeps | apply govern_keeps | apply atTime_keeps | apply KeepsN.mk' | intro _ | split | dsimp only | refine Keeps.upd ?_ rfl rfl rfl rfl rfl rfl

theorem execClockPointPauseEnd_keeps {gal} {s} {s0 : State} (h : Keeps s0 s) : KeepsN s0 (execClockPointPauseEnd gal s) := by
  unfold execClockPointPauseEnd
  repeat' with_reducible first | assumption | apply whenRunning_keeps | apply setGal_keeps | apply atTime_keeps | apply KeepsN.mk' | intro _ | split | dsimp only | refine Keeps.upd ?_ rfl rfl rfl rfl rfl rfl

theorem execLaneSleep_keeps {port} {s} {s0 : State} (h : Keeps s0 s) : KeepsN s0 (execLaneSleep port s) := by
  unfold execLaneSleep
  repeat' with_reducible first | assumption | apply whenRunning_keeps | apply atTime_keeps | apply toSleep_keeps | apply rset_keeps | apply askWidth_keeps | apply sendWidth_keeps | apply each_keeps | apply KeepsN.mk' | intro _ | split | dsimp only | refine Keeps.upd ?_ rfl rfl rfl rfl rfl rfl

end Sys2Proof.Laws
end

