-- ==== Sys2Proof/Laws/KeepsSpares.lean ====
section
/-! SUPPORT. What the operations of Machine/Spares.lean keep. -/
namespace Sys2Proof.Laws

open Sys2Proof.Machine Sys2Proof.Safety

theorem subEvent_keeps {code} {failed} {group} {mag} {v2} {port} {s} {s0 : State} (h : Keeps s0 s) : Keeps s0 (subEvent code failed group mag v2 port s) := by
  unfold subEvent
  repeat' with_reducible first | assumption | apply report_keeps | intro _ | split | dsimp only | refine Keeps.upd ?_ rfl rfl rfl rfl rfl rfl

theorem stageRemap_keeps {failed} {spare} {group} {tB} {s} {s0 : State} (h : Keeps s0 s) : Keeps s0 (stageRemap failed spare group tB s) := by
  unfold stageRemap
  repeat' with_reducible first | assumption | apply subEvent_keeps | intro _ | split | dsimp only | refine Keeps.upd ?_ rfl rfl rfl rfl rfl rfl

theorem grantSpare_keeps {asker} {group} {failed} {tD} {accepted} {s} {s0 : State} (h : Keeps s0 s) : Keeps s0 (grantSpare asker group failed tD accepted s) := by
  unfold grantSpare
  repeat' with_reducible first | assumption | apply rset_keeps | apply rbump_keeps | apply sendCtl_keeps | apply report_keeps | apply stageRemap_keeps | apply each_keeps | intro _ | split | dsimp only | refine Keeps.upd ?_ rfl rfl rfl rfl rfl rfl

theorem askIn_keeps {asker} {accepted} {b} {s} {s0 : State} (h : Keeps s0 s) : Keeps s0 (askIn asker accepted b s) := by
  unfold askIn
  repeat' with_reducible first | assumption | apply sendCtl_keeps | apply grantSpare_keeps | apply rbump_keeps | intro _ | split | dsimp only | refine Keeps.upd ?_ rfl rfl rfl rfl rfl rfl

theorem execSubAskResend_keeps {port} {s} {s0 : State} (h : Keeps s0 s) : KeepsN s0 (execSubAskResend port s) := by
  unfold execSubAskResend
  repeat' with_reducible first | assumption | apply whenRunning_keeps | apply atTime_keeps | apply sendCtl_keeps | apply KeepsN.mk' | intro _ | split | dsimp only | refine Keeps.upd ?_ rfl rfl rfl rfl rfl rfl

theorem startMeasure_keeps {s} {s0 : State} (h : Keeps s0 s) : Keeps s0 (startMeasure s) := by
  unfold startMeasure
  repeat' with_reducible first | assumption | intro _ | split | dsimp only | refine Keeps.upd ?_ rfl rfl rfl rfl rfl rfl

theorem execMaintNow_keeps {s} {s0 : State} (h : Keeps s0 s) : KeepsN s0 (execMaintNow s) := by
  unfold execMaintNow
  repeat' with_reducible first | assumption | apply whenRunning_keeps | apply startMeasure_keeps | apply KeepsN.mk' | intro _ | split | dsimp only | refine Keeps.upd ?_ rfl rfl rfl rfl rfl rfl

theorem galEvent_keeps {code} {g} {aux} {mag} {s} {s0 : State} (h : Keeps s0 s) : Keeps s0 (galEvent code g aux mag s) := by
  unfold galEvent
  repeat' with_reducible first | assumption | apply report_keeps | intro _ | split | dsimp only | refine Keeps.upd ?_ rfl rfl rfl rfl rfl rfl

theorem dropAsk_keeps {a} {s} {s0 : State} (h : Keeps s0 s) : Keeps s0 (dropAsk a s) := by
  unfold dropAsk
  repeat' with_reducible first | assumption | intro _ | split | dsimp only | refine Keeps.upd ?_ rfl rfl rfl rfl rfl rfl

theorem execSubAskTimeout_keeps {port} {s} {s0 : State} (h : Keeps s0 s) : KeepsN s0 (execSubAskTimeout port s) := by
  unfold execSubAskTimeout
  repeat' with_reducible first | assumption | apply whenRunning_keeps | apply subEvent_keeps | apply dropAsk_keeps | apply atTime_keeps | apply KeepsN.mk' | intro _ | split | dsimp only | refine Keeps.upd ?_ rfl rfl rfl rfl rfl rfl

theorem execSubCommit_keeps {id} {s} {s0 : State} (h : Keeps s0 s) : KeepsN s0 (execSubCommit id s) := by
  unfold execSubCommit
  repeat' with_reducible first | assumption | apply onCtl_keeps | apply sendCtl_keeps | apply stageRemap_keeps | apply each_keeps | apply KeepsN.mk' | intro _ | split | dsimp only | refine Keeps.upd ?_ rfl rfl rfl rfl rfl rfl

theorem execSubAsk_keeps {id} {s} {s0 : State} (h : Keeps s0 s) : KeepsN s0 (execSubAsk id s) := by
  unfold execSubAsk
  repeat' with_reducible first | assumption | apply onCtl_keeps | apply askIn_keeps | apply KeepsN.mk' | intro _ | split | dsimp only | refine Keeps.upd ?_ rfl rfl rfl rfl rfl rfl

theorem lowerCap_keeps {sl} {g} {a2} {a3} {s0 : State} (h : Keeps s0 a3) : KeepsP s0 (lowerCap sl g a2 a3) := by
  induction a2 generalizing a3 with
  | zero => unfold lowerCap; exact ⟨h⟩
  | succ n ih =>
    unfold lowerCap
    split
    · exact ⟨h⟩
    · split
      · exact ⟨h⟩
      · exact ih (galEvent_keeps h)

theorem replan_keeps {sl} {g} {s} {s0 : State} (h : Keeps s0 s) : Keeps s0 (replan sl g s) := by
  unfold replan
  repeat' with_reducible first | assumption | apply lowerCap_keeps | refine (lowerCap_keeps ?_).snd | apply rset_keeps | apply galEvent_keeps | refine KeepsP.eq ?_ (by assumption) | intro _ | split | dsimp only | refine Keeps.upd ?_ rfl rfl rfl rfl rfl rfl

theorem execAgeingMeasureDone_keeps {slacks} {s} {s0 : State} (h : Keeps s0 s) : KeepsN s0 (execAgeingMeasureDone slacks s) := by
  unfold execAgeingMeasureDone
  repeat' with_reducible first | assumption | apply whenRunning_keeps | apply atTime_keeps | apply replan_keeps | apply each_keeps | apply KeepsN.mk' | intro _ | split | dsimp only | refine Keeps.upd ?_ rfl rfl rfl rfl rfl rfl

theorem execSubWaitExpiry_keeps {port} {s} {s0 : State} (h : Keeps s0 s) : KeepsN s0 (execSubWaitExpiry port s) := by
  unfold execSubWaitExpiry
  repeat' with_reducible first | assumption | apply whenRunning_keeps | apply detectFailure_keeps | apply atTime_keeps | apply KeepsN.mk' | intro _ | split | dsimp only | refine Keeps.upd ?_ rfl rfl rfl rfl rfl rfl

theorem execSubAnswer_keeps {id} {s} {s0 : State} (h : Keeps s0 s) : KeepsN s0 (execSubAnswer id s) := by
  unfold execSubAnswer
  repeat' with_reducible first | assumption | apply onCtl_keeps | apply dropAsk_keeps | apply subEvent_keeps | apply KeepsN.mk' | intro _ | split | dsimp only | refine Keeps.upd ?_ rfl rfl rfl rfl rfl rfl

theorem execSubForce_keeps {b0} {s} {s0 : State} (h : Keeps s0 s) : KeepsN s0 (execSubForce b0 s) := by
  unfold execSubForce
  repeat' with_reducible first | assumption | apply withCmd_keeps | apply completeWith_keeps | apply detectFailure_keeps | apply KeepsN.mk' | intro _ | split | dsimp only | refine Keeps.upd ?_ rfl rfl rfl rfl rfl rfl

end Sys2Proof.Laws
end

