-- ==== Sys2Proof/Laws/KeepsStairs.lean ====
section
/-! SUPPORT. What the operations of Machine/Stairs.lean keep. -/
namespace Sys2Proof.Laws

open Sys2Proof.Machine Sys2Proof.Safety

theorem execS0Query_keeps {b0} {s} {s0 : State} (h : Keeps s0 s) : KeepsN s0 (execS0Query b0 s) := by
  unfold execS0Query
  repeat' with_reducible first | assumption | apply withCmd_keeps | apply completeWith_keeps | apply emit_keeps | apply foldl_keeps | apply foldl_keepsP | apply KeepsN.mk' | apply KeepsP.mk' | refine (foldl_keepsP ?_ ?_).snd | exact ⟨‹_›⟩ | exact (‹KeepsP _ _›).snd | intro _ | split | dsimp only | refine Keeps.upd ?_ rfl rfl rfl rfl rfl rfl

theorem beginPass_keeps {g} {m} {s} {s0 : State} (h : Keeps s0 s) : Keeps s0 (beginPass g m s) := by
  unfold beginPass
  repeat' with_reducible first | assumption | apply addOp_keeps | apply each_keeps | intro _ | split | dsimp only | refine Keeps.upd ?_ rfl rfl rfl rfl rfl rfl

theorem startMove_keeps {g} {kind} {stair} {dest} {s} {s0 : State} (h : Keeps s0 s) : Keeps s0 (startMove g kind stair dest s) := by
  unfold startMove
  repeat' with_reducible first | assumption | apply setGranule_keeps | apply beginPass_keeps | intro _ | split | dsimp only | refine Keeps.upd ?_ rfl rfl rfl rfl rfl rfl

theorem meterGranules_keeps {s} {s0 : State} (h : Keeps s0 s) : Keeps s0 (meterGranules s) := by
  unfold meterGranules
  repeat' with_reducible first | assumption | apply meter_keeps | apply each_keeps | intro _ | split | dsimp only | refine Keeps.upd ?_ rfl rfl rfl rfl rfl rfl

theorem execTierAnswer_keeps {op} {tray} {ok} {s} {s0 : State} (h : Keeps s0 s) : KeepsN s0 (execTierAnswer op tray ok s) := by
  unfold execTierAnswer
  repeat' with_reducible first | assumption | apply whenRunning_keeps | apply poolPass_keeps | apply opAnswer_keeps | apply KeepsN.mk' | intro _ | split | dsimp only | refine Keeps.upd ?_ rfl rfl rfl rfl rfl rfl

theorem moveLower_keeps {k} {stair} {ok} {g} {s} {s0 : State} (h : Keeps s0 s) : KeepsO s0 (moveLower k stair ok g s) := by
  unfold moveLower
  repeat' with_reducible first | assumption | apply pickSlot_keeps | refine (pickSlot_keeps ?_).snd | apply startMove_keeps | apply KeepsO.none | apply KeepsO.mk' | refine KeepsP.eq ?_ (by assumption) | intro _ | split | dsimp only | refine Keeps.upd ?_ rfl rfl rfl rfl rfl rfl

theorem cutMove_keeps {c} {s} {s0 : State} (h : Keeps s0 s) : KeepsO s0 (cutMove c s) := by
  unfold cutMove
  repeat' with_reducible first | assumption | apply moveLower_keeps | apply KeepsO.none | apply KeepsO.mk' | refine KeepsO.eq ?_ (by assumption) | intro _ | split | dsimp only | refine Keeps.upd ?_ rfl rfl rfl rfl rfl rfl

theorem reportPinned_keeps {s} {s0 : State} (h : Keeps s0 s) : Keeps s0 (reportPinned s) := by
  unfold reportPinned
  repeat' with_reducible first | assumption | apply report_keeps | apply each_keeps | intro _ | split | dsimp only | refine Keeps.upd ?_ rfl rfl rfl rfl rfl rfl

theorem moveS0_keeps {k} {w} {g} {s} {s0 : State} (h : Keeps s0 s) : KeepsO s0 (moveS0 k w g s) := by
  unfold moveS0
  repeat' with_reducible first | assumption | apply pickFrame_keeps | refine (pickFrame_keeps ?_).snd | apply startMove_keeps | apply KeepsO.none | apply KeepsO.mk' | refine KeepsP.eq ?_ (by assumption) | intro _ | split | dsimp only | refine Keeps.upd ?_ rfl rfl rfl rfl rfl rfl

theorem promote_keeps {c} {s} {s0 : State} (h : Keeps s0 s) : KeepsO s0 (promote c s) := by
  unfold promote
  repeat' with_reducible first | assumption | apply moveS0_keeps | apply KeepsO.none | apply KeepsO.mk' | refine KeepsO.eq ?_ (by assumption) | intro _ | split | dsimp only | refine Keeps.upd ?_ rfl rfl rfl rfl rfl rfl

theorem rebuildBegin_keeps {set} {tray} {s} {s0 : State} (h : Keeps s0 s) : Keeps s0 (rebuildBegin set tray s) := by
  unfold rebuildBegin
  repeat' with_reducible first | assumption | apply report_keeps | apply setTray_keeps | intro _ | split | dsimp only | refine Keeps.upd ?_ rfl rfl rfl rfl rfl rfl

theorem evictWings_keeps {s} {s0 : State} (h : Keeps s0 s) : Keeps s0 (evictWings s) := by
  unfold evictWings
  repeat' with_reducible first | assumption | intro _ | split | dsimp only | refine Keeps.upd ?_ rfl rfl rfl rfl rfl rfl

theorem evict_keeps {w} {c} {s} {s0 : State} (h : Keeps s0 s) : KeepsO s0 (evict w c s) := by
  unfold evict
  repeat' with_reducible first | assumption | apply moveLower_keeps | apply KeepsO.none | apply KeepsO.mk' | refine KeepsO.eq ?_ (by assumption) | intro _ | split | dsimp only | refine Keeps.upd ?_ rfl rfl rfl rfl rfl rfl

theorem demote_keeps {c} {s} {s0 : State} (h : Keeps s0 s) : KeepsO s0 (demote c s) := by
  unfold demote
  repeat' with_reducible first | assumption | apply moveLower_keeps | apply KeepsO.none | apply KeepsO.mk' | refine KeepsO.eq ?_ (by assumption) | intro _ | split | dsimp only | refine Keeps.upd ?_ rfl rfl rfl rfl rfl rfl

theorem wingMove_keeps {c} {s} {s0 : State} (h : Keeps s0 s) : KeepsO s0 (wingMove c s) := by
  unfold wingMove
  repeat' with_reducible first | assumption | apply moveS0_keeps | apply KeepsO.none | apply KeepsO.mk' | refine KeepsO.eq ?_ (by assumption) | intro _ | split | dsimp only | refine Keeps.upd ?_ rfl rfl rfl rfl rfl rfl

theorem drainMove_keeps {c} {s} {s0 : State} (h : Keeps s0 s) : KeepsO s0 (drainMove c s) := by
  unfold drainMove
  repeat' with_reducible first | assumption | apply moveLower_keeps | apply KeepsO.none | apply KeepsO.mk' | refine KeepsO.eq ?_ (by assumption) | intro _ | split | dsimp only | refine Keeps.upd ?_ rfl rfl rfl rfl rfl rfl

theorem reportFull_keeps {s} {s0 : State} (h : Keeps s0 s) : Keeps s0 (reportFull s) := by
  unfold reportFull
  repeat' with_reducible first | assumption | apply report_keeps | intro _ | split | dsimp only | refine Keeps.upd ?_ rfl rfl rfl rfl rfl rfl

theorem tryMoves_keeps {limit} {cands} {one : Nat × Granule → State → Option State} {m : Moving} {s0 : State}
    (h1 : ∀ c t, Keeps s0 t → KeepsO s0 (one c t)) (h : KeepsP s0 m) : KeepsP s0 (tryMoves limit cands one m) := by
  unfold tryMoves
  refine foldl_keepsP (fun q x hq => ?_) h
  split
  · exact hq
  · split
    · exact ⟨KeepsO.eq (h1 _ _ hq.snd) ‹_›⟩
    · exact hq

theorem chooseMoves_keeps {s} {s0 : State} (h : Keeps s0 s) : Keeps s0 (chooseMoves s) := by
  unfold chooseMoves
  dsimp only
  with_reducible refine Keeps.upd ?_ rfl rfl rfl rfl rfl rfl
  refine startOps_keeps (reportPinned_keeps (reportFull_keeps (tryMoves_keeps (fun _ _ k => drainMove_keeps k) ?_).snd))
  refine tryMoves_keeps (fun _ _ k => wingMove_keeps k) (tryMoves_keeps (fun _ _ k => demote_keeps k) ?_)
  with_reducible apply foldl_keepsP
  · intro q x hq
    exact tryMoves_keeps (fun _ _ k => evict_keeps k) hq
  exact tryMoves_keeps (fun _ _ k => promote_keeps k) ⟨(tryMoves_keeps (fun _ _ k => cutMove_keeps k) ⟨evictWings_keeps h⟩).snd⟩

theorem execTierAttemptTimeout_keeps {op} {s} {s0 : State} (h : Keeps s0 s) : KeepsN s0 (execTierAttemptTimeout op s) := by
  unfold execTierAttemptTimeout
  repeat' with_reducible first | assumption | apply whenRunning_keeps | apply poolPass_keeps | apply opTimeout_keeps | apply atTime_keeps | apply KeepsN.mk' | intro _ | split | dsimp only | refine Keeps.upd ?_ rfl rfl rfl rfl rfl rfl

theorem rebuildDone_keeps {set} {tray} {s} {s0 : State} (h : Keeps s0 s) : Keeps s0 (rebuildDone set tray s) := by
  unfold rebuildDone
  repeat' with_reducible first | assumption | apply report_keeps | apply setTray_keeps | intro _ | split | dsimp only | refine Keeps.upd ?_ rfl rfl rfl rfl rfl rfl

theorem execTrayRebuildDone_keeps {set} {tray} {s} {s0 : State} (h : Keeps s0 s) : KeepsN s0 (execTrayRebuildDone set tray s) := by
  unfold execTrayRebuildDone
  repeat' with_reducible first | assumption | apply whenRunning_keeps | apply rebuildDone_keeps | apply walkOn_keeps | apply KeepsN.mk' | intro _ | split | dsimp only | refine Keeps.upd ?_ rfl rfl rfl rfl rfl rfl

theorem heatRollover_keeps {s} {s0 : State} (h : Keeps s0 s) : Keeps s0 (heatRollover s) := by
  unfold heatRollover
  repeat' with_reducible first | assumption | intro _ | split | dsimp only | refine Keeps.upd ?_ rfl rfl rfl rfl rfl rfl

theorem latencyWindow_keeps {set} {tray} {ns} {s} {s0 : State} (h : Keeps s0 s) : Keeps s0 (latencyWindow set tray ns s) := by
  unfold latencyWindow
  repeat' with_reducible first | assumption | apply setTray_keeps | apply report_keeps | intro _ | split | dsimp only | refine Keeps.upd ?_ rfl rfl rfl rfl rfl rfl

theorem execTrayLatencyWindow_keeps {set} {tray} {ns} {s} {s0 : State} (h : Keeps s0 s) : KeepsN s0 (execTrayLatencyWindow set tray ns s) := by
  unfold execTrayLatencyWindow
  repeat' with_reducible first | assumption | apply whenRunning_keeps | apply latencyWindow_keeps | apply KeepsN.mk' | intro _ | split | dsimp only | refine Keeps.upd ?_ rfl rfl rfl rfl rfl rfl

theorem execTraySlowClear_keeps {set} {tray} {s} {s0 : State} (h : Keeps s0 s) : KeepsN s0 (execTraySlowClear set tray s) := by
  unfold execTraySlowClear
  repeat' with_reducible first | assumption | apply whenRunning_keeps | apply setTray_keeps | apply atTime_keeps | apply KeepsN.mk' | intro _ | split | dsimp only | refine Keeps.upd ?_ rfl rfl rfl rfl rfl rfl

theorem execMoveHoldTimeout_keeps {g} {s} {s0 : State} (h : Keeps s0 s) : KeepsN s0 (execMoveHoldTimeout g s) := by
  unfold execMoveHoldTimeout
  repeat' with_reducible first | assumption | apply whenRunning_keeps | apply poolPass_keeps | apply abandonMove_keeps | apply atTime_keeps | apply KeepsN.mk' | intro _ | split | dsimp only | refine Keeps.upd ?_ rfl rfl rfl rfl rfl rfl

theorem flipMove_keeps {g} {s} {s0 : State} (h : Keeps s0 s) : Keeps s0 (flipMove g s) := by
  unfold flipMove
  repeat' with_reducible first | assumption | apply endMove_keeps | apply clearSkips_keeps | intro _ | split | dsimp only | refine Keeps.upd ?_ rfl rfl rfl rfl rfl rfl

theorem passEnd_keeps {g} {s} {s0 : State} (h : Keeps s0 s) : Keeps s0 (passEnd g s) := by
  unfold passEnd
  repeat' with_reducible first | assumption | apply poolPass_keeps | apply abandonMove_keeps | apply flipMove_keeps | apply startOps_keeps | apply beginPass_keeps | intro _ | split | dsimp only | refine Keeps.upd ?_ rfl rfl rfl rfl rfl rfl

theorem execMoveSourceFree_keeps {g} {s} {s0 : State} (h : Keeps s0 s) : KeepsN s0 (execMoveSourceFree g s) := by
  unfold execMoveSourceFree
  repeat' with_reducible first | assumption | apply whenRunning_keeps | apply KeepsN.mk' | intro _ | split | dsimp only | refine Keeps.upd ?_ rfl rfl rfl rfl rfl rfl

theorem execMovePassEnd_keeps {g} {s} {s0 : State} (h : Keeps s0 s) : KeepsN s0 (execMovePassEnd g s) := by
  unfold execMovePassEnd
  repeat' with_reducible first | assumption | apply whenRunning_keeps | apply passEnd_keeps | apply KeepsN.mk' | intro _ | split | dsimp only | refine Keeps.upd ?_ rfl rfl rfl rfl rfl rfl

end Sys2Proof.Laws
end

