-- ==== Sys2Proof/Laws/KeepsStartUp.lean ====
section
/-! SUPPORT. What the operations of Machine/StartUp.lean keep. -/
namespace Sys2Proof.Laws

open Sys2Proof.Machine Sys2Proof.Safety

theorem trialGood_keeps {s} {s0 : State} (h : Keeps s0 s) : Keeps s0 (trialGood s) := by
  unfold trialGood
  repeat' with_reducible first | assumption | apply raiseIrq_keeps | intro _ | split | dsimp only | refine Keeps.upd ?_ rfl rfl rfl rfl rfl rfl

theorem setRails_keeps {s} {s0 : State} (h : Keeps s0 s) : Keeps s0 (setRails s) := by
  unfold setRails
  repeat' with_reducible first | assumption | apply emit_keeps | apply each_keeps | intro _ | split | dsimp only | refine Keeps.upd ?_ rfl rfl rfl rfl rfl rfl

theorem birthAge_keeps {g} {cap} {s} {s0 : State} (h : Keeps s0 s) : Keeps s0 (birthAge g cap s) := by
  unfold birthAge
  dsimp only
  have k : ∀ (l : List Nat) (acc : List Nat × List Nat × State), KeepsT s0 acc → KeepsT s0 (l.foldl (fun (acc : List Nat × List Nat × State) (_ : Nat) =>
      (acc.1 ++ [(fresh acc.2.2).1 % 13], acc.2.1 ++ [max (rget s R.AGE_CFG_MIN_SLACK_PS 0) ((fresh (fresh acc.2.2).2).1 % 256)],
        (fresh (fresh acc.2.2).2).2)) acc) := by
    intro l acc hk
    exact foldl_keepsT (fun q x hq => ⟨(fresh_keeps (fresh_keeps hq.third).snd).snd⟩) hk
  exact rset_keeps (rset_keeps (k _ _ ⟨h⟩).third)

theorem birthCap_keeps {caps} {g} {s} {s0 : State} (h : Keeps s0 s) : Keeps s0 (birthCap caps g s) := by
  unfold birthCap
  repeat' with_reducible first | assumption | apply birthAge_keeps | apply rset_keeps | intro _ | split | dsimp only | refine Keeps.upd ?_ rfl rfl rfl rfl rfl rfl

theorem birthWing_keeps {pch} {w} {s} {s0 : State} (h : Keeps s0 s) : Keeps s0 (birthWing pch w s) := by
  unfold birthWing
  repeat' with_reducible first | assumption | apply rset_keeps | intro _ | split | dsimp only | refine Keeps.upd ?_ rfl rfl rfl rfl rfl rfl

theorem selfTest_keeps {findings} {s} {s0 : State} (h : Keeps s0 s) : Keeps s0 (selfTest findings s) := by
  unfold selfTest
  repeat' with_reducible first | assumption | apply writeReport_keeps | apply setRails_keeps | apply birthCap_keeps | apply birthWing_keeps | apply rset_keeps | apply each_keeps | intro _ | split | dsimp only | refine Keeps.upd ?_ rfl rfl rfl rfl rfl rfl

theorem commitSvn_keeps {k} {s} {s0 : State} (h : Keeps s0 s) : Keeps s0 (commitSvn k s) := by
  unfold commitSvn
  repeat' with_reducible first | assumption | intro _ | split | dsimp only | refine Keeps.upd ?_ rfl rfl rfl rfl rfl rfl

theorem sealAll_keeps {s} {s0 : State} (h : Keeps s0 s) : Keeps s0 (sealAll s) := by
  unfold sealAll
  repeat' with_reducible first | assumption | intro _ | split | dsimp only | refine Keeps.upd ?_ rfl rfl rfl rfl rfl rfl

theorem execHoldupN_keeps {level} {s} {s0 : State} (h : Keeps s0 s) : KeepsN s0 (execHoldupN level s) := by
  unfold execHoldupN
  repeat' with_reducible first | assumption | apply sealAll_keeps | apply KeepsN.mk' | intro _ | split | dsimp only | refine Keeps.upd ?_ rfl rfl rfl rfl rfl rfl

theorem saveRegion_keeps {n} {s} {s0 : State} (h : Keeps s0 s) : Keeps s0 (saveRegion n s) := by
  unfold saveRegion
  repeat' with_reducible first | assumption | intro _ | split | dsimp only | refine Keeps.upd ?_ rfl rfl rfl rfl rfl rfl

theorem execHostPortTrained_keeps {b0} {width} {speed} {s} {s0 : State} (h : Keeps s0 s) : KeepsN s0 (execHostPortTrained b0 width speed s) := by
  unfold execHostPortTrained
  repeat' with_reducible first | assumption | apply whenRunning_keeps | apply ensureBoot_keeps | apply fresh_keeps | refine (fresh_keeps ?_).snd | apply setHost_keeps | apply rset_keeps | apply KeepsN.mk' | refine KeepsP.eq ?_ (by assumption) | intro _ | split | dsimp only | refine Keeps.upd ?_ rfl rfl rfl rfl rfl rfl

theorem resumePool_keeps {s} {s0 : State} (h : Keeps s0 s) : Keeps s0 (resumePool s) := by
  unfold resumePool
  repeat' with_reducible first | assumption | apply setExtent_keeps | apply leaveDraining_keeps | apply releaseCache_keeps | apply fenceExtent_keeps | apply each_keeps | intro _ | split | dsimp only | refine Keeps.upd ?_ rfl rfl rfl rfl rfl rfl

theorem enterReady_keeps {s} {s0 : State} (h : Keeps s0 s) : Keeps s0 (enterReady s) := by
  unfold enterReady
  repeat' with_reducible first | assumption | apply commitSvn_keeps | apply setPhase_keeps | apply rset_keeps | apply trialGood_keeps | apply resumePool_keeps | apply startAcquiring_keeps | apply tryUp_keeps | apply each_keeps | intro _ | split | dsimp only | refine Keeps.upd ?_ rfl rfl rfl rfl rfl rfl

theorem execFollowerReadyTimeout_keeps {s} {s0 : State} (h : Keeps s0 s) : KeepsN s0 (execFollowerReadyTimeout s) := by
  unfold execFollowerReadyTimeout
  repeat' with_reducible first | assumption | apply whenRunning_keeps | apply enterReady_keeps | apply atTime_keeps | apply KeepsN.mk' | intro _ | split | dsimp only | refine Keeps.upd ?_ rfl rfl rfl rfl rfl rfl

theorem execStartupReady_keeps {s} {s0 : State} (h : Keeps s0 s) : KeepsN s0 (execStartupReady s) := by
  unfold execStartupReady
  repeat' with_reducible first | assumption | apply whenRunning_keeps | apply enterReady_keeps | apply KeepsN.mk' | intro _ | split | dsimp only | refine Keeps.upd ?_ rfl rfl rfl rfl rfl rfl

theorem execSelftestDone_keeps {bytes} {s} {s0 : State} (h : Keeps s0 s) : KeepsN s0 (execSelftestDone bytes s) := by
  unfold execSelftestDone
  repeat' with_reducible first | assumption | apply whenRunning_keeps | apply ensureBoot_keeps | apply raiseIrq_keeps | apply selfTest_keeps | apply KeepsN.mk' | intro _ | split | dsimp only | refine Keeps.upd ?_ rfl rfl rfl rfl rfl rfl

theorem execSavedSettingsWrite_keeps {s} {s0 : State} (h : Keeps s0 s) : KeepsN s0 (execSavedSettingsWrite s) := by
  unfold execSavedSettingsWrite
  repeat' with_reducible first | assumption | apply whenRunning_keeps | apply saveRegion_keeps | apply each_keeps | apply KeepsN.mk' | intro _ | split | dsimp only | refine Keeps.upd ?_ rfl rfl rfl rfl rfl rfl

end Sys2Proof.Laws
end

