-- ==== Sys2Proof/Laws/KeepsBoundary.lean ====
section
/-! SUPPORT. What the operations of Machine/Boundary.lean keep. -/
namespace Sys2Proof.Laws

open Sys2Proof.Machine Sys2Proof.Safety

theorem relink_keeps {was} {n} {s} {s0 : State} (h : Keeps s0 s) : Keeps s0 (relink was n s) := by
  unfold relink
  repeat' with_reducible first | assumption | apply portDown_keeps | intro _ | split | dsimp only | refine Keeps.upd ?_ rfl rfl rfl rfl rfl rfl

theorem flipNow_keeps {s} {s0 : State} (h : Keeps s0 s) : Keeps s0 (flipNow s) := by
  unfold flipNow
  repeat' with_reducible first | assumption | apply rset_keeps | apply rbump_keeps | intro _ | split | dsimp only | refine Keeps.upd ?_ rfl rfl rfl rfl rfl rfl

theorem flipStep_keeps {flip} {s} {s0 : State} (h : Keeps s0 s) : Keeps s0 (flipStep flip s) := by
  unfold flipStep
  repeat' with_reducible first | assumption | apply rset_keeps | apply stageEntry_keeps | apply flipNow_keeps | intro _ | split | dsimp only | refine Keeps.upd ?_ rfl rfl rfl rfl rfl rfl

theorem keepRetain_keeps {was} {s} {s0 : State} (h : Keeps s0 s) : Keeps s0 (keepRetain was s) := by
  unfold keepRetain
  repeat' with_reducible first | assumption | intro _ | split | dsimp only | refine Keeps.upd ?_ rfl rfl rfl rfl rfl rfl

theorem commitAge_keeps {a} {s} {s0 : State} (h : Keeps s0 s) : Keeps s0 (commitAge a s) := by
  unfold commitAge
  repeat' with_reducible first | assumption | apply rset_keeps | apply setPoint_keeps | intro _ | split | dsimp only | refine Keeps.upd ?_ rfl rfl rfl rfl rfl rfl

theorem auditTurn_keeps {s} {s0 : State} (h : Keeps s0 s) : Keeps s0 (auditTurn s) := by
  unfold auditTurn
  repeat' with_reducible first | assumption | apply startAudit_keeps | intro _ | split | dsimp only | refine Keeps.upd ?_ rfl rfl rfl rfl rfl rfl

theorem retireKeys_keeps {s} {s0 : State} (h : Keeps s0 s) : Keeps s0 (retireKeys s) := by
  unfold retireKeys
  repeat' with_reducible first | assumption | intro _ | split | dsimp only | refine Keeps.upd ?_ rfl rfl rfl rfl rfl rfl

theorem epochWork_keeps {s} {s0 : State} (h : Keeps s0 s) : Keeps s0 (epochWork s) := by
  unfold epochWork
  repeat' with_reducible first | assumption | apply setRails_keeps | apply commitAge_keeps | apply planSweep_keeps | apply colRegallery_keeps | apply ttBoundary_keeps | apply auditTurn_keeps | apply retireKeys_keeps | apply chooseMoves_keeps | apply heatRollover_keeps | apply startMeasure_keeps | apply poolPass_keeps | apply each_keeps | intro _ | split | dsimp only | refine Keeps.upd ?_ rfl rfl rfl rfl rfl rfl

theorem regrantZero_keeps {was} {g} {s} {s0 : State} (h : Keeps s0 s) : Keeps s0 (regrantZero was g s) := by
  unfold regrantZero
  repeat' with_reducible first | assumption | apply setGal_keeps | intro _ | split | dsimp only | refine Keeps.upd ?_ rfl rfl rfl rfl rfl rfl

theorem retireBefore_keeps {s} {s0 : State} (h : Keeps s0 s) : Keeps s0 (retireBefore s) := by
  unfold retireBefore
  repeat' with_reducible first | assumption | apply retireGen_keeps | intro _ | split | dsimp only | refine Keeps.upd ?_ rfl rfl rfl rfl rfl rfl

theorem turnEpoch_keeps {s} {s0 : State} (h : Keeps s0 s) : Keeps s0 (turnEpoch s) := by
  unfold turnEpoch
  repeat' with_reducible first | assumption | apply rset_keeps | intro _ | split | dsimp only | refine Keeps.upd ?_ rfl rfl rfl rfl rfl rfl

theorem meterEnergy_keeps {s} {s0 : State} (h : Keeps s0 s) : Keeps s0 (meterEnergy s) := by
  unfold meterEnergy
  repeat' with_reducible first | assumption | apply fresh_keeps | refine (fresh_keeps ?_).snd | apply meter_keeps | apply each_keeps | refine KeepsP.eq ?_ (by assumption) | intro _ | split | dsimp only | refine Keeps.upd ?_ rfl rfl rfl rfl rfl rfl

theorem freezeMeters_keeps {s} {s0 : State} (h : Keeps s0 s) : Keeps s0 (freezeMeters s) := by
  unfold freezeMeters
  repeat' with_reducible first | assumption | apply meterEnergy_keeps | apply meterGranules_keeps | apply meterGallery_keeps | apply rset_keeps | apply each_keeps | intro _ | split | dsimp only | refine Keeps.upd ?_ rfl rfl rfl rfl rfl rfl

theorem setNext_keeps {was} {s} {s0 : State} (h : Keeps s0 s) : Keeps s0 (setNext was s) := by
  unfold setNext
  repeat' with_reducible first | assumption | intro _ | split | dsimp only | refine Keeps.upd ?_ rfl rfl rfl rfl rfl rfl

theorem freeAnswers_keeps {node} {s} {s0 : State} (h : Keeps s0 s) : Keeps s0 (freeAnswers node s) := by
  unfold freeAnswers
  repeat' with_reducible first | assumption | apply refuse_keeps | apply dropReq_keeps | apply each_keeps | intro _ | split | dsimp only | refine Keeps.upd ?_ rfl rfl rfl rfl rfl rfl

theorem leaveNode_keeps {node} {s} {s0 : State} (h : Keeps s0 s) : Keeps s0 (leaveNode node s) := by
  unfold leaveNode
  repeat' with_reducible first | assumption | apply dropNodePins_keeps | apply colRemap_keeps | apply freeAnswers_keeps | apply leaseStart_keeps | apply slotLoss_keeps | apply rebuildBegin_keeps | apply planRemap_keeps | apply each_keeps | intro _ | split | dsimp only | refine Keeps.upd ?_ rfl rfl rfl rfl rfl rfl

theorem remapLive_keeps {r} {s} {s0 : State} (h : Keeps s0 s) : Keeps s0 (remapLive r s) := by
  unfold remapLive
  repeat' with_reducible first | assumption | apply subEvent_keeps | apply rbump_keeps | apply leaveNode_keeps | apply rset_keeps | intro _ | split | dsimp only | refine Keeps.upd ?_ rfl rfl rfl rfl rfl rfl

theorem commitRemaps_keeps {s} {s0 : State} (h : Keeps s0 s) : Keeps s0 (commitRemaps s) := by
  unfold commitRemaps
  repeat' with_reducible first | assumption | apply remapLive_keeps | apply each_keeps | intro _ | split | dsimp only | refine Keeps.upd ?_ rfl rfl rfl rfl rfl rfl

theorem nextLength_keeps {v} {s} {s0 : State} (h : Keeps s0 s) : Keeps s0 (nextLength v s) := by
  unfold nextLength
  repeat' with_reducible first | assumption | intro _ | split | dsimp only | refine Keeps.upd ?_ rfl rfl rfl rfl rfl rfl

theorem commitField_keeps {role} {p} {s} {s0 : State} (h : Keeps s0 s) : Keeps s0 (commitField role p s) := by
  unfold commitField
  repeat' with_reducible first | assumption | apply nextLength_keeps | apply rset_keeps | intro _ | split | dsimp only | refine Keeps.upd ?_ rfl rfl rfl rfl rfl rfl

theorem keepBucket_keeps {was} {k} {s} {s0 : State} (h : Keeps s0 s) : Keeps s0 (keepBucket was k s) := by
  unfold keepBucket
  repeat' with_reducible first | assumption | intro _ | split | dsimp only | refine Keeps.upd ?_ rfl rfl rfl rfl rfl rfl

theorem setMade_keeps {was} {k} {s} {s0 : State} (h : Keeps s0 s) : Keeps s0 (setMade was k s) := by
  unfold setMade
  repeat' with_reducible first | assumption | intro _ | split | dsimp only | refine Keeps.upd ?_ rfl rfl rfl rfl rfl rfl

theorem tableTurn_keeps {was} {t} {s} {s0 : State} (h : Keeps s0 s) : Keeps s0 (tableTurn was t s) := by
  unfold tableTurn
  repeat' with_reducible first | assumption | apply tableMade_keeps | apply tableRetired_keeps | intro _ | split | dsimp only | refine Keeps.upd ?_ rfl rfl rfl rfl rfl rfl

theorem regroup_keeps {was} {g} {s} {s0 : State} (h : Keeps s0 s) : Keeps s0 (regroup was g s) := by
  unfold regroup
  repeat' with_reducible first | assumption | apply rset_keeps | intro _ | split | dsimp only | refine Keeps.upd ?_ rfl rfl rfl rfl rfl rfl

theorem commitFields_keeps {s} {s0 : State} (h : Keeps s0 s) : Keeps s0 (commitFields s) := by
  unfold commitFields
  repeat' with_reducible first | assumption | apply commitField_keeps | apply keepRetain_keeps | apply keepBucket_keeps | apply setMade_keeps | apply planCommitted_keeps | apply tableTurn_keeps | apply regroup_keeps | apply limitCommitted_keeps | apply startAcquiring_keeps | apply relink_keeps | apply each_keeps | intro _ | split | dsimp only | refine Keeps.upd ?_ rfl rfl rfl rfl rfl rfl

theorem commitProg_keeps {c} {s} {s0 : State} (h : Keeps s0 s) : Keeps s0 (commitProg c s) := by
  unfold commitProg
  repeat' with_reducible first | assumption | apply dropTexts_keeps | apply each_keeps | intro _ | split | dsimp only | refine Keeps.upd ?_ rfl rfl rfl rfl rfl rfl

theorem commitCmd_keeps {c} {s} {s0 : State} (h : Keeps s0 s) : Keeps s0 (commitCmd c s) := by
  unfold commitCmd
  repeat' with_reducible first | assumption | apply commitProg_keeps | apply colCommit_keeps | intro _ | split | dsimp only | refine Keeps.upd ?_ rfl rfl rfl rfl rfl rfl

theorem regrant_keeps {was} {g} {s} {s0 : State} (h : Keeps s0 s) : Keeps s0 (regrant was g s) := by
  unfold regrant
  repeat' with_reducible first | assumption | apply launchEnd_keeps | apply placeLaunch_keeps | apply regrantZero_keeps | apply setGal_keeps | apply each_keeps | intro _ | split | dsimp only | refine Keeps.upd ?_ rfl rfl rfl rfl rfl rfl

theorem commitTable_keeps {cmds} {s} {s0 : State} (h : Keeps s0 s) : Keeps s0 (commitTable cmds s) := by
  unfold commitTable
  repeat' with_reducible first | assumption | apply rset_keeps | apply ttCommit_keeps | intro _ | split | dsimp only | refine Keeps.upd ?_ rfl rfl rfl rfl rfl rfl

theorem commitAll_keeps {s} {s0 : State} (h : Keeps s0 s) : Keeps s0 (commitAll s) := by
  unfold commitAll
  repeat' with_reducible first | assumption | apply commitRemaps_keeps | apply commitFields_keeps | apply fenceEnds_keeps | apply commitExtents_keeps | apply commitCmd_keeps | apply placeHeld_keeps | apply regrant_keeps | apply colLost_keeps | apply flipStep_keeps | apply commitTable_keeps | apply wakeHall_keeps | apply rbump_keeps | apply each_keeps | intro _ | split | dsimp only | refine Keeps.upd ?_ rfl rfl rfl rfl rfl rfl

theorem boundaryAll_keeps {s} {s0 : State} (h : Keeps s0 s) : Keeps s0 (boundaryAll s) := by
  unfold boundaryAll
  repeat' with_reducible first | assumption | apply turnEpoch_keeps | apply freezeMeters_keeps | apply epochWork_keeps | apply setNext_keeps | apply commitAll_keeps | intro _ | split | dsimp only | refine Keeps.upd ?_ rfl rfl rfl rfl rfl rfl

theorem execEpochBoundary_keeps {s} {s0 : State} (h : Keeps s0 s) : KeepsN s0 (execEpochBoundary s) := by
  unfold execEpochBoundary
  repeat' with_reducible first | assumption | apply whenRunning_keeps | apply retireBefore_keeps | apply cutoffNow_keeps | apply atTime_keeps | apply boundaryAll_keeps | apply KeepsN.mk' | intro _ | split | dsimp only | refine Keeps.upd ?_ rfl rfl rfl rfl rfl rfl

end Sys2Proof.Laws
end

