-- ==== Sys2Proof/Laws/KeepsColRows.lean ====
section
/-! SUPPORT. What the operations of Machine/ColRows.lean keep. -/
namespace Sys2Proof.Laws

open Sys2Proof.Machine Sys2Proof.Safety

theorem execColRearm_keeps {c} {s} {s0 : State} (h : Keeps s0 s) : KeepsN s0 (execColRearm c s) := by
  unfold execColRearm
  repeat' with_reducible first | assumption | apply whenRunning_keeps | apply colArm_keeps | apply atTime_keeps | apply KeepsN.mk' | intro _ | split | dsimp only | refine Keeps.upd ?_ rfl rfl rfl rfl rfl rfl

theorem colTakeFrame_keeps {id} {opc} {act} {s} {s0 : State} (hact : ∀ x0 x1 t, Keeps s0 t → Keeps s0 (act x0 x1 t)) (h : Keeps s0 s) : KeepsN s0 (colTakeFrame id opc act s) := by
  unfold colTakeFrame
  repeat' with_reducible first | assumption | apply hact | apply whenRunning_keeps | apply takeInbox_keeps | apply KeepsN.mk' | intro _ | split | dsimp only | refine Keeps.upd ?_ rfl rfl rfl rfl rfl rfl

theorem spendCredit_keeps {c} {key} {last} {s} {s0 : State} (h : Keeps s0 s) : Keeps s0 (spendCredit c key last s) := by
  unfold spendCredit
  repeat' with_reducible first | assumption | apply setCol_keeps | intro _ | split | dsimp only | refine Keeps.upd ?_ rfl rfl rfl rfl rfl rfl

theorem colDeliver_keeps {c} {ch} {idx} {items} {report} {seg} {s} {s0 : State} (h : Keeps s0 s) : Keeps s0 (colDeliver c ch idx items report seg s) := by
  unfold colDeliver
  repeat' with_reducible first | assumption | apply setCol_keeps | intro _ | split | dsimp only | refine Keeps.upd ?_ rfl rfl rfl rfl rfl rfl

theorem colFrame_keeps {f} {port} {s} {s0 : State} (h : Keeps s0 s) : Keeps s0 (colFrame f port s) := by
  unfold colFrame
  repeat' with_reducible first | assumption | apply faultRec_keeps | apply rbump_keeps | apply spendCredit_keeps | apply colAbort_keeps | apply colDeliver_keeps | intro _ | split | dsimp only | refine Keeps.upd ?_ rfl rfl rfl rfl rfl rfl

theorem execColSeg_keeps {id} {s} {s0 : State} (h : Keeps s0 s) : KeepsN s0 (execColSeg id s) := by
  unfold execColSeg
  repeat' with_reducible first | assumption | apply colTakeFrame_keeps | apply colFrame_keeps | apply KeepsN.mk' | intro _ | split | dsimp only | refine Keeps.upd ?_ rfl rfl rfl rfl rfl rfl

theorem execColAbort_keeps {id} {s} {s0 : State} (h : Keeps s0 s) : KeepsN s0 (execColAbort id s) := by
  unfold execColAbort
  repeat' with_reducible first | assumption | apply colTakeFrame_keeps | apply rbump_keeps | apply colAbort_keeps | apply KeepsN.mk' | intro _ | split | dsimp only | refine Keeps.upd ?_ rfl rfl rfl rfl rfl rfl

theorem execColPart_keeps {id} {s} {s0 : State} (h : Keeps s0 s) : KeepsN s0 (execColPart id s) := by
  unfold execColPart
  repeat' with_reducible first | assumption | apply colTakeFrame_keeps | apply colFrame_keeps | apply KeepsN.mk' | intro _ | split | dsimp only | refine Keeps.upd ?_ rfl rfl rfl rfl rfl rfl

theorem execStraggler_keeps {c} {sender} {s} {s0 : State} (h : Keeps s0 s) : KeepsN s0 (execStraggler c sender s) := by
  unfold execStraggler
  repeat' with_reducible first | assumption | apply whenRunning_keeps | apply stragglerEvent_keeps | apply setCol_keeps | apply atTime_keeps | apply KeepsN.mk' | intro _ | split | dsimp only | refine Keeps.upd ?_ rfl rfl rfl rfl rfl rfl

theorem execColNoProgress_keeps {c} {s} {s0 : State} (h : Keeps s0 s) : KeepsN s0 (execColNoProgress c s) := by
  unfold execColNoProgress
  repeat' with_reducible first | assumption | apply whenRunning_keeps | apply atTime_keeps | apply colAbort_keeps | apply KeepsN.mk' | intro _ | split | dsimp only | refine Keeps.upd ?_ rfl rfl rfl rfl rfl rfl

theorem execColGrant_keeps {id} {s} {s0 : State} (h : Keeps s0 s) : KeepsN s0 (execColGrant id s) := by
  unfold execColGrant
  repeat' with_reducible first | assumption | apply colTakeFrame_keeps | apply setCol_keeps | apply colGoOn_keeps | apply KeepsN.mk' | intro _ | split | dsimp only | refine Keeps.upd ?_ rfl rfl rfl rfl rfl rfl

theorem execColResult_keeps {id} {s} {s0 : State} (h : Keeps s0 s) : KeepsN s0 (execColResult id s) := by
  unfold execColResult
  repeat' with_reducible first | assumption | apply colTakeFrame_keeps | apply colFrame_keeps | apply KeepsN.mk' | intro _ | split | dsimp only | refine Keeps.upd ?_ rfl rfl rfl rfl rfl rfl

end Sys2Proof.Laws
end

