-- ==== Sys2Proof/Laws/KeepsHostMem.lean ====
section
/-! SUPPORT. What the operations of Machine/HostMem.lean keep. -/
namespace Sys2Proof.Laws

open Sys2Proof.Machine Sys2Proof.Safety

theorem apertureOnes_keeps {b0} {write} {len} {s} {s0 : State} (h : Keeps s0 s) : Keeps s0 (apertureOnes b0 write len s) := by
  unfold apertureOnes
  repeat' with_reducible first | assumption | apply emit_keeps | intro _ | split | dsimp only | refine Keeps.upd ?_ rfl rfl rfl rfl rfl rfl

theorem apertureEnd_keeps {b0} {f} {status} {s} {s0 : State} (h : Keeps s0 s) : Keeps s0 (apertureEnd b0 f status s) := by
  unfold apertureEnd
  repeat' with_reducible first | assumption | apply faultRec_keeps | apply takeId_keeps | refine (takeId_keeps ?_).snd | apply pairAdd_keeps | apply emit_keeps | refine KeepsP.eq ?_ (by assumption) | intro _ | split | dsimp only | refine Keeps.upd ?_ rfl rfl rfl rfl rfl rfl

theorem apertureIn_keeps {b0} {write} {off} {len} {bytes} {s} {s0 : State} (h : Keeps s0 s) : Keeps s0 (apertureIn b0 write off len bytes s) := by
  unfold apertureIn
  repeat' with_reducible first | assumption | apply apertureOnes_keeps | apply apertureEnd_keeps | apply dispatchFrame_keeps | intro _ | split | dsimp only | refine Keeps.upd ?_ rfl rfl rfl rfl rfl rfl

theorem execHostApertureAccess_keeps {b0} {write} {off} {len} {bytes} {s} {s0 : State} (h : Keeps s0 s) : KeepsN s0 (execHostApertureAccess b0 write off len bytes s) := by
  unfold execHostApertureAccess
  repeat' with_reducible first | assumption | apply hostWork_keeps | apply apertureIn_keeps | apply KeepsN.mk' | intro _ | split | dsimp only | refine Keeps.upd ?_ rfl rfl rfl rfl rfl rfl

theorem hostAnswer_keeps {b0} {f} {status} {data} {s} {s0 : State} (h : Keeps s0 s) : Keeps s0 (hostAnswer b0 f status data s) := by
  unfold hostAnswer
  repeat' with_reducible first | assumption | apply dispatchFrame_keeps | intro _ | split | dsimp only | refine Keeps.upd ?_ rfl rfl rfl rfl rfl rfl

theorem hostError_keeps {b0} {f} {status} {s} {s0 : State} (h : Keeps s0 s) : Keeps s0 (hostError b0 f status s) := by
  unfold hostError
  repeat' with_reducible first | assumption | apply fresh_keeps | refine (fresh_keeps ?_).snd | apply hostAnswer_keeps | refine KeepsP.eq ?_ (by assumption) | intro _ | split | dsimp only | refine Keeps.upd ?_ rfl rfl rfl rfl rfl rfl

theorem inboundDma_keeps {b0} {f} {buf} {s} {s0 : State} (h : Keeps s0 s) : Keeps s0 (inboundDma b0 f buf s) := by
  unfold inboundDma
  repeat' with_reducible first | assumption | apply hostError_keeps | apply hostAnswer_keeps | apply emit_keeps | apply maskMarks_keeps | refine (maskMarks_keeps ?_).snd | apply each_keeps | refine KeepsP.eq ?_ (by assumption) | intro _ | split | dsimp only | refine Keeps.upd ?_ rfl rfl rfl rfl rfl rfl

theorem execHostInboundRequest_keeps {id} {buf} {s} {s0 : State} (h : Keeps s0 s) : KeepsN s0 (execHostInboundRequest id buf s) := by
  unfold execHostInboundRequest
  repeat' with_reducible first | assumption | apply whenRunning_keeps | apply takeInbox_keeps | apply inboundDma_keeps | apply hostError_keeps | apply KeepsN.mk' | intro _ | split | dsimp only | refine Keeps.upd ?_ rfl rfl rfl rfl rfl rfl

end Sys2Proof.Laws
end

