-- ==== Sys2Proof/Laws/KeepsRegWrite.lean ====
section
/-! SUPPORT. What the operations of Machine/RegWrite.lean keep. -/
namespace Sys2Proof.Laws

open Sys2Proof.Machine Sys2Proof.Safety

theorem writeWindow_keeps {b0} {a} {b} {s} {s0 : State} (h : Keeps s0 s) : KeepsO s0 (writeWindow b0 a b s) := by
  unfold writeWindow
  repeat' with_reducible first | assumption | apply setHost_keeps | apply KeepsO.none | apply KeepsO.mk' | intro _ | split | dsimp only | refine Keeps.upd ?_ rfl rfl rfl rfl rfl rfl | refine Keeps.upd' ?_ ?_ ?_ ?_ ?_ ?_ ?_ | apply wf_mwrite | apply wf_mwriteMasked | apply wf_mzero | apply wf_foldl_mset | apply wf_mset | exact (‹Canonical _›).pool | exact (‹Canonical _›).pips | exact (‹Canonical _›).galleries | exact (‹Canonical _›).request | exact (‹Canonical _›).response | exact (‹Canonical _›).registers

theorem irqEnabled_keeps {r} {i} {s} {s0 : State} (h : Keeps s0 s) : Keeps s0 (irqEnabled r i s) := by
  unfold irqEnabled
  repeat' with_reducible first | assumption | apply raiseIrq_keeps | intro _ | split | dsimp only | refine Keeps.upd ?_ rfl rfl rfl rfl rfl rfl

theorem mboxGo_keeps {b0} {s} {s0 : State} (h : Keeps s0 s) : Keeps s0 (mboxGo b0 s) := by
  unfold mboxGo
  repeat' with_reducible first | assumption | apply rset_keeps | apply mboxEnd_keeps | intro _ | split | dsimp only | refine Keeps.upd ?_ rfl rfl rfl rfl rfl rfl

theorem actionOf_keeps {f} {act} {b0} {i} {s} {s0 : State} (e : actionOf f = some act) (h : Keeps s0 s) : Keeps s0 (act b0 i s) := by
  unfold actionOf at e
  split at e
  · cases e; exact claimIn_keeps h
  split at e
  · cases e; exact renewIn_keeps h
  split at e
  · cases e; exact releaseIn_keeps h
  split at e
  · cases e; exact retrainPort_keeps h
  split at e
  · cases e; exact startAudit_keeps h
  split at e
  · cases e; exact startMeasure_keeps h
  split at e
  · cases e; exact mboxGo_keeps h
  · cases e

theorem writeRw_keeps {b0} {f} {i} {v} {s} {s0 : State} (h : Keeps s0 s) : Keeps s0 (writeRw b0 f i v s) := by
  unfold writeRw
  cases e : actionOf f with
  | some act =>
    dsimp only
    split
    · exact actionOf_keeps e h
    · exact h
  | none =>
    dsimp only
    split
    · exact cqBaseIn_keeps h
    split
    · exact cqLogIn_keeps h
    split
    · exact cqHeadIn_keeps h
    split
    · exact irqEnabled_keeps (rset_keeps h)
    · exact rset_keeps h

theorem writeRws_keeps {src} {f} {i} {v} {s} {s0 : State} (h : Keeps s0 s) : Keeps s0 (writeRws src f i v s) := by
  unfold writeRws
  repeat' with_reducible first | assumption | intro _ | split | dsimp only | refine Keeps.upd ?_ rfl rfl rfl rfl rfl rfl

theorem writeField_keeps {b0} {src} {at_} {n} {v} {x} {s} {s0 : State} (h : Keeps s0 s) : Keeps s0 (writeField b0 src at_ n v x s) := by
  unfold writeField
  repeat' with_reducible first | assumption | apply writeRw_keeps | apply rset_keeps | apply writeRws_keeps | intro _ | split | dsimp only | refine Keeps.upd ?_ rfl rfl rfl rfl rfl rfl

theorem writeFields_keeps {b0} {src} {a} {at_} {n} {v} {s} {s0 : State} (h : Keeps s0 s) : Keeps s0 (writeFields b0 src a at_ n v s) := by
  unfold writeFields
  repeat' with_reducible first | assumption | apply rbump_keeps | apply writeField_keeps | apply each_keeps | intro _ | split | dsimp only | refine Keeps.upd ?_ rfl rfl rfl rfl rfl rfl

theorem writeReg_keeps {b0} {src} {off} {b} {s} {s0 : State} (h : Keeps s0 s) : Keeps s0 (writeReg b0 src off b s) := by
  unfold writeReg
  repeat' with_reducible first | assumption | apply writeWindow_keeps | apply writeFields_keeps | refine KeepsO.eq ?_ (by assumption) | intro _ | split | dsimp only | refine Keeps.upd ?_ rfl rfl rfl rfl rfl rfl

theorem hostWrite_keeps {b0} {off} {b} {s} {s0 : State} (h : Keeps s0 s) : Keeps s0 (hostWrite b0 off b s) := by
  unfold hostWrite
  repeat' with_reducible first | assumption | apply wakeHall_keeps | apply rbump_keeps | apply hostDenied_keeps | apply writeReg_keeps | intro _ | split | dsimp only | refine Keeps.upd ?_ rfl rfl rfl rfl rfl rfl

theorem execRegisterWrite_keeps {b0} {off} {bytes} {s} {s0 : State} (h : Keeps s0 s) : KeepsN s0 (execRegisterWrite b0 off bytes s) := by
  unfold execRegisterWrite
  repeat' with_reducible first | assumption | apply hostWrite_keeps | apply KeepsN.mk' | intro _ | split | dsimp only | refine Keeps.upd ?_ rfl rfl rfl rfl rfl rfl

end Sys2Proof.Laws
end

