-- ==== Sys2Proof/Laws/KeepsSeedAccum.lean ====
section
/-! SUPPORT. What the operations of Machine/SeedAccum.lean keep. -/
namespace Sys2Proof.Laws

open Sys2Proof.Machine Sys2Proof.Safety

theorem execClra_keeps {k} {s} {s0 : State} (h : Keeps s0 s) : KeepsN s0 (execClra k s) := by
  unfold execClra
  repeat' with_reducible first | assumption | apply regInsn_keeps | apply KeepsN.mk' | intro _ | split | dsimp only | refine Keeps.upd ?_ rfl rfl rfl rfl rfl rfl

theorem execPack_keeps {k} {s} {s0 : State} (h : Keeps s0 s) : KeepsN s0 (execPack k s) := by
  unfold execPack
  repeat' with_reducible first | assumption | apply regInsn_keeps | apply KeepsN.mk' | intro _ | split | dsimp only | refine Keeps.upd ?_ rfl rfl rfl rfl rfl rfl

theorem execXpnd_keeps {k} {s} {s0 : State} (h : Keeps s0 s) : KeepsN s0 (execXpnd k s) := by
  unfold execXpnd
  repeat' with_reducible first | assumption | apply regInsn_keeps | apply KeepsN.mk' | intro _ | split | dsimp only | refine Keeps.upd ?_ rfl rfl rfl rfl rfl rfl

theorem execRnd_keeps {k} {s} {s0 : State} (h : Keeps s0 s) : KeepsN s0 (execRnd k s) := by
  unfold execRnd
  repeat' with_reducible first | assumption | apply regInsn_keeps | apply KeepsN.mk' | intro _ | split | dsimp only | refine Keeps.upd ?_ rfl rfl rfl rfl rfl rfl

theorem execAccm_keeps {k} {s} {s0 : State} (h : Keeps s0 s) : KeepsN s0 (execAccm k s) := by
  unfold execAccm
  repeat' with_reducible first | assumption | apply regInsn_keeps | apply KeepsN.mk' | intro _ | split | dsimp only | refine Keeps.upd ?_ rfl rfl rfl rfl rfl rfl

theorem execAcc_keeps {k} {s} {s0 : State} (h : Keeps s0 s) : KeepsN s0 (execAcc k s) := by
  unfold execAcc
  repeat' with_reducible first | assumption | apply regInsn_keeps | apply KeepsN.mk' | intro _ | split | dsimp only | refine Keeps.upd ?_ rfl rfl rfl rfl rfl rfl

theorem execCvt_keeps {k} {s} {s0 : State} (h : Keeps s0 s) : KeepsN s0 (execCvt k s) := by
  unfold execCvt
  repeat' with_reducible first | assumption | apply regInsn_keeps | apply KeepsN.mk' | intro _ | split | dsimp only | refine Keeps.upd ?_ rfl rfl rfl rfl rfl rfl

theorem execUnpk_keeps {k} {s} {s0 : State} (h : Keeps s0 s) : KeepsN s0 (execUnpk k s) := by
  unfold execUnpk
  repeat' with_reducible first | assumption | apply regInsn_keeps | apply foldl_keeps | apply foldl_keepsP | apply KeepsN.mk' | apply KeepsP.mk' | refine (foldl_keepsP ?_ ?_).snd | exact ⟨‹_›⟩ | exact (‹KeepsP _ _›).snd | intro _ | split | dsimp only | refine Keeps.upd ?_ rfl rfl rfl rfl rfl rfl

theorem execTopk_keeps {k} {s} {s0 : State} (h : Keeps s0 s) : KeepsN s0 (execTopk k s) := by
  unfold execTopk
  repeat' with_reducible first | assumption | apply regInsn_keeps | apply KeepsN.mk' | intro _ | split | dsimp only | refine Keeps.upd ?_ rfl rfl rfl rfl rfl rfl

end Sys2Proof.Laws
end

