-- ==== Sys2Proof/Laws/KeepsSeedArith.lean ====
section
/-! SUPPORT. What the operations of Machine/SeedArith.lean keep. -/
namespace Sys2Proof.Laws

open Sys2Proof.Machine Sys2Proof.Safety

theorem scalarInsn_keeps {k} {code} {r} {s} {s0 : State} (h : Keeps s0 s) : KeepsN s0 (scalarInsn k code r s) := by
  unfold scalarInsn
  repeat' with_reducible first | assumption | apply regInsn_keeps | apply KeepsN.mk' | intro _ | split | dsimp only | refine Keeps.upd ?_ rfl rfl rfl rfl rfl rfl

theorem execSshl_keeps {k} {s} {s0 : State} (h : Keeps s0 s) : KeepsN s0 (execSshl k s) := by
  unfold execSshl
  repeat' with_reducible first | assumption | apply scalarInsn_keeps | apply KeepsN.mk' | intro _ | split | dsimp only | refine Keeps.upd ?_ rfl rfl rfl rfl rfl rfl

theorem bitInsn_keeps {k} {code} {r} {s} {s0 : State} (h : Keeps s0 s) : KeepsN s0 (bitInsn k code r s) := by
  unfold bitInsn
  repeat' with_reducible first | assumption | apply regInsn_keeps | apply KeepsN.mk' | intro _ | split | dsimp only | refine Keeps.upd ?_ rfl rfl rfl rfl rfl rfl

theorem execNot_keeps {k} {s} {s0 : State} (h : Keeps s0 s) : KeepsN s0 (execNot k s) := by
  unfold execNot
  repeat' with_reducible first | assumption | apply bitInsn_keeps | apply KeepsN.mk' | intro _ | split | dsimp only | refine Keeps.upd ?_ rfl rfl rfl rfl rfl rfl

theorem execSmul_keeps {k} {s} {s0 : State} (h : Keeps s0 s) : KeepsN s0 (execSmul k s) := by
  unfold execSmul
  repeat' with_reducible first | assumption | apply scalarInsn_keeps | apply KeepsN.mk' | intro _ | split | dsimp only | refine Keeps.upd ?_ rfl rfl rfl rfl rfl rfl

theorem execSub_keeps {k} {s} {s0 : State} (h : Keeps s0 s) : KeepsN s0 (execSub k s) := by
  unfold execSub
  repeat' with_reducible first | assumption | apply regInsn_keeps | apply KeepsN.mk' | intro _ | split | dsimp only | refine Keeps.upd ?_ rfl rfl rfl rfl rfl rfl

theorem execSltu_keeps {k} {s} {s0 : State} (h : Keeps s0 s) : KeepsN s0 (execSltu k s) := by
  unfold execSltu
  repeat' with_reducible first | assumption | apply scalarInsn_keeps | apply KeepsN.mk' | intro _ | split | dsimp only | refine Keeps.upd ?_ rfl rfl rfl rfl rfl rfl

theorem predInsn_keeps {k} {code} {r} {s} {s0 : State} (h : Keeps s0 s) : KeepsN s0 (predInsn k code r s) := by
  unfold predInsn
  repeat' with_reducible first | assumption | apply regInsn_keeps | apply KeepsN.mk' | intro _ | split | dsimp only | refine Keeps.upd ?_ rfl rfl rfl rfl rfl rfl

theorem execMov_keeps {k} {s} {s0 : State} (h : Keeps s0 s) : KeepsN s0 (execMov k s) := by
  unfold execMov
  repeat' with_reducible first | assumption | apply regInsn_keeps | apply KeepsN.mk' | intro _ | split | dsimp only | refine Keeps.upd ?_ rfl rfl rfl rfl rfl rfl

theorem execSar_keeps {k} {s} {s0 : State} (h : Keeps s0 s) : KeepsN s0 (execSar k s) := by
  unfold execSar
  repeat' with_reducible first | assumption | apply bitInsn_keeps | apply KeepsN.mk' | intro _ | split | dsimp only | refine Keeps.upd ?_ rfl rfl rfl rfl rfl rfl

theorem execPfrom_keeps {k} {s} {s0 : State} (h : Keeps s0 s) : KeepsN s0 (execPfrom k s) := by
  unfold execPfrom
  repeat' with_reducible first | assumption | apply regInsn_keeps | apply KeepsN.mk' | intro _ | split | dsimp only | refine Keeps.upd ?_ rfl rfl rfl rfl rfl rfl

theorem execFma_keeps {k} {s} {s0 : State} (h : Keeps s0 s) : KeepsN s0 (execFma k s) := by
  unfold execFma
  repeat' with_reducible first | assumption | apply regInsn_keeps | apply KeepsN.mk' | intro _ | split | dsimp only | refine Keeps.upd ?_ rfl rfl rfl rfl rfl rfl

theorem execPnot_keeps {k} {s} {s0 : State} (h : Keeps s0 s) : KeepsN s0 (execPnot k s) := by
  unfold execPnot
  repeat' with_reducible first | assumption | apply predInsn_keeps | apply KeepsN.mk' | intro _ | split | dsimp only | refine Keeps.upd ?_ rfl rfl rfl rfl rfl rfl

theorem execPand_keeps {k} {s} {s0 : State} (h : Keeps s0 s) : KeepsN s0 (execPand k s) := by
  unfold execPand
  repeat' with_reducible first | assumption | apply predInsn_keeps | apply KeepsN.mk' | intro _ | split | dsimp only | refine Keeps.upd ?_ rfl rfl rfl rfl rfl rfl

theorem execSand_keeps {k} {s} {s0 : State} (h : Keeps s0 s) : KeepsN s0 (execSand k s) := by
  unfold execSand
  repeat' with_reducible first | assumption | apply scalarInsn_keeps | apply KeepsN.mk' | intro _ | split | dsimp only | refine Keeps.upd ?_ rfl rfl rfl rfl rfl rfl

theorem execSminu_keeps {k} {s} {s0 : State} (h : Keeps s0 s) : KeepsN s0 (execSminu k s) := by
  unfold execSminu
  repeat' with_reducible first | assumption | apply scalarInsn_keeps | apply KeepsN.mk' | intro _ | split | dsimp only | refine Keeps.upd ?_ rfl rfl rfl rfl rfl rfl

theorem execPset_keeps {k} {s} {s0 : State} (h : Keeps s0 s) : KeepsN s0 (execPset k s) := by
  unfold execPset
  repeat' with_reducible first | assumption | apply regInsn_keeps | apply KeepsN.mk' | intro _ | split | dsimp only | refine Keeps.upd ?_ rfl rfl rfl rfl rfl rfl

theorem execXor_keeps {k} {s} {s0 : State} (h : Keeps s0 s) : KeepsN s0 (execXor k s) := by
  unfold execXor
  repeat' with_reducible first | assumption | apply bitInsn_keeps | apply KeepsN.mk' | intro _ | split | dsimp only | refine Keeps.upd ?_ rfl rfl rfl rfl rfl rfl

theorem execOr_keeps {k} {s} {s0 : State} (h : Keeps s0 s) : KeepsN s0 (execOr k s) := by
  unfold execOr
  repeat' with_reducible first | assumption | apply bitInsn_keeps | apply KeepsN.mk' | intro _ | split | dsimp only | refine Keeps.upd ?_ rfl rfl rfl rfl rfl rfl

theorem execShl_keeps {k} {s} {s0 : State} (h : Keeps s0 s) : KeepsN s0 (execShl k s) := by
  unfold execShl
  repeat' with_reducible first | assumption | apply bitInsn_keeps | apply KeepsN.mk' | intro _ | split | dsimp only | refine Keeps.upd ?_ rfl rfl rfl rfl rfl rfl

theorem execSadd_keeps {k} {s} {s0 : State} (h : Keeps s0 s) : KeepsN s0 (execSadd k s) := by
  unfold execSadd
  repeat' with_reducible first | assumption | apply scalarInsn_keeps | apply KeepsN.mk' | intro _ | split | dsimp only | refine Keeps.upd ?_ rfl rfl rfl rfl rfl rfl

theorem execMax_keeps {k} {s} {s0 : State} (h : Keeps s0 s) : KeepsN s0 (execMax k s) := by
  unfold execMax
  repeat' with_reducible first | assumption | apply regInsn_keeps | apply KeepsN.mk' | intro _ | split | dsimp only | refine Keeps.upd ?_ rfl rfl rfl rfl rfl rfl

theorem execAbs_keeps {k} {s} {s0 : State} (h : Keeps s0 s) : KeepsN s0 (execAbs k s) := by
  unfold execAbs
  repeat' with_reducible first | assumption | apply regInsn_keeps | apply KeepsN.mk' | intro _ | split | dsimp only | refine Keeps.upd ?_ rfl rfl rfl rfl rfl rfl

theorem execSel_keeps {k} {s} {s0 : State} (h : Keeps s0 s) : KeepsN s0 (execSel k s) := by
  unfold execSel
  repeat' with_reducible first | assumption | apply regInsn_keeps | apply KeepsN.mk' | intro _ | split | dsimp only | refine Keeps.upd ?_ rfl rfl rfl rfl rfl rfl

theorem execAndn_keeps {k} {s} {s0 : State} (h : Keeps s0 s) : KeepsN s0 (execAndn k s) := by
  unfold execAndn
  repeat' with_reducible first | assumption | apply bitInsn_keeps | apply KeepsN.mk' | intro _ | split | dsimp only | refine Keeps.upd ?_ rfl rfl rfl rfl rfl rfl

theorem execSmaxu_keeps {k} {s} {s0 : State} (h : Keeps s0 s) : KeepsN s0 (execSmaxu k s) := by
  unfold execSmaxu
  repeat' with_reducible first | assumption | apply scalarInsn_keeps | apply KeepsN.mk' | intro _ | split | dsimp only | refine Keeps.upd ?_ rfl rfl rfl rfl rfl rfl

theorem execSshr_keeps {k} {s} {s0 : State} (h : Keeps s0 s) : KeepsN s0 (execSshr k s) := by
  unfold execSshr
  repeat' with_reducible first | assumption | apply scalarInsn_keeps | apply KeepsN.mk' | intro _ | split | dsimp only | refine Keeps.upd ?_ rfl rfl rfl rfl rfl rfl

theorem execPto_keeps {k} {s} {s0 : State} (h : Keeps s0 s) : KeepsN s0 (execPto k s) := by
  unfold execPto
  repeat' with_reducible first | assumption | apply regInsn_keeps | apply KeepsN.mk' | intro _ | split | dsimp only | refine Keeps.upd ?_ rfl rfl rfl rfl rfl rfl

theorem execSor_keeps {k} {s} {s0 : State} (h : Keeps s0 s) : KeepsN s0 (execSor k s) := by
  unfold execSor
  repeat' with_reducible first | assumption | apply scalarInsn_keeps | apply KeepsN.mk' | intro _ | split | dsimp only | refine Keeps.upd ?_ rfl rfl rfl rfl rfl rfl

theorem execSqrt_keeps {k} {s} {s0 : State} (h : Keeps s0 s) : KeepsN s0 (execSqrt k s) := by
  unfold execSqrt
  repeat' with_reducible first | assumption | apply regInsn_keeps | apply KeepsN.mk' | intro _ | split | dsimp only | refine Keeps.upd ?_ rfl rfl rfl rfl rfl rfl

theorem execSeq_keeps {k} {s} {s0 : State} (h : Keeps s0 s) : KeepsN s0 (execSeq k s) := by
  unfold execSeq
  repeat' with_reducible first | assumption | apply scalarInsn_keeps | apply KeepsN.mk' | intro _ | split | dsimp only | refine Keeps.upd ?_ rfl rfl rfl rfl rfl rfl

theorem execSmov_keeps {k} {s} {s0 : State} (h : Keeps s0 s) : KeepsN s0 (execSmov k s) := by
  unfold execSmov
  repeat' with_reducible first | assumption | apply scalarInsn_keeps | apply KeepsN.mk' | intro _ | split | dsimp only | refine Keeps.upd ?_ rfl rfl rfl rfl rfl rfl

theorem execExt_keeps {k} {s} {s0 : State} (h : Keeps s0 s) : KeepsN s0 (execExt k s) := by
  unfold execExt
  repeat' with_reducible first | assumption | apply regInsn_keeps | apply KeepsN.mk' | intro _ | split | dsimp only | refine Keeps.upd ?_ rfl rfl rfl rfl rfl rfl

theorem execBcast_keeps {k} {s} {s0 : State} (h : Keeps s0 s) : KeepsN s0 (execBcast k s) := by
  unfold execBcast
  repeat' with_reducible first | assumption | apply regInsn_keeps | apply KeepsN.mk' | intro _ | split | dsimp only | refine Keeps.upd ?_ rfl rfl rfl rfl rfl rfl

theorem execPxor_keeps {k} {s} {s0 : State} (h : Keeps s0 s) : KeepsN s0 (execPxor k s) := by
  unfold execPxor
  repeat' with_reducible first | assumption | apply predInsn_keeps | apply KeepsN.mk' | intro _ | split | dsimp only | refine Keeps.upd ?_ rfl rfl rfl rfl rfl rfl

theorem execBcasti_keeps {k} {s} {s0 : State} (h : Keeps s0 s) : KeepsN s0 (execBcasti k s) := by
  unfold execBcasti
  repeat' with_reducible first | assumption | apply regInsn_keeps | apply KeepsN.mk' | intro _ | split | dsimp only | refine Keeps.upd ?_ rfl rfl rfl rfl rfl rfl

theorem execMul_keeps {k} {s} {s0 : State} (h : Keeps s0 s) : KeepsN s0 (execMul k s) := by
  unfold execMul
  repeat' with_reducible first | assumption | apply regInsn_keeps | apply KeepsN.mk' | intro _ | split | dsimp only | refine Keeps.upd ?_ rfl rfl rfl rfl rfl rfl

theorem execAnd_keeps {k} {s} {s0 : State} (h : Keeps s0 s) : KeepsN s0 (execAnd k s) := by
  unfold execAnd
  repeat' with_reducible first | assumption | apply bitInsn_keeps | apply KeepsN.mk' | intro _ | split | dsimp only | refine Keeps.upd ?_ rfl rfl rfl rfl rfl rfl

theorem execPandn_keeps {k} {s} {s0 : State} (h : Keeps s0 s) : KeepsN s0 (execPandn k s) := by
  unfold execPandn
  repeat' with_reducible first | assumption | apply predInsn_keeps | apply KeepsN.mk' | intro _ | split | dsimp only | refine Keeps.upd ?_ rfl rfl rfl rfl rfl rfl

theorem execShr_keeps {k} {s} {s0 : State} (h : Keeps s0 s) : KeepsN s0 (execShr k s) := by
  unfold execShr
  repeat' with_reducible first | assumption | apply bitInsn_keeps | apply KeepsN.mk' | intro _ | split | dsimp only | refine Keeps.upd ?_ rfl rfl rfl rfl rfl rfl

theorem execDiv_keeps {k} {s} {s0 : State} (h : Keeps s0 s) : KeepsN s0 (execDiv k s) := by
  unfold execDiv
  repeat' with_reducible first | assumption | apply regInsn_keeps | apply KeepsN.mk' | intro _ | split | dsimp only | refine Keeps.upd ?_ rfl rfl rfl rfl rfl rfl

theorem execCmp_keeps {k} {s} {s0 : State} (h : Keeps s0 s) : KeepsN s0 (execCmp k s) := by
  unfold execCmp
  repeat' with_reducible first | assumption | apply regInsn_keeps | apply KeepsN.mk' | intro _ | split | dsimp only | refine Keeps.upd ?_ rfl rfl rfl rfl rfl rfl

theorem execIota_keeps {k} {s} {s0 : State} (h : Keeps s0 s) : KeepsN s0 (execIota k s) := by
  unfold execIota
  repeat' with_reducible first | assumption | apply regInsn_keeps | apply KeepsN.mk' | intro _ | split | dsimp only | refine Keeps.upd ?_ rfl rfl rfl rfl rfl rfl

theorem execPcnt_keeps {k} {s} {s0 : State} (h : Keeps s0 s) : KeepsN s0 (execPcnt k s) := by
  unfold execPcnt
  repeat' with_reducible first | assumption | apply regInsn_keeps | apply KeepsN.mk' | intro _ | split | dsimp only | refine Keeps.upd ?_ rfl rfl rfl rfl rfl rfl

theorem execSsub_keeps {k} {s} {s0 : State} (h : Keeps s0 s) : KeepsN s0 (execSsub k s) := by
  unfold execSsub
  repeat' with_reducible first | assumption | apply scalarInsn_keeps | apply KeepsN.mk' | intro _ | split | dsimp only | refine Keeps.upd ?_ rfl rfl rfl rfl rfl rfl

theorem execSmin_keeps {k} {s} {s0 : State} (h : Keeps s0 s) : KeepsN s0 (execSmin k s) := by
  unfold execSmin
  repeat' with_reducible first | assumption | apply scalarInsn_keeps | apply KeepsN.mk' | intro _ | split | dsimp only | refine Keeps.upd ?_ rfl rfl rfl rfl rfl rfl

theorem execPor_keeps {k} {s} {s0 : State} (h : Keeps s0 s) : KeepsN s0 (execPor k s) := by
  unfold execPor
  repeat' with_reducible first | assumption | apply predInsn_keeps | apply KeepsN.mk' | intro _ | split | dsimp only | refine Keeps.upd ?_ rfl rfl rfl rfl rfl rfl

theorem execMin_keeps {k} {s} {s0 : State} (h : Keeps s0 s) : KeepsN s0 (execMin k s) := by
  unfold execMin
  repeat' with_reducible first | assumption | apply regInsn_keeps | apply KeepsN.mk' | intro _ | split | dsimp only | refine Keeps.upd ?_ rfl rfl rfl rfl rfl rfl

theorem execSsar_keeps {k} {s} {s0 : State} (h : Keeps s0 s) : KeepsN s0 (execSsar k s) := by
  unfold execSsar
  repeat' with_reducible first | assumption | apply scalarInsn_keeps | apply KeepsN.mk' | intro _ | split | dsimp only | refine Keeps.upd ?_ rfl rfl rfl rfl rfl rfl

theorem execNeg_keeps {k} {s} {s0 : State} (h : Keeps s0 s) : KeepsN s0 (execNeg k s) := by
  unfold execNeg
  repeat' with_reducible first | assumption | apply regInsn_keeps | apply KeepsN.mk' | intro _ | split | dsimp only | refine Keeps.upd ?_ rfl rfl rfl rfl rfl rfl

theorem execSlih_keeps {k} {s} {s0 : State} (h : Keeps s0 s) : KeepsN s0 (execSlih k s) := by
  unfold execSlih
  repeat' with_reducible first | assumption | apply regInsn_keeps | apply KeepsN.mk' | intro _ | split | dsimp only | refine Keeps.upd ?_ rfl rfl rfl rfl rfl rfl

theorem execIns_keeps {k} {s} {s0 : State} (h : Keeps s0 s) : KeepsN s0 (execIns k s) := by
  unfold execIns
  repeat' with_reducible first | assumption | apply regInsn_keeps | apply KeepsN.mk' | intro _ | split | dsimp only | refine Keeps.upd ?_ rfl rfl rfl rfl rfl rfl

theorem execSxor_keeps {k} {s} {s0 : State} (h : Keeps s0 s) : KeepsN s0 (execSxor k s) := by
  unfold execSxor
  repeat' with_reducible first | assumption | apply scalarInsn_keeps | apply KeepsN.mk' | intro _ | split | dsimp only | refine Keeps.upd ?_ rfl rfl rfl rfl rfl rfl

theorem execAdd_keeps {k} {s} {s0 : State} (h : Keeps s0 s) : KeepsN s0 (execAdd k s) := by
  unfold execAdd
  repeat' with_reducible first | assumption | apply regInsn_keeps | apply KeepsN.mk' | intro _ | split | dsimp only | refine Keeps.upd ?_ rfl rfl rfl rfl rfl rfl

theorem execSlt_keeps {k} {s} {s0 : State} (h : Keeps s0 s) : KeepsN s0 (execSlt k s) := by
  unfold execSlt
  repeat' with_reducible first | assumption | apply scalarInsn_keeps | apply KeepsN.mk' | intro _ | split | dsimp only | refine Keeps.upd ?_ rfl rfl rfl rfl rfl rfl

theorem execSmax_keeps {k} {s} {s0 : State} (h : Keeps s0 s) : KeepsN s0 (execSmax k s) := by
  unfold execSmax
  repeat' with_reducible first | assumption | apply scalarInsn_keeps | apply KeepsN.mk' | intro _ | split | dsimp only | refine Keeps.upd ?_ rfl rfl rfl rfl rfl rfl

end Sys2Proof.Laws
end

