-- ==== Sys2Proof/Laws/KeepsSeedControl.lean ====
section
/-! SUPPORT. What the operations of Machine/SeedControl.lean keep. -/
namespace Sys2Proof.Laws

open Sys2Proof.Machine Sys2Proof.Safety

theorem execFence_keeps {k} {s} {s0 : State} (h : Keeps s0 s) : KeepsN s0 (execFence k s) := by
  unfold execFence
  repeat' with_reducible first | assumption | apply issueInsn_keeps | apply advance__keeps | apply KeepsN.mk' | apply KeepsO.none | apply KeepsO.mk' | apply KeepsO.map | intro _ | split | dsimp only | refine Keeps.upd ?_ rfl rfl rfl rfl rfl rfl

theorem barCheck_keeps {n} {s} {s0 : State} (h : Keeps s0 s) : Keeps s0 (barCheck n s) := by
  unfold barCheck
  repeat' with_reducible first | assumption | apply retire_keeps | apply each_keeps | intro _ | split | dsimp only | refine Keeps.upd ?_ rfl rfl rfl rfl rfl rfl

theorem execBar_keeps {k} {s} {s0 : State} (h : Keeps s0 s) : KeepsN s0 (execBar k s) := by
  unfold execBar
  repeat' with_reducible first | assumption | apply issueInsn_keeps | apply barCheck_keeps | apply setStrand_keeps | apply KeepsN.mk' | apply KeepsO.none | apply KeepsO.mk' | apply KeepsO.map | intro _ | split | dsimp only | refine Keeps.upd ?_ rfl rfl rfl rfl rfl rfl

theorem execRaise_keeps {k} {s} {s0 : State} (h : Keeps s0 s) : KeepsN s0 (execRaise k s) := by
  unfold execRaise
  repeat' with_reducible first | assumption | apply issueInsn_keeps | apply strandFault_keeps | apply KeepsN.mk' | apply KeepsO.none | apply KeepsO.mk' | apply KeepsO.map | intro _ | split | dsimp only | refine Keeps.upd ?_ rfl rfl rfl rfl rfl rfl

theorem execNop_keeps {k} {s} {s0 : State} (h : Keeps s0 s) : KeepsN s0 (execNop k s) := by
  unfold execNop
  repeat' with_reducible first | assumption | apply regInsn_keeps | apply KeepsN.mk' | intro _ | split | dsimp only | refine Keeps.upd ?_ rfl rfl rfl rfl rfl rfl

theorem execWaite_keeps {k} {s} {s0 : State} (h : Keeps s0 s) : KeepsN s0 (execWaite k s) := by
  unfold execWaite
  repeat' with_reducible first | assumption | apply issueInsn_keeps | apply setStrand_keeps | apply retire_keeps | apply KeepsN.mk' | apply KeepsO.none | apply KeepsO.mk' | apply KeepsO.map | intro _ | split | dsimp only | refine Keeps.upd ?_ rfl rfl rfl rfl rfl rfl

theorem execHalt_keeps {k} {s} {s0 : State} (h : Keeps s0 s) : KeepsN s0 (execHalt k s) := by
  unfold execHalt
  repeat' with_reducible first | assumption | apply issueInsn_keeps | apply setStrand_keeps | apply setInst_keeps | apply barCheck_keeps | apply KeepsN.mk' | apply KeepsO.none | apply KeepsO.mk' | apply KeepsO.map | intro _ | split | dsimp only | refine Keeps.upd ?_ rfl rfl rfl rfl rfl rfl

theorem execLoop_keeps {k} {s} {s0 : State} (h : Keeps s0 s) : KeepsN s0 (execLoop k s) := by
  unfold execLoop
  repeat' with_reducible first | assumption | apply issueInsn_keeps | apply advance__keeps | apply setStrand_keeps | apply goTo_keeps | apply KeepsN.mk' | apply KeepsO.none | apply KeepsO.mk' | apply KeepsO.map | intro _ | split | dsimp only | refine Keeps.upd ?_ rfl rfl rfl rfl rfl rfl

theorem execBr_keeps {k} {s} {s0 : State} (h : Keeps s0 s) : KeepsN s0 (execBr k s) := by
  unfold execBr
  repeat' with_reducible first | assumption | apply issueInsn_keeps | apply strandFault_keeps | apply goTo_keeps | apply setStrand_keeps | apply advance__keeps | apply KeepsN.mk' | apply KeepsO.none | apply KeepsO.mk' | apply KeepsO.map | intro _ | split | dsimp only | refine Keeps.upd ?_ rfl rfl rfl rfl rfl rfl

theorem execWaiteRelease_keeps {k} {s} {s0 : State} (h : Keeps s0 s) : KeepsN s0 (execWaiteRelease k s) := by
  unfold execWaiteRelease
  repeat' with_reducible first | assumption | apply retire_keeps | apply atTime_keeps | apply KeepsN.mk' | intro _ | split | dsimp only | refine Keeps.upd ?_ rfl rfl rfl rfl rfl rfl

end Sys2Proof.Laws
end

