-- ==== Sys2Proof/Laws/KeepsSeedMemory.lean ====
section
/-! SUPPORT. What the operations of Machine/SeedMemory.lean keep. -/
namespace Sys2Proof.Laws

open Sys2Proof.Machine Sys2Proof.Safety

theorem memAccess_keeps {k} {i} {a} {n} {align} {loc} {fab} {s} {s0 : State} (hloc : ∀ x0 t, Keeps s0 t → KeepsO s0 (loc x0 t)) (hfab : ∀ t, Keeps s0 t → KeepsO s0 (fab t)) (h : Keeps s0 s) : KeepsO s0 (memAccess k i a n align loc fab s) := by
  unfold memAccess
  repeat' with_reducible first | assumption | apply hloc | apply hfab | apply strandFault_keeps | apply KeepsO.none | apply KeepsO.mk' | refine KeepsO.eq ?_ (by assumption) | intro _ | split | dsimp only | refine Keeps.upd ?_ rfl rfl rfl rfl rfl rfl

theorem fabLoad_keeps {k} {x} {i} {ps} {s} {s0 : State} (h : Keeps s0 s) : KeepsO s0 (fabLoad k x i ps s) := by
  unfold fabLoad
  repeat' with_reducible first | assumption | apply sendLoads_keeps | apply KeepsO.none | apply KeepsO.mk' | intro _ | split | dsimp only | refine Keeps.upd ?_ rfl rfl rfl rfl rfl rfl

theorem execLdv_keeps {k} {s} {s0 : State} (h : Keeps s0 s) : KeepsN s0 (execLdv k s) := by
  unfold execLdv
  repeat' with_reducible first | assumption | apply issueInsn_keeps | apply memAccess_keeps | apply retire_keeps | apply fabLoad_keeps | apply KeepsN.mk' | apply KeepsO.none | apply KeepsO.mk' | apply KeepsO.map | refine KeepsO.eq ?_ (by assumption) | intro _ | split | dsimp only | refine Keeps.upd ?_ rfl rfl rfl rfl rfl rfl

theorem fabStore_keeps {k} {x} {i} {ord} {ps} {s} {s0 : State} (h : Keeps s0 s) : KeepsO s0 (fabStore k x i ord ps s) := by
  unfold fabStore
  repeat' with_reducible first | assumption | apply advance__keeps | apply sendStrand_keeps | apply each_keeps | apply KeepsO.none | apply KeepsO.mk' | intro _ | split | dsimp only | refine Keeps.upd ?_ rfl rfl rfl rfl rfl rfl

theorem execStv_keeps {k} {s} {s0 : State} (h : Keeps s0 s) : KeepsN s0 (execStv k s) := by
  unfold execStv
  repeat' with_reducible first | assumption | apply issueInsn_keeps | apply memAccess_keeps | apply advance__keeps | apply localWrite_keeps | apply fabStore_keeps | apply foldl_keeps | apply foldl_keepsP | apply KeepsN.mk' | apply KeepsP.mk' | apply KeepsO.none | apply KeepsO.mk' | apply KeepsO.map | refine KeepsO.eq ?_ (by assumption) | refine (foldl_keepsP ?_ ?_).snd | exact ⟨‹_›⟩ | exact (‹KeepsP _ _›).snd | intro _ | split | dsimp only | refine Keeps.upd ?_ rfl rfl rfl rfl rfl rfl

theorem loadDone_keeps {k} {s} {s0 : State} (h : Keeps s0 s) : Keeps s0 (loadDone k s) := by
  unfold loadDone
  repeat' with_reducible first | assumption | apply strandFault_keeps | apply setStrand_keeps | apply retire_keeps | apply foldl_keeps | apply foldl_keepsP | apply KeepsP.mk' | refine KeepsP.eq ?_ (by assumption) | refine (foldl_keepsP ?_ ?_).snd | exact ⟨‹_›⟩ | exact (‹KeepsP _ _›).snd | intro _ | split | dsimp only | refine Keeps.upd ?_ rfl rfl rfl rfl rfl rfl

theorem fabAnswer_keeps {k} {n} {st} {data} {x} {r} {i} {s} {s0 : State} (h : Keeps s0 s) : Keeps s0 (fabAnswer k n st data x r i s) := by
  unfold fabAnswer
  repeat' with_reducible first | assumption | apply setStrand_keeps | apply loadDone_keeps | apply sendStrand_keeps | apply instFault_keeps | intro _ | split | dsimp only | refine Keeps.upd ?_ rfl rfl rfl rfl rfl rfl

theorem execLds_keeps {k} {s} {s0 : State} (h : Keeps s0 s) : KeepsN s0 (execLds k s) := by
  unfold execLds
  repeat' with_reducible first | assumption | apply issueInsn_keeps | apply memAccess_keeps | apply retire_keeps | apply fabLoad_keeps | apply KeepsN.mk' | apply KeepsO.none | apply KeepsO.mk' | apply KeepsO.map | refine KeepsO.eq ?_ (by assumption) | intro _ | split | dsimp only | refine Keeps.upd ?_ rfl rfl rfl rfl rfl rfl

theorem execGath_keeps {k} {s} {s0 : State} (h : Keeps s0 s) : KeepsN s0 (execGath k s) := by
  unfold execGath
  repeat' with_reducible first | assumption | apply issueInsn_keeps | apply strandFault_keeps | apply fabLoad_keeps | apply setStrand_keeps | apply retire_keeps | apply KeepsN.mk' | apply KeepsO.none | apply KeepsO.mk' | apply KeepsO.map | refine KeepsO.eq ?_ (by assumption) | intro _ | split | dsimp only | refine Keeps.upd ?_ rfl rfl rfl rfl rfl rfl

theorem execScat_keeps {k} {s} {s0 : State} (h : Keeps s0 s) : KeepsN s0 (execScat k s) := by
  unfold execScat
  repeat' with_reducible first | assumption | apply issueInsn_keeps | apply strandFault_keeps | apply fabStore_keeps | apply localWrite_keeps | apply each_keeps | apply KeepsN.mk' | apply KeepsO.none | apply KeepsO.mk' | apply KeepsO.map | refine KeepsO.eq ?_ (by assumption) | intro _ | split | dsimp only | refine Keeps.upd ?_ rfl rfl rfl rfl rfl rfl

theorem execPinRelease_keeps {k} {s} {s0 : State} (h : Keeps s0 s) : KeepsN s0 (execPinRelease k s) := by
  unfold execPinRelease
  repeat' with_reducible first | assumption | apply issueInsn_keeps | apply advance__keeps | apply dropHolds_keeps | apply setInst_keeps | apply KeepsN.mk' | apply KeepsO.none | apply KeepsO.mk' | apply KeepsO.map | intro _ | split | dsimp only | refine Keeps.upd ?_ rfl rfl rfl rfl rfl rfl

theorem execStrandFabricAnswer_keeps {k} {n} {s} {s0 : State} (h : Keeps s0 s) : KeepsN s0 (execStrandFabricAnswer k n s) := by
  unfold execStrandFabricAnswer
  repeat' with_reducible first | assumption | apply fabAnswer_keeps | apply takeInbox_keeps | apply KeepsN.mk' | intro _ | split | dsimp only | refine Keeps.upd ?_ rfl rfl rfl rfl rfl rfl

theorem execSts_keeps {k} {s} {s0 : State} (h : Keeps s0 s) : KeepsN s0 (execSts k s) := by
  unfold execSts
  repeat' with_reducible first | assumption | apply issueInsn_keeps | apply memAccess_keeps | apply advance__keeps | apply localWrite_keeps | apply fabStore_keeps | apply KeepsN.mk' | apply KeepsO.none | apply KeepsO.mk' | apply KeepsO.map | refine KeepsO.eq ?_ (by assumption) | intro _ | split | dsimp only | refine Keeps.upd ?_ rfl rfl rfl rfl rfl rfl

theorem execAtom_keeps {k} {s} {s0 : State} (h : Keeps s0 s) : KeepsN s0 (execAtom k s) := by
  unfold execAtom
  repeat' with_reducible first | assumption | apply issueInsn_keeps | apply memAccess_keeps | apply retire_keeps | apply localWrite_keeps | apply advance__keeps | apply sendStrand_keeps | apply KeepsN.mk' | apply KeepsO.none | apply KeepsO.mk' | apply KeepsO.map | refine KeepsO.eq ?_ (by assumption) | intro _ | split | dsimp only | refine Keeps.upd ?_ rfl rfl rfl rfl rfl rfl

theorem execPin_keeps {k} {s} {s0 : State} (h : Keeps s0 s) : KeepsN s0 (execPin k s) := by
  unfold execPin
  repeat' with_reducible first | assumption | apply issueInsn_keeps | apply retire_keeps | apply addHold_keeps | apply setInst_keeps | apply KeepsN.mk' | apply KeepsO.none | apply KeepsO.mk' | apply KeepsO.map | intro _ | split | dsimp only | refine Keeps.upd ?_ rfl rfl rfl rfl rfl rfl

end Sys2Proof.Laws
end

