-- ==== Sys2Proof/Laws/KeepsSeedStream.lean ====
section
/-! SUPPORT. What the operations of Machine/SeedStream.lean keep. -/
namespace Sys2Proof.Laws

open Sys2Proof.Machine Sys2Proof.Safety

theorem takeItem_keeps {c} {ch} {y} {it} {s} {s0 : State} (h : Keeps s0 s) : Keeps s0 (takeItem c ch y it s) := by
  unfold takeItem
  repeat' with_reducible first | assumption | apply releasePart_keeps | apply setCol_keeps | intro _ | split | dsimp only | refine Keeps.upd ?_ rfl rfl rfl rfl rfl rfl

theorem recvBuffer_keeps {k} {i} {bs} {s} {s0 : State} (h : Keeps s0 s) : Keeps s0 (recvBuffer k i bs s) := by
  unfold recvBuffer
  repeat' with_reducible first | assumption | apply fresh_keeps | refine (fresh_keeps ?_).snd | refine KeepsP.eq ?_ (by assumption) | intro _ | split | dsimp only | refine Keeps.upd ?_ rfl rfl rfl rfl rfl rfl | refine Keeps.upd' ?_ ?_ ?_ ?_ ?_ ?_ ?_ | apply wf_mwrite | apply wf_mwriteMasked | apply wf_mzero | apply wf_foldl_mset | apply wf_mset | exact (‹Canonical _›).pool | exact (‹Canonical _›).pips | exact (‹Canonical _›).galleries | exact (‹Canonical _›).request | exact (‹Canonical _›).response | exact (‹Canonical _›).registers

theorem execRecv_keeps {k} {s} {s0 : State} (h : Keeps s0 s) : KeepsN s0 (execRecv k s) := by
  unfold execRecv
  repeat' with_reducible first | assumption | apply issueInsn_keeps | apply strandFault_keeps | apply retire_keeps | apply recvBuffer_keeps | apply takeItem_keeps | apply colAbort_keeps | apply KeepsN.mk' | apply KeepsO.none | apply KeepsO.mk' | apply KeepsO.map | intro _ | split | dsimp only | refine Keeps.upd ?_ rfl rfl rfl rfl rfl rfl

theorem execFwd_keeps {k} {s} {s0 : State} (h : Keeps s0 s) : KeepsN s0 (execFwd k s) := by
  unfold execFwd
  repeat' with_reducible first | assumption | apply issueInsn_keeps | apply strandFault_keeps | apply retire_keeps | apply takeItem_keeps | apply colAbort_keeps | apply colPut_keeps | apply KeepsN.mk' | apply KeepsO.none | apply KeepsO.mk' | apply KeepsO.map | intro _ | split | dsimp only | refine Keeps.upd ?_ rfl rfl rfl rfl rfl rfl

theorem execGrant_keeps {k} {s} {s0 : State} (h : Keeps s0 s) : KeepsN s0 (execGrant k s) := by
  unfold execGrant
  repeat' with_reducible first | assumption | apply issueInsn_keeps | apply strandFault_keeps | apply advance__keeps | apply sendCtl_keeps | apply chargePart_keeps | apply setCol_keeps | apply KeepsN.mk' | apply KeepsO.none | apply KeepsO.mk' | apply KeepsO.map | intro _ | split | dsimp only | refine Keeps.upd ?_ rfl rfl rfl rfl rfl rfl

theorem execSend_keeps {k} {s} {s0 : State} (h : Keeps s0 s) : KeepsN s0 (execSend k s) := by
  unfold execSend
  repeat' with_reducible first | assumption | apply issueInsn_keeps | apply strandFault_keeps | apply advance__keeps | apply colPut_keeps | apply foldl_keeps | apply foldl_keepsP | apply KeepsN.mk' | apply KeepsP.mk' | apply KeepsO.none | apply KeepsO.mk' | apply KeepsO.map | refine (foldl_keepsP ?_ ?_).snd | exact ⟨‹_›⟩ | exact (‹KeepsP _ _›).snd | intro _ | split | dsimp only | refine Keeps.upd ?_ rfl rfl rfl rfl rfl rfl

end Sys2Proof.Laws
end

