-- ==== Sys2Proof/Laws/KeepsShell.lean ====
section
/-! SUPPORT. What the operations of Machine/Shell.lean keep. -/
namespace Sys2Proof.Laws

open Sys2Proof.Machine Sys2Proof.Safety

theorem wrapKey_keeps {ek} {id} {aad} {key} {s} {s0 : State} (h : Keeps s0 s) : KeepsP s0 (wrapKey ek id aad key s) := by
  unfold wrapKey
  repeat' with_reducible first | assumption | apply freshRandom_keeps | refine (freshRandom_keeps ?_).snd | apply KeepsP.mk' | refine KeepsP.eq ?_ (by assumption) | intro _ | split | dsimp only | refine Keeps.upd ?_ rfl rfl rfl rfl rfl rfl

theorem holoneWrite_keeps {a} {v} {s} {s0 : State} (h : Keeps s0 s) : Keeps s0 (holoneWrite a v s) := by
  unfold holoneWrite
  repeat' with_reducible first | assumption | apply writeField_keeps | apply each_keeps | intro _ | split | dsimp only | refine Keeps.upd ?_ rfl rfl rfl rfl rfl rfl

theorem holoneAct_keeps {slot} {op} {a} {v} {s} {s0 : State} (h : Keeps s0 s) : KeepsT s0 (holoneAct slot op a v s) := by
  unfold holoneAct
  repeat' with_reducible first | assumption | apply holoneWrite_keeps | apply KeepsT.mk' | intro _ | split | dsimp only | refine Keeps.upd ?_ rfl rfl rfl rfl rfl rfl

theorem withMbox_keeps {b0} {code} {owner} {act} {s} {s0 : State} (hact : ∀ x0 t, Keeps s0 t → Keeps s0 (act x0 t)) (h : Keeps s0 s) : KeepsN s0 (withMbox b0 code owner act s) := by
  unfold withMbox
  repeat' with_reducible first | assumption | apply hact | apply whenRunning_keeps | apply mboxEnd_keeps | apply KeepsN.mk' | intro _ | split | dsimp only | refine Keeps.upd ?_ rfl rfl rfl rfl rfl rfl

theorem execQuote_keeps {b0} {s} {s0 : State} (h : Keeps s0 s) : KeepsN s0 (execQuote b0 s) := by
  unfold execQuote
  repeat' with_reducible first | assumption | apply withMbox_keeps | apply mboxEnd_keeps | apply KeepsN.mk' | intro _ | split | dsimp only | refine Keeps.upd ?_ rfl rfl rfl rfl rfl rfl

theorem sendMgt_keeps {opc} {node} {p} {s} {s0 : State} (h : Keeps s0 s) : Keeps s0 (sendMgt opc node p s) := by
  unfold sendMgt
  repeat' with_reducible first | assumption | apply issue_keeps | refine (issue_keeps ?_).snd | apply sendTracked_keeps | refine KeepsP.eq ?_ (by assumption) | intro _ | split | dsimp only | refine Keeps.upd ?_ rfl rfl rfl rfl rfl rfl

theorem jobRemoveAt_keeps {id} {epoch} {s} {s0 : State} (h : Keeps s0 s) : Keeps s0 (jobRemoveAt id epoch s) := by
  unfold jobRemoveAt
  repeat' with_reducible first | assumption | intro _ | split | dsimp only | refine Keeps.upd ?_ rfl rfl rfl rfl rfl rfl

theorem execJobClose_keeps {b0} {s} {s0 : State} (h : Keeps s0 s) : KeepsN s0 (execJobClose b0 s) := by
  unfold execJobClose
  repeat' with_reducible first | assumption | apply withMbox_keeps | apply mboxEnd_keeps | apply sendMgt_keeps | apply jobRemoveAt_keeps | apply each_keeps | apply KeepsN.mk' | intro _ | split | dsimp only | refine Keeps.upd ?_ rfl rfl rfl rfl rfl rfl

theorem execEndorseSet_keeps {b0} {s} {s0 : State} (h : Keeps s0 s) : KeepsN s0 (execEndorseSet b0 s) := by
  unfold execEndorseSet
  repeat' with_reducible first | assumption | apply withMbox_keeps | apply mboxEnd_keeps | apply KeepsN.mk' | intro _ | split | dsimp only | refine Keeps.upd ?_ rfl rfl rfl rfl rfl rfl

theorem installIn_keeps {id} {k} {s} {s0 : State} (h : Keeps s0 s) : KeepsP s0 (installIn id k s) := by
  unfold installIn
  repeat' with_reducible first | assumption | apply jobRemoveAt_keeps | apply KeepsP.mk' | intro _ | split | dsimp only | refine Keeps.upd ?_ rfl rfl rfl rfl rfl rfl

theorem holoneDrop_keeps {slot} {s} {s0 : State} (h : Keeps s0 s) : Keeps s0 (holoneDrop slot s) := by
  unfold holoneDrop
  repeat' with_reducible first | assumption | apply rbump_keeps | intro _ | split | dsimp only | refine Keeps.upd ?_ rfl rfl rfl rfl rfl rfl

theorem execFrameStage_keeps {b0} {s} {s0 : State} (h : Keeps s0 s) : KeepsN s0 (execFrameStage b0 s) := by
  unfold execFrameStage
  repeat' with_reducible first | assumption | apply withMbox_keeps | apply mboxEnd_keeps | apply rset_keeps | apply KeepsN.mk' | intro _ | split | dsimp only | refine Keeps.upd ?_ rfl rfl rfl rfl rfl rfl

theorem mgtAnswer_keeps {n} {tracked} {f} {status} {data} {s} {s0 : State} (h : Keeps s0 s) : Keeps s0 (mgtAnswer n tracked f status data s) := by
  unfold mgtAnswer
  repeat' with_reducible first | assumption | apply closeTrack_keeps | apply answer_keeps | apply refuse_keeps | intro _ | split | dsimp only | refine Keeps.upd ?_ rfl rfl rfl rfl rfl rfl

theorem execHoloneSlotUnlock_keeps {hslot} {s} {s0 : State} (h : Keeps s0 s) : KeepsN s0 (execHoloneSlotUnlock hslot s) := by
  unfold execHoloneSlotUnlock
  repeat' with_reducible first | assumption | apply whenRunning_keeps | apply atTime_keeps | apply KeepsN.mk' | intro _ | split | dsimp only | refine Keeps.upd ?_ rfl rfl rfl rfl rfl rfl

theorem execMgtQuery_keeps {id} {s} {s0 : State} (h : Keeps s0 s) : KeepsN s0 (execMgtQuery id s) := by
  unfold execMgtQuery
  repeat' with_reducible first | assumption | apply serve_keeps | apply sendTracked_keeps | apply mgtAnswer_keeps | apply refuse_keeps | apply KeepsN.mk' | intro _ | split | dsimp only | refine Keeps.upd ?_ rfl rfl rfl rfl rfl rfl

theorem sendInstall_keeps {id} {part} {notBefore} {key} {p} {s} {s0 : State} (h : Keeps s0 s) : Keeps s0 (sendInstall id part notBefore key p s) := by
  unfold sendInstall
  repeat' with_reducible first | assumption | apply wrapKey_keeps | refine (wrapKey_keeps ?_).snd | apply sendMgt_keeps | refine KeepsP.eq ?_ (by assumption) | intro _ | split | dsimp only | refine Keeps.upd ?_ rfl rfl rfl rfl rfl rfl

theorem execJobOpen_keeps {b0} {s} {s0 : State} (h : Keeps s0 s) : KeepsN s0 (execJobOpen b0 s) := by
  unfold execJobOpen
  repeat' with_reducible first | assumption | apply withMbox_keeps | apply mboxEnd_keeps | apply drawBytes_keeps | refine (drawBytes_keeps ?_).snd | apply jobOpenGo_keeps | apply sendInstall_keeps | apply each_keeps | apply KeepsN.mk' | refine KeepsP.eq ?_ (by assumption) | intro _ | split | dsimp only | refine Keeps.upd ?_ rfl rfl rfl rfl rfl rfl

theorem execLicenceLoad_keeps {b0} {s} {s0 : State} (h : Keeps s0 s) : KeepsN s0 (execLicenceLoad b0 s) := by
  unfold execLicenceLoad
  repeat' with_reducible first | assumption | apply withMbox_keeps | apply mboxEnd_keeps | apply KeepsN.mk' | intro _ | split | dsimp only | refine Keeps.upd ?_ rfl rfl rfl rfl rfl rfl

theorem holoneAccept_keeps {slot} {counter} {x} {s} {s0 : State} (h : Keeps s0 s) : Keeps s0 (holoneAccept slot counter x s) := by
  unfold holoneAccept
  repeat' with_reducible first | assumption | intro _ | split | dsimp only | refine Keeps.upd ?_ rfl rfl rfl rfl rfl rfl

theorem execHoloneRequest_keeps {bytes} {s} {s0 : State} (h : Keeps s0 s) : KeepsN s0 (execHoloneRequest bytes s) := by
  unfold execHoloneRequest
  repeat' with_reducible first | assumption | apply whenRunning_keeps | apply holoneDrop_keeps | apply rbump_keeps | apply holoneAct_keeps | refine (holoneAct_keeps ?_).third | apply holoneAccept_keeps | apply emit_keeps | apply KeepsN.mk' | refine KeepsT.eq ?_ (by assumption) | intro _ | split | dsimp only | refine Keeps.upd ?_ rfl rfl rfl rfl rfl rfl

theorem execJobKeyInstall_keeps {id} {s} {s0 : State} (h : Keeps s0 s) : KeepsN s0 (execJobKeyInstall id s) := by
  unfold execJobKeyInstall
  repeat' with_reducible first | assumption | apply serve_keeps | apply sendTracked_keeps | apply mgtAnswer_keeps | apply installIn_keeps | refine (installIn_keeps ?_).snd | apply KeepsN.mk' | refine KeepsP.eq ?_ (by assumption) | intro _ | split | dsimp only | refine Keeps.upd ?_ rfl rfl rfl rfl rfl rfl

theorem execJobWrap_keeps {b0} {s} {s0 : State} (h : Keeps s0 s) : KeepsN s0 (execJobWrap b0 s) := by
  unfold execJobWrap
  repeat' with_reducible first | assumption | apply withMbox_keeps | apply mboxEnd_keeps | apply wrapKey_keeps | refine (wrapKey_keeps ?_).snd | apply KeepsN.mk' | refine KeepsP.eq ?_ (by assumption) | intro _ | split | dsimp only | refine Keeps.upd ?_ rfl rfl rfl rfl rfl rfl

theorem execIdGet_keeps {b0} {s} {s0 : State} (h : Keeps s0 s) : KeepsN s0 (execIdGet b0 s) := by
  unfold execIdGet
  repeat' with_reducible first | assumption | apply withMbox_keeps | apply mboxEnd_keeps | apply KeepsN.mk' | intro _ | split | dsimp only | refine Keeps.upd ?_ rfl rfl rfl rfl rfl rfl

theorem execJobKeyDestroy_keeps {key} {s} {s0 : State} (h : Keeps s0 s) : KeepsN s0 (execJobKeyDestroy key s) := by
  unfold execJobKeyDestroy
  repeat' with_reducible first | assumption | apply whenRunning_keeps | apply atTime_keeps | apply KeepsN.mk' | intro _ | split | dsimp only | refine Keeps.upd ?_ rfl rfl rfl rfl rfl rfl

theorem execCredSet_keeps {b0} {s} {s0 : State} (h : Keeps s0 s) : KeepsN s0 (execCredSet b0 s) := by
  unfold execCredSet
  repeat' with_reducible first | assumption | apply withMbox_keeps | apply mboxEnd_keeps | apply KeepsN.mk' | intro _ | split | dsimp only | refine Keeps.upd ?_ rfl rfl rfl rfl rfl rfl

end Sys2Proof.Laws
end

