-- ==== Sys2Proof/Laws/KeepsUpdate.lean ====
section
/-! SUPPORT. What the operations of Machine/Update.lean keep. -/
namespace Sys2Proof.Laws

open Sys2Proof.Machine Sys2Proof.Safety

theorem imageEnds_keeps {k} {status} {u} {s} {s0 : State} (h : Keeps s0 s) : Keeps s0 (imageEnds k status u s) := by
  unfold imageEnds
  repeat' with_reducible first | assumption | apply endB_keeps | apply emit_keeps | intro _ | split | dsimp only | refine Keeps.upd ?_ rfl rfl rfl rfl rfl rfl

theorem moveUpd_keeps {k} {u} {s} {s0 : State} (h : Keeps s0 s) : Keeps s0 (moveUpd k u s) := by
  unfold moveUpd
  repeat' with_reducible first | assumption | apply raiseIrq_keeps | apply setUpd_keeps | intro _ | split | dsimp only | refine Keeps.upd ?_ rfl rfl rfl rfl rfl rfl

theorem imageOver_keeps {k} {r} {s} {s0 : State} (h : Keeps s0 s) : Keeps s0 (imageOver k r s) := by
  unfold imageOver
  repeat' with_reducible first | assumption | apply imageEnds_keeps | apply moveUpd_keeps | intro _ | split | dsimp only | refine Keeps.upd ?_ rfl rfl rfl rfl rfl rfl

theorem execImageTransferStall_keeps {fk} {s} {s0 : State} (h : Keeps s0 s) : KeepsN s0 (execImageTransferStall fk s) := by
  unfold execImageTransferStall
  repeat' with_reducible first | assumption | apply whenRunning_keeps | apply imageOver_keeps | apply atTime_keeps | apply KeepsN.mk' | intro _ | split | dsimp only | refine Keeps.upd ?_ rfl rfl rfl rfl rfl rfl

theorem updRefuse_keeps {k} {r} {s} {s0 : State} (h : Keeps s0 s) : Keeps s0 (updRefuse k r s) := by
  unfold updRefuse
  repeat' with_reducible first | assumption | apply moveUpd_keeps | intro _ | split | dsimp only | refine Keeps.upd ?_ rfl rfl rfl rfl rfl rfl

theorem refuseKinds_keeps {r} {c} {s} {s0 : State} (h : Keeps s0 s) : Keeps s0 (refuseKinds r c s) := by
  unfold refuseKinds
  repeat' with_reducible first | assumption | apply updRefuse_keeps | apply each_keeps | intro _ | split | dsimp only | refine Keeps.upd ?_ rfl rfl rfl rfl rfl rfl

theorem writeKinds_keeps {ks} {f} {s} {s0 : State} (h : Keeps s0 s) : Keeps s0 (writeKinds ks f s) := by
  unfold writeKinds
  repeat' with_reducible first | assumption | apply moveUpd_keeps | apply each_keeps | intro _ | split | dsimp only | refine Keeps.upd ?_ rfl rfl rfl rfl rfl rfl

theorem execImageArm_keeps {b0} {s} {s0 : State} (h : Keeps s0 s) : KeepsN s0 (execImageArm b0 s) := by
  unfold execImageArm
  repeat' with_reducible first | assumption | apply withCmdOr_keeps | apply refuseKinds_keeps | apply completeWith_keeps | apply writeKinds_keeps | apply KeepsN.mk' | intro _ | split | dsimp only | refine Keeps.upd ?_ rfl rfl rfl rfl rfl rfl

theorem execImageDisarm_keeps {b0} {s} {s0 : State} (h : Keeps s0 s) : KeepsN s0 (execImageDisarm b0 s) := by
  unfold execImageDisarm
  repeat' with_reducible first | assumption | apply withCmdOr_keeps | apply refuseKinds_keeps | apply completeWith_keeps | apply writeKinds_keeps | apply KeepsN.mk' | intro _ | split | dsimp only | refine Keeps.upd ?_ rfl rfl rfl rfl rfl rfl

theorem tftpError_keeps {s} {s0 : State} (h : Keeps s0 s) : Keeps s0 (tftpError s) := by
  unfold tftpError
  repeat' with_reducible first | assumption | apply emit_keeps | intro _ | split | dsimp only | refine Keeps.upd ?_ rfl rfl rfl rfl rfl rfl

theorem beginImage_keeps {k} {host} {bytes} {s} {s0 : State} (h : Keeps s0 s) : Keeps s0 (beginImage k host bytes s) := by
  unfold beginImage
  repeat' with_reducible first | assumption | apply moveUpd_keeps | intro _ | split | dsimp only | refine Keeps.upd ?_ rfl rfl rfl rfl rfl rfl

theorem execTftpWriteRequest_keeps {fk} {bytes} {s} {s0 : State} (h : Keeps s0 s) : KeepsN s0 (execTftpWriteRequest fk bytes s) := by
  unfold execTftpWriteRequest
  repeat' with_reducible first | assumption | apply whenRunning_keeps | apply tftpError_keeps | apply updRefuse_keeps | apply beginImage_keeps | apply KeepsN.mk' | intro _ | split | dsimp only | refine Keeps.upd ?_ rfl rfl rfl rfl rfl rfl

theorem recoverWith_keeps {b} {s} {s0 : State} (h : Keeps s0 s) : Keeps s0 (recoverWith b s) := by
  unfold recoverWith
  repeat' with_reducible first | assumption | apply setHost_keeps | intro _ | split | dsimp only | refine Keeps.upd ?_ rfl rfl rfl rfl rfl rfl

theorem execImageWriteDone_keeps {fk} {s} {s0 : State} (h : Keeps s0 s) : KeepsN s0 (execImageWriteDone fk s) := by
  unfold execImageWriteDone
  repeat' with_reducible first | assumption | apply whenRunning_keeps | apply recoverWith_keeps | apply tftpError_keeps | apply imageOver_keeps | apply KeepsN.mk' | intro _ | split | dsimp only | refine Keeps.upd ?_ rfl rfl rfl rfl rfl rfl

theorem recoveryChunk_keeps {req} {s} {s0 : State} (h : Keeps s0 s) : Keeps s0 (recoveryChunk req s) := by
  unfold recoveryChunk
  repeat' with_reducible first | assumption | apply mboxEnd_keeps | apply recoverWith_keeps | intro _ | split | dsimp only | refine Keeps.upd ?_ rfl rfl rfl rfl rfl rfl

theorem execRecoveryImage_keeps {b0} {s} {s0 : State} (h : Keeps s0 s) : KeepsN s0 (execRecoveryImage b0 s) := by
  unfold execRecoveryImage
  repeat' with_reducible first | assumption | apply withMbox_keeps | apply mboxEnd_keeps | apply recoveryChunk_keeps | apply KeepsN.mk' | intro _ | split | dsimp only | refine Keeps.upd ?_ rfl rfl rfl rfl rfl rfl

theorem execImageStage_keeps {b0} {buf} {s} {s0 : State} (h : Keeps s0 s) : KeepsN s0 (execImageStage b0 buf s) := by
  unfold execImageStage
  repeat' with_reducible first | assumption | apply withCmd_keeps | apply completeWith_keeps | apply updRefuse_keeps | apply beginImage_keeps | apply beginB_keeps | apply KeepsN.mk' | intro _ | split | dsimp only | refine Keeps.upd ?_ rfl rfl rfl rfl rfl rfl

end Sys2Proof.Laws
end

