-- ==== Sys2Proof/Laws/Lanes.lean ====
section
/-! SUPPORT. Elements of a vector register: what `put` writes, what `el` then reads, and what the lane-wise writes give for
each element. -/
namespace Sys2Proof.Machine

theorem elemPos_eq (f : Fmt) (i : Nat) : elemPos f i = elemSpan f * i := by cases f <;> rfl

theorem width_le_span (f : Fmt) : f.width ≤ elemSpan f := by cases f <;> decide

theorem span_elems (f : Fmt) : elemSpan f * f.elems = 512 := by cases f <;> rfl

theorem elemPos_end {f : Fmt} {i : Nat} (h : i < f.elems) : elemPos f i + elemSpan f ≤ 512 := by
  rw [elemPos_eq, ← span_elems f, ← Nat.mul_succ]
  exact Nat.mul_le_mul_left _ h

theorem el_testBit (f : Fmt) (v : BitVec 512) (i j : Nat) :
    (el f v i).testBit j = (decide (j < f.width) && v.getLsbD (elemPos f i + j)) := by
  simp [el, Nat.testBit_mod_two_pow, BitVec.getLsbD]

theorem put_bit {f : Fmt} (v : BitVec 512) {i : Nat} (x : Nat) {b : Nat} (hb : b < 512) :
    (put f v i x).getLsbD b =
      if elemPos f i ≤ b ∧ b < elemPos f i + elemSpan f then (x % 2 ^ f.width).testBit (b - elemPos f i) else v.getLsbD b := by
  have hw := width_le_span f
  simp only [put, BitVec.getLsbD_or, BitVec.getLsbD_and, BitVec.getLsbD_not, BitVec.getLsbD_shiftLeft, BitVec.getLsbD_ofNat,
    Nat.testBit_two_pow_sub_one, hb, decide_true, Bool.true_and]
  by_cases h1 : elemPos f i ≤ b
  · by_cases h2 : b < elemPos f i + elemSpan f
    · have : b - elemPos f i < elemSpan f := by omega
      have : b - elemPos f i < 512 := by omega
      simp [*, Nat.not_lt.mpr h1]
    · have h3 : ¬ b - elemPos f i < elemSpan f := by omega
      have h4 : (x % 2 ^ f.width).testBit (b - elemPos f i) = false := by
        rw [Nat.testBit_mod_two_pow]; simp; omega
      simp [*]
  · simp [h1, Nat.lt_of_not_le h1]

theorem el_put_self {f : Fmt} (v : BitVec 512) {i : Nat} (x : Nat) (h : i < f.elems) : el f (put f v i x) i = x % 2 ^ f.width := by
  apply Nat.eq_of_testBit_eq
  intro j
  have hw := width_le_span f
  have he := elemPos_end h
  rw [el_testBit]
  by_cases hj : j < f.width
  · rw [put_bit v x (by omega), if_pos (by omega)]
    simp [hj]
  · rw [Nat.testBit_mod_two_pow]; simp [hj]

theorem el_put_ne {f : Fmt} (v : BitVec 512) {i k : Nat} (x : Nat) (hk : k < f.elems) (h : k ≠ i) : el f (put f v i x) k = el f v k := by
  apply Nat.eq_of_testBit_eq
  intro j
  have hw := width_le_span f
  have he := elemPos_end hk
  rw [el_testBit, el_testBit]
  by_cases hj : j < f.width
  · rw [put_bit v x (by omega), if_neg]
    rw [elemPos_eq, elemPos_eq]
    rcases Nat.lt_or_gt_of_ne h with h1 | h1
    · have := Nat.mul_le_mul_left (elemSpan f) (Nat.succ_le_of_lt h1)
      rw [Nat.mul_succ] at this; omega
    · have := Nat.mul_le_mul_left (elemSpan f) (Nat.succ_le_of_lt h1)
      rw [Nat.mul_succ] at this; omega
  · simp [hj]

/-- Writing some of the elements of a list without repeats: each element written reads as its value, each other as before. -/
theorem el_foldl_put {f : Fmt} (g : Nat → Bool) (r : Nat → Nat) (l : List Nat) (hl : ∀ e ∈ l, e < f.elems) (nd : l.Nodup) (v : BitVec 512)
    {e : Nat} (he : e < f.elems) :
    el f (l.foldl (fun v e => if g e then put f v e (r e) else v) v) e =
      if e ∈ l ∧ g e = true then r e % 2 ^ f.width else el f v e := by
  induction l generalizing v with
  | nil => simp
  | cons x l ih =>
    rw [List.foldl_cons, ih (fun y hy => hl y (List.mem_cons_of_mem _ hy)) (List.nodup_cons.mp nd).2]
    have hx := (List.nodup_cons.mp nd).1
    by_cases hm : e ∈ l
    · have : e ≠ x := fun q => hx (q ▸ hm)
      by_cases hg : g e = true
      · simp [hm, hg]
      · simp only [hm, hg]
        simp only [Bool.false_eq_true, and_false, if_false]
        split
        · exact el_put_ne _ _ he this
        · simp
    · by_cases hq : e = x
      · subst hq
        by_cases hg : g e = true
        · simp [hm, hg, el_put_self _ _ he]
        · simp [hm, hg]
      · simp only [hm, false_and, if_false, List.mem_cons, hq, or_false]
        split
        · exact el_put_ne _ _ he hq
        · rfl

/-- What a governed write gives for each element. -/
theorem el_putGov {f : Fmt} (g : Pred) (d : Vec) (r : Nat → Nat) {e : Nat} (he : e < f.elems) :
    el f (putGov f g d r) e = if govOn f g e then r e % 2 ^ f.width else el f d e := by
  unfold putGov
  rw [el_foldl_put (fun e => govOn f g e) r (upTo f.elems) (fun y hy => List.mem_range.mp hy) List.nodup_range d he]
  simp [he]

/-- Elements written one after the other, from a place on. -/
theorem el_foldl_enum {f : Fmt} (es : List Nat) (m : Nat) (h : m + es.length ≤ f.elems) (v : Vec) {j : Nat} (hj : j < f.elems) :
    el f ((es.zipIdx m).foldl (fun v p => put f v p.2 p.1) v) j =
      if m ≤ j ∧ j < m + es.length then es.getD (j - m) 0 % 2 ^ f.width else el f v j := by
  induction es generalizing m v with
  | nil => simp
  | cons x es ih =>
    rw [List.zipIdx_cons, List.foldl_cons, ih (m + 1) (by simp at h; omega)]
    simp only [List.length_cons] at h ⊢
    by_cases h1 : m + 1 ≤ j ∧ j < m + 1 + es.length
    · rw [if_pos h1, if_pos (by omega)]
      have : j - m = (j - (m + 1)) + 1 := by omega
      rw [this]; simp
    · rw [if_neg h1]
      by_cases h2 : j = m
      · subst h2
        rw [if_pos (by omega), el_put_self _ _ hj]; simp
      · rw [if_neg (by omega), el_put_ne _ _ hj h2]

theorem enum'_eq {α : Type} (l : List α) : enum' l = l.zipIdx.map fun p => (p.2, p.1) := by
  apply List.ext_getElem
  · simp [enum']
  · intro i h1 h2
    simp [enum']

/-- A register made of a list of elements. -/
theorem el_vecOf {f : Fmt} (es : List Nat) (h : es.length ≤ f.elems) {j : Nat} (hj : j < es.length) :
    el f (vecOf f es) j = es.getD j 0 % 2 ^ f.width := by
  unfold vecOf
  rw [enum'_eq, List.foldl_map]
  have := el_foldl_enum (f := f) es 0 (by omega) (0 : Vec) (j := j) (by omega)
  simpa [hj] using this

end Sys2Proof.Machine
end

