-- ==== Sys2Proof/Laws/State.lean ====
section
/-! SUPPORT. What the small updates of the state leave alone: one lemma per field per update, so that no later proof unfolds
a record update; and what reading a register gives after a write of one. -/
namespace Sys2Proof.Machine

/-! ## rset -/

@[simp] theorem rset_clk (f : Fld) (i v : Nat) (s : State) : (rset f i v s).clk = s.clk := rfl
@[simp] theorem rset_rings (f : Fld) (i v : Nat) (s : State) : (rset f i v s).rings = s.rings := rfl
@[simp] theorem rset_hall (f : Fld) (i v : Nat) (s : State) : (rset f i v s).hall = s.hall := rfl
@[simp] theorem rset_track (f : Fld) (i v : Nat) (s : State) : (rset f i v s).track = s.track := rfl
@[simp] theorem rset_pool (f : Fld) (i v : Nat) (s : State) : (rset f i v s).pool = s.pool := rfl
@[simp] theorem rset_coh (f : Fld) (i v : Nat) (s : State) : (rset f i v s).coh = s.coh := rfl
@[simp] theorem rset_seed (f : Fld) (i v : Nat) (s : State) : (rset f i v s).seed = s.seed := rfl
@[simp] theorem rset_col (f : Fld) (i v : Nat) (s : State) : (rset f i v s).col = s.col := rfl
@[simp] theorem rset_tbl (f : Fld) (i v : Nat) (s : State) : (rset f i v s).tbl = s.tbl := rfl
@[simp] theorem rset_ws (f : Fld) (i v : Nat) (s : State) : (rset f i v s).ws = s.ws := rfl
@[simp] theorem rset_link (f : Fld) (i v : Nat) (s : State) : (rset f i v s).link = s.link := rfl
@[simp] theorem rset_res (f : Fld) (i v : Nat) (s : State) : (rset f i v s).res = s.res := rfl
@[simp] theorem rset_sec (f : Fld) (i v : Nat) (s : State) : (rset f i v s).sec = s.sec := rfl
@[simp] theorem rset_boot (f : Fld) (i v : Nat) (s : State) : (rset f i v s).boot = s.boot := rfl
@[simp] theorem rset_host (f : Fld) (i v : Nat) (s : State) : (rset f i v s).host = s.host := rfl
@[simp] theorem rset_pkg (f : Fld) (i v : Nat) (s : State) : (rset f i v s).pkg = s.pkg := rfl
@[simp] theorem rset_out (f : Fld) (i v : Nat) (s : State) : (rset f i v s).out = s.out := rfl
@[simp] theorem rset_freeCtr (f : Fld) (i v : Nat) (s : State) : (rset f i v s).freeCtr = s.freeCtr := rfl
@[simp] theorem rset_nextId (f : Fld) (i v : Nat) (s : State) : (rset f i v s).nextId = s.nextId := rfl
@[simp] theorem rset_pending (f : Fld) (i v : Nat) (s : State) : (rset f i v s).pending = s.pending := rfl

/-! ## radd -/

@[simp] theorem radd_clk (f : Fld) (i n : Nat) (s : State) : (radd f i n s).clk = s.clk := rfl
@[simp] theorem radd_rings (f : Fld) (i n : Nat) (s : State) : (radd f i n s).rings = s.rings := rfl
@[simp] theorem radd_hall (f : Fld) (i n : Nat) (s : State) : (radd f i n s).hall = s.hall := rfl
@[simp] theorem radd_track (f : Fld) (i n : Nat) (s : State) : (radd f i n s).track = s.track := rfl
@[simp] theorem radd_pool (f : Fld) (i n : Nat) (s : State) : (radd f i n s).pool = s.pool := rfl
@[simp] theorem radd_coh (f : Fld) (i n : Nat) (s : State) : (radd f i n s).coh = s.coh := rfl
@[simp] theorem radd_seed (f : Fld) (i n : Nat) (s : State) : (radd f i n s).seed = s.seed := rfl
@[simp] theorem radd_col (f : Fld) (i n : Nat) (s : State) : (radd f i n s).col = s.col := rfl
@[simp] theorem radd_tbl (f : Fld) (i n : Nat) (s : State) : (radd f i n s).tbl = s.tbl := rfl
@[simp] theorem radd_ws (f : Fld) (i n : Nat) (s : State) : (radd f i n s).ws = s.ws := rfl
@[simp] theorem radd_link (f : Fld) (i n : Nat) (s : State) : (radd f i n s).link = s.link := rfl
@[simp] theorem radd_res (f : Fld) (i n : Nat) (s : State) : (radd f i n s).res = s.res := rfl
@[simp] theorem radd_sec (f : Fld) (i n : Nat) (s : State) : (radd f i n s).sec = s.sec := rfl
@[simp] theorem radd_boot (f : Fld) (i n : Nat) (s : State) : (radd f i n s).boot = s.boot := rfl
@[simp] theorem radd_host (f : Fld) (i n : Nat) (s : State) : (radd f i n s).host = s.host := rfl
@[simp] theorem radd_pkg (f : Fld) (i n : Nat) (s : State) : (radd f i n s).pkg = s.pkg := rfl
@[simp] theorem radd_out (f : Fld) (i n : Nat) (s : State) : (radd f i n s).out = s.out := rfl
@[simp] theorem radd_freeCtr (f : Fld) (i n : Nat) (s : State) : (radd f i n s).freeCtr = s.freeCtr := rfl
@[simp] theorem radd_nextId (f : Fld) (i n : Nat) (s : State) : (radd f i n s).nextId = s.nextId := rfl
@[simp] theorem radd_pending (f : Fld) (i n : Nat) (s : State) : (radd f i n s).pending = s.pending := rfl

/-! ## rbump -/

@[simp] theorem rbump_clk (f : Fld) (i : Nat) (s : State) : (rbump f i s).clk = s.clk := rfl
@[simp] theorem rbump_rings (f : Fld) (i : Nat) (s : State) : (rbump f i s).rings = s.rings := rfl
@[simp] theorem rbump_hall (f : Fld) (i : Nat) (s : State) : (rbump f i s).hall = s.hall := rfl
@[simp] theorem rbump_track (f : Fld) (i : Nat) (s : State) : (rbump f i s).track = s.track := rfl
@[simp] theorem rbump_pool (f : Fld) (i : Nat) (s : State) : (rbump f i s).pool = s.pool := rfl
@[simp] theorem rbump_coh (f : Fld) (i : Nat) (s : State) : (rbump f i s).coh = s.coh := rfl
@[simp] theorem rbump_seed (f : Fld) (i : Nat) (s : State) : (rbump f i s).seed = s.seed := rfl
@[simp] theorem rbump_col (f : Fld) (i : Nat) (s : State) : (rbump f i s).col = s.col := rfl
@[simp] theorem rbump_tbl (f : Fld) (i : Nat) (s : State) : (rbump f i s).tbl = s.tbl := rfl
@[simp] theorem rbump_ws (f : Fld) (i : Nat) (s : State) : (rbump f i s).ws = s.ws := rfl
@[simp] theorem rbump_link (f : Fld) (i : Nat) (s : State) : (rbump f i s).link = s.link := rfl
@[simp] theorem rbump_res (f : Fld) (i : Nat) (s : State) : (rbump f i s).res = s.res := rfl
@[simp] theorem rbump_sec (f : Fld) (i : Nat) (s : State) : (rbump f i s).sec = s.sec := rfl
@[simp] theorem rbump_boot (f : Fld) (i : Nat) (s : State) : (rbump f i s).boot = s.boot := rfl
@[simp] theorem rbump_host (f : Fld) (i : Nat) (s : State) : (rbump f i s).host = s.host := rfl
@[simp] theorem rbump_pkg (f : Fld) (i : Nat) (s : State) : (rbump f i s).pkg = s.pkg := rfl
@[simp] theorem rbump_out (f : Fld) (i : Nat) (s : State) : (rbump f i s).out = s.out := rfl
@[simp] theorem rbump_freeCtr (f : Fld) (i : Nat) (s : State) : (rbump f i s).freeCtr = s.freeCtr := rfl
@[simp] theorem rbump_nextId (f : Fld) (i : Nat) (s : State) : (rbump f i s).nextId = s.nextId := rfl
@[simp] theorem rbump_pending (f : Fld) (i : Nat) (s : State) : (rbump f i s).pending = s.pending := rfl

/-! ## rsat -/

@[simp] theorem rsat_clk (f : Fld) (i n : Nat) (s : State) : (rsat f i n s).clk = s.clk := rfl
@[simp] theorem rsat_rings (f : Fld) (i n : Nat) (s : State) : (rsat f i n s).rings = s.rings := rfl
@[simp] theorem rsat_hall (f : Fld) (i n : Nat) (s : State) : (rsat f i n s).hall = s.hall := rfl
@[simp] theorem rsat_track (f : Fld) (i n : Nat) (s : State) : (rsat f i n s).track = s.track := rfl
@[simp] theorem rsat_pool (f : Fld) (i n : Nat) (s : State) : (rsat f i n s).pool = s.pool := rfl
@[simp] theorem rsat_coh (f : Fld) (i n : Nat) (s : State) : (rsat f i n s).coh = s.coh := rfl
@[simp] theorem rsat_seed (f : Fld) (i n : Nat) (s : State) : (rsat f i n s).seed = s.seed := rfl
@[simp] theorem rsat_col (f : Fld) (i n : Nat) (s : State) : (rsat f i n s).col = s.col := rfl
@[simp] theorem rsat_tbl (f : Fld) (i n : Nat) (s : State) : (rsat f i n s).tbl = s.tbl := rfl
@[simp] theorem rsat_ws (f : Fld) (i n : Nat) (s : State) : (rsat f i n s).ws = s.ws := rfl
@[simp] theorem rsat_link (f : Fld) (i n : Nat) (s : State) : (rsat f i n s).link = s.link := rfl
@[simp] theorem rsat_res (f : Fld) (i n : Nat) (s : State) : (rsat f i n s).res = s.res := rfl
@[simp] theorem rsat_sec (f : Fld) (i n : Nat) (s : State) : (rsat f i n s).sec = s.sec := rfl
@[simp] theorem rsat_boot (f : Fld) (i n : Nat) (s : State) : (rsat f i n s).boot = s.boot := rfl
@[simp] theorem rsat_host (f : Fld) (i n : Nat) (s : State) : (rsat f i n s).host = s.host := rfl
@[simp] theorem rsat_pkg (f : Fld) (i n : Nat) (s : State) : (rsat f i n s).pkg = s.pkg := rfl
@[simp] theorem rsat_out (f : Fld) (i n : Nat) (s : State) : (rsat f i n s).out = s.out := rfl
@[simp] theorem rsat_freeCtr (f : Fld) (i n : Nat) (s : State) : (rsat f i n s).freeCtr = s.freeCtr := rfl
@[simp] theorem rsat_nextId (f : Fld) (i n : Nat) (s : State) : (rsat f i n s).nextId = s.nextId := rfl
@[simp] theorem rsat_pending (f : Fld) (i n : Nat) (s : State) : (rsat f i n s).pending = s.pending := rfl

/-! ## atTime -/

@[simp] theorem atTime_rf (n : Nat) (s : State) : (atTime n s).rf = s.rf := by unfold atTime; split <;> rfl
@[simp] theorem atTime_rings (n : Nat) (s : State) : (atTime n s).rings = s.rings := by unfold atTime; split <;> rfl
@[simp] theorem atTime_hall (n : Nat) (s : State) : (atTime n s).hall = s.hall := by unfold atTime; split <;> rfl
@[simp] theorem atTime_track (n : Nat) (s : State) : (atTime n s).track = s.track := by unfold atTime; split <;> rfl
@[simp] theorem atTime_pool (n : Nat) (s : State) : (atTime n s).pool = s.pool := by unfold atTime; split <;> rfl
@[simp] theorem atTime_coh (n : Nat) (s : State) : (atTime n s).coh = s.coh := by unfold atTime; split <;> rfl
@[simp] theorem atTime_seed (n : Nat) (s : State) : (atTime n s).seed = s.seed := by unfold atTime; split <;> rfl
@[simp] theorem atTime_col (n : Nat) (s : State) : (atTime n s).col = s.col := by unfold atTime; split <;> rfl
@[simp] theorem atTime_tbl (n : Nat) (s : State) : (atTime n s).tbl = s.tbl := by unfold atTime; split <;> rfl
@[simp] theorem atTime_ws (n : Nat) (s : State) : (atTime n s).ws = s.ws := by unfold atTime; split <;> rfl
@[simp] theorem atTime_link (n : Nat) (s : State) : (atTime n s).link = s.link := by unfold atTime; split <;> rfl
@[simp] theorem atTime_res (n : Nat) (s : State) : (atTime n s).res = s.res := by unfold atTime; split <;> rfl
@[simp] theorem atTime_sec (n : Nat) (s : State) : (atTime n s).sec = s.sec := by unfold atTime; split <;> rfl
@[simp] theorem atTime_boot (n : Nat) (s : State) : (atTime n s).boot = s.boot := by unfold atTime; split <;> rfl
@[simp] theorem atTime_host (n : Nat) (s : State) : (atTime n s).host = s.host := by unfold atTime; split <;> rfl
@[simp] theorem atTime_pkg (n : Nat) (s : State) : (atTime n s).pkg = s.pkg := by unfold atTime; split <;> rfl
@[simp] theorem atTime_out (n : Nat) (s : State) : (atTime n s).out = s.out := by unfold atTime; split <;> rfl
@[simp] theorem atTime_freeCtr (n : Nat) (s : State) : (atTime n s).freeCtr = s.freeCtr := by unfold atTime; split <;> rfl
@[simp] theorem atTime_nextId (n : Nat) (s : State) : (atTime n s).nextId = s.nextId := by unfold atTime; split <;> rfl
@[simp] theorem atTime_pending (n : Nat) (s : State) : (atTime n s).pending = s.pending := by unfold atTime; split <;> rfl
@[simp] theorem rget_atTime (n : Nat) (s : State) (fl : Fld) (j : Nat) : rget (atTime n s) fl j = rget s fl j := congrArg (fun r : RegFile => tgetD r.live (fl.key j) fl.reset) (atTime_rf ..)

/-! ## emit -/

@[simp] theorem emit_clk (o : Output) (s : State) : (emit o s).clk = s.clk := rfl
@[simp] theorem emit_rf (o : Output) (s : State) : (emit o s).rf = s.rf := rfl
@[simp] theorem emit_rings (o : Output) (s : State) : (emit o s).rings = s.rings := rfl
@[simp] theorem emit_hall (o : Output) (s : State) : (emit o s).hall = s.hall := rfl
@[simp] theorem emit_track (o : Output) (s : State) : (emit o s).track = s.track := rfl
@[simp] theorem emit_pool (o : Output) (s : State) : (emit o s).pool = s.pool := rfl
@[simp] theorem emit_coh (o : Output) (s : State) : (emit o s).coh = s.coh := rfl
@[simp] theorem emit_seed (o : Output) (s : State) : (emit o s).seed = s.seed := rfl
@[simp] theorem emit_col (o : Output) (s : State) : (emit o s).col = s.col := rfl
@[simp] theorem emit_tbl (o : Output) (s : State) : (emit o s).tbl = s.tbl := rfl
@[simp] theorem emit_ws (o : Output) (s : State) : (emit o s).ws = s.ws := rfl
@[simp] theorem emit_link (o : Output) (s : State) : (emit o s).link = s.link := rfl
@[simp] theorem emit_res (o : Output) (s : State) : (emit o s).res = s.res := rfl
@[simp] theorem emit_sec (o : Output) (s : State) : (emit o s).sec = s.sec := rfl
@[simp] theorem emit_boot (o : Output) (s : State) : (emit o s).boot = s.boot := rfl
@[simp] theorem emit_host (o : Output) (s : State) : (emit o s).host = s.host := rfl
@[simp] theorem emit_pkg (o : Output) (s : State) : (emit o s).pkg = s.pkg := rfl
@[simp] theorem emit_freeCtr (o : Output) (s : State) : (emit o s).freeCtr = s.freeCtr := rfl
@[simp] theorem emit_nextId (o : Output) (s : State) : (emit o s).nextId = s.nextId := rfl
@[simp] theorem emit_pending (o : Output) (s : State) : (emit o s).pending = s.pending := rfl
@[simp] theorem rget_emit (o : Output) (s : State) (fl : Fld) (j : Nat) : rget (emit o s) fl j = rget s fl j := congrArg (fun r : RegFile => tgetD r.live (fl.key j) fl.reset) (emit_rf ..)

/-! ## fresh -/

@[simp] theorem fresh_clk (s : State) : ((fresh s).2).clk = s.clk := rfl
@[simp] theorem fresh_rf (s : State) : ((fresh s).2).rf = s.rf := rfl
@[simp] theorem fresh_rings (s : State) : ((fresh s).2).rings = s.rings := rfl
@[simp] theorem fresh_hall (s : State) : ((fresh s).2).hall = s.hall := rfl
@[simp] theorem fresh_track (s : State) : ((fresh s).2).track = s.track := rfl
@[simp] theorem fresh_pool (s : State) : ((fresh s).2).pool = s.pool := rfl
@[simp] theorem fresh_coh (s : State) : ((fresh s).2).coh = s.coh := rfl
@[simp] theorem fresh_seed (s : State) : ((fresh s).2).seed = s.seed := rfl
@[simp] theorem fresh_col (s : State) : ((fresh s).2).col = s.col := rfl
@[simp] theorem fresh_tbl (s : State) : ((fresh s).2).tbl = s.tbl := rfl
@[simp] theorem fresh_ws (s : State) : ((fresh s).2).ws = s.ws := rfl
@[simp] theorem fresh_link (s : State) : ((fresh s).2).link = s.link := rfl
@[simp] theorem fresh_res (s : State) : ((fresh s).2).res = s.res := rfl
@[simp] theorem fresh_sec (s : State) : ((fresh s).2).sec = s.sec := rfl
@[simp] theorem fresh_boot (s : State) : ((fresh s).2).boot = s.boot := rfl
@[simp] theorem fresh_host (s : State) : ((fresh s).2).host = s.host := rfl
@[simp] theorem fresh_pkg (s : State) : ((fresh s).2).pkg = s.pkg := rfl
@[simp] theorem fresh_out (s : State) : ((fresh s).2).out = s.out := rfl
@[simp] theorem fresh_nextId (s : State) : ((fresh s).2).nextId = s.nextId := rfl
@[simp] theorem fresh_pending (s : State) : ((fresh s).2).pending = s.pending := rfl
@[simp] theorem rget_fresh (s : State) (fl : Fld) (j : Nat) : rget ((fresh s).2) fl j = rget s fl j := congrArg (fun r : RegFile => tgetD r.live (fl.key j) fl.reset) (fresh_rf ..)

/-! ## freshRandom -/

@[simp] theorem freshRandom_clk (s : State) : ((freshRandom s).2).clk = s.clk := rfl
@[simp] theorem freshRandom_rf (s : State) : ((freshRandom s).2).rf = s.rf := rfl
@[simp] theorem freshRandom_rings (s : State) : ((freshRandom s).2).rings = s.rings := rfl
@[simp] theorem freshRandom_hall (s : State) : ((freshRandom s).2).hall = s.hall := rfl
@[simp] theorem freshRandom_track (s : State) : ((freshRandom s).2).track = s.track := rfl
@[simp] theorem freshRandom_pool (s : State) : ((freshRandom s).2).pool = s.pool := rfl
@[simp] theorem freshRandom_coh (s : State) : ((freshRandom s).2).coh = s.coh := rfl
@[simp] theorem freshRandom_seed (s : State) : ((freshRandom s).2).seed = s.seed := rfl
@[simp] theorem freshRandom_col (s : State) : ((freshRandom s).2).col = s.col := rfl
@[simp] theorem freshRandom_tbl (s : State) : ((freshRandom s).2).tbl = s.tbl := rfl
@[simp] theorem freshRandom_ws (s : State) : ((freshRandom s).2).ws = s.ws := rfl
@[simp] theorem freshRandom_link (s : State) : ((freshRandom s).2).link = s.link := rfl
@[simp] theorem freshRandom_res (s : State) : ((freshRandom s).2).res = s.res := rfl
@[simp] theorem freshRandom_sec (s : State) : ((freshRandom s).2).sec = s.sec := rfl
@[simp] theorem freshRandom_boot (s : State) : ((freshRandom s).2).boot = s.boot := rfl
@[simp] theorem freshRandom_host (s : State) : ((freshRandom s).2).host = s.host := rfl
@[simp] theorem freshRandom_pkg (s : State) : ((freshRandom s).2).pkg = s.pkg := rfl
@[simp] theorem freshRandom_out (s : State) : ((freshRandom s).2).out = s.out := rfl
@[simp] theorem freshRandom_nextId (s : State) : ((freshRandom s).2).nextId = s.nextId := rfl
@[simp] theorem freshRandom_pending (s : State) : ((freshRandom s).2).pending = s.pending := rfl
@[simp] theorem rget_freshRandom (s : State) (fl : Fld) (j : Nat) : rget ((freshRandom s).2) fl j = rget s fl j := congrArg (fun r : RegFile => tgetD r.live (fl.key j) fl.reset) (freshRandom_rf ..)

/-! ## takeId -/

@[simp] theorem takeId_clk (s : State) : ((takeId s).2).clk = s.clk := rfl
@[simp] theorem takeId_rf (s : State) : ((takeId s).2).rf = s.rf := rfl
@[simp] theorem takeId_rings (s : State) : ((takeId s).2).rings = s.rings := rfl
@[simp] theorem takeId_hall (s : State) : ((takeId s).2).hall = s.hall := rfl
@[simp] theorem takeId_track (s : State) : ((takeId s).2).track = s.track := rfl
@[simp] theorem takeId_pool (s : State) : ((takeId s).2).pool = s.pool := rfl
@[simp] theorem takeId_coh (s : State) : ((takeId s).2).coh = s.coh := rfl
@[simp] theorem takeId_seed (s : State) : ((takeId s).2).seed = s.seed := rfl
@[simp] theorem takeId_col (s : State) : ((takeId s).2).col = s.col := rfl
@[simp] theorem takeId_tbl (s : State) : ((takeId s).2).tbl = s.tbl := rfl
@[simp] theorem takeId_ws (s : State) : ((takeId s).2).ws = s.ws := rfl
@[simp] theorem takeId_link (s : State) : ((takeId s).2).link = s.link := rfl
@[simp] theorem takeId_res (s : State) : ((takeId s).2).res = s.res := rfl
@[simp] theorem takeId_sec (s : State) : ((takeId s).2).sec = s.sec := rfl
@[simp] theorem takeId_boot (s : State) : ((takeId s).2).boot = s.boot := rfl
@[simp] theorem takeId_host (s : State) : ((takeId s).2).host = s.host := rfl
@[simp] theorem takeId_pkg (s : State) : ((takeId s).2).pkg = s.pkg := rfl
@[simp] theorem takeId_out (s : State) : ((takeId s).2).out = s.out := rfl
@[simp] theorem takeId_freeCtr (s : State) : ((takeId s).2).freeCtr = s.freeCtr := rfl
@[simp] theorem takeId_pending (s : State) : ((takeId s).2).pending = s.pending := rfl
@[simp] theorem rget_takeId (s : State) (fl : Fld) (j : Nat) : rget ((takeId s).2) fl j = rget s fl j := congrArg (fun r : RegFile => tgetD r.live (fl.key j) fl.reset) (takeId_rf ..)

/-! ## setHost -/

@[simp] theorem setHost_clk (h : Nat) (p : HostPort) (s : State) : (setHost h p s).clk = s.clk := by unfold setHost; split <;> rfl
@[simp] theorem setHost_rf (h : Nat) (p : HostPort) (s : State) : (setHost h p s).rf = s.rf := by unfold setHost; split <;> rfl
@[simp] theorem setHost_rings (h : Nat) (p : HostPort) (s : State) : (setHost h p s).rings = s.rings := by unfold setHost; split <;> rfl
@[simp] theorem setHost_hall (h : Nat) (p : HostPort) (s : State) : (setHost h p s).hall = s.hall := by unfold setHost; split <;> rfl
@[simp] theorem setHost_track (h : Nat) (p : HostPort) (s : State) : (setHost h p s).track = s.track := by unfold setHost; split <;> rfl
@[simp] theorem setHost_pool (h : Nat) (p : HostPort) (s : State) : (setHost h p s).pool = s.pool := by unfold setHost; split <;> rfl
@[simp] theorem setHost_coh (h : Nat) (p : HostPort) (s : State) : (setHost h p s).coh = s.coh := by unfold setHost; split <;> rfl
@[simp] theorem setHost_seed (h : Nat) (p : HostPort) (s : State) : (setHost h p s).seed = s.seed := by unfold setHost; split <;> rfl
@[simp] theorem setHost_col (h : Nat) (p : HostPort) (s : State) : (setHost h p s).col = s.col := by unfold setHost; split <;> rfl
@[simp] theorem setHost_tbl (h : Nat) (p : HostPort) (s : State) : (setHost h p s).tbl = s.tbl := by unfold setHost; split <;> rfl
@[simp] theorem setHost_ws (h : Nat) (p : HostPort) (s : State) : (setHost h p s).ws = s.ws := by unfold setHost; split <;> rfl
@[simp] theorem setHost_link (h : Nat) (p : HostPort) (s : State) : (setHost h p s).link = s.link := by unfold setHost; split <;> rfl
@[simp] theorem setHost_res (h : Nat) (p : HostPort) (s : State) : (setHost h p s).res = s.res := by unfold setHost; split <;> rfl
@[simp] theorem setHost_sec (h : Nat) (p : HostPort) (s : State) : (setHost h p s).sec = s.sec := by unfold setHost; split <;> rfl
@[simp] theorem setHost_boot (h : Nat) (p : HostPort) (s : State) : (setHost h p s).boot = s.boot := by unfold setHost; split <;> rfl
@[simp] theorem setHost_pkg (h : Nat) (p : HostPort) (s : State) : (setHost h p s).pkg = s.pkg := by unfold setHost; split <;> rfl
@[simp] theorem setHost_out (h : Nat) (p : HostPort) (s : State) : (setHost h p s).out = s.out := by unfold setHost; split <;> rfl
@[simp] theorem setHost_freeCtr (h : Nat) (p : HostPort) (s : State) : (setHost h p s).freeCtr = s.freeCtr := by unfold setHost; split <;> rfl
@[simp] theorem setHost_nextId (h : Nat) (p : HostPort) (s : State) : (setHost h p s).nextId = s.nextId := by unfold setHost; split <;> rfl
@[simp] theorem setHost_pending (h : Nat) (p : HostPort) (s : State) : (setHost h p s).pending = s.pending := by unfold setHost; split <;> rfl
@[simp] theorem rget_setHost (h : Nat) (p : HostPort) (s : State) (fl : Fld) (j : Nat) : rget (setHost h p s) fl j = rget s fl j := congrArg (fun r : RegFile => tgetD r.live (fl.key j) fl.reset) (setHost_rf ..)

/-! ## raiseOn -/

@[simp] theorem raiseOn_clk (h v : Nat) (s : State) : (raiseOn h v s).clk = s.clk := by unfold raiseOn; dsimp only; split; exacts [setHost_clk _ _ _, emit_clk _ _]
@[simp] theorem raiseOn_rf (h v : Nat) (s : State) : (raiseOn h v s).rf = s.rf := by unfold raiseOn; dsimp only; split; exacts [setHost_rf _ _ _, emit_rf _ _]
@[simp] theorem raiseOn_rings (h v : Nat) (s : State) : (raiseOn h v s).rings = s.rings := by unfold raiseOn; dsimp only; split; exacts [setHost_rings _ _ _, emit_rings _ _]
@[simp] theorem raiseOn_hall (h v : Nat) (s : State) : (raiseOn h v s).hall = s.hall := by unfold raiseOn; dsimp only; split; exacts [setHost_hall _ _ _, emit_hall _ _]
@[simp] theorem raiseOn_track (h v : Nat) (s : State) : (raiseOn h v s).track = s.track := by unfold raiseOn; dsimp only; split; exacts [setHost_track _ _ _, emit_track _ _]
@[simp] theorem raiseOn_pool (h v : Nat) (s : State) : (raiseOn h v s).pool = s.pool := by unfold raiseOn; dsimp only; split; exacts [setHost_pool _ _ _, emit_pool _ _]
@[simp] theorem raiseOn_coh (h v : Nat) (s : State) : (raiseOn h v s).coh = s.coh := by unfold raiseOn; dsimp only; split; exacts [setHost_coh _ _ _, emit_coh _ _]
@[simp] theorem raiseOn_seed (h v : Nat) (s : State) : (raiseOn h v s).seed = s.seed := by unfold raiseOn; dsimp only; split; exacts [setHost_seed _ _ _, emit_seed _ _]
@[simp] theorem raiseOn_col (h v : Nat) (s : State) : (raiseOn h v s).col = s.col := by unfold raiseOn; dsimp only; split; exacts [setHost_col _ _ _, emit_col _ _]
@[simp] theorem raiseOn_tbl (h v : Nat) (s : State) : (raiseOn h v s).tbl = s.tbl := by unfold raiseOn; dsimp only; split; exacts [setHost_tbl _ _ _, emit_tbl _ _]
@[simp] theorem raiseOn_ws (h v : Nat) (s : State) : (raiseOn h v s).ws = s.ws := by unfold raiseOn; dsimp only; split; exacts [setHost_ws _ _ _, emit_ws _ _]
@[simp] theorem raiseOn_link (h v : Nat) (s : State) : (raiseOn h v s).link = s.link := by unfold raiseOn; dsimp only; split; exacts [setHost_link _ _ _, emit_link _ _]
@[simp] theorem raiseOn_res (h v : Nat) (s : State) : (raiseOn h v s).res = s.res := by unfold raiseOn; dsimp only; split; exacts [setHost_res _ _ _, emit_res _ _]
@[simp] theorem raiseOn_sec (h v : Nat) (s : State) : (raiseOn h v s).sec = s.sec := by unfold raiseOn; dsimp only; split; exacts [setHost_sec _ _ _, emit_sec _ _]
@[simp] theorem raiseOn_boot (h v : Nat) (s : State) : (raiseOn h v s).boot = s.boot := by unfold raiseOn; dsimp only; split; exacts [setHost_boot _ _ _, emit_boot _ _]
@[simp] theorem raiseOn_pkg (h v : Nat) (s : State) : (raiseOn h v s).pkg = s.pkg := by unfold raiseOn; dsimp only; split; exacts [setHost_pkg _ _ _, emit_pkg _ _]
@[simp] theorem raiseOn_freeCtr (h v : Nat) (s : State) : (raiseOn h v s).freeCtr = s.freeCtr := by unfold raiseOn; dsimp only; split; exacts [setHost_freeCtr _ _ _, emit_freeCtr _ _]
@[simp] theorem raiseOn_nextId (h v : Nat) (s : State) : (raiseOn h v s).nextId = s.nextId := by unfold raiseOn; dsimp only; split; exacts [setHost_nextId _ _ _, emit_nextId _ _]
@[simp] theorem raiseOn_pending (h v : Nat) (s : State) : (raiseOn h v s).pending = s.pending := by unfold raiseOn; dsimp only; split; exacts [setHost_pending _ _ _, emit_pending _ _]
@[simp] theorem rget_raiseOn (h v : Nat) (s : State) (fl : Fld) (j : Nat) : rget (raiseOn h v s) fl j = rget s fl j := congrArg (fun r : RegFile => tgetD r.live (fl.key j) fl.reset) (raiseOn_rf ..)

/-! ## raiseIrq -/

@[simp] theorem raiseIrq_clk (v : Nat) (s : State) : (raiseIrq v s).clk = s.clk := (raiseOn_clk _ _ _).trans (raiseOn_clk _ _ _)
@[simp] theorem raiseIrq_rf (v : Nat) (s : State) : (raiseIrq v s).rf = s.rf := (raiseOn_rf _ _ _).trans (raiseOn_rf _ _ _)
@[simp] theorem raiseIrq_rings (v : Nat) (s : State) : (raiseIrq v s).rings = s.rings := (raiseOn_rings _ _ _).trans (raiseOn_rings _ _ _)
@[simp] theorem raiseIrq_hall (v : Nat) (s : State) : (raiseIrq v s).hall = s.hall := (raiseOn_hall _ _ _).trans (raiseOn_hall _ _ _)
@[simp] theorem raiseIrq_track (v : Nat) (s : State) : (raiseIrq v s).track = s.track := (raiseOn_track _ _ _).trans (raiseOn_track _ _ _)
@[simp] theorem raiseIrq_pool (v : Nat) (s : State) : (raiseIrq v s).pool = s.pool := (raiseOn_pool _ _ _).trans (raiseOn_pool _ _ _)
@[simp] theorem raiseIrq_coh (v : Nat) (s : State) : (raiseIrq v s).coh = s.coh := (raiseOn_coh _ _ _).trans (raiseOn_coh _ _ _)
@[simp] theorem raiseIrq_seed (v : Nat) (s : State) : (raiseIrq v s).seed = s.seed := (raiseOn_seed _ _ _).trans (raiseOn_seed _ _ _)
@[simp] theorem raiseIrq_col (v : Nat) (s : State) : (raiseIrq v s).col = s.col := (raiseOn_col _ _ _).trans (raiseOn_col _ _ _)
@[simp] theorem raiseIrq_tbl (v : Nat) (s : State) : (raiseIrq v s).tbl = s.tbl := (raiseOn_tbl _ _ _).trans (raiseOn_tbl _ _ _)
@[simp] theorem raiseIrq_ws (v : Nat) (s : State) : (raiseIrq v s).ws = s.ws := (raiseOn_ws _ _ _).trans (raiseOn_ws _ _ _)
@[simp] theorem raiseIrq_link (v : Nat) (s : State) : (raiseIrq v s).link = s.link := (raiseOn_link _ _ _).trans (raiseOn_link _ _ _)
@[simp] theorem raiseIrq_res (v : Nat) (s : State) : (raiseIrq v s).res = s.res := (raiseOn_res _ _ _).trans (raiseOn_res _ _ _)
@[simp] theorem raiseIrq_sec (v : Nat) (s : State) : (raiseIrq v s).sec = s.sec := (raiseOn_sec _ _ _).trans (raiseOn_sec _ _ _)
@[simp] theorem raiseIrq_boot (v : Nat) (s : State) : (raiseIrq v s).boot = s.boot := (raiseOn_boot _ _ _).trans (raiseOn_boot _ _ _)
@[simp] theorem raiseIrq_pkg (v : Nat) (s : State) : (raiseIrq v s).pkg = s.pkg := (raiseOn_pkg _ _ _).trans (raiseOn_pkg _ _ _)
@[simp] theorem raiseIrq_freeCtr (v : Nat) (s : State) : (raiseIrq v s).freeCtr = s.freeCtr := (raiseOn_freeCtr _ _ _).trans (raiseOn_freeCtr _ _ _)
@[simp] theorem raiseIrq_nextId (v : Nat) (s : State) : (raiseIrq v s).nextId = s.nextId := (raiseOn_nextId _ _ _).trans (raiseOn_nextId _ _ _)
@[simp] theorem raiseIrq_pending (v : Nat) (s : State) : (raiseIrq v s).pending = s.pending := (raiseOn_pending _ _ _).trans (raiseOn_pending _ _ _)
@[simp] theorem rget_raiseIrq (v : Nat) (s : State) (fl : Fld) (j : Nat) : rget (raiseIrq v s) fl j = rget s fl j := congrArg (fun r : RegFile => tgetD r.live (fl.key j) fl.reset) (raiseIrq_rf ..)

/-! ## setPhase -/

@[simp] theorem setPhase_clk (p : Nat) (s : State) : (setPhase p s).clk = s.clk := by unfold setPhase; split; exacts [rfl, (raiseIrq_clk _ _).trans (rset_clk _ _ _ _)]
@[simp] theorem setPhase_rings (p : Nat) (s : State) : (setPhase p s).rings = s.rings := by unfold setPhase; split; exacts [rfl, (raiseIrq_rings _ _).trans (rset_rings _ _ _ _)]
@[simp] theorem setPhase_hall (p : Nat) (s : State) : (setPhase p s).hall = s.hall := by unfold setPhase; split; exacts [rfl, (raiseIrq_hall _ _).trans (rset_hall _ _ _ _)]
@[simp] theorem setPhase_track (p : Nat) (s : State) : (setPhase p s).track = s.track := by unfold setPhase; split; exacts [rfl, (raiseIrq_track _ _).trans (rset_track _ _ _ _)]
@[simp] theorem setPhase_pool (p : Nat) (s : State) : (setPhase p s).pool = s.pool := by unfold setPhase; split; exacts [rfl, (raiseIrq_pool _ _).trans (rset_pool _ _ _ _)]
@[simp] theorem setPhase_coh (p : Nat) (s : State) : (setPhase p s).coh = s.coh := by unfold setPhase; split; exacts [rfl, (raiseIrq_coh _ _).trans (rset_coh _ _ _ _)]
@[simp] theorem setPhase_seed (p : Nat) (s : State) : (setPhase p s).seed = s.seed := by unfold setPhase; split; exacts [rfl, (raiseIrq_seed _ _).trans (rset_seed _ _ _ _)]
@[simp] theorem setPhase_col (p : Nat) (s : State) : (setPhase p s).col = s.col := by unfold setPhase; split; exacts [rfl, (raiseIrq_col _ _).trans (rset_col _ _ _ _)]
@[simp] theorem setPhase_tbl (p : Nat) (s : State) : (setPhase p s).tbl = s.tbl := by unfold setPhase; split; exacts [rfl, (raiseIrq_tbl _ _).trans (rset_tbl _ _ _ _)]
@[simp] theorem setPhase_ws (p : Nat) (s : State) : (setPhase p s).ws = s.ws := by unfold setPhase; split; exacts [rfl, (raiseIrq_ws _ _).trans (rset_ws _ _ _ _)]
@[simp] theorem setPhase_link (p : Nat) (s : State) : (setPhase p s).link = s.link := by unfold setPhase; split; exacts [rfl, (raiseIrq_link _ _).trans (rset_link _ _ _ _)]
@[simp] theorem setPhase_res (p : Nat) (s : State) : (setPhase p s).res = s.res := by unfold setPhase; split; exacts [rfl, (raiseIrq_res _ _).trans (rset_res _ _ _ _)]
@[simp] theorem setPhase_sec (p : Nat) (s : State) : (setPhase p s).sec = s.sec := by unfold setPhase; split; exacts [rfl, (raiseIrq_sec _ _).trans (rset_sec _ _ _ _)]
@[simp] theorem setPhase_boot (p : Nat) (s : State) : (setPhase p s).boot = s.boot := by unfold setPhase; split; exacts [rfl, (raiseIrq_boot _ _).trans (rset_boot _ _ _ _)]
@[simp] theorem setPhase_pkg (p : Nat) (s : State) : (setPhase p s).pkg = s.pkg := by unfold setPhase; split; exacts [rfl, (raiseIrq_pkg _ _).trans (rset_pkg _ _ _ _)]
@[simp] theorem setPhase_freeCtr (p : Nat) (s : State) : (setPhase p s).freeCtr = s.freeCtr := by unfold setPhase; split; exacts [rfl, (raiseIrq_freeCtr _ _).trans (rset_freeCtr _ _ _ _)]
@[simp] theorem setPhase_nextId (p : Nat) (s : State) : (setPhase p s).nextId = s.nextId := by unfold setPhase; split; exacts [rfl, (raiseIrq_nextId _ _).trans (rset_nextId _ _ _ _)]
@[simp] theorem setPhase_pending (p : Nat) (s : State) : (setPhase p s).pending = s.pending := by unfold setPhase; split; exacts [rfl, (raiseIrq_pending _ _).trans (rset_pending _ _ _ _)]

/-! ## ringLose -/

@[simp] theorem ringLose_clk (r : RingRegs) (i : Nat) (s : State) : (ringLose r i s).clk = s.clk := by unfold ringLose; split; exacts [rbump_clk _ _ _, rfl]
@[simp] theorem ringLose_rings (r : RingRegs) (i : Nat) (s : State) : (ringLose r i s).rings = s.rings := by unfold ringLose; split; exacts [rbump_rings _ _ _, rfl]
@[simp] theorem ringLose_hall (r : RingRegs) (i : Nat) (s : State) : (ringLose r i s).hall = s.hall := by unfold ringLose; split; exacts [rbump_hall _ _ _, rfl]
@[simp] theorem ringLose_track (r : RingRegs) (i : Nat) (s : State) : (ringLose r i s).track = s.track := by unfold ringLose; split; exacts [rbump_track _ _ _, rfl]
@[simp] theorem ringLose_pool (r : RingRegs) (i : Nat) (s : State) : (ringLose r i s).pool = s.pool := by unfold ringLose; split; exacts [rbump_pool _ _ _, rfl]
@[simp] theorem ringLose_coh (r : RingRegs) (i : Nat) (s : State) : (ringLose r i s).coh = s.coh := by unfold ringLose; split; exacts [rbump_coh _ _ _, rfl]
@[simp] theorem ringLose_seed (r : RingRegs) (i : Nat) (s : State) : (ringLose r i s).seed = s.seed := by unfold ringLose; split; exacts [rbump_seed _ _ _, rfl]
@[simp] theorem ringLose_col (r : RingRegs) (i : Nat) (s : State) : (ringLose r i s).col = s.col := by unfold ringLose; split; exacts [rbump_col _ _ _, rfl]
@[simp] theorem ringLose_tbl (r : RingRegs) (i : Nat) (s : State) : (ringLose r i s).tbl = s.tbl := by unfold ringLose; split; exacts [rbump_tbl _ _ _, rfl]
@[simp] theorem ringLose_ws (r : RingRegs) (i : Nat) (s : State) : (ringLose r i s).ws = s.ws := by unfold ringLose; split; exacts [rbump_ws _ _ _, rfl]
@[simp] theorem ringLose_link (r : RingRegs) (i : Nat) (s : State) : (ringLose r i s).link = s.link := by unfold ringLose; split; exacts [rbump_link _ _ _, rfl]
@[simp] theorem ringLose_res (r : RingRegs) (i : Nat) (s : State) : (ringLose r i s).res = s.res := by unfold ringLose; split; exacts [rbump_res _ _ _, rfl]
@[simp] theorem ringLose_sec (r : RingRegs) (i : Nat) (s : State) : (ringLose r i s).sec = s.sec := by unfold ringLose; split; exacts [rbump_sec _ _ _, rfl]
@[simp] theorem ringLose_boot (r : RingRegs) (i : Nat) (s : State) : (ringLose r i s).boot = s.boot := by unfold ringLose; split; exacts [rbump_boot _ _ _, rfl]
@[simp] theorem ringLose_host (r : RingRegs) (i : Nat) (s : State) : (ringLose r i s).host = s.host := by unfold ringLose; split; exacts [rbump_host _ _ _, rfl]
@[simp] theorem ringLose_pkg (r : RingRegs) (i : Nat) (s : State) : (ringLose r i s).pkg = s.pkg := by unfold ringLose; split; exacts [rbump_pkg _ _ _, rfl]
@[simp] theorem ringLose_out (r : RingRegs) (i : Nat) (s : State) : (ringLose r i s).out = s.out := by unfold ringLose; split; exacts [rbump_out _ _ _, rfl]
@[simp] theorem ringLose_freeCtr (r : RingRegs) (i : Nat) (s : State) : (ringLose r i s).freeCtr = s.freeCtr := by unfold ringLose; split; exacts [rbump_freeCtr _ _ _, rfl]
@[simp] theorem ringLose_nextId (r : RingRegs) (i : Nat) (s : State) : (ringLose r i s).nextId = s.nextId := by unfold ringLose; split; exacts [rbump_nextId _ _ _, rfl]
@[simp] theorem ringLose_pending (r : RingRegs) (i : Nat) (s : State) : (ringLose r i s).pending = s.pending := by unfold ringLose; split; exacts [rbump_pending _ _ _, rfl]

/-! ## ringAlert -/

@[simp] theorem ringAlert_clk (r : RingRegs) (i : Nat) (s : State) : (ringAlert r i s).clk = s.clk := by unfold ringAlert; split; exacts [raiseIrq_clk _ _, rfl]
@[simp] theorem ringAlert_rf (r : RingRegs) (i : Nat) (s : State) : (ringAlert r i s).rf = s.rf := by unfold ringAlert; split; exacts [raiseIrq_rf _ _, rfl]
@[simp] theorem ringAlert_rings (r : RingRegs) (i : Nat) (s : State) : (ringAlert r i s).rings = s.rings := by unfold ringAlert; split; exacts [raiseIrq_rings _ _, rfl]
@[simp] theorem ringAlert_hall (r : RingRegs) (i : Nat) (s : State) : (ringAlert r i s).hall = s.hall := by unfold ringAlert; split; exacts [raiseIrq_hall _ _, rfl]
@[simp] theorem ringAlert_track (r : RingRegs) (i : Nat) (s : State) : (ringAlert r i s).track = s.track := by unfold ringAlert; split; exacts [raiseIrq_track _ _, rfl]
@[simp] theorem ringAlert_pool (r : RingRegs) (i : Nat) (s : State) : (ringAlert r i s).pool = s.pool := by unfold ringAlert; split; exacts [raiseIrq_pool _ _, rfl]
@[simp] theorem ringAlert_coh (r : RingRegs) (i : Nat) (s : State) : (ringAlert r i s).coh = s.coh := by unfold ringAlert; split; exacts [raiseIrq_coh _ _, rfl]
@[simp] theorem ringAlert_seed (r : RingRegs) (i : Nat) (s : State) : (ringAlert r i s).seed = s.seed := by unfold ringAlert; split; exacts [raiseIrq_seed _ _, rfl]
@[simp] theorem ringAlert_col (r : RingRegs) (i : Nat) (s : State) : (ringAlert r i s).col = s.col := by unfold ringAlert; split; exacts [raiseIrq_col _ _, rfl]
@[simp] theorem ringAlert_tbl (r : RingRegs) (i : Nat) (s : State) : (ringAlert r i s).tbl = s.tbl := by unfold ringAlert; split; exacts [raiseIrq_tbl _ _, rfl]
@[simp] theorem ringAlert_ws (r : RingRegs) (i : Nat) (s : State) : (ringAlert r i s).ws = s.ws := by unfold ringAlert; split; exacts [raiseIrq_ws _ _, rfl]
@[simp] theorem ringAlert_link (r : RingRegs) (i : Nat) (s : State) : (ringAlert r i s).link = s.link := by unfold ringAlert; split; exacts [raiseIrq_link _ _, rfl]
@[simp] theorem ringAlert_res (r : RingRegs) (i : Nat) (s : State) : (ringAlert r i s).res = s.res := by unfold ringAlert; split; exacts [raiseIrq_res _ _, rfl]
@[simp] theorem ringAlert_sec (r : RingRegs) (i : Nat) (s : State) : (ringAlert r i s).sec = s.sec := by unfold ringAlert; split; exacts [raiseIrq_sec _ _, rfl]
@[simp] theorem ringAlert_boot (r : RingRegs) (i : Nat) (s : State) : (ringAlert r i s).boot = s.boot := by unfold ringAlert; split; exacts [raiseIrq_boot _ _, rfl]
@[simp] theorem ringAlert_pkg (r : RingRegs) (i : Nat) (s : State) : (ringAlert r i s).pkg = s.pkg := by unfold ringAlert; split; exacts [raiseIrq_pkg _ _, rfl]
@[simp] theorem ringAlert_freeCtr (r : RingRegs) (i : Nat) (s : State) : (ringAlert r i s).freeCtr = s.freeCtr := by unfold ringAlert; split; exacts [raiseIrq_freeCtr _ _, rfl]
@[simp] theorem ringAlert_nextId (r : RingRegs) (i : Nat) (s : State) : (ringAlert r i s).nextId = s.nextId := by unfold ringAlert; split; exacts [raiseIrq_nextId _ _, rfl]
@[simp] theorem ringAlert_pending (r : RingRegs) (i : Nat) (s : State) : (ringAlert r i s).pending = s.pending := by unfold ringAlert; split; exacts [raiseIrq_pending _ _, rfl]
@[simp] theorem rget_ringAlert (r : RingRegs) (i : Nat) (s : State) (fl : Fld) (j : Nat) : rget (ringAlert r i s) fl j = rget s fl j := congrArg (fun r : RegFile => tgetD r.live (fl.key j) fl.reset) (ringAlert_rf ..)

/-! ## ringCount -/

@[simp] theorem ringCount_clk (r : RingRegs) (i : Nat) (s : State) : (ringCount r i s).clk = s.clk := (ringAlert_clk _ _ _).trans ((ringLose_clk _ _ _).trans (rbump_clk _ _ _))
@[simp] theorem ringCount_rings (r : RingRegs) (i : Nat) (s : State) : (ringCount r i s).rings = s.rings := (ringAlert_rings _ _ _).trans ((ringLose_rings _ _ _).trans (rbump_rings _ _ _))
@[simp] theorem ringCount_hall (r : RingRegs) (i : Nat) (s : State) : (ringCount r i s).hall = s.hall := (ringAlert_hall _ _ _).trans ((ringLose_hall _ _ _).trans (rbump_hall _ _ _))
@[simp] theorem ringCount_track (r : RingRegs) (i : Nat) (s : State) : (ringCount r i s).track = s.track := (ringAlert_track _ _ _).trans ((ringLose_track _ _ _).trans (rbump_track _ _ _))
@[simp] theorem ringCount_pool (r : RingRegs) (i : Nat) (s : State) : (ringCount r i s).pool = s.pool := (ringAlert_pool _ _ _).trans ((ringLose_pool _ _ _).trans (rbump_pool _ _ _))
@[simp] theorem ringCount_coh (r : RingRegs) (i : Nat) (s : State) : (ringCount r i s).coh = s.coh := (ringAlert_coh _ _ _).trans ((ringLose_coh _ _ _).trans (rbump_coh _ _ _))
@[simp] theorem ringCount_seed (r : RingRegs) (i : Nat) (s : State) : (ringCount r i s).seed = s.seed := (ringAlert_seed _ _ _).trans ((ringLose_seed _ _ _).trans (rbump_seed _ _ _))
@[simp] theorem ringCount_col (r : RingRegs) (i : Nat) (s : State) : (ringCount r i s).col = s.col := (ringAlert_col _ _ _).trans ((ringLose_col _ _ _).trans (rbump_col _ _ _))
@[simp] theorem ringCount_tbl (r : RingRegs) (i : Nat) (s : State) : (ringCount r i s).tbl = s.tbl := (ringAlert_tbl _ _ _).trans ((ringLose_tbl _ _ _).trans (rbump_tbl _ _ _))
@[simp] theorem ringCount_ws (r : RingRegs) (i : Nat) (s : State) : (ringCount r i s).ws = s.ws := (ringAlert_ws _ _ _).trans ((ringLose_ws _ _ _).trans (rbump_ws _ _ _))
@[simp] theorem ringCount_link (r : RingRegs) (i : Nat) (s : State) : (ringCount r i s).link = s.link := (ringAlert_link _ _ _).trans ((ringLose_link _ _ _).trans (rbump_link _ _ _))
@[simp] theorem ringCount_res (r : RingRegs) (i : Nat) (s : State) : (ringCount r i s).res = s.res := (ringAlert_res _ _ _).trans ((ringLose_res _ _ _).trans (rbump_res _ _ _))
@[simp] theorem ringCount_sec (r : RingRegs) (i : Nat) (s : State) : (ringCount r i s).sec = s.sec := (ringAlert_sec _ _ _).trans ((ringLose_sec _ _ _).trans (rbump_sec _ _ _))
@[simp] theorem ringCount_boot (r : RingRegs) (i : Nat) (s : State) : (ringCount r i s).boot = s.boot := (ringAlert_boot _ _ _).trans ((ringLose_boot _ _ _).trans (rbump_boot _ _ _))
@[simp] theorem ringCount_pkg (r : RingRegs) (i : Nat) (s : State) : (ringCount r i s).pkg = s.pkg := (ringAlert_pkg _ _ _).trans ((ringLose_pkg _ _ _).trans (rbump_pkg _ _ _))
@[simp] theorem ringCount_freeCtr (r : RingRegs) (i : Nat) (s : State) : (ringCount r i s).freeCtr = s.freeCtr := (ringAlert_freeCtr _ _ _).trans ((ringLose_freeCtr _ _ _).trans (rbump_freeCtr _ _ _))
@[simp] theorem ringCount_nextId (r : RingRegs) (i : Nat) (s : State) : (ringCount r i s).nextId = s.nextId := (ringAlert_nextId _ _ _).trans ((ringLose_nextId _ _ _).trans (rbump_nextId _ _ _))
@[simp] theorem ringCount_pending (r : RingRegs) (i : Nat) (s : State) : (ringCount r i s).pending = s.pending := (ringAlert_pending _ _ _).trans ((ringLose_pending _ _ _).trans (rbump_pending _ _ _))

/-! ## stageEntry -/

@[simp] theorem stageEntry_clk (b : List Byte) (s : State) : (stageEntry b s).clk = s.clk := (ringCount_clk _ _ _).trans rfl
@[simp] theorem stageEntry_hall (b : List Byte) (s : State) : (stageEntry b s).hall = s.hall := (ringCount_hall _ _ _).trans rfl
@[simp] theorem stageEntry_track (b : List Byte) (s : State) : (stageEntry b s).track = s.track := (ringCount_track _ _ _).trans rfl
@[simp] theorem stageEntry_pool (b : List Byte) (s : State) : (stageEntry b s).pool = s.pool := (ringCount_pool _ _ _).trans rfl
@[simp] theorem stageEntry_coh (b : List Byte) (s : State) : (stageEntry b s).coh = s.coh := (ringCount_coh _ _ _).trans rfl
@[simp] theorem stageEntry_seed (b : List Byte) (s : State) : (stageEntry b s).seed = s.seed := (ringCount_seed _ _ _).trans rfl
@[simp] theorem stageEntry_col (b : List Byte) (s : State) : (stageEntry b s).col = s.col := (ringCount_col _ _ _).trans rfl
@[simp] theorem stageEntry_tbl (b : List Byte) (s : State) : (stageEntry b s).tbl = s.tbl := (ringCount_tbl _ _ _).trans rfl
@[simp] theorem stageEntry_ws (b : List Byte) (s : State) : (stageEntry b s).ws = s.ws := (ringCount_ws _ _ _).trans rfl
@[simp] theorem stageEntry_link (b : List Byte) (s : State) : (stageEntry b s).link = s.link := (ringCount_link _ _ _).trans rfl
@[simp] theorem stageEntry_res (b : List Byte) (s : State) : (stageEntry b s).res = s.res := (ringCount_res _ _ _).trans rfl
@[simp] theorem stageEntry_sec (b : List Byte) (s : State) : (stageEntry b s).sec = s.sec := (ringCount_sec _ _ _).trans rfl
@[simp] theorem stageEntry_boot (b : List Byte) (s : State) : (stageEntry b s).boot = s.boot := (ringCount_boot _ _ _).trans rfl
@[simp] theorem stageEntry_pkg (b : List Byte) (s : State) : (stageEntry b s).pkg = s.pkg := (ringCount_pkg _ _ _).trans rfl
@[simp] theorem stageEntry_freeCtr (b : List Byte) (s : State) : (stageEntry b s).freeCtr = s.freeCtr := (ringCount_freeCtr _ _ _).trans rfl
@[simp] theorem stageEntry_nextId (b : List Byte) (s : State) : (stageEntry b s).nextId = s.nextId := (ringCount_nextId _ _ _).trans rfl
@[simp] theorem stageEntry_pending (b : List Byte) (s : State) : (stageEntry b s).pending = s.pending := (ringCount_pending _ _ _).trans rfl

/-! ## faultIn -/

@[simp] theorem faultIn_clk (p : Nat) (f : Frame) (st o n a : Nat) (s : State) : (faultIn p f st o n a s).clk = s.clk := by unfold faultIn; split; exacts [rfl, (ringCount_clk _ _ _).trans rfl]
@[simp] theorem faultIn_hall (p : Nat) (f : Frame) (st o n a : Nat) (s : State) : (faultIn p f st o n a s).hall = s.hall := by unfold faultIn; split; exacts [rfl, (ringCount_hall _ _ _).trans rfl]
@[simp] theorem faultIn_track (p : Nat) (f : Frame) (st o n a : Nat) (s : State) : (faultIn p f st o n a s).track = s.track := by unfold faultIn; split; exacts [rfl, (ringCount_track _ _ _).trans rfl]
@[simp] theorem faultIn_pool (p : Nat) (f : Frame) (st o n a : Nat) (s : State) : (faultIn p f st o n a s).pool = s.pool := by unfold faultIn; split; exacts [rfl, (ringCount_pool _ _ _).trans rfl]
@[simp] theorem faultIn_coh (p : Nat) (f : Frame) (st o n a : Nat) (s : State) : (faultIn p f st o n a s).coh = s.coh := by unfold faultIn; split; exacts [rfl, (ringCount_coh _ _ _).trans rfl]
@[simp] theorem faultIn_seed (p : Nat) (f : Frame) (st o n a : Nat) (s : State) : (faultIn p f st o n a s).seed = s.seed := by unfold faultIn; split; exacts [rfl, (ringCount_seed _ _ _).trans rfl]
@[simp] theorem faultIn_col (p : Nat) (f : Frame) (st o n a : Nat) (s : State) : (faultIn p f st o n a s).col = s.col := by unfold faultIn; split; exacts [rfl, (ringCount_col _ _ _).trans rfl]
@[simp] theorem faultIn_tbl (p : Nat) (f : Frame) (st o n a : Nat) (s : State) : (faultIn p f st o n a s).tbl = s.tbl := by unfold faultIn; split; exacts [rfl, (ringCount_tbl _ _ _).trans rfl]
@[simp] theorem faultIn_ws (p : Nat) (f : Frame) (st o n a : Nat) (s : State) : (faultIn p f st o n a s).ws = s.ws := by unfold faultIn; split; exacts [rfl, (ringCount_ws _ _ _).trans rfl]
@[simp] theorem faultIn_link (p : Nat) (f : Frame) (st o n a : Nat) (s : State) : (faultIn p f st o n a s).link = s.link := by unfold faultIn; split; exacts [rfl, (ringCount_link _ _ _).trans rfl]
@[simp] theorem faultIn_res (p : Nat) (f : Frame) (st o n a : Nat) (s : State) : (faultIn p f st o n a s).res = s.res := by unfold faultIn; split; exacts [rfl, (ringCount_res _ _ _).trans rfl]
@[simp] theorem faultIn_sec (p : Nat) (f : Frame) (st o n a : Nat) (s : State) : (faultIn p f st o n a s).sec = s.sec := by unfold faultIn; split; exacts [rfl, (ringCount_sec _ _ _).trans rfl]
@[simp] theorem faultIn_boot (p : Nat) (f : Frame) (st o n a : Nat) (s : State) : (faultIn p f st o n a s).boot = s.boot := by unfold faultIn; split; exacts [rfl, (ringCount_boot _ _ _).trans rfl]
@[simp] theorem faultIn_pkg (p : Nat) (f : Frame) (st o n a : Nat) (s : State) : (faultIn p f st o n a s).pkg = s.pkg := by unfold faultIn; split; exacts [rfl, (ringCount_pkg _ _ _).trans rfl]
@[simp] theorem faultIn_freeCtr (p : Nat) (f : Frame) (st o n a : Nat) (s : State) : (faultIn p f st o n a s).freeCtr = s.freeCtr := by unfold faultIn; split; exacts [rfl, (ringCount_freeCtr _ _ _).trans rfl]
@[simp] theorem faultIn_nextId (p : Nat) (f : Frame) (st o n a : Nat) (s : State) : (faultIn p f st o n a s).nextId = s.nextId := by unfold faultIn; split; exacts [rfl, (ringCount_nextId _ _ _).trans rfl]
@[simp] theorem faultIn_pending (p : Nat) (f : Frame) (st o n a : Nat) (s : State) : (faultIn p f st o n a s).pending = s.pending := by unfold faultIn; split; exacts [rfl, (ringCount_pending _ _ _).trans rfl]

/-! ## faultRec -/

@[simp] theorem faultRec_clk (f : Frame) (st o n a : Nat) (s : State) : (faultRec f st o n a s).clk = s.clk := by unfold faultRec; split; exacts [faultIn_clk _ _ _ _ _ _ _, rfl]
@[simp] theorem faultRec_hall (f : Frame) (st o n a : Nat) (s : State) : (faultRec f st o n a s).hall = s.hall := by unfold faultRec; split; exacts [faultIn_hall _ _ _ _ _ _ _, rfl]
@[simp] theorem faultRec_track (f : Frame) (st o n a : Nat) (s : State) : (faultRec f st o n a s).track = s.track := by unfold faultRec; split; exacts [faultIn_track _ _ _ _ _ _ _, rfl]
@[simp] theorem faultRec_pool (f : Frame) (st o n a : Nat) (s : State) : (faultRec f st o n a s).pool = s.pool := by unfold faultRec; split; exacts [faultIn_pool _ _ _ _ _ _ _, rfl]
@[simp] theorem faultRec_coh (f : Frame) (st o n a : Nat) (s : State) : (faultRec f st o n a s).coh = s.coh := by unfold faultRec; split; exacts [faultIn_coh _ _ _ _ _ _ _, rfl]
@[simp] theorem faultRec_seed (f : Frame) (st o n a : Nat) (s : State) : (faultRec f st o n a s).seed = s.seed := by unfold faultRec; split; exacts [faultIn_seed _ _ _ _ _ _ _, rfl]
@[simp] theorem faultRec_col (f : Frame) (st o n a : Nat) (s : State) : (faultRec f st o n a s).col = s.col := by unfold faultRec; split; exacts [faultIn_col _ _ _ _ _ _ _, rfl]
@[simp] theorem faultRec_tbl (f : Frame) (st o n a : Nat) (s : State) : (faultRec f st o n a s).tbl = s.tbl := by unfold faultRec; split; exacts [faultIn_tbl _ _ _ _ _ _ _, rfl]
@[simp] theorem faultRec_ws (f : Frame) (st o n a : Nat) (s : State) : (faultRec f st o n a s).ws = s.ws := by unfold faultRec; split; exacts [faultIn_ws _ _ _ _ _ _ _, rfl]
@[simp] theorem faultRec_link (f : Frame) (st o n a : Nat) (s : State) : (faultRec f st o n a s).link = s.link := by unfold faultRec; split; exacts [faultIn_link _ _ _ _ _ _ _, rfl]
@[simp] theorem faultRec_res (f : Frame) (st o n a : Nat) (s : State) : (faultRec f st o n a s).res = s.res := by unfold faultRec; split; exacts [faultIn_res _ _ _ _ _ _ _, rfl]
@[simp] theorem faultRec_sec (f : Frame) (st o n a : Nat) (s : State) : (faultRec f st o n a s).sec = s.sec := by unfold faultRec; split; exacts [faultIn_sec _ _ _ _ _ _ _, rfl]
@[simp] theorem faultRec_boot (f : Frame) (st o n a : Nat) (s : State) : (faultRec f st o n a s).boot = s.boot := by unfold faultRec; split; exacts [faultIn_boot _ _ _ _ _ _ _, rfl]
@[simp] theorem faultRec_pkg (f : Frame) (st o n a : Nat) (s : State) : (faultRec f st o n a s).pkg = s.pkg := by unfold faultRec; split; exacts [faultIn_pkg _ _ _ _ _ _ _, rfl]
@[simp] theorem faultRec_freeCtr (f : Frame) (st o n a : Nat) (s : State) : (faultRec f st o n a s).freeCtr = s.freeCtr := by unfold faultRec; split; exacts [faultIn_freeCtr _ _ _ _ _ _ _, rfl]
@[simp] theorem faultRec_nextId (f : Frame) (st o n a : Nat) (s : State) : (faultRec f st o n a s).nextId = s.nextId := by unfold faultRec; split; exacts [faultIn_nextId _ _ _ _ _ _ _, rfl]
@[simp] theorem faultRec_pending (f : Frame) (st o n a : Nat) (s : State) : (faultRec f st o n a s).pending = s.pending := by unfold faultRec; split; exacts [faultIn_pending _ _ _ _ _ _ _, rfl]

/-! ## ownerEvent -/

@[simp] theorem ownerEvent_clk (b : List Byte) (s : State) : (ownerEvent b s).clk = s.clk := (ringCount_clk _ _ _).trans rfl
@[simp] theorem ownerEvent_hall (b : List Byte) (s : State) : (ownerEvent b s).hall = s.hall := (ringCount_hall _ _ _).trans rfl
@[simp] theorem ownerEvent_track (b : List Byte) (s : State) : (ownerEvent b s).track = s.track := (ringCount_track _ _ _).trans rfl
@[simp] theorem ownerEvent_pool (b : List Byte) (s : State) : (ownerEvent b s).pool = s.pool := (ringCount_pool _ _ _).trans rfl
@[simp] theorem ownerEvent_coh (b : List Byte) (s : State) : (ownerEvent b s).coh = s.coh := (ringCount_coh _ _ _).trans rfl
@[simp] theorem ownerEvent_seed (b : List Byte) (s : State) : (ownerEvent b s).seed = s.seed := (ringCount_seed _ _ _).trans rfl
@[simp] theorem ownerEvent_col (b : List Byte) (s : State) : (ownerEvent b s).col = s.col := (ringCount_col _ _ _).trans rfl
@[simp] theorem ownerEvent_tbl (b : List Byte) (s : State) : (ownerEvent b s).tbl = s.tbl := (ringCount_tbl _ _ _).trans rfl
@[simp] theorem ownerEvent_ws (b : List Byte) (s : State) : (ownerEvent b s).ws = s.ws := (ringCount_ws _ _ _).trans rfl
@[simp] theorem ownerEvent_link (b : List Byte) (s : State) : (ownerEvent b s).link = s.link := (ringCount_link _ _ _).trans rfl
@[simp] theorem ownerEvent_res (b : List Byte) (s : State) : (ownerEvent b s).res = s.res := (ringCount_res _ _ _).trans rfl
@[simp] theorem ownerEvent_sec (b : List Byte) (s : State) : (ownerEvent b s).sec = s.sec := (ringCount_sec _ _ _).trans rfl
@[simp] theorem ownerEvent_boot (b : List Byte) (s : State) : (ownerEvent b s).boot = s.boot := (ringCount_boot _ _ _).trans rfl
@[simp] theorem ownerEvent_pkg (b : List Byte) (s : State) : (ownerEvent b s).pkg = s.pkg := (ringCount_pkg _ _ _).trans rfl
@[simp] theorem ownerEvent_freeCtr (b : List Byte) (s : State) : (ownerEvent b s).freeCtr = s.freeCtr := (ringCount_freeCtr _ _ _).trans rfl
@[simp] theorem ownerEvent_nextId (b : List Byte) (s : State) : (ownerEvent b s).nextId = s.nextId := (ringCount_nextId _ _ _).trans rfl
@[simp] theorem ownerEvent_pending (b : List Byte) (s : State) : (ownerEvent b s).pending = s.pending := (ringCount_pending _ _ _).trans rfl

/-! ## partEvent -/

@[simp] theorem partEvent_clk (p : Nat) (b : List Byte) (s : State) : (partEvent p b s).clk = s.clk := (ringCount_clk _ _ _).trans rfl
@[simp] theorem partEvent_hall (p : Nat) (b : List Byte) (s : State) : (partEvent p b s).hall = s.hall := (ringCount_hall _ _ _).trans rfl
@[simp] theorem partEvent_track (p : Nat) (b : List Byte) (s : State) : (partEvent p b s).track = s.track := (ringCount_track _ _ _).trans rfl
@[simp] theorem partEvent_pool (p : Nat) (b : List Byte) (s : State) : (partEvent p b s).pool = s.pool := (ringCount_pool _ _ _).trans rfl
@[simp] theorem partEvent_coh (p : Nat) (b : List Byte) (s : State) : (partEvent p b s).coh = s.coh := (ringCount_coh _ _ _).trans rfl
@[simp] theorem partEvent_seed (p : Nat) (b : List Byte) (s : State) : (partEvent p b s).seed = s.seed := (ringCount_seed _ _ _).trans rfl
@[simp] theorem partEvent_col (p : Nat) (b : List Byte) (s : State) : (partEvent p b s).col = s.col := (ringCount_col _ _ _).trans rfl
@[simp] theorem partEvent_tbl (p : Nat) (b : List Byte) (s : State) : (partEvent p b s).tbl = s.tbl := (ringCount_tbl _ _ _).trans rfl
@[simp] theorem partEvent_ws (p : Nat) (b : List Byte) (s : State) : (partEvent p b s).ws = s.ws := (ringCount_ws _ _ _).trans rfl
@[simp] theorem partEvent_link (p : Nat) (b : List Byte) (s : State) : (partEvent p b s).link = s.link := (ringCount_link _ _ _).trans rfl
@[simp] theorem partEvent_res (p : Nat) (b : List Byte) (s : State) : (partEvent p b s).res = s.res := (ringCount_res _ _ _).trans rfl
@[simp] theorem partEvent_sec (p : Nat) (b : List Byte) (s : State) : (partEvent p b s).sec = s.sec := (ringCount_sec _ _ _).trans rfl
@[simp] theorem partEvent_boot (p : Nat) (b : List Byte) (s : State) : (partEvent p b s).boot = s.boot := (ringCount_boot _ _ _).trans rfl
@[simp] theorem partEvent_pkg (p : Nat) (b : List Byte) (s : State) : (partEvent p b s).pkg = s.pkg := (ringCount_pkg _ _ _).trans rfl
@[simp] theorem partEvent_freeCtr (p : Nat) (b : List Byte) (s : State) : (partEvent p b s).freeCtr = s.freeCtr := (ringCount_freeCtr _ _ _).trans rfl
@[simp] theorem partEvent_nextId (p : Nat) (b : List Byte) (s : State) : (partEvent p b s).nextId = s.nextId := (ringCount_nextId _ _ _).trans rfl
@[simp] theorem partEvent_pending (p : Nat) (b : List Byte) (s : State) : (partEvent p b s).pending = s.pending := (ringCount_pending _ _ _).trans rfl

/-! ## storeEvent -/

@[simp] theorem storeEvent_clk (b : List Byte) (p : Option Nat) (s : State) : (storeEvent b p s).clk = s.clk := by cases p with | none => exact ownerEvent_clk b s | some p => exact (partEvent_clk p b _).trans (ownerEvent_clk b s)
@[simp] theorem storeEvent_hall (b : List Byte) (p : Option Nat) (s : State) : (storeEvent b p s).hall = s.hall := by cases p with | none => exact ownerEvent_hall b s | some p => exact (partEvent_hall p b _).trans (ownerEvent_hall b s)
@[simp] theorem storeEvent_track (b : List Byte) (p : Option Nat) (s : State) : (storeEvent b p s).track = s.track := by cases p with | none => exact ownerEvent_track b s | some p => exact (partEvent_track p b _).trans (ownerEvent_track b s)
@[simp] theorem storeEvent_pool (b : List Byte) (p : Option Nat) (s : State) : (storeEvent b p s).pool = s.pool := by cases p with | none => exact ownerEvent_pool b s | some p => exact (partEvent_pool p b _).trans (ownerEvent_pool b s)
@[simp] theorem storeEvent_coh (b : List Byte) (p : Option Nat) (s : State) : (storeEvent b p s).coh = s.coh := by cases p with | none => exact ownerEvent_coh b s | some p => exact (partEvent_coh p b _).trans (ownerEvent_coh b s)
@[simp] theorem storeEvent_seed (b : List Byte) (p : Option Nat) (s : State) : (storeEvent b p s).seed = s.seed := by cases p with | none => exact ownerEvent_seed b s | some p => exact (partEvent_seed p b _).trans (ownerEvent_seed b s)
@[simp] theorem storeEvent_col (b : List Byte) (p : Option Nat) (s : State) : (storeEvent b p s).col = s.col := by cases p with | none => exact ownerEvent_col b s | some p => exact (partEvent_col p b _).trans (ownerEvent_col b s)
@[simp] theorem storeEvent_tbl (b : List Byte) (p : Option Nat) (s : State) : (storeEvent b p s).tbl = s.tbl := by cases p with | none => exact ownerEvent_tbl b s | some p => exact (partEvent_tbl p b _).trans (ownerEvent_tbl b s)
@[simp] theorem storeEvent_ws (b : List Byte) (p : Option Nat) (s : State) : (storeEvent b p s).ws = s.ws := by cases p with | none => exact ownerEvent_ws b s | some p => exact (partEvent_ws p b _).trans (ownerEvent_ws b s)
@[simp] theorem storeEvent_link (b : List Byte) (p : Option Nat) (s : State) : (storeEvent b p s).link = s.link := by cases p with | none => exact ownerEvent_link b s | some p => exact (partEvent_link p b _).trans (ownerEvent_link b s)
@[simp] theorem storeEvent_res (b : List Byte) (p : Option Nat) (s : State) : (storeEvent b p s).res = s.res := by cases p with | none => exact ownerEvent_res b s | some p => exact (partEvent_res p b _).trans (ownerEvent_res b s)
@[simp] theorem storeEvent_sec (b : List Byte) (p : Option Nat) (s : State) : (storeEvent b p s).sec = s.sec := by cases p with | none => exact ownerEvent_sec b s | some p => exact (partEvent_sec p b _).trans (ownerEvent_sec b s)
@[simp] theorem storeEvent_boot (b : List Byte) (p : Option Nat) (s : State) : (storeEvent b p s).boot = s.boot := by cases p with | none => exact ownerEvent_boot b s | some p => exact (partEvent_boot p b _).trans (ownerEvent_boot b s)
@[simp] theorem storeEvent_pkg (b : List Byte) (p : Option Nat) (s : State) : (storeEvent b p s).pkg = s.pkg := by cases p with | none => exact ownerEvent_pkg b s | some p => exact (partEvent_pkg p b _).trans (ownerEvent_pkg b s)
@[simp] theorem storeEvent_freeCtr (b : List Byte) (p : Option Nat) (s : State) : (storeEvent b p s).freeCtr = s.freeCtr := by cases p with | none => exact ownerEvent_freeCtr b s | some p => exact (partEvent_freeCtr p b _).trans (ownerEvent_freeCtr b s)
@[simp] theorem storeEvent_nextId (b : List Byte) (p : Option Nat) (s : State) : (storeEvent b p s).nextId = s.nextId := by cases p with | none => exact ownerEvent_nextId b s | some p => exact (partEvent_nextId p b _).trans (ownerEvent_nextId b s)
@[simp] theorem storeEvent_pending (b : List Byte) (p : Option Nat) (s : State) : (storeEvent b p s).pending = s.pending := by cases p with | none => exact ownerEvent_pending b s | some p => exact (partEvent_pending p b _).trans (ownerEvent_pending b s)

/-! ## report -/

@[simp] theorem report_clk (e : Event) (s : State) : (report e s).clk = s.clk := storeEvent_clk _ _ _
@[simp] theorem report_hall (e : Event) (s : State) : (report e s).hall = s.hall := storeEvent_hall _ _ _
@[simp] theorem report_track (e : Event) (s : State) : (report e s).track = s.track := storeEvent_track _ _ _
@[simp] theorem report_pool (e : Event) (s : State) : (report e s).pool = s.pool := storeEvent_pool _ _ _
@[simp] theorem report_coh (e : Event) (s : State) : (report e s).coh = s.coh := storeEvent_coh _ _ _
@[simp] theorem report_seed (e : Event) (s : State) : (report e s).seed = s.seed := storeEvent_seed _ _ _
@[simp] theorem report_col (e : Event) (s : State) : (report e s).col = s.col := storeEvent_col _ _ _
@[simp] theorem report_tbl (e : Event) (s : State) : (report e s).tbl = s.tbl := storeEvent_tbl _ _ _
@[simp] theorem report_ws (e : Event) (s : State) : (report e s).ws = s.ws := storeEvent_ws _ _ _
@[simp] theorem report_link (e : Event) (s : State) : (report e s).link = s.link := storeEvent_link _ _ _
@[simp] theorem report_res (e : Event) (s : State) : (report e s).res = s.res := storeEvent_res _ _ _
@[simp] theorem report_sec (e : Event) (s : State) : (report e s).sec = s.sec := storeEvent_sec _ _ _
@[simp] theorem report_boot (e : Event) (s : State) : (report e s).boot = s.boot := storeEvent_boot _ _ _
@[simp] theorem report_pkg (e : Event) (s : State) : (report e s).pkg = s.pkg := storeEvent_pkg _ _ _
@[simp] theorem report_freeCtr (e : Event) (s : State) : (report e s).freeCtr = s.freeCtr := storeEvent_freeCtr _ _ _
@[simp] theorem report_nextId (e : Event) (s : State) : (report e s).nextId = s.nextId := storeEvent_nextId _ _ _
@[simp] theorem report_pending (e : Event) (s : State) : (report e s).pending = s.pending := storeEvent_pending _ _ _

/-! ## meter -/

@[simp] theorem meter_clk (p m n : Nat) (s : State) : (meter p m n s).clk = s.clk := rfl
@[simp] theorem meter_rf (p m n : Nat) (s : State) : (meter p m n s).rf = s.rf := rfl
@[simp] theorem meter_rings (p m n : Nat) (s : State) : (meter p m n s).rings = s.rings := rfl
@[simp] theorem meter_track (p m n : Nat) (s : State) : (meter p m n s).track = s.track := rfl
@[simp] theorem meter_pool (p m n : Nat) (s : State) : (meter p m n s).pool = s.pool := rfl
@[simp] theorem meter_coh (p m n : Nat) (s : State) : (meter p m n s).coh = s.coh := rfl
@[simp] theorem meter_seed (p m n : Nat) (s : State) : (meter p m n s).seed = s.seed := rfl
@[simp] theorem meter_col (p m n : Nat) (s : State) : (meter p m n s).col = s.col := rfl
@[simp] theorem meter_tbl (p m n : Nat) (s : State) : (meter p m n s).tbl = s.tbl := rfl
@[simp] theorem meter_ws (p m n : Nat) (s : State) : (meter p m n s).ws = s.ws := rfl
@[simp] theorem meter_link (p m n : Nat) (s : State) : (meter p m n s).link = s.link := rfl
@[simp] theorem meter_res (p m n : Nat) (s : State) : (meter p m n s).res = s.res := rfl
@[simp] theorem meter_sec (p m n : Nat) (s : State) : (meter p m n s).sec = s.sec := rfl
@[simp] theorem meter_boot (p m n : Nat) (s : State) : (meter p m n s).boot = s.boot := rfl
@[simp] theorem meter_host (p m n : Nat) (s : State) : (meter p m n s).host = s.host := rfl
@[simp] theorem meter_pkg (p m n : Nat) (s : State) : (meter p m n s).pkg = s.pkg := rfl
@[simp] theorem meter_out (p m n : Nat) (s : State) : (meter p m n s).out = s.out := rfl
@[simp] theorem meter_freeCtr (p m n : Nat) (s : State) : (meter p m n s).freeCtr = s.freeCtr := rfl
@[simp] theorem meter_nextId (p m n : Nat) (s : State) : (meter p m n s).nextId = s.nextId := rfl
@[simp] theorem meter_pending (p m n : Nat) (s : State) : (meter p m n s).pending = s.pending := rfl
@[simp] theorem rget_meter (p m n : Nat) (s : State) (fl : Fld) (j : Nat) : rget (meter p m n s) fl j = rget s fl j := congrArg (fun r : RegFile => tgetD r.live (fl.key j) fl.reset) (meter_rf ..)

/-! ## setStrand -/

@[simp] theorem setStrand_clk (k : Nat) (x : Strand) (s : State) : (setStrand k x s).clk = s.clk := rfl
@[simp] theorem setStrand_rf (k : Nat) (x : Strand) (s : State) : (setStrand k x s).rf = s.rf := rfl
@[simp] theorem setStrand_rings (k : Nat) (x : Strand) (s : State) : (setStrand k x s).rings = s.rings := rfl
@[simp] theorem setStrand_hall (k : Nat) (x : Strand) (s : State) : (setStrand k x s).hall = s.hall := rfl
@[simp] theorem setStrand_track (k : Nat) (x : Strand) (s : State) : (setStrand k x s).track = s.track := rfl
@[simp] theorem setStrand_pool (k : Nat) (x : Strand) (s : State) : (setStrand k x s).pool = s.pool := rfl
@[simp] theorem setStrand_coh (k : Nat) (x : Strand) (s : State) : (setStrand k x s).coh = s.coh := rfl
@[simp] theorem setStrand_col (k : Nat) (x : Strand) (s : State) : (setStrand k x s).col = s.col := rfl
@[simp] theorem setStrand_tbl (k : Nat) (x : Strand) (s : State) : (setStrand k x s).tbl = s.tbl := rfl
@[simp] theorem setStrand_ws (k : Nat) (x : Strand) (s : State) : (setStrand k x s).ws = s.ws := rfl
@[simp] theorem setStrand_link (k : Nat) (x : Strand) (s : State) : (setStrand k x s).link = s.link := rfl
@[simp] theorem setStrand_res (k : Nat) (x : Strand) (s : State) : (setStrand k x s).res = s.res := rfl
@[simp] theorem setStrand_sec (k : Nat) (x : Strand) (s : State) : (setStrand k x s).sec = s.sec := rfl
@[simp] theorem setStrand_boot (k : Nat) (x : Strand) (s : State) : (setStrand k x s).boot = s.boot := rfl
@[simp] theorem setStrand_host (k : Nat) (x : Strand) (s : State) : (setStrand k x s).host = s.host := rfl
@[simp] theorem setStrand_pkg (k : Nat) (x : Strand) (s : State) : (setStrand k x s).pkg = s.pkg := rfl
@[simp] theorem setStrand_out (k : Nat) (x : Strand) (s : State) : (setStrand k x s).out = s.out := rfl
@[simp] theorem setStrand_freeCtr (k : Nat) (x : Strand) (s : State) : (setStrand k x s).freeCtr = s.freeCtr := rfl
@[simp] theorem setStrand_nextId (k : Nat) (x : Strand) (s : State) : (setStrand k x s).nextId = s.nextId := rfl
@[simp] theorem setStrand_pending (k : Nat) (x : Strand) (s : State) : (setStrand k x s).pending = s.pending := rfl
@[simp] theorem rget_setStrand (k : Nat) (x : Strand) (s : State) (fl : Fld) (j : Nat) : rget (setStrand k x s) fl j = rget s fl j := congrArg (fun r : RegFile => tgetD r.live (fl.key j) fl.reset) (setStrand_rf ..)

/-! ## setInst -/

@[simp] theorem setInst_clk (n : Nat) (i : Inst) (s : State) : (setInst n i s).clk = s.clk := rfl
@[simp] theorem setInst_rf (n : Nat) (i : Inst) (s : State) : (setInst n i s).rf = s.rf := rfl
@[simp] theorem setInst_rings (n : Nat) (i : Inst) (s : State) : (setInst n i s).rings = s.rings := rfl
@[simp] theorem setInst_hall (n : Nat) (i : Inst) (s : State) : (setInst n i s).hall = s.hall := rfl
@[simp] theorem setInst_track (n : Nat) (i : Inst) (s : State) : (setInst n i s).track = s.track := rfl
@[simp] theorem setInst_pool (n : Nat) (i : Inst) (s : State) : (setInst n i s).pool = s.pool := rfl
@[simp] theorem setInst_coh (n : Nat) (i : Inst) (s : State) : (setInst n i s).coh = s.coh := rfl
@[simp] theorem setInst_col (n : Nat) (i : Inst) (s : State) : (setInst n i s).col = s.col := rfl
@[simp] theorem setInst_tbl (n : Nat) (i : Inst) (s : State) : (setInst n i s).tbl = s.tbl := rfl
@[simp] theorem setInst_ws (n : Nat) (i : Inst) (s : State) : (setInst n i s).ws = s.ws := rfl
@[simp] theorem setInst_link (n : Nat) (i : Inst) (s : State) : (setInst n i s).link = s.link := rfl
@[simp] theorem setInst_res (n : Nat) (i : Inst) (s : State) : (setInst n i s).res = s.res := rfl
@[simp] theorem setInst_sec (n : Nat) (i : Inst) (s : State) : (setInst n i s).sec = s.sec := rfl
@[simp] theorem setInst_boot (n : Nat) (i : Inst) (s : State) : (setInst n i s).boot = s.boot := rfl
@[simp] theorem setInst_host (n : Nat) (i : Inst) (s : State) : (setInst n i s).host = s.host := rfl
@[simp] theorem setInst_pkg (n : Nat) (i : Inst) (s : State) : (setInst n i s).pkg = s.pkg := rfl
@[simp] theorem setInst_out (n : Nat) (i : Inst) (s : State) : (setInst n i s).out = s.out := rfl
@[simp] theorem setInst_freeCtr (n : Nat) (i : Inst) (s : State) : (setInst n i s).freeCtr = s.freeCtr := rfl
@[simp] theorem setInst_nextId (n : Nat) (i : Inst) (s : State) : (setInst n i s).nextId = s.nextId := rfl
@[simp] theorem setInst_pending (n : Nat) (i : Inst) (s : State) : (setInst n i s).pending = s.pending := rfl
@[simp] theorem rget_setInst (n : Nat) (i : Inst) (s : State) (fl : Fld) (j : Nat) : rget (setInst n i s) fl j = rget s fl j := congrArg (fun r : RegFile => tgetD r.live (fl.key j) fl.reset) (setInst_rf ..)

/-! ## setGal -/

@[simp] theorem setGal_clk (g : Nat) (x : Gallery) (s : State) : (setGal g x s).clk = s.clk := rfl
@[simp] theorem setGal_rf (g : Nat) (x : Gallery) (s : State) : (setGal g x s).rf = s.rf := rfl
@[simp] theorem setGal_rings (g : Nat) (x : Gallery) (s : State) : (setGal g x s).rings = s.rings := rfl
@[simp] theorem setGal_hall (g : Nat) (x : Gallery) (s : State) : (setGal g x s).hall = s.hall := rfl
@[simp] theorem setGal_track (g : Nat) (x : Gallery) (s : State) : (setGal g x s).track = s.track := rfl
@[simp] theorem setGal_pool (g : Nat) (x : Gallery) (s : State) : (setGal g x s).pool = s.pool := rfl
@[simp] theorem setGal_coh (g : Nat) (x : Gallery) (s : State) : (setGal g x s).coh = s.coh := rfl
@[simp] theorem setGal_col (g : Nat) (x : Gallery) (s : State) : (setGal g x s).col = s.col := rfl
@[simp] theorem setGal_tbl (g : Nat) (x : Gallery) (s : State) : (setGal g x s).tbl = s.tbl := rfl
@[simp] theorem setGal_ws (g : Nat) (x : Gallery) (s : State) : (setGal g x s).ws = s.ws := rfl
@[simp] theorem setGal_link (g : Nat) (x : Gallery) (s : State) : (setGal g x s).link = s.link := rfl
@[simp] theorem setGal_res (g : Nat) (x : Gallery) (s : State) : (setGal g x s).res = s.res := rfl
@[simp] theorem setGal_sec (g : Nat) (x : Gallery) (s : State) : (setGal g x s).sec = s.sec := rfl
@[simp] theorem setGal_boot (g : Nat) (x : Gallery) (s : State) : (setGal g x s).boot = s.boot := rfl
@[simp] theorem setGal_host (g : Nat) (x : Gallery) (s : State) : (setGal g x s).host = s.host := rfl
@[simp] theorem setGal_pkg (g : Nat) (x : Gallery) (s : State) : (setGal g x s).pkg = s.pkg := rfl
@[simp] theorem setGal_out (g : Nat) (x : Gallery) (s : State) : (setGal g x s).out = s.out := rfl
@[simp] theorem setGal_freeCtr (g : Nat) (x : Gallery) (s : State) : (setGal g x s).freeCtr = s.freeCtr := rfl
@[simp] theorem setGal_nextId (g : Nat) (x : Gallery) (s : State) : (setGal g x s).nextId = s.nextId := rfl
@[simp] theorem setGal_pending (g : Nat) (x : Gallery) (s : State) : (setGal g x s).pending = s.pending := rfl
@[simp] theorem rget_setGal (g : Nat) (x : Gallery) (s : State) (fl : Fld) (j : Nat) : rget (setGal g x s) fl j = rget s fl j := congrArg (fun r : RegFile => tgetD r.live (fl.key j) fl.reset) (setGal_rf ..)

/-! ## setGranule -/

@[simp] theorem setGranule_clk (g : Nat) (x : Granule) (s : State) : (setGranule g x s).clk = s.clk := rfl
@[simp] theorem setGranule_rf (g : Nat) (x : Granule) (s : State) : (setGranule g x s).rf = s.rf := rfl
@[simp] theorem setGranule_rings (g : Nat) (x : Granule) (s : State) : (setGranule g x s).rings = s.rings := rfl
@[simp] theorem setGranule_hall (g : Nat) (x : Granule) (s : State) : (setGranule g x s).hall = s.hall := rfl
@[simp] theorem setGranule_track (g : Nat) (x : Granule) (s : State) : (setGranule g x s).track = s.track := rfl
@[simp] theorem setGranule_coh (g : Nat) (x : Granule) (s : State) : (setGranule g x s).coh = s.coh := rfl
@[simp] theorem setGranule_seed (g : Nat) (x : Granule) (s : State) : (setGranule g x s).seed = s.seed := rfl
@[simp] theorem setGranule_col (g : Nat) (x : Granule) (s : State) : (setGranule g x s).col = s.col := rfl
@[simp] theorem setGranule_tbl (g : Nat) (x : Granule) (s : State) : (setGranule g x s).tbl = s.tbl := rfl
@[simp] theorem setGranule_ws (g : Nat) (x : Granule) (s : State) : (setGranule g x s).ws = s.ws := rfl
@[simp] theorem setGranule_link (g : Nat) (x : Granule) (s : State) : (setGranule g x s).link = s.link := rfl
@[simp] theorem setGranule_res (g : Nat) (x : Granule) (s : State) : (setGranule g x s).res = s.res := rfl
@[simp] theorem setGranule_sec (g : Nat) (x : Granule) (s : State) : (setGranule g x s).sec = s.sec := rfl
@[simp] theorem setGranule_boot (g : Nat) (x : Granule) (s : State) : (setGranule g x s).boot = s.boot := rfl
@[simp] theorem setGranule_host (g : Nat) (x : Granule) (s : State) : (setGranule g x s).host = s.host := rfl
@[simp] theorem setGranule_pkg (g : Nat) (x : Granule) (s : State) : (setGranule g x s).pkg = s.pkg := rfl
@[simp] theorem setGranule_out (g : Nat) (x : Granule) (s : State) : (setGranule g x s).out = s.out := rfl
@[simp] theorem setGranule_freeCtr (g : Nat) (x : Granule) (s : State) : (setGranule g x s).freeCtr = s.freeCtr := rfl
@[simp] theorem setGranule_nextId (g : Nat) (x : Granule) (s : State) : (setGranule g x s).nextId = s.nextId := rfl
@[simp] theorem setGranule_pending (g : Nat) (x : Granule) (s : State) : (setGranule g x s).pending = s.pending := rfl
@[simp] theorem rget_setGranule (g : Nat) (x : Granule) (s : State) (fl : Fld) (j : Nat) : rget (setGranule g x s) fl j = rget s fl j := congrArg (fun r : RegFile => tgetD r.live (fl.key j) fl.reset) (setGranule_rf ..)

/-! ## setExtent -/

@[simp] theorem setExtent_clk (e : Nat) (x : Extent) (s : State) : (setExtent e x s).clk = s.clk := rfl
@[simp] theorem setExtent_rf (e : Nat) (x : Extent) (s : State) : (setExtent e x s).rf = s.rf := rfl
@[simp] theorem setExtent_rings (e : Nat) (x : Extent) (s : State) : (setExtent e x s).rings = s.rings := rfl
@[simp] theorem setExtent_hall (e : Nat) (x : Extent) (s : State) : (setExtent e x s).hall = s.hall := rfl
@[simp] theorem setExtent_track (e : Nat) (x : Extent) (s : State) : (setExtent e x s).track = s.track := rfl
@[simp] theorem setExtent_coh (e : Nat) (x : Extent) (s : State) : (setExtent e x s).coh = s.coh := rfl
@[simp] theorem setExtent_seed (e : Nat) (x : Extent) (s : State) : (setExtent e x s).seed = s.seed := rfl
@[simp] theorem setExtent_col (e : Nat) (x : Extent) (s : State) : (setExtent e x s).col = s.col := rfl
@[simp] theorem setExtent_tbl (e : Nat) (x : Extent) (s : State) : (setExtent e x s).tbl = s.tbl := rfl
@[simp] theorem setExtent_ws (e : Nat) (x : Extent) (s : State) : (setExtent e x s).ws = s.ws := rfl
@[simp] theorem setExtent_link (e : Nat) (x : Extent) (s : State) : (setExtent e x s).link = s.link := rfl
@[simp] theorem setExtent_res (e : Nat) (x : Extent) (s : State) : (setExtent e x s).res = s.res := rfl
@[simp] theorem setExtent_sec (e : Nat) (x : Extent) (s : State) : (setExtent e x s).sec = s.sec := rfl
@[simp] theorem setExtent_boot (e : Nat) (x : Extent) (s : State) : (setExtent e x s).boot = s.boot := rfl
@[simp] theorem setExtent_host (e : Nat) (x : Extent) (s : State) : (setExtent e x s).host = s.host := rfl
@[simp] theorem setExtent_pkg (e : Nat) (x : Extent) (s : State) : (setExtent e x s).pkg = s.pkg := rfl
@[simp] theorem setExtent_out (e : Nat) (x : Extent) (s : State) : (setExtent e x s).out = s.out := rfl
@[simp] theorem setExtent_freeCtr (e : Nat) (x : Extent) (s : State) : (setExtent e x s).freeCtr = s.freeCtr := rfl
@[simp] theorem setExtent_nextId (e : Nat) (x : Extent) (s : State) : (setExtent e x s).nextId = s.nextId := rfl
@[simp] theorem setExtent_pending (e : Nat) (x : Extent) (s : State) : (setExtent e x s).pending = s.pending := rfl
@[simp] theorem rget_setExtent (e : Nat) (x : Extent) (s : State) (fl : Fld) (j : Nat) : rget (setExtent e x s) fl j = rget s fl j := congrArg (fun r : RegFile => tgetD r.live (fl.key j) fl.reset) (setExtent_rf ..)

/-! ## Registers -/

/-- A register that was written reads as the value, cut to its width. -/
theorem rget_rset_self {s : State} (f : Fld) (i v : Nat) (h : twf s.rf.live = true) : rget (rset f i v s) f i = v % 2 ^ f.w :=
  tgetD_tput_self (f.key i) f.reset (v % 2 ^ f.w) h

/-- A write leaves every other register alone. -/
theorem rget_rset_ne {s : State} {f g : Fld} {i j : Nat} (v : Nat) (h : twf s.rf.live = true) (hk : g.key j ≠ f.key i) :
    rget (rset f i v s) g j = rget s g j := tgetD_tput_ne f.reset (v % 2 ^ f.w) g.reset h hk

theorem twf_rset {s : State} (f : Fld) (i v : Nat) (h : twf s.rf.live = true) : twf (rset f i v s).rf.live = true :=
  twf_tput (f.key i) f.reset (v % 2 ^ f.w) h

theorem rget_radd_self {s : State} (f : Fld) (i n : Nat) (h : twf s.rf.live = true) :
    rget (radd f i n s) f i = (rget s f i + n) % 2 ^ f.w := rget_rset_self f i (rget s f i + n) h

theorem rget_rbump_self {s : State} (f : Fld) (i : Nat) (h : twf s.rf.live = true) :
    rget (rbump f i s) f i = (rget s f i + 1) % 2 ^ f.w := rget_radd_self f i 1 h

theorem rget_radd_ne {s : State} {f g : Fld} {i j : Nat} (n : Nat) (h : twf s.rf.live = true) (hk : g.key j ≠ f.key i) :
    rget (radd f i n s) g j = rget s g j := rget_rset_ne (rget s f i + n) h hk

/-! ## Strands, instances and outputs -/

@[simp] theorem setStrand_self (k : Nat) (x : Strand) (s : State) : tget (setStrand k x s).seed.strands k = some x := tget_tset_self _ _ _

theorem setStrand_ne {k j : Nat} (x : Strand) (s : State) (h : j ≠ k) : tget (setStrand k x s).seed.strands j = tget s.seed.strands j :=
  tget_tset_ne _ _ h

@[simp] theorem setInst_self (n : Nat) (x : Inst) (s : State) : tget (setInst n x s).seed.insts n = some x := tget_tset_self _ _ _

@[simp] theorem emit_out (o : Output) (s : State) : (emit o s).out = s.out ++ [o] := rfl

@[simp] theorem fresh_freeCtr (s : State) : (fresh s).2.freeCtr = s.freeCtr + 1 := rfl

@[simp] theorem takeId_nextId (s : State) : (takeId s).2.nextId = s.nextId + 1 := rfl

@[simp] theorem setHost_zero (p : HostPort) (s : State) : hostPort (setHost 0 p s) 0 = p := rfl

@[simp] theorem setHost_one (p : HostPort) (s : State) : hostPort (setHost 1 p s) 1 = p := rfl

/-- Time only moves on. -/
theorem atTime_now (n : Nat) (s : State) : (atTime n s).clk.now = max s.clk.now n := by
  unfold atTime
  split
  · simp only; omega
  · omega

end Sys2Proof.Machine
end

