-- ==== Sys2Proof/Laws/Serve.lean ====
section
/-! SUPPORT. What the shared frames of commands answer: a request of the inbox that is served, a message, a collective frame, a
host command that begins, and a mailbox command that runs. -/
namespace Sys2Proof.Machine

theorem whenRunning_next {s : State} (f : State → State) (h : running s = true) : whenRunning f s = .next (f s) := by
  simp [whenRunning, h]

/-- A command of the main domain changes nothing while the domain is off. -/
theorem whenRunning_off {s : State} (f : State → State) (h : running s = false) : whenRunning f s = .next s := by
  simp [whenRunning, h]

theorem serve_next {s : State} {id : Nat} {ok : Frame → Bool} {act : Nat → Bool → Frame → State → State} {i : Inbox}
    (hr : running s = true) (hi : tget s.hall.inbox id = some i) (ha : isAnswer i.frame.cls = false) (hh : i.host = none)
    (ho : ok i.frame = true) (hd : isHead s id i = true) :
    serve id ok act s = .next (act (mayEnter id i s).1 (mayEnter id i s).2.1 i.frame (mayEnter id i s).2.2) := by
  simp [serve, whenRunning, hr, hi, ha, hh, ho, hd]

theorem onCtl_next {s : State} {id opc : Nat} {act : Inbox → State → State} {i : Inbox} (hr : running s = true)
    (hi : tget s.hall.inbox id = some i) (ho : i.frame.opc = opc) (hc : i.frame.cls = 0) (hd : isHead s id i = true) :
    onCtl id opc act s = .next (act i (takeInbox id s)) := by
  simp [onCtl, ctlOf, whenRunning, hr, hi, ho, hc, hd]

theorem colTakeFrame_next {s : State} {id opc : Nat} {act : Frame → Nat → State → State} {i : Inbox} (hr : running s = true)
    (hi : tget s.hall.inbox id = some i) (ho : i.frame.opc = opc) (hh : i.host = none) (hd : isHead s id i = true) :
    colTakeFrame id opc act s = .next (act i.frame i.port (takeInbox id s)) := by
  simp [colTakeFrame, whenRunning, hr, hi, ho, hh, hd]

/-- A host's command that begins acts on the state from whose queue it has been taken. -/
theorem withCmdOr_next {refused : Cmd → State → State} {s : State} {h code : Nat} {busy : Cmd → List BCmd → Bool} {act : Cmd → State → State} {e : HostCmd} {rest : List HostCmd}
    (hr : running s = true) (hq : (hostPort s h).queue = e :: rest) (hh : h < 2) (hc : (cmdOf e.bytes).code = code)
    (hb : busy (cmdOf e.bytes) (hostPort s h).running = false) (hf : (cmdOf e.bytes).badForm = false)
    (ho : isOwner s h = true ∨ cmdBoth code = true) :
    withCmdOr refused h code busy act s =
      .next (skipUnknown h rest.length (act (cmdOf e.bytes) (setHost h { hostPort s h with queue := rest } s))) := by
  have h1 : ¬ 1 < h := by omega
  have h2 : (!isOwner s h && !cmdBoth code) = false := by rcases ho with ho | ho <;> simp [ho]
  simp [withCmdOr, whenRunning, hr, hq, h1, hc, hb, hf, h2]

theorem withMbox_next {s : State} {h code : Nat} {owner : Bool} {act : List Byte → State → State} (hr : running s = true)
    (hm : mboxRuns s h code = true) (hp : rget s R.START_STATUS_PHASE 0 ≠ 5 ∨ code = 1 ∨ code = 2 ∨ code = 10)
    (ho : owner = true → isOwner s h = true) : withMbox h code owner act s = .next (act (mboxReq s) s) := by
  have h2 : (owner && !isOwner s h) = false := by cases owner <;> simp_all
  simp only [withMbox, whenRunning, hr, hm, h2]
  rcases hp with hp | hp <;> simp [hp]

theorem hostWork_next {s : State} {h : Nat} {act : State → State} (hb : barsOn s h = true)
    (hp : rget s R.START_STATUS_PHASE 0 ≠ 5) : hostWork h act s = .next (act (wakeHall s)) := by
  simp [hostWork, hb, hp]

end Sys2Proof.Machine
end

