-- ==== Sys2Proof/Laws/Strand.lean ====
section
/-! SUPPORT. How a strand issues an instruction: what a command of the strand's next instruction answers. -/
namespace Sys2Proof.Machine

theorem tset_tset {α : Type} (t : Tab α) (a : Nat) (v w : α) : tset (tset t a v) a w = tset t a w := by
  induction t with
  | nil => simp [tset]
  | cons p t ih =>
    obtain ⟨k, x⟩ := p
    unfold tset
    by_cases h1 : a < k
    · simp [h1, tset]
    · by_cases h2 : a = k
      · simp [h2, tset]
      · simp [h1, h2, tset, ih]

theorem setStrand_setStrand (k : Nat) (x y : Strand) (s : State) : setStrand k y (setStrand k x s) = setStrand k y s := by
  simp [setStrand, tset_tset]

/-- An instruction that is issued does what its action says; one whose action gives nothing waits. -/
theorem issueInsn_next {s : State} {k w : Nat} {kind : Insn → Bool} {act : Insn → Strand → Inst → State → Option State} {x : Strand} {n : Inst}
    (hr : running s = true) (hx : tget s.seed.strands k = some x) (hn : tget s.seed.insts x.inst = some n)
    (hw : n.image.wordAt x.pc = some w) (hc : canIssue s k x = true) (hk : kind (Insn.of w) = true)
    (hb : scalarBusy x (Insn.of w) = false) :
    issueInsn k kind act s = .next ((act (Insn.of w) x n (meter n.part 3 1 s)).getD s) := by
  simp [issueInsn, hr, hx, hn, hw, hc, hk, hb]

/-- A strand goes to an offset in its text. -/
theorem goTo_inText {s : State} {k pc : Nat} {x : Strand} {n : Inst} (hx : tget s.seed.strands k = some x)
    (hn : tget s.seed.insts x.inst = some n) (ht : pc < n.image.textLen) : goTo k pc s = setStrand k { x with pc := pc } s := by
  simp [goTo, hx, hn, Nat.not_le.mpr ht]

/-- The strand goes on to its next instruction, which lies in its text. -/
theorem advance_inText {s : State} {k : Nat} {x : Strand} {n : Inst} (hx : tget s.seed.strands k = some x)
    (hn : tget s.seed.insts x.inst = some n) (ht : x.pc + 8 < n.image.textLen) :
    advance_ k s = setStrand k { x with pc := x.pc + 8 } s := by
  simp only [advance_, hx]
  exact goTo_inText hx hn ht

/-- A strand retires an instruction with new registers. -/
theorem retire_inText {s : State} {k : Nat} {x : Strand} {n : Inst} (hn : tget s.seed.insts x.inst = some n)
    (ht : x.pc + 8 < n.image.textLen) : retire k x s = setStrand k { x with pc := x.pc + 8 } s := by
  unfold retire
  rw [advance_inText (setStrand_self k x s) (by exact hn) ht, setStrand_setStrand]

/-- An instruction that only changes registers. -/
theorem regInsn_next {s : State} {k w : Nat} {kind : Insn → Bool} {f : Insn → Strand → Strand} {x : Strand} {n : Inst}
    (hr : running s = true) (hx : tget s.seed.strands k = some x) (hn : tget s.seed.insts x.inst = some n)
    (hw : n.image.wordAt x.pc = some w) (hc : canIssue s k x = true) (hk : kind (Insn.of w) = true)
    (hb : scalarBusy x (Insn.of w) = false) (hp : (f (Insn.of w) x).pc = x.pc) (hi : (f (Insn.of w) x).inst = x.inst)
    (ht : x.pc + 8 < n.image.textLen) :
    regInsn k kind f s = .next (setStrand k { f (Insn.of w) x with pc := x.pc + 8 } (meter n.part 3 1 s)) := by
  unfold regInsn
  rw [issueInsn_next hr hx hn hw hc hk hb, Option.getD_some, retire_inText (n := n) (by rw [hi]; exact hn) (by rw [hp]; exact ht), hp]

end Sys2Proof.Machine
end

