-- ==== Sys2Proof/WellFormed.lean ====
section
/-! DEFINITION. Well-formed commands: every operand lies in the range that the manual gives its kind of object. -/
namespace Sys2Proof

/-- The ranges of a command's operands. A number that only names an object the block itself numbered has no range. -/
def WellFormed : Instr → Bool
  | .movePassEnd g => decide (g < 67108864)
  | .moveHoldTimeout g => decide (g < 67108864)
  | .moveSourceFree g => decide (g < 67108864)
  | .clockPointPauseEnd gal => decide (gal < 32)
  | .galleryIdleSleep gal => decide (gal < 32)
  | .stackSelfRefresh stack => decide (stack < 20)
  | .laneSleep port => decide (port < 128)
  | .slotWake kind unit => decide (kind < 3) && decide (unit < 512)
  | .unitWakeDone kind unit => decide (kind < 3) && decide (unit < 512)
  | .galleryZeroingDone gal => decide (gal < 32)
  | .time port arr _ => decide (port < 128) && decide (arr < 18446744073709551616)
  | .timeSyncSend port => decide (port < 128)
  | .slotStart slot => decide (slot < 4096)
  | .ingressFrame port frame => decide (port < 128) && decide (32 ≤ frame.length) && decide (frame.length ≤ 8224)
  | .ethernetFrame port dst srcMac etype _ _ => decide (port < 128) && decide (dst < 281474976710656) && decide (srcMac < 281474976710656) && decide (etype < 65536)
  | .load _ => true
  | .store _ => true
  | .ofStoreRelease _ => true
  | .atomic _ => true
  | .answerEntryExpire src tag => decide (src < 32768) && decide (tag < 1048576)
  | .bulkPut _ => true
  | .bulkGet _ => true
  | .bulkPutMasked _ => true
  | .bulkAtomic _ => true
  | .trackerAnswer _ => true
  | .trackerTimeout _ => true
  | .caps port word => decide (port < 128) && decide (word < 18446744073709551616)
  | .launch _ => true
  | .galleryDispatch gal => decide (gal < 32)
  | .instanceEnd _ => true
  | .instanceTimeLimit _ => true
  | .launchDeadline _ => true
  | .strandFabricAnswer k _ => decide (k < 32768)
  | .waiteRelease k => decide (k < 32768)
  | .nop k => decide (k < 32768)
  | .br k => decide (k < 32768)
  | .loop k => decide (k < 32768)
  | .waite k => decide (k < 32768)
  | .bar k => decide (k < 32768)
  | .fence k => decide (k < 32768)
  | .raise k => decide (k < 32768)
  | .halt k => decide (k < 32768)
  | .recv k => decide (k < 32768)
  | .send k => decide (k < 32768)
  | .fwd k => decide (k < 32768)
  | .grant k => decide (k < 32768)
  | .ldv k => decide (k < 32768)
  | .stv k => decide (k < 32768)
  | .lds k => decide (k < 32768)
  | .sts k => decide (k < 32768)
  | .gath k => decide (k < 32768)
  | .scat k => decide (k < 32768)
  | .atom k => decide (k < 32768)
  | .pin k => decide (k < 32768)
  | .pinRelease k => decide (k < 32768)
  | .add k => decide (k < 32768)
  | .sub k => decide (k < 32768)
  | .mul k => decide (k < 32768)
  | .fma k => decide (k < 32768)
  | .div k => decide (k < 32768)
  | .max k => decide (k < 32768)
  | .min k => decide (k < 32768)
  | .cmp k => decide (k < 32768)
  | .sel k => decide (k < 32768)
  | .and k => decide (k < 32768)
  | .or k => decide (k < 32768)
  | .xor k => decide (k < 32768)
  | .andn k => decide (k < 32768)
  | .not k => decide (k < 32768)
  | .shl k => decide (k < 32768)
  | .shr k => decide (k < 32768)
  | .sar k => decide (k < 32768)
  | .mov k => decide (k < 32768)
  | .bcast k => decide (k < 32768)
  | .bcasti k => decide (k < 32768)
  | .iota k => decide (k < 32768)
  | .ins k => decide (k < 32768)
  | .ext k => decide (k < 32768)
  | .sadd k => decide (k < 32768)
  | .ssub k => decide (k < 32768)
  | .smul k => decide (k < 32768)
  | .sand k => decide (k < 32768)
  | .sor k => decide (k < 32768)
  | .sxor k => decide (k < 32768)
  | .sshl k => decide (k < 32768)
  | .sshr k => decide (k < 32768)
  | .ssar k => decide (k < 32768)
  | .smin k => decide (k < 32768)
  | .smax k => decide (k < 32768)
  | .sminu k => decide (k < 32768)
  | .smaxu k => decide (k < 32768)
  | .slt k => decide (k < 32768)
  | .sltu k => decide (k < 32768)
  | .seq k => decide (k < 32768)
  | .smov k => decide (k < 32768)
  | .slih k => decide (k < 32768)
  | .pand k => decide (k < 32768)
  | .por k => decide (k < 32768)
  | .pxor k => decide (k < 32768)
  | .pandn k => decide (k < 32768)
  | .pnot k => decide (k < 32768)
  | .pset k => decide (k < 32768)
  | .pfrom k => decide (k < 32768)
  | .pto k => decide (k < 32768)
  | .pcnt k => decide (k < 32768)
  | .neg k => decide (k < 32768)
  | .abs k => decide (k < 32768)
  | .sqrt k => decide (k < 32768)
  | .acc k => decide (k < 32768)
  | .accm k => decide (k < 32768)
  | .clra k => decide (k < 32768)
  | .rnd k => decide (k < 32768)
  | .pack k => decide (k < 32768)
  | .unpk k => decide (k < 32768)
  | .topk k => decide (k < 32768)
  | .cvt k => decide (k < 32768)
  | .xpnd k => decide (k < 32768)
  | .colSeg _ => true
  | .colPart _ => true
  | .colResult _ => true
  | .colGrant _ => true
  | .colAbort _ => true
  | .colNoProgress c => decide (c < 8192)
  | .colRearm c => decide (c < 8192)
  | .straggler c sender => decide (c < 8192) && decide (sender < 131072)
  | .gatherBatch _ => true
  | .gatherDirectoryDone _ => true
  | .gatherRowFetch _ share _ => decide (share < 32)
  | .gatherBatchEnd _ => true
  | .gatherBatchDeadline _ => true
  | .rowPut _ => true
  | .rowFlip tbl => decide (tbl < 4096)
  | .scatterAdd _ => true
  | .filterTopk _ => true
  | .tablePin _ => true
  | .tableUnpin _ => true
  | .pinHoldLapse tbl _ peer => decide (tbl < 4096) && decide (peer < 32768)
  | .tableSlotFree tbl _ => decide (tbl < 4096)
  | .tableReady tbl => decide (tbl < 4096)
  | .tierAnswer _ tray _ => decide (tray < 32)
  | .tierAttemptTimeout _ => true
  | .trayLatencyWindow set tray _ => decide (set < 64) && decide (tray < 32)
  | .traySlowClear set tray => decide (set < 64) && decide (tray < 32)
  | .wsPrefetchPoint p => decide (p < 1024)
  | .wsCopyComplete p => decide (p < 1024)
  | .wsStoreAnswer _ => true
  | .wsFlagAnswer _ => true
  | .weightLate p => decide (p < 1024)
  | .extGrant h => decide (h < 2)
  | .extRevoke h => decide (h < 2)
  | .fenceConfirmed e => decide (e < 65536)
  | .drainDone e => decide (e < 65536)
  | .drainTimeout e => decide (e < 65536)
  | .scrubDone e => decide (e < 65536)
  | .leaseRenew _ => true
  | .leaseExpiry l => decide (l < 512)
  | .streamOpen h _ => decide (h < 2)
  | .streamGrow h _ => decide (h < 2)
  | .streamHandoff h _ => decide (h < 2)
  | .streamAccept h _ => decide (h < 2)
  | .streamTakeover h _ => decide (h < 2)
  | .streamClose h _ => decide (h < 2)
  | .streamQuery h => decide (h < 2)
  | .ledgerPoll ctx => decide (ctx < 262144)
  | .ledgerCasAnswer _ => true
  | .streamPullAnswer _ => true
  | .streamAcceptTimeout ctx => decide (ctx < 262144)
  | .cacheDeclare _ => true
  | .cacheRelease _ => true
  | .rdShared _ => true
  | .rdOwn _ => true
  | .upgrade _ => true
  | .wbDirty _ => true
  | .evictClean _ => true
  | .snoopAnswer _ => true
  | .snoopTimeout stag => decide (stag < 1048576)
  | .staleClear h => decide (h < 2)
  | .staleQuery h => decide (h < 2)
  | .portSignal port => decide (port < 128)
  | .retrain port => decide (port < 128)
  | .prbsCheckDone port _ => decide (port < 128)
  | .fullTrainingDone port _ => decide (port < 128)
  | .trainingTimeout port => decide (port < 128)
  | .trainingRetry port => decide (port < 128)
  | .pairAligned port => decide (port < 128)
  | .alignmentLost port => decide (port < 128)
  | .resume port inc seq => decide (port < 128) && decide (inc < 65536) && decide (seq < 4096)
  | .holdUpExpiry port => decide (port < 128)
  | .flitReceive port flit => decide (port < 128) && decide (flit.length = 256)
  | .replayTimeout port => decide (port < 128)
  | .tag port flit => decide (port < 128) && decide (flit.length = 256)
  | .widthAsk port mask => decide (port < 128) && decide (mask < 256)
  | .width port mask => decide (port < 128) && decide (mask < 256)
  | .offer port keyId _ => decide (port < 128) && decide (keyId < 4294967296)
  | .accept port keyId _ => decide (port < 128) && decide (keyId < 4294967296)
  | .done port keyId _ => decide (port < 128) && decide (keyId < 4294967296)
  | .abort port keyId => decide (port < 128) && decide (keyId < 4294967296)
  | .keyDoneTimeout port => decide (port < 128)
  | .rekeyStart port => decide (port < 128)
  | .subForce h => decide (h < 2)
  | .subAsk _ => true
  | .subAskTimeout port => decide (port < 128)
  | .subAnswer _ => true
  | .subCommit _ => true
  | .idGet h => decide (h < 2)
  | .quote h => decide (h < 2)
  | .frameStage h => decide (h < 2)
  | .licenceLoad h => decide (h < 2)
  | .jobOpen h => decide (h < 2)
  | .jobWrap h => decide (h < 2)
  | .jobClose h => decide (h < 2)
  | .jobKeyInstall _ => true
  | .mgtQuery _ => true
  | .holoneRequest _ => true
  | .imageStage h _ => decide (h < 2)
  | .imageArm h => decide (h < 2)
  | .imageDisarm h => decide (h < 2)
  | .claim h => decide (h < 2)
  | .renew h => decide (h < 2)
  | .release h => decide (h < 2)
  | .hostLinkDown h => decide (h < 2)
  | .commandWindowWrite h _ => decide (h < 2)
  | .commandCompletion h => decide (h < 2)
  | .cqHeadWrite h _ => decide (h < 2)
  | .cqConfigWrite h _ _ => decide (h < 2)
  | .reset h => decide (h < 2)
  | .stageDiscard h => decide (h < 2)
  | .progLoad h _ => decide (h < 2)
  | .hostCommandLaunch h _ => decide (h < 2)
  | .kill h => decide (h < 2)
  | .colOpen h _ => decide (h < 2)
  | .colClose h => decide (h < 2)
  | .hostCommandColAbort h => decide (h < 2)
  | .ttLoad h _ => decide (h < 2)
  | .s0Query h => decide (h < 2)
  | .hostApertureAccess h _ _ _ _ => decide (h < 2)
  | .hostInboundRequest _ _ => true
  | .registerWrite h _ _ => decide (h < 2)
  | .laneFailed port lane => decide (port < 128) && decide (lane < 8)
  | .governorRun _ => true
  | .wsLevelHalfLead p => decide (p < 1024)
  | .wsEscalate p => decide (p < 1024)
  | .laneSerWindow port lane _ => decide (port < 128) && decide (lane < 8)
  | .laneRetrainGood port lane => decide (port < 128) && decide (lane < 8)
  | .keyLimitReached port => decide (port < 128)
  | .oldKeyRetire port => decide (port < 128)
  | .subWaitExpiry port => decide (port < 128)
  | .subAskResend port => decide (port < 128)
  | .trayRebuildDone set tray => decide (set < 64) && decide (tray < 32)
  | .ageingMeasureDone slacks => decide (slacks.length = 2080)
  | .endorseSet h => decide (h < 2)
  | .credSet h => decide (h < 2)
  | .recoveryImage h => decide (h < 2)
  | .jobKeyDestroy key => decide (key < 4294967296)
  | .holoneSlotUnlock hslot => decide (hslot < 4)
  | .resetNLow _ => true
  | .selftestDone _ => true
  | .tftpWriteRequest fk _ => decide (1 ≤ fk) && decide (fk ≤ 3)
  | .imageWriteDone fk => decide (1 ≤ fk) && decide (fk ≤ 3)
  | .imageTransferStall fk => decide (1 ≤ fk) && decide (fk ≤ 3)
  | .holdupN _ => true
  | .thermalSample temps stemps _ => decide (temps.length = 80) && decide (stemps.length = 20)
  | .i3cPrivateRead idx => decide (idx < 256)
  | .i3cDynamicAddress _ => true
  | .cabPresN conn _ => decide (conn < 32)
  | .hostPortTrained h _ _ => decide (h < 2)
  | .ppsInEdge arr => decide (arr < 18446744073709551616)
  | .rekeyRetry port => decide (port < 128)
  | .epochBoundary => true
  | .stageCutoff => true
  | .routeRetire => true
  | .hallGate => true
  | .holdoverEntry => true
  | .acquiringEnd => true
  | .quietSlot => true
  | .schedulerCellTime => true
  | .auditNow => true
  | .bufferAuditDone => true
  | .ledgerRevertTick => true
  | .maintNow => true
  | .pwrokRise => true
  | .pwrokFall => true
  | .warmReset => true
  | .startupReady => true
  | .mgmtHeartbeatLoss => true
  | .trialTimeout => true
  | .ownerLeaseExpiry => true
  | .effLimitTick => true
  | .thermtripRelease => true
  | .ppsOutPulse => true
  | .shellSramError => true
  | .standbyGroupUp => true
  | .standbyGroupDown => true
  | .followerReadyTimeout => true
  | .savedSettingsWrite => true

end Sys2Proof
end

