-- ==== Sys2Proof/Tests/Slice0.lean ====
section
/-! SUPPORT. Tests of the model on small states, and for each statement with premises a state that meets them. Each is a
named theorem. -/
namespace Sys2Proof.Tests

set_option Elab.async false

open Sys2Proof.Machine Sys2Proof.Safety Sys2Proof.Claims

/-- A frame with nothing in it but `VER` 2. -/
def frame0 : Frame where
  ver := 2
  cls := 0
  g := 0
  dst := 0x7FFF
  src := 5
  pkey := 0
  opc := 0
  tag := 0
  len := 0
  status := 0
  of_ := false
  je := false
  mc := false
  offset := 0
  rsv := 0
  payload := []
  tailBad := false
  reason := 0
  pcrc := 0
  jobKey := none

/-! ## A strand that issues -/

/-- An instruction word (R142): opcode, format, D, A, B, `FN` and `IMM`; no governing predicate. -/
def word (op fmt d a b fn imm : Nat) : Nat :=
  op * 2 ^ 58 + fmt * 2 ^ 54 + d * 2 ^ 50 + a * 2 ^ 46 + b * 2 ^ 42 + fn * 2 ^ 32 + imm

/-- A program of 64 bytes of text, whose first word is `w` and whose others are `NOP`. -/
def imageWith (w : Nat) : Image := ⟨0, 64, 64, 0, 64, 1, 1, 0, 0, toLE 8 w ++ List.replicate 56 0#8, []⟩

def aLaunch : LaunchRec := ⟨.host 0 1, 0, 1, 0, 0x4001, 0x4001, 0, 0, true, false, [], none, 0xFF⟩

/-- Its instance on gallery 0, with one strand and one page. -/
def instWith (w : Nat) : Inst := ⟨aLaunch, imageWith w, 0, 1, 1, 0, [0], [0], 0, 1000, 0, none, []⟩

/-- A strand at text offset 0, with scalars 0 to 15, zero vectors, cleared accumulators and predicates of all ones. -/
def aStrand : Strand where
  v := List.replicate 16 0
  a := List.replicate 4 (List.replicate 16 Lane.init)
  s := (List.range 16).map (BitVec.ofNat 64)
  p := List.replicate 8 0xFFFF#16
  pc := 0
  wait := .none
  halted := false
  reqs := []
  buf := []
  inst := 5
  index := 0
  near := 0

/-- The machine at reset but for gallery 0 awake and a strand `x` of an instance of that program on it. -/
def issuing (x : Strand) (w : Nat) : State :=
  { State.reset with
    seed := { State.reset.seed with insts := [(5, instWith w)], strands := [(0, x)] }
    pkg := { State.reset.pkg with asleep := [] } }

theorem word_at (w : Nat) (h : w < 2 ^ 64) : (imageWith w).wordAt 0 = some w := by
  simp [Image.wordAt, imageWith, leAt, slice, toLE, leNat]
  omega

/-- The strand issues the word, whatever it is. -/
theorem issues {w : Nat} (h : w < 2 ^ 64) : IssuesOn (issuing aStrand w) 0 aStrand (instWith w) (Insn.of w) where
  running := rfl
  strand := rfl
  inst := rfl
  word := ⟨w, word_at w h, rfl⟩
  may := by simp only [canIssue]; rfl
  free := rfl
  next := by simp [aStrand, instWith, imageWith]

/-- Words are valid instructions of an opcode, in a format of its kind, and a strand issues each of them. -/
def Issued (ws : List Nat) (op : Nat) (int : Option Bool) : Prop :=
  ∀ w ∈ ws, IssuesOn (issuing aStrand w) 0 aStrand (instWith w) (Insn.of w) ∧ (Insn.of w).ok w 64 0 = true ∧ (Insn.of w).op = op ∧
    (int.all fun b => (Insn.of w).format.isInt == b) = true

theorem issued {ws : List Nat} {op : Nat} {int : Option Bool}
    (h : ws.all (fun w => decide (w < 2 ^ 64) && (Insn.of w).ok w 64 0 && (Insn.of w).op == op &&
      (int.all fun b => (Insn.of w).format.isInt == b)) = true) : Issued ws op int := by
  intro w hw
  have := List.all_eq_true.1 h w hw
  simp only [Bool.and_eq_true, decide_eq_true_eq, beq_iff_eq] at this
  exact ⟨issues this.1.1.1, this.1.1.2, this.1.2, this.2⟩

theorem wit_FloatArithmeticWritesLanes : ∀ op ∈ [0x18, 0x19, 0x1A, 0x1B, 0x1C], Issued [word op 1 1 2 3 0 0, word op 0 1 2 3 4 0] op (some false) := by
  intro op h; simp only [List.mem_cons, List.not_mem_nil, or_false] at h
  rcases h with rfl | rfl | rfl | rfl | rfl <;> exact issued (by decide)
theorem wit_IntegerArithmeticWritesLanes : ∀ op ∈ [0x18, 0x19, 0x1A, 0x1B, 0x1C], Issued [word op 8 1 2 3 0 0, word op 9 1 2 3 8 0] op (some true) := by
  intro op h; simp only [List.mem_cons, List.not_mem_nil, or_false] at h
  rcases h with rfl | rfl | rfl | rfl | rfl <;> exact issued (by decide)
theorem wit_MaxMinWriteLanes : Issued [word 0x1D 1 1 2 3 0 0, word 0x1D 8 1 2 3 0 0] 0x1D none ∧ Issued [word 0x1E 1 1 2 3 0 0] 0x1E none :=
  ⟨issued (by decide), issued (by decide)⟩
def bitwiseWords : List Nat := (List.range 8).map fun f => word 0x21 8 1 2 (if f = 4 then 0 else 3) f 0
theorem wit_BitwiseWritesLanes : Issued bitwiseWords 0x21 (some true) ∧ bitwiseWords.map (fun w => (Insn.of w).fn % 8) = List.range 8 :=
  ⟨issued (by decide), by decide⟩
/-- The refused forms of `FN`[3], of the format and of `NOT`. -/
theorem wit_BitwiseWritesLanes_refused : [word 0x21 8 1 2 3 8 0, word 0x21 1 1 2 3 0 0, word 0x21 8 1 2 3 4 0].all
    (fun w => (Insn.of w).op == 0x21 && !(Insn.of w).ok w 64 0) = true := by decide
def moveWords : List Nat := (List.range 6).map fun f => word 0x22 9 1 (if f < 2 ∨ 3 < f then 2 else 0) 0 f (if 3 < f then 15 else 0)
theorem wit_MovesWriteRegisters : Issued moveWords 0x22 none ∧ moveWords.map (fun w => (Insn.of w).fn) = List.range 6 ∧
    (moveWords.all fun w => decide ((Insn.of w).imm < (Insn.of w).format.elems)) = true := ⟨issued (by decide), by decide, by decide⟩
def scalarWords : List Nat :=
  (List.range 17).map (fun f => word 0x23 0 1 (if f = 16 then 0 else 2) 3 f 0) ++ [word 0x23 0 1 0 0 49 0xFFFFFFFF, word 0x23 0 1 2 0 32 7]
theorem wit_ScalarsWriteRegister : Issued scalarWords 0x23 none ∧ scalarWords.map (fun w => (Insn.of w).fn % 32) = List.range 18 ++ [0] :=
  ⟨issued (by decide), by decide⟩
theorem wit_ScalarsWriteRegister_refused : [word 0x23 0 1 2 3 18 0, word 0x23 0 1 0 0 17 0, word 0x23 0 1 2 3 16 0, word 0x23 0 1 2 3 32 0].all
    (fun w => (Insn.of w).op == 0x23 && !(Insn.of w).ok w 64 0) = true := by decide
def predWords : List Nat := (List.range 9).map fun f => word 0x24 0 1 (if f = 5 then 0 else 2) (if f < 4 then 3 else 0) f 0
theorem wit_PredicatesWriteRegister : Issued predWords 0x24 none ∧ predWords.map (fun w => (Insn.of w).fn % 16) = List.range 9 :=
  ⟨issued (by decide), by decide⟩
theorem wit_PredicatesWriteRegister_refused : (Insn.of (word 0x24 0 1 2 3 9 0)).op = 0x24 ∧ 8 < (Insn.of (word 0x24 0 1 2 3 9 0)).fn := by decide
theorem wit_UnaryWritesLanes : Issued [word 0x25 8 1 2 0 0 0, word 0x25 8 1 2 0 16 0] 0x25 (some true) ∧
    Issued [word 0x25 1 1 2 0 0 0, word 0x25 1 1 2 0 16 0, word 0x25 1 1 2 0 32 0] 0x25 (some false) :=
  ⟨issued (by decide), issued (by decide)⟩
/-- One word for each relation, with 8, 16 and 32 elements at the ends of D. -/
def compareWords : List Nat := (List.range 7).map (fun f => word 0x1F 1 6 2 3 f 0) ++ [word 0x1F 0 0 2 3 0 0, word 0x1F 8 6 2 3 6 0]
theorem wit_CompareWritesPredicate : Issued compareWords 0x1F none ∧ aStrand.p.length = 8 ∧
    (compareWords.all fun w => decide ((Insn.of w).d < 7) && decide ((Insn.of w).fn % 8 < 7)) = true :=
  ⟨issued (by decide), by decide, by decide⟩
theorem wit_SelectWritesLanes : Issued [word 0x20 1 1 2 3 0 0, word 0x20 8 1 1 1 0 0] 0x20 none := issued (by decide)
theorem wit_AccumulateAddsOneItem : Issued [word 0x28 1 3 2 0 0 0, word 0x28 8 3 2 0 1 0, word 0x28 4 3 2 3 2 0] 0x28 none ∧
    Issued [word 0x29 1 0 2 3 0 0] 0x29 none ∧ Issued [word 0x2B 0 3 0 0 0 0] 0x2B none ∧ (∀ d, (aStrand.ar d).length = 16) := by
  refine ⟨issued (by decide), issued (by decide), issued (by decide), fun d => ?_⟩
  unfold Strand.ar aStrand
  rcases d with _ | _ | _ | _ | d <;> simp
theorem wit_RoundReadsAccumulator : Issued [word 0x2A 1 1 3 0 0 0, word 0x2A 0 1 3 0 16 0, word 0x2A 8 1 3 0 16 15] 0x2A none ∧
    ([word 0x2A 1 1 3 0 0 0, word 0x2A 0 1 3 0 16 0, word 0x2A 8 1 3 0 16 15].all fun w => !bitAt (Insn.of w).imm 4) = true :=
  ⟨issued (by decide), by decide⟩
theorem wit_PackJoinsLanes : Issued [word 0x30 1 1 2 0 0 3] 0x30 none := issued (by decide)
theorem wit_FilterAndConvertWriteResults : Issued [word 0x31 1 1 2 0 0 3] 0x31 none ∧ Issued [word 0x32 9 2 4 6 0 0] 0x32 none ∧
    Issued [word 0x2A 4 1 2 0 0 16] 0x2A none ∧ Issued [word 0x38 4 1 2 0 0 (16 + 5), word 0x38 1 1 2 0 0 2] 0x38 none ∧
    Issued [word 0x39 1 1 2 0 0 2, word 0x39 1 1 2 0 0 (16 + 4)] 0x39 none :=
  ⟨issued (by decide), issued (by decide), issued (by decide), issued (by decide), issued (by decide)⟩
theorem wit_FilterAndConvertWriteResults_forms : (Insn.of (word 0x38 4 1 2 0 0 (16 + 5))).sfmt.elems = 32 ∧
    bitAt (Insn.of (word 0x38 4 1 2 0 0 (16 + 5))).imm 4 = true ∧ bitAt (Insn.of (word 0x38 1 1 2 0 0 2)).imm 4 = false ∧
    bitAt (Insn.of (word 0x2A 4 1 2 0 0 16)).imm 3 = false := by decide
theorem wit_NopOnlyAdvances : Issued [0] 0 none := issued (by decide)
/-- Not taken on sA = 2 with condition 1; taken directly to 56, linked; taken to s8 = 8, and to a misaligned s2. -/
theorem wit_BranchesSetTheCounter : Issued [word 1 0 0 2 0 1 56, word 1 0 3 0 0 16 56, word 1 0 0 8 0 32 0, word 1 0 0 2 0 32 0] 1 none ∧
    Issued [word 2 0 0 0 0 0 0, word 2 0 0 1 0 0 0, word 2 0 0 2 0 0 0] 2 none ∧ brTaken 1 (aStrand.sr 2) 0 = false ∧
    brTaken 0 (aStrand.sr 0) 0 = true ∧ (Insn.of (word 1 0 0 8 0 32 0)).address aStrand = 8 ∧
    (Insn.of (word 1 0 0 2 0 32 0)).address aStrand % 8 ≠ 0 ∧ (Insn.of (word 1 0 3 0 0 16 56)).sext = 56 ∧
    aStrand.sr 0 = 0 ∧ aStrand.sr 1 = 1 ∧ aStrand.sr 2 = 2 := ⟨issued (by decide), issued (by decide), by decide⟩

/-! ## Strands that wait, stream and access memory -/

/-- A strand at text offset 0 of a program that begins with `w` issues it. -/
theorem issues_at {s : State} {k : Nat} {x : Strand} {n : Inst} {w : Nat} (hr : running s = true) (hx : tget s.seed.strands k = some x)
    (hn : tget s.seed.insts x.inst = some n) (hi : n.image = imageWith w) (hw : w < 2 ^ 64) (hm : canIssue s k x = true)
    (hp : x.pc = 0) (hb : scalarBusy x (Insn.of w) = false) : IssuesOn s k x n (Insn.of w) where
  running := hr
  strand := hx
  inst := hn
  word := ⟨w, by rw [hi, hp]; exact word_at w hw, rfl⟩
  may := hm
  free := hb
  next := by rw [hi, hp]; simp [imageWith]

/-- WAITE without an item; for a slot without a timetable; for a time that has come and one that has not; for a boundary; FENCE
with nothing outstanding; RAISE and HALT. -/
theorem wit_WaitsAndEndsChangeRunState : Issued [word 3 0 1 0 0 0 7, word 3 0 1 0 0 1 4095, word 3 0 1 0 0 2 0, word 3 0 1 2 0 2 0, word 3 0 1 0 0 3 0] 3 none ∧
    Issued [word 4 0 0 0 0 0 0] 4 none ∧ Issued [word 5 0 0 0 0 1 0, word 5 0 0 0 0 2 0] 5 none ∧ Issued [word 6 0 0 0 0 0 0x24] 6 none ∧
    Issued [word 7 0 0 0 0 0 0] 7 none ∧ aStrand.index = 0 ∧ aStrand.reqs = [] ∧
    waitedChan (issuing aStrand (word 3 0 1 0 0 0 7)) aStrand (instWith (word 3 0 1 0 0 0 7)) 7 = none ∧
    slotNow (issuing aStrand (word 3 0 1 0 0 1 4095)) 4095 = false ∧
    (aStrand.sr 0).toNat ≤ (issuing aStrand 0).clk.now ∧ (issuing aStrand 0).clk.now < (aStrand.sr 2).toNat :=
  ⟨issued (by decide), issued (by decide), issued (by decide), issued (by decide), issued (by decide), rfl, rfl, by decide, by decide,
    by decide, by decide⟩

/-- A strand of index 1 with a store of its own outstanding. -/
def outstanding : Strand := { aStrand with index := 1, reqs := [⟨7, 0, false, false, none, 8, 0, frame0, 0⟩] }
theorem wit_WaitsAndEndsChangeRunState_outstanding : (∀ w ∈ [word 5 0 0 0 0 2 0, word 7 0 0 0 0 0 0], IssuesOn (issuing outstanding w) 0 outstanding (instWith w) (Insn.of w)) ∧
    outstanding.reqs ≠ [] ∧ outstanding.index ≠ 0 := by
  refine ⟨fun w h => ?_, by decide, by decide⟩
  simp only [List.mem_cons, List.not_mem_nil, or_false] at h
  rcases h with rfl | rfl <;> exact issues_at rfl rfl rfl rfl (by decide) (by decide) rfl (by decide)

/-- Two strands of one instance: the other has halted, waits at the barrier, or runs. -/
def barrier (other : Strand) : State :=
  let n : Inst := { instWith (word 4 0 0 0 0 0 0) with image := { imageWith (word 4 0 0 0 0 0 0) with strands := 2 } }
  { issuing aStrand 0 with seed := { (issuing aStrand 0).seed with insts := [(5, n)], strands := [(0, aStrand), (1, other)] } }
theorem wit_WaitsAndEndsChangeRunState_barrier : (tget (barrier { aStrand with wait := .bar, index := 1 }).seed.insts 5).any
    (fun n => n.strands == [0, 1]) = true ∧ aStrand.pc + 8 < (imageWith 0).textLen ∧ (aStrand.wait == Wait.bar) = false := by decide

/-- A strand that awaits the time in s2 = 2, and its release. -/
theorem wit_WaiteRelease : (imageWith (word 3 0 1 2 0 2 0)).wordAt 0 = some (word 3 0 1 2 0 2 0) ∧ (Insn.of (word 3 0 1 2 0 2 0)).fn = 2 ∧
    (aStrand.sr 2).toNat < (instWith 0).limitAt ∧ (instWith 0).limitAt ≤ (2 ^ 64 - 1) ∧ epochNow (issuing aStrand 0) ≠ 1 :=
  ⟨word_at _ (by decide), by decide⟩

/-- A collective context whose instance is the strand's: an inner switch with one local contributor and one child. -/
def aRecord : ColRec where
  num := 3
  op := 0
  mean := false
  mxin := false
  ifmt := 1
  rfmt := 1
  rm := 0
  sat := false
  carry := 1
  chbuf := 1
  slot := 0
  elems := 64
  segelems := 64
  mcgroup := none
  nlocal := 1
  idxBase := 0
  ntotal := 2
  root := 0
  parent := 0x4002
  children := [⟨0x4003, 1, 1⟩]
  pkey := 0
  straggle := 0
  abortMs := 0
  seed := 0
  nodes := [5]
  raw := []

def aContext : ColCtx := ⟨aRecord, false, 0, some 5, 1, freshRecv, freshSend, false, [], 0, none, none, 0, 0, false, []⟩

def streaming (y : ColCtx) (w : Nat) : State :=
  let s := issuing aStrand w
  { s with seed := { s.seed with insts := [(5, { instWith w with launch := { aLaunch with by_ := .col 3 } })] }, col := { s.col with ctx := [(3, y)] } }

def item (bytes : List Byte) : RItem := ⟨0, 0, 1, true, bytes, 256, []⟩
def lanesOut : List Byte := (List.replicate 16 Lane.init.form).flatten

theorem streams {y : ColCtx} {w : Nat} (h : w < 2 ^ 64) (hy : y.inst = some 5) :
    IssuesOn (streaming y w) 0 aStrand { instWith w with launch := { aLaunch with by_ := .col 3 } } (Insn.of w) ∧
    chanCtx (streaming y w) aStrand { instWith w with launch := { aLaunch with by_ := .col 3 } } = some (3, y) :=
  ⟨issues_at rfl rfl rfl rfl h (by simp only [canIssue]; rfl) rfl rfl,
    by simp [chanCtx, streaming, tget, hy, aStrand]⟩

/-- Channel 0 is empty, or holds one item, registers or lanes; channel 1 may be sent on, unless 64 items wait; the context may have aborted. -/
theorem wit_StreamItemsMove : aRecord.recvBound 0 = true ∧ aRecord.sendBound 1 = true ∧ aContext.dead = false ∧ chanItems aContext 0 aStrand = [] ∧
    chanItems { aContext with recv := [⟨[item []], 256⟩, ⟨[], 0⟩, ⟨[], 0⟩] } 0 aStrand = [item []] ∧
    (Lane.readMany 16 lanesOut).any (fun p => !p.2) = true ∧ colUnsent aContext 1 < 64 ∧
    64 ≤ colUnsent { aContext with send := freshSend.set 1 ⟨List.replicate 64 ⟨0, 0, false, false, 1, [], []⟩, [], [], [], 0⟩ } 1 ∧
    aRecord.recvBound 3 = false ∧ aRecord.sendBound 0 = false := by decide +kernel
theorem wit_StreamItemsMove_words : [word 8 1 1 0 0 0 0, word 8 0 1 0 0 1 0, word 8 1 1 0 0 0 3, word 9 1 0 1 2 0 1, word 9 1 0 1 2 0 0,
    word 10 0 1 0 0 0 16].all (fun w => (Insn.of w).ok w 64 0) = true := by decide

theorem wit_GrantReturnsCredits : (Insn.of (word 11 0 0 1 0 0 (256 + 1))).op = 0x0B ∧ (Insn.of (word 11 0 0 1 0 0 257)).imm / 256 % 8 = 1 ∧
    (Insn.of (word 11 0 0 1 0 0 257)).ok (word 11 0 0 1 0 0 257) 64 0 = true ∧ aRecord.recvBound 1 = true ∧
    grantee aRecord 1 ((aStrand.sr 1).toNat % 16384) = some (1, 65537, 0x4003) ∧
    (aContext.recv.getD 1 ⟨[], 0⟩).used + 1 * aRecord.chanLen 1 ≤ aRecord.chbuf * 2 ^ 20 ∧
    ¬ (({ aContext with recv := freshRecv.set 1 ⟨[], 2 ^ 20⟩ } : ColCtx).recv.getD 1 ⟨[], 0⟩).used + 1 * aRecord.chanLen 1 ≤ aRecord.chbuf * 2 ^ 20 := by
  decide
theorem wit_GrantReturnsCredits_room : partRoom (counted (streaming aContext (word 11 0 0 1 0 0 257)) (instWith 0))
    (colPart (counted (streaming aContext (word 11 0 0 1 0 0 257)) (instWith 0)) aContext) (cellsOf (aRecord.chanLen 1)) = true := by decide +kernel

/-- s2 at the start of the pip store, s3 at the gallery store, s4 just past it, s5 misaligned, s1 and s8 in the fabric. -/
def pointers : Strand := { aStrand with s := ((aStrand.s.set 2 0x8000000000000000#64).set 3 0x8000000100000000#64).set 4 0x8000000100000040#64 }

def local_ (ws : List Nat) : Prop := ∀ w ∈ ws, IssuesOn (issuing pointers w) 0 pointers (instWith w) (Insn.of w)
theorem locals {ws : List Nat} (h : ws.all (fun w => decide (w < 2 ^ 64) && (Insn.of w).ok w 64 0) = true) : local_ ws := by
  intro w hw
  have := List.all_eq_true.1 h w hw
  simp only [Bool.and_eq_true, decide_eq_true_eq] at this
  exact issues_at rfl rfl rfl rfl this.1 (by simp only [canIssue]; rfl) rfl rfl

theorem wit_LocalAccessReadsAndStores : local_ [word 0x10 1 1 2 0 0 0, word 0x11 1 1 2 0 0 0, word 0x12 0 1 2 0 3 0, word 0x12 0 1 3 0 4 63, word 0x13 0 1 3 0 0 63,
      word 0x10 1 1 4 0 0 0, word 0x11 1 1 4 0 0 0, word 0x10 0 1 2 0 0 1, word 0x13 0 1 2 0 1 1] ∧
    spaceOf (instWith 0) 0x8000000000000000 64 = .pip 0 ∧ spaceOf (instWith 0) 0x800000010000003F 1 = .gal 63 ∧
    spaceOf (instWith 0) 0x8000000100000040 64 = .outside ∧ spaceOf (instWith 0) 0x8000000000000001 2 = .pip 1 ∧
    (Insn.of (word 0x12 0 1 3 0 4 63)).address pointers = 0x800000010000003F ∧ (Insn.of (word 0x12 0 1 3 0 4 63)).fnBit 2 = true :=
  ⟨locals (by decide), by decide⟩

/-- A strand with 16 requests outstanding has no room for one more. -/
def full : Strand := { aStrand with reqs := List.replicate 16 ⟨7, 0, false, false, none, 8, 0, frame0, 0⟩ }
theorem wit_FabricAccessSendsOneRequest : local_ [word 0x10 1 1 8 0 0 0, word 0x12 0 1 8 0 3 0, word 0x13 0 1 8 0 3 0, word 0x16 0 1 8 3 8 0] ∧
    (Insn.of (word 0x10 1 1 8 0 0 0)).address pointers = 8 ∧
    fabRoom (counted (issuing pointers 0) (instWith 0)) 0 pointers (fabPieces 8 64).length = true ∧
    fabRoom (counted (issuing full 0) (instWith 0)) 0 full 1 = false := ⟨locals (by decide), by decide⟩
theorem wit_FabricAccessSendsOneRequest_full : ∀ w ∈ [word 0x13 0 1 8 0 3 0, word 0x16 0 1 8 3 8 0], IssuesOn (issuing full w) 0 full (instWith w) (Insn.of w) := by
  intro w h; simp only [List.mem_cons, List.not_mem_nil, or_false] at h
  rcases h with rfl | rfl <;> exact issues_at rfl rfl rfl rfl (by decide) (by decide) rfl (by decide)

/-- Sixteen lanes at one address of the gallery store (vB is 0). -/
theorem wit_GatherScatterAtomIssue : local_ [word 0x14 9 1 3 5 0 2, word 0x15 9 1 3 5 0 2, word 0x16 0 1 3 5 0 0, word 0x16 0 1 3 5 9 56] ∧
    (∀ j, j < 16 → ((pointers.sr 3).toNat + laneOf (pointers.vr 5) j * 2 ^ 2) % 2 ^ 64 = 0x8000000100000000) ∧
    spaceOf (instWith 0) 0x8000000100000000 4 = .gal 0 ∧ fabRoom (counted (issuing pointers 0) (instWith 0)) 0 pointers 0 = true :=
  ⟨locals (by decide), by decide +kernel⟩

/-- Table 0 is live for partition 1, and has a pin or none of this instance. -/
def tabled (holds : List (Nat × Holder)) (w : Nat) : State :=
  let s := rset R.TBL_VALID 0 1 (rset R.TBL_PART 0 1 (issuing aStrand w))
  { s with tbl := { s.tbl with run := [(0, ⟨0, holds, [], []⟩)] } }
theorem wit_PinsAndAnswersComplete : Issued [word 0x17 0 1 0 0 0 0, word 0x17 0 1 0 0 1 0] 0x17 none ∧
    rbit (counted (tabled [] 0) (instWith 0)) R.TBL_VALID 0 = true ∧ rget (counted (tabled [] 0) (instWith 0)) R.TBL_PART 0 = 1 ∧
    pinRoom (counted (tabled [] 0) (instWith 0)) 0 (liveVer (counted (tabled [] 0) (instWith 0)) 0) = true ∧
    (tblOf (counted (tabled [(0, .inst 5)] 0) (instWith 0)) 0).holds.contains (liveVer (counted (tabled [(0, .inst 5)] 0) (instWith 0)) 0, .inst 5) = true ∧
    rbit (counted (issuing aStrand 0) (instWith 0)) R.TBL_VALID 0 = false := ⟨issued (by decide), by decide⟩
/-- The answer, of a status, to request 7 of a strand is in. -/
def answered (st : Nat) : State :=
  let s := issuing outstanding 0
  { s with hall := { s.hall with inbox := [(9, ⟨{ frame0 with cls := 1, rsv := 7, status := st }, 255, false, none, none, 0, false⟩)] } }
theorem wit_PinsAndAnswersComplete_answer : isAnswer 1 = true ∧ (ownAnswer (answered stOK) 7).any (fun p => p.1 == 9) = true ∧
    tget (answered stOK).seed.strands 0 = some outstanding ∧ (outstanding.reqs.find? (·.n == 7)).any (fun r => !r.isLoad && !r.isAtomic) = true ∧
    (tget (answered stDenied).seed.insts outstanding.inst).any (fun n => n.fault.isNone) = true ∧ stDenied ≠ stOK ∧ stDenied ≠ stReplayed := by
  decide +kernel

/-! ## A site: the machine in use, with a frame, a licence and an owner -/

/-- Node 0x4001, partition 1 with key 0; port 0 carries endpoint 5, port 1 the switch 0x4002, host 0 may own and is node 6. -/
def siteFrame : ProtFrame :=
  { ProtFrame.empty with
    nodeSelf := 0x4001, enabled := [1], keys := [(0, 1)]
    ports := [(0, ⟨1, 1, true, 5, 0, [0]⟩), (1, ⟨2, 0, false, 0x4002, 0, []⟩)]
    windows := [⟨1, true, 0, 0x43FF, 31, 0, 0xFFFFF⟩]
    host0 := ⟨true, true, 6, 1⟩, host1 := ⟨false, true, 7, 1⟩, holoneEn := true }

def site : State :=
  let s : State :=
    { State.reset with
      sec := { Shell.reset with frame := siteFrame, licence := some ⟨0, 0xFFFF, 1, []⟩ }
      boot := { Boot.reset with bootDone := true }
      pkg := { Package.reset with phase := .ready, asleep := [] } }
  rset R.NODE_SELF_NODE 0 0x4001 (rset R.START_STATUS_PHASE 0 4 (rset R.HOST_OWN_OWNER 0 1 (rset R.HOST_PORT_BARS_EN 0 1 s)))

/-- A frame on a port has come to the inbox as number 9. -/
def inbox (f : Frame) (port : Nat) : Inbox := ⟨f, port, false, none, some 1, 0, false⟩
def arrived (f : Frame) (port : Nat) : State := { site with hall := { site.hall with inbox := [(9, inbox f port)] } }
def entered (f : Frame) (port : Nat) : Nat × Bool × State := mayEnter 9 (inbox f port) (arrived f port)

theorem serves (f : Frame) (port : Nat) (h : isAnswer f.cls = false) :
    Serves (arrived f port) 9 (inbox f port) f (entered f port).1 (entered f port).2.1 (entered f port).2.2 where
  running := rfl
  inbox := rfl
  frame := rfl
  request := h
  here := rfl
  head := rfl
  enters := rfl

theorem hears (f : Frame) (port opc : Nat) (h : f.cls = 0) (ho : f.opc = opc) : Hears (arrived f port) 9 opc (inbox f port) where
  running := rfl
  inbox := rfl
  isOpc := ho
  ctl := h
  head := rfl

/-- Request of an opcode from endpoint 5 to a node, with a length and a payload. -/
def ask (opc dst len : Nat) (payload : List Byte) : Frame := { frame0 with cls := 4, opc := opc, dst := dst, len := len, payload := payload }

/-- Frame `f` on endpoint 5's port and on the side port: the first is tracked, the second is not. -/
theorem wit_tracked (f : Frame) : (entered f 0).2.1 = true ∧ (entered f 1).2.1 = false := ⟨rfl, rfl⟩

/-- A load here, one hop away, and beyond, with and without a job envelope. -/
theorem wit_LoadsAndStoresAtHome : nodeSelf (entered (ask 1 0x4001 64 []) 0).2.2 = 0x4001 ∧ oneHop (entered (ask 1 5 64 []) 0).2.2 5 = true ∧
    oneHop (entered (ask 1 0x100 64 []) 0).2.2 0x100 = false ∧ loadWaits (arrived (ask 1 0x4001 64 []) 0) 9 = false := by decide +kernel

/-- Stores of the pair before it: none, one that runs, one that failed. -/
def stored (ps : List PairStore) (f : Frame) : State := { arrived f 0 with track := { site.track with pairs := ps } }
def flagStore : Frame := { ask 2 0x4001 8 (List.replicate 8 0#8) with of_ := true }
theorem wit_LoadsAndStoresAtHome_order :
    pairClear (mayEnter 9 (inbox flagStore 0) (stored [] flagStore)).2.2 9 flagStore = true ∧
    pairFailed (mayEnter 9 (inbox flagStore 0) (stored [] flagStore)).2.2 9 flagStore = false ∧
    pairClear (mayEnter 9 (inbox flagStore 0) (stored [⟨5, 0x4001, 3, false, none⟩] flagStore)).2.2 9 flagStore = false ∧
    pairClear (mayEnter 9 (inbox flagStore 0) (stored [⟨5, 0x4001, 3, false, some false⟩] flagStore)).2.2 9 flagStore = true ∧
    pairFailed (mayEnter 9 (inbox flagStore 0) (stored [⟨5, 0x4001, 3, false, some false⟩] flagStore)).2.2 9 flagStore = true := by
  decide +kernel

/-- A held `OF` store of the bytes is before the load; it may go now. -/
def heldStore : Track := ⟨.port 0, flagStore, flagStore, 0, 0, true, some 1, 0⟩
def holding (f : Frame) : State := { arrived f 0 with track := { site.track with reqs := [(3, heldStore)] } }
theorem wit_LoadsAndStoresAtHome_held : loadWaits (holding (ask 1 0x4001 64 [])) 9 = true ∧ running (holding frame0) = true ∧
    tget (holding frame0).track.reqs 3 = some heldStore ∧ heldStore.held = true ∧ pairClear (holding frame0) 3 flagStore = true ∧
    flagStore.dst = nodeSelf (holding frame0) ∧
    pairFailed { holding frame0 with track := { (holding frame0).track with reqs := [(3, { heldStore with held := false })] } } 3 flagStore = false := by
  decide +kernel

/-- An atomic of 24 bytes, issued at 0 µs. -/
def anAtomic : Frame := ask 0x10 0x4001 24 (List.replicate 24 0#8)
def anEntry (pending : Bool) (check : Nat) : AnswerEntry := ⟨5, 0, pending, check, 0, 0, 100, 4, []⟩
def remembered (es : List AnswerEntry) (f : Frame) : State :=
  (mayEnter 9 (inbox f 0) { arrived f 0 with track := { site.track with answers := es } }).2.2
/-- It is new and fresh; a repeat is answered, pending or reuses its tag; one is too young, too old or malformed. -/
theorem wit_AtomicsAtHomeReturnOld : anAtomic.dst = nodeSelf (remembered [] anAtomic) ∧ isAtomicOpc anAtomic.opc = true ∧ anAtomic.len = 24 ∧
    anAtomic.offset % atomicWidth 0x10 = 0 ∧ entryOf (remembered [] anAtomic) 5 0 = none ∧
    entryOf (remembered [anEntry false 7] anAtomic) 5 0 = some (anEntry false 7) ∧
    atomicAge (remembered [] anAtomic) anAtomic = 0 ∧ ¬ (ageWindow (remembered [] anAtomic) : Int) ≤ 0 ∧
    issuedTooEarly (remembered [] anAtomic) anAtomic = false ∧
    atomicAge (remembered [] anAtomic) (ask 0x10 0x4001 24 (List.replicate 17 0#8 ++ [4#8])) = -1024 ∧
    issuedTooEarly { remembered [] anAtomic with track := { site.track with acceptFrom := 1 } } anAtomic = true ∧
    leAt (List.replicate 20 0#8 ++ [0x10#8]) 20 1 = 0x10 ∧ (ask 0x10 0x4001 23 []).len ≠ 24 := by decide +kernel
/-- The entry of an answered atomic; a load that went out as a block read, and its answer. -/
def asked : Track := ⟨.port 0, ask 1 0x100 64 [], blockGet (ask 1 0x100 64 []), 0, 0, false, some 1, 0⟩
def anAnswer (st : Nat) : Frame := { frame0 with cls := 1, opc := 0xA1, src := 0x100, dst := 5, status := st }
def closing : State := { arrived (anAnswer 0) 1 with track := { site.track with reqs := [(3, asked)], answers := [anEntry false 7] } }
def passed : Track := { asked with sent := asked.orig }
def passing : State := { closing with track := { closing.track with reqs := [(3, passed)] } }
theorem wit_BulkAndTrackerComplete : running closing = true ∧ entryOf closing 5 0 = some (anEntry false 7) ∧ (anEntry false 7).pending = false ∧
    tget closing.hall.inbox 9 = some (inbox (anAnswer 0) 1) ∧ isAnswer (anAnswer 0).cls = true ∧
    (findTrack (takeInbox 9 closing) (anAnswer 0)).any (fun p => p.1 == 3) = true ∧ converted asked = true ∧ (anAnswer 0).status ≠ stRouteStale ∧
    tget closing.track.reqs 3 = some asked ∧ converted passed = false ∧ passes passed = true ∧
    (findTrack (takeInbox 9 passing) (anAnswer 0)).any (fun p => p.1 == 3) = true ∧
    (payloadBound (takeInbox 9 passing) passed.orig.src).any (fun b => decide (b < (anAnswer 0).payload.length)) = false ∧ (ask 0xA0 0x4001 64 []).dst = nodeSelf (entered (ask 0xA0 0x4001 64 []) 1).2.2 := by decide +kernel

/-! ## Coherence -/

/-- Endpoint 5 is registered in slot 0, or is not. -/
def caching (slots : Tab CSlot) (f : Frame) : State :=
  let s := arrived f 0
  rset R.PEER_CAPS_CAPS 0 1024 { s with coh := ⟨slots, [⟨0, 128, 2, 0, 0⟩, ⟨0, 256, 3, 0, 1⟩], [(4, ⟨0, 128, true, 2, 0, 1, 5⟩)], 2⟩ }
theorem wit_CoherentRequestsMoveLines :
    (∀ opc ∈ [0x40, 0x41, 0x42, 0x43, 0x44], (ask opc 0x4001 (if opc = 0x43 then 128 else 0) []).offset % 128 = 0) ∧
    (regSlot (mayEnter 9 (inbox (ask 0x40 0x4001 0 []) 0) (caching [(0, ⟨5, 1, 1, 64, 0⟩)] (ask 0x40 0x4001 0 []))).2.2 5).isSome = true ∧
    regSlot (entered (ask 0x40 0x4001 0 []) 0).2.2 5 = none ∧ (ask 0x40 0x4001 1 []).len ≠ 0 ∧ (ask 0x40 5 0 []).dst ≠ 0x4001 := by decide +kernel

/-- `CACHE_DECLARE` of 64 lines, new or a second time; from a port without the capability; and a release. -/
def aDeclare : Frame := { frame0 with opc := 0xF4, payload := toLE 4 64 }
theorem wit_RegistrationHoldsSlots : Hears (arrived aDeclare 0) 9 0xF4 (inbox aDeclare 0) := hears _ _ _ rfl rfl
theorem wit_RegistrationHoldsSlots_cases : bitAt (rget (takeInbox 9 (caching [] aDeclare)) R.PEER_CAPS_CAPS 0) 10 = true ∧
    slotOfNode (takeInbox 9 (caching [] aDeclare)) 5 = none ∧ leAt aDeclare.payload 0 4 = 64 ∧ leaseRoom (takeInbox 9 (caching [] aDeclare)) 5 = true ∧
    lowestFree (takeInbox 9 (caching [] aDeclare)).coh.slots 64 = some 0 ∧
    slotOfNode (takeInbox 9 (caching [(0, ⟨5, 1, 1, 64, 0⟩)] aDeclare)) 5 = some (0, ⟨5, 1, 1, 64, 0⟩) ∧
    bitAt (rget (takeInbox 9 (arrived aDeclare 0)) R.PEER_CAPS_CAPS 0) 10 = false ∧
    regSlot (takeInbox 9 (caching [(0, ⟨5, 1, 1, 64, 0⟩)] { frame0 with opc := 0xF6 })) 5 = some (0, ⟨5, 1, 1, 64, 0⟩) ∧
    regSlot (takeInbox 9 (arrived { frame0 with opc := 0xF6 } 0)) 5 = none := by decide +kernel

/-- The answer of the cache to snoop 4, with data or without. -/
def snooped : Frame := { frame0 with cls := 1, opc := 0x90, tag := 4, dst := 0x4001, src := 5, payload := List.replicate 128 0#8 }
theorem wit_SnoopsAndStaleEnd : running (caching [(0, ⟨5, 1, 1, 64, 0⟩)] snooped) = true ∧
    tget (caching [(0, ⟨5, 1, 1, 64, 0⟩)] snooped).hall.inbox 9 = some (inbox snooped 0) ∧ snooped.dst = nodeSelf (caching [(0, ⟨5, 1, 1, 64, 0⟩)] snooped) ∧
    tget (caching [(0, ⟨5, 1, 1, 64, 0⟩)] snooped).coh.snoops snooped.tag = some ⟨0, 128, true, 2, 0, 1, 5⟩ ∧
    tget (caching [(0, ⟨5, 1, 1, 64, 0⟩)] snooped).coh.slots 0 = some ⟨5, 1, 1, 64, 0⟩ ∧ snooped.status = stOK ∧ 128 ≤ snooped.payload.length := by
  decide +kernel

/-! ## Commands of the owner -/

/-- The 64 bytes of a command (R490): code, length of its buffer, arguments. -/
def cmdBytes (code bufLen : Nat) (args : List Byte) : List Byte :=
  toLE 2 code ++ [0#8, 0#8] ++ toLE 4 1 ++ toLE 8 0 ++ toLE 4 bufLen ++ toLE 4 0 ++ slice args 0 40
def theCmd (code bufLen : Nat) (args : List Byte) : Cmd := cmdOf (cmdBytes code bufLen args)

/-- The site with that command alone in host 0's queue, and after it has been taken. -/
def commandedIn (s : State) (code bufLen : Nat) (args : List Byte) : State := setHost 0 { HostPort.down with queue := [⟨cmdBytes code bufLen args⟩] } s
def takenIn (s : State) (code bufLen : Nat) (args : List Byte) : State :=
  setHost 0 { hostPort (commandedIn s code bufLen args) 0 with queue := [] } (commandedIn s code bufLen args)
def commanded := commandedIn site
def taken := takenIn site

theorem beginsIn {s : State} {code bufLen : Nat} {args : List Byte} {busy : Cmd → List BCmd → Bool} (hr : running s = true) (ho : isOwner s 0 = true)
    (h : ((theCmd code bufLen args).code == code && !busy (theCmd code bufLen args) [] && !(theCmd code bufLen args).badForm) = true) :
    Begins (commandedIn s code bufLen args) 0 code busy (theCmd code bufLen args) [] (takenIn s code bufLen args) := by
  simp only [Bool.and_eq_true, beq_iff_eq, Bool.not_eq_true'] at h
  exact ⟨hr, by decide, ⟨⟨cmdBytes code bufLen args⟩, rfl, rfl⟩, h.1.1, h.1.2, h.2, .inl ho, rfl⟩

theorem begins {code bufLen : Nat} {args : List Byte} {busy : Cmd → List BCmd → Bool}
    (h : ((theCmd code bufLen args).code == code && !busy (theCmd code bufLen args) [] && !(theCmd code bufLen args).badForm) = true) :
    Begins (commanded code bufLen args) 0 code busy (theCmd code bufLen args) [] (taken code bufLen args) :=
  beginsIn rfl (by decide +kernel) h

/-- `STALE_CLEAR` by line and by slot, and of a reserved kind; `STALE_QUERY` of every slot. -/
theorem wit_SnoopsAndStaleEnd_cmds :
    (∀ args ∈ [[0#8] ++ List.replicate 7 0#8 ++ toLE 8 256, [1#8] ++ List.replicate 7 0#8 ++ toLE 8 63, [2#8]],
      Begins (commanded 0x31 0 args) 0 0x31 neverBusy (theCmd 0x31 0 args) [] (taken 0x31 0 args)) ∧
    Begins (commanded 0x32 64 [0xFF#8]) 0 0x32 neverBusy (theCmd 0x32 64 [0xFF#8]) [] (taken 0x32 64 [0xFF#8]) := by
  refine ⟨fun args h => ?_, begins (by decide +kernel)⟩
  simp only [List.mem_cons, List.not_mem_nil, or_false] at h
  rcases h with rfl | rfl | rfl <;> exact begins (by decide +kernel)
theorem wit_SnoopsAndStaleEnd_args : (theCmd 0x31 0 ([0#8] ++ List.replicate 7 0#8 ++ toLE 8 256)).arg 8 8 = 256 ∧
    (theCmd 0x31 0 ([1#8] ++ List.replicate 7 0#8 ++ toLE 8 63)).arg 8 8 = 63 ∧ 1 < (theCmd 0x31 0 [2#8]).arg 0 1 ∧
    (theCmd 0x32 64 [0xFF#8]).arg 0 1 = 0xFF ∧ (theCmd 0x32 64 [0xFF#8]).bufLen / 8 = 8 ∧
    ((caching [] frame0).coh.tags.filter fun g => g.state == 3) ≠ [] := by decide +kernel

/-! ## Stairs and trays -/

/-- Granule 0 moves from stair 0 to stair 1 under a move `m`; its source waits in the list of those to free. -/
def moving (m : Move) (destStair : Nat) : State :=
  { site with pool := { site.pool with
      map := [(0, ⟨0, 0, false, true, 1, 0, destStair, 0, 0, 0, 0, 1, [0, 0, 0, 0], false⟩)], moves := [(0, m)], freeing := [⟨0, 0, 0, 1, 5⟩] } }
theorem wit_GranuleMovesChangeSource : running (moving ⟨.wing, 4, 1, none, 0⟩ 0) = true ∧ tget (moving ⟨.wing, 4, 1, none, 0⟩ 0).pool.moves 0 = some ⟨.wing, 4, 1, none, 0⟩ ∧
    moveCopies (moving ⟨.wing, 3, 1, none, 0⟩ 0) 0 = true ∧ (1 : Mask256) ≠ 0 ∧ moveCopies (moving ⟨.wing, 0, 0, none, 0⟩ 0) 0 = true ∧
    moveCopies { moving ⟨.wing, 0, 0, some 3, 0⟩ 0 with pool := { (moving ⟨.wing, 0, 0, some 3, 0⟩ 0).pool with bad := [0] } } 0 = false := by decide +kernel

/-- An operation on set 0, of three trays in parity, that waits for tray 0. -/
def operating (o : TierOp) (other : TrayState := .slow) : State :=
  rset R.SET_VALID 0 1 (rset R.SET_NTRAYS 0 3 { site with pool := { site.pool with ops := [(4, o)], trays := [(1, ⟨other, 9, some 0, [], 0, 0, 0⟩), (2, ⟨.rebuilding, 9, none, [], 0, 0, 0⟩)] } })
def tierOp (kind : TierKind) (trays : List Nat) (attempt : Nat) : TierOp := ⟨0, 0, kind, 0, 0, 0, 0, 64, attempt, trays, false, 0, 5000, false⟩
theorem wit_TraysRetire : running (operating (tierOp .write [0, 1] 1)) = true ∧ tget (operating (tierOp .write [0, 1] 1)).pool.ops 4 = some (tierOp .write [0, 1] 1) ∧
    (tierOp .write [0, 1] 1).trays.contains 0 = true ∧ [0, 1].erase 0 ≠ [] ∧ [0].erase 0 = [] ∧ (tierOp .read [0] 1).attempt = 1 ∧
    secondTrays (trayError 0 0 (operating (tierOp .read [0] 1))) 0 (placeOf (trayError 0 0 (operating (tierOp .read [0] 1))) 0 0 0) [0] ≠ [] ∧
    secondTrays (trayError 0 0 (operating (tierOp .read [0] 1) .failed)) 0
      (placeOf (trayError 0 0 (operating (tierOp .read [0] 1) .failed)) 0 0 0) [0] = [] := by decide +kernel
theorem wit_TraysRetire_states : rbit (operating (tierOp .read [0] 1)) R.SET_VALID 0 = true ∧ 0 < rget (operating (tierOp .read [0] 1)) R.SET_NTRAYS 0 ∧
    (trayOf (operating (tierOp .read [0] 1)) 0 0).state = .up ∧ (trayOf (operating (tierOp .read [0] 1)) 0 1).state = .slow ∧
    (trayOf (operating (tierOp .read [0] 1)) 0 1).belowSince = some 0 ∧ (trayOf (operating (tierOp .read [0] 1)) 0 2).state = .rebuilding ∧
    unitsOpen (operating (tierOp .read [0] 1)) 0 2 = unitsAhead (operating (tierOp .read [0] 1)) 0 2 := by decide +kernel
theorem wit_TraysRetire_query : Begins (commanded 0x30 16 (toLE 4 (2 ^ 20 - 2) ++ toLE 4 2)) 0 0x30 neverBusy (theCmd 0x30 16 (toLE 4 (2 ^ 20 - 2) ++ toLE 4 2)) []
      (taken 0x30 16 (toLE 4 (2 ^ 20 - 2) ++ toLE 4 2)) ∧
    (theCmd 0x30 16 (toLE 4 (2 ^ 20 - 2) ++ toLE 4 2)).arg 0 4 + (theCmd 0x30 16 (toLE 4 (2 ^ 20 - 2) ++ toLE 4 2)).arg 4 4 = 2 ^ 20 :=
  ⟨begins (by decide +kernel), by decide +kernel⟩

/-! ## Power -/

/-- A live timetable of one slot, with an entry that uses gallery 0. -/
def planned : State :=
  rset R.TT_STATUS_LIVE 0 1 (rset R.TT_STATUS_NSLOTS 0 1 { site with col := { site.col with
    live := some ⟨1, 1000, 7, [], [⟨0, 1, 0, 0, 0, 0, 0, 1, 0, [], false⟩], 0⟩ } })
def sleeping (g : Gallery) : State :=
  { planned with seed := { planned.seed with gals := planned.seed.gals.set 0 g },
                 pkg := { planned.pkg with asleep := [.gallery 3], waking := [(.gallery 3, 0)] } }
theorem wit_SleepAndWakeUnits : (galOf (sleeping { Gallery.empty with paused := some 3 }) 0).paused = some 3 ∧
    galRuns (sleeping { Gallery.empty with point := 1 }) 0 = true ∧ galWork (sleeping { Gallery.empty with point := 1 }) 0 = false ∧
    nextUse (sleeping { Gallery.empty with point := 1 }) 0 0 = some 0 ∧ nextUse (sleeping { Gallery.empty with point := 1 }) 0 1 = none ∧
    sleeps site (.stack 0) = false ∧ site.boot.stackBad.contains 0 = false ∧
    (sleeping Gallery.empty).pkg.waking.find? (fun x => x.1 == sleepUnit 0 3) = some (.gallery 3, 0) := by decide +kernel
theorem wit_SleepAndWakeUnits_wake : nextUse { planned with pkg := { planned.pkg with asleep := [.gallery 0] } } 0 0 = some 0 ∧
    sleeps { planned with pkg := { planned.pkg with asleep := [.gallery 0] } } (sleepUnit 0 0) = true ∧ 0 - wakeNs 0 - 1000 < planned.clk.nextB := by
  decide +kernel
/-- A port that is up on its four lanes with the bit that lets lanes sleep. -/
def linked (lst : Nat) : State := rset R.LINK_STATUS_LSTATE 0 lst (rset R.LINK_STATUS_RX_LANES 0 15 (rset R.LINK_STATUS_TX_LANES 0 15
  (rset R.LINK_CTL_SLEEP_EN 0 1 site)))
theorem wit_SleepAndWakeUnits_lanes : bestMask (atTime (lastUse (linked 4) (.lane 0) + laneIdleNs (linked 4)) (linked 4)) 0 1 = some 1 ∧ linkUp (linked 4) 0 = true ∧
    rbit (linked 4) R.LINK_CTL_SLEEP_EN 0 = true ∧ (linkOf (linked 4) 0).txWait = [] ∧ (linkOf (linked 4) 0).widthSent = none ∧
    1 < maskWidth (txMask (linked 4) 0) := by decide +kernel

theorem wit_PowerAndHeatActions : running site = true ∧ atSlot { planned with col := { planned.col with slotsDone := 1 } } = true ∧ site.pkg.govAt ≠ some site.clk.now ∧
    atSlot site = false ∧ nextMultiple 20000 site.pkg.govAt site.clk.now ≤ site.clk.nextB ∧
    nextMultiple 1000000 site.pkg.effAt site.clk.now ≤ site.clk.nextB ∧ site.pkg.dieHot = false ∧ site.pkg.dieCool = true ∧
    site.pkg.phase ≠ .off ∧ site.pkg.phase ≠ .standby ∧ site.pkg.phase ≠ .tripped ∧ 1150 ≤ hottest [20, 1150] ∧ i3cOn site = true ∧
    (i3cReg 0).isSome = true ∧ i3cReg 4 = none ∧ site.res.measuring = none := by decide +kernel

/-! ## Frames and the Hall -/

/-- The bytes of a frame whose tail is right: a lease renewal of endpoint 5, of key 0, and one of a foreign key. -/
def renewal : Frame := { frame0 with opc := 0xF2, dst := 0x4001, pcrc := pcrcOf [] }
def wholeFrame : List Byte := frameBytes renewal
theorem wit_IngressChecksRefuse : running (linked 4) = true ∧ isEth (linked 4) 0 = false ∧ lstate (linked 4) 0 = 4 ∧ isEndpointPort (linked 4) 0 = true ∧
    parseFrame wholeFrame = renewal ∧ tailFlaw false renewal = 0 ∧ tailFlaw false { renewal with ver := 1 } = 0 ∧
    (landFor (linked 4) 0 renewal).isSome = true ∧
    ingressStatus (linked 4) 0 renewal = none ∧ (admitColour 0 renewal (countIn 0 renewal (linked 4))).1 = true ∧
    genState (linked 4) renewal.g ≠ .retired ∧ genState (linked 4) 1 = .retired ∧ ingressStatus (linked 4) 0 { renewal with pkey := 9 } = some stPkey ∧
    tailFlaw false { renewal with tailBad := true } = 4 ∧ cutThrough (linked 4) 0 { renewal with tailBad := true } = false := by decide +kernel
/-- The port has no cells left for the frame, or a policer that drops every frame. -/
theorem wit_IngressChecksRefuse_ends : landFor (rset R.PLAND_HEADROOM 0 0 { linked 4 with hall := { (linked 4).hall with off := [(0, 2 ^ 5)] } }) 0
    { renewal with cls := 5 } = none := by decide +kernel

/-- An Ethernet frame: a shim of opcode 0xA0 and 8 bytes. -/
def etherBytes : List Byte := toLE 1 0xA0 ++ toLE 1 0 ++ toLE 2 0x4001 ++ toLE 4 0 ++ toLE 2 8 ++ toLE 6 0 ++ List.replicate 8 0#8
def ether : State := rset R.LINK_CTL_PERSONALITY 0 1 (linked 4)
theorem wit_EdgeFramesEnter : isEth ether 0 = true ∧ portUp ether 0 = true ∧ etherBytes.length + 18 ≤ 9216 ∧ 16 ≤ etherBytes.length ∧
    9216 < (List.replicate 9199 0#8).length + 18 ∧ (shimFrame { ether with hall := { ether.hall with ethPeer := tput ether.hall.ethPeer 0 0 9 } } 0 etherBytes).opc = 0xA0 ∧
    (shimFrame { ether with hall := { ether.hall with ethPeer := tput ether.hall.ethPeer 0 0 9 } } 0 etherBytes).len = 8 ∧ ethOpc 0xA0 = true := by decide +kernel
theorem wit_EdgeFramesEnter_host : barsOn site 0 = true ∧ rget site R.START_STATUS_PHASE 0 ≠ 5 ∧
    rbit (wakeHall (rset R.APERTURE_EN 15 1 site)) R.APERTURE_EN (0 * 16 + 15) = true ∧ isReady (wakeHall site) = true ∧
    ingressStatus (wakeHall site) 128 (apertureFrame (wakeHall (rset R.APERTURE_PKEY 15 0 (rset R.APERTURE_NODE 15 0x4001 site))) 0 15 0 8 false []) = none ∧
    ingressStatus (wakeHall site) 128 (apertureFrame (wakeHall (rset R.APERTURE_PKEY 15 9 (rset R.APERTURE_NODE 15 0x4001 site))) 0 15 0 8 false []) = some stPkey := by decide +kernel
/-- A request that has reached host 0, within its window or not. -/
def bound : State := rset R.INBOUND_LEN_LEN 0 64
  { site with hall := { site.hall with inbox := [(9, ⟨ask 1 6 64 [], 0, false, some 0, some 1, 0, false⟩)] } }
theorem wit_EdgeFramesEnter_inbound : running bound = true ∧ (tget bound.hall.inbox 9).any (fun i => i.host == some 0 && isHead bound 9 i) = true ∧
    0 + 64 ≤ rget (takeInbox 9 bound) R.INBOUND_LEN_LEN 0 ∧ ¬ 1 + 64 ≤ rget (takeInbox 9 bound) R.INBOUND_LEN_LEN 0 := by decide +kernel

theorem wit_HallTimesEndWaits : running site = true ∧ quietPattern (rset R.QSLOT_OWNED 63 1 site) = true ∧ quietPattern site = false ∧ site.hall.auditEnds = none ∧
    site.hall.gen0 = .live ∧ min site.hall.auditSeen site.hall.lostCells = 0 ∧ (∀ n, n < 128 → portUp site n = false) := by decide +kernel
/-- An old generation, an audit that runs and one that frees cells are states as well: the fields are free. -/
theorem wit_HallTimesEndWaits_old : ({ site.hall with gen0 := .old 7 } : Hall).gen0 = .old 7 ∧
    (∀ x, ({ site.hall with gen1 := .old 7 } : Hall).gen0 ≠ .old x) ∧ min (3 : Nat) 2 ≠ 0 := ⟨rfl, fun _ => nofun, by decide⟩

/-! ## Launches and instances -/

/-- The image of one `HALT` (R97), with its check. -/
def imageHead : List Byte := toLE 4 0x44454553 ++ toLE 4 1 ++ toLE 4 8 ++ toLE 12 0 ++ toLE 4 257 ++ toLE 32 0
def imageText : List Byte := toLE 8 (word 7 0 0 0 0 0 0)
def anImage : List Byte := imageHead ++ toLE 4 (crc32c (imageHead ++ List.replicate 4 0#8 ++ imageText)) ++ imageText
theorem test_image_passes : (imageOf anImage).any (fun m => m.textLen == 8 && m.pips == 1 && m.strands == 1) = true := by decide +kernel

/-- The site with that program live in slot 0 for partition 1, and gallery 0 granted to partition 1. -/
def programmed : State := rset R.GALLERY_GRANT_MASK 1 1
  { site with seed := { site.seed with slots := [(0, ⟨1, imageWith (word 7 0 0 0 0 0 0), 1⟩)] } }
def launching (f : Frame) : State := { programmed with hall := { site.hall with inbox := [(9, inbox f 0)] } }
def launchBytes (slot gal : Nat) : List Byte := toLE 2 slot ++ toLE 1 1 ++ toLE 1 gal ++ List.replicate 68 0#8
def aLaunchFrame (slot gal : Nat) : Frame := ask 0x30 0x4001 72 (launchBytes slot gal)
theorem wit_LaunchesStartInstances (f : Frame) (h : isAnswer f.cls = false) :
    Serves (launching f) 9 (inbox f 0) f 9 true (mayEnter 9 (inbox f 0) (launching f)).2.2 where
  running := rfl
  inbox := rfl
  frame := rfl
  request := h
  here := rfl
  head := rfl
  enters := rfl
theorem wit_LaunchesStartInstances_cases : (tget (mayEnter 9 (inbox (aLaunchFrame 0 0) 0) (launching (aLaunchFrame 0 0))).2.2.track.reqs 9).isSome = true ∧
    nodeSelf (launching frame0) = 0x4001 ∧ launchForm (launchBytes 0 0) = true ∧ launchForm (launchBytes 1024 0) = false ∧
    launchStatus (launching frame0) (launchOf (launchBytes 0 0) (.request 9) 1 0 5 0x4001 0 0 none) = none ∧
    launchStatus (launching frame0) (launchOf (launchBytes 1 0) (.request 9) 1 0 5 0x4001 0 0 none) = some stIllegal ∧
    oneHop (launching frame0) 5 = true := by decide +kernel
theorem wit_LaunchesStartInstances_cmds : Begins (commandedIn programmed 0x11 72 []) 0 0x11 neverBusy (theCmd 0x11 72 []) [] (takenIn programmed 0x11 72 []) ∧
    Begins (commandedIn programmed 0x12 0 (toLE 8 5)) 0 0x12 neverBusy (theCmd 0x12 0 (toLE 8 5)) [] (takenIn programmed 0x12 0 (toLE 8 5)) ∧
    (∀ n ∈ [0, 72], Begins (commanded 0x10 n (toLE 2 1023 ++ [63#8])) 0 0x10 neverBusy (theCmd 0x10 n (toLE 2 1023 ++ [63#8])) []
      (taken 0x10 n (toLE 2 1023 ++ [63#8]))) := by
  refine ⟨beginsIn rfl (by decide +kernel) (by decide +kernel), beginsIn rfl (by decide +kernel) (by decide +kernel), fun n h => ?_⟩
  simp only [List.mem_cons, List.not_mem_nil, or_false] at h
  rcases h with rfl | rfl <;> exact begins (by decide +kernel)
theorem wit_LaunchesStartInstances_args : launchStatus (beginB 0 (theCmd 0x11 72 []) 1 (takenIn programmed 0x11 72 []))
      { launchOf (slice (launchBytes 0 0) 0 72) (.host 0 1) 1 0 0x7FFF 0x4001 0 0xFF none with early := false } = none ∧
    thas (issuing aStrand 0).seed.insts 5 = true ∧ thas (takenIn programmed 0x12 0 (toLE 8 5)).seed.insts 5 = false ∧
    (theCmd 0x12 0 (toLE 8 5)).arg 0 8 = 5 ∧ (theCmd 0x10 72 (toLE 2 1023 ++ [63#8])).arg 0 2 = 1023 ∧
    (imageOf (slice anImage 0 72)).isSome = true ∧ imageOf (slice [] 0 72) = none := by decide +kernel
/-- A launch waits in gallery 0's queue with a deadline, or without one. -/
def queued (d : Option Nat) (x : Gallery) : State :=
  { programmed with seed := { programmed.seed with gals := programmed.seed.gals.set 0 { x with queue := [{ aLaunch with by_ := .request 9, deadline := d }] } } }
theorem wit_LaunchesStartInstances_deadline : (queued (some 7) Gallery.empty).seed.held.find? (fun q => q.by_ == .request 9 && q.deadline.isSome) = none ∧
    (List.range 32).find? (fun k => (galOf (queued (some 7) Gallery.empty) k).queue.any fun q => q.by_ == .request 9 && q.deadline.isSome) = some 0 := by
  decide +kernel

theorem wit_InstancesEndOnce : running (queued none Gallery.empty) = true ∧ (galOf (queued none Gallery.empty) 0).queue ≠ [] ∧
    sleeps (queued none Gallery.empty) (.gallery 0) = false ∧ (galOf (queued none Gallery.empty) 0).zeroFor = none ∧
    foreign (queued none Gallery.empty) 0 1 = false ∧ (progSlot (queued none Gallery.empty) 0).isSome = true ∧
    keyPart (queued none Gallery.empty) 0 = some 1 ∧ mustZero (galOf (queued none Gallery.empty) 0) 1 = false ∧
    1 ≤ ((freePips (queued none Gallery.empty) 0).take 1).length ∧
    mustZero (galOf (queued none { Gallery.empty with needZero := true, resident := some 2 }) 0) 1 = true ∧
    galIdle (queued none { Gallery.empty with needZero := true, resident := some 2 }) 0 = true ∧
    (galOf (queued none { Gallery.empty with batches := [3] }) 0).batches ≠ [] := by decide +kernel
theorem wit_InstancesEndOnce_pages : 2 ≤ (openPages (evictTexts 0 2 1 0 (queued none Gallery.empty)) 0).length := by decide +kernel
theorem wit_InstancesEndOnce_zero : (galOf (queued none { Gallery.empty with zeroFor := some 1 }) 31).zeroFor = none ∧
    (galOf (queued none { Gallery.empty with zeroFor := some 1 }) 0).zeroFor = some 1 ∧
    (queued none { Gallery.empty with zeroFor := some 1 }).seed.gals.length = 32 ∧ Memory.wf (queued none Gallery.empty).seed.galMem = true ∧
    Memory.wf (queued none Gallery.empty).seed.pipMem = true := by decide +kernel
theorem wit_InstancesEndOnce_end : instQuiet (issuing { aStrand with halted := true } 0) (instWith 0) = true ∧ instHalted (issuing { aStrand with halted := true } 0) (instWith 0) = true ∧
    (instWith 0).fault = none ∧ aLaunch.early = false ∧ tget (issuing aStrand 0).seed.insts 5 = some (instWith 0) ∧
    instQuiet (issuing outstanding 0) (instWith 0) = false := by decide +kernel

/-! ## Collectives -/

/-- Context 3 is in a state of its registers, and a frame for it waits. -/
def reducing (st : Nat) (x : ColCtx) (f : Frame) : State :=
  let s := arrived f 0
  rset R.COL_CTX_STATE 3 st { s with col := { s.col with ctx := [(3, x)] } }
theorem wit_CollectiveFramesAdvanceSegments (st : Nat) (x : ColCtx) (f : Frame) : TakesCol (reducing st x f) 9 f.opc (inbox f 0) := ⟨rfl, rfl, rfl, rfl, rfl⟩
/-- A segment of the local contributor 5 at position 0: 64 elements of FP32. -/
def segment : Frame := { ask 0xC0 0x4001 256 (List.replicate 256 0#8) with cls := 6, offset := 3 }
def credited : ColCtx := { aContext with senders := [(0, ⟨1, none, 0, false⟩), (65537, ⟨1, none, 0, false⟩)] }
theorem wit_CollectiveFramesAdvanceSegments_cases : tget (takeInbox 9 (reducing 3 credited segment)).col.ctx 3 = some credited ∧
    colAllowed (takeInbox 9 (reducing 3 credited segment)) segment = true ∧ colState (takeInbox 9 (reducing 3 credited segment)) 3 = 3 ∧
    bitsOf segment.offset 47 1 = rget (takeInbox 9 (reducing 3 credited segment)) R.COL_CTX_RP 3 ∧ colSender aRecord segment = some (0, 0, 0) ∧
    (tgetD credited.senders 0 ⟨0, none, 0, false⟩).credit ≠ 0 ∧ (tgetD aContext.senders 0 ⟨0, none, 0, false⟩).credit = 0 ∧
    (colItems aRecord 0 segment).isSome = true ∧ colItems aRecord 0 { segment with payload := [] } = none ∧
    colAllowed (takeInbox 9 (reducing 3 credited segment)) { segment with src := 8 } = false ∧
    colSender aRecord { segment with opc := 0xC1 } = none ∧ ¬ colState (takeInbox 9 (reducing 2 credited segment)) 3 = 3 := by decide +kernel
/-- A grant from the parent and an abort from the child and from another contributor. -/
theorem wit_CollectiveFramesAdvanceSegments_control : leAt (toLE 2 3 ++ [1#8, 2#8]) 0 2 / 32768 = rget (takeInbox 9 (reducing 3 credited frame0)) R.COL_CTX_RP 3 ∧
    leAt (toLE 2 3 ++ [1#8, 2#8]) 2 1 ≠ 0 ∧ aRecord.isRoot = false ∧ aRecord.children.any (·.node == 0x4003) = true ∧ aRecord.nodes.contains 5 = true := by
  decide +kernel

theorem wit_CollectiveRunsOpenAndClose : running (reducing 3 credited frame0) = true ∧ colState (reducing 3 credited frame0) 3 = 3 ∧
    colState (reducing 4 { credited with inst := none } frame0) 3 = 4 ∧ colQueued (reducing 4 { credited with inst := none } frame0) 3 = false ∧
    tget ({ credited with senders := [(0, ⟨1, none, 50000, false⟩)] } : ColCtx).senders 0 = some ⟨1, none, 50000, false⟩ ∧
    straggleNs credited ≤ 50000 ∧ ttRuns planned = true ∧ 0 < rget planned R.TT_STATUS_NSLOTS 0 ∧ planned.col.slotsDone ≤ 0 := by decide +kernel
theorem wit_CollectiveRunsOpenAndClose_cmds : Begins (commanded 0x18 384 []) 0 0x18 neverBusy (theCmd 0x18 384 []) [] (taken 0x18 384 []) ∧
    Begins (commanded 0x19 0 (toLE 2 8191)) 0 0x19 neverBusy (theCmd 0x19 0 (toLE 2 8191)) [] (taken 0x19 0 (toLE 2 8191)) ∧
    Begins (commanded 0x1A 0 (toLE 2 3)) 0 0x1A neverBusy (theCmd 0x1A 0 (toLE 2 3)) [] (taken 0x1A 0 (toLE 2 3)) ∧
    Begins (commanded 0x1B 64 []) 0 0x1B neverBusy (theCmd 0x1B 64 []) [] (taken 0x1B 64 []) ∧
    (theCmd 0x19 0 (toLE 2 8191)).arg 0 2 < 8192 ∧ colState (taken 0x1A 0 (toLE 2 3)) 3 ≠ 3 :=
  ⟨begins (by decide +kernel), begins (by decide +kernel), begins (by decide +kernel), begins (by decide +kernel), by decide +kernel, by decide +kernel⟩
/-- A timetable of one slot without records or entries, which passes its checks here. -/
def ttHead : List Byte := toLE 4 0x4C425454 ++ toLE 1 1 ++ toLE 1 0 ++ toLE 2 1 ++ toLE 4 10 ++ toLE 2 0x4001 ++ toLE 2 0 ++ toLE 4 0 ++ toLE 8 7 ++ toLE 32 0
def timetable : List Byte := ttHead ++ toLE 4 (crc32c (ttHead ++ List.replicate 4 0#8))
theorem wit_CollectiveRunsOpenAndClose_timetable : (timetableOf (taken 0x1B 64 []) (slice timetable 0 64)).isSome = true ∧
    timetableOf (taken 0x1B 64 []) (slice [] 0 64) = none := by decide +kernel

/-! ## Tables -/

/-- Table 0: 4 rows of 32 FP32 elements in an active extent of partition 1, ready, with some state. -/
def tables (x : Table) (f : Frame) : State :=
  let s := arrived f 0
  rset R.TBL_VALID 0 1 (rset R.TBL_STATUS_READY 0 1 (rset R.TBL_PART 0 1 (rset R.TBL_FMT 0 1 (rset R.TBL_ROW_ELEMS 0 32 (rset R.TBL_NROWS 0 4
    (rset R.TBL_NSLOTS 0 8 { s with
      tbl := { s.tbl with run := [(0, x)] }
      pool := { s.pool with extents := [(0, ⟨1, false, false, false, false, 1, 5, 0, 4, 0, 0, 0, 0, []⟩)] } }))))))
def idleTable : Table := ⟨0, [], [], []⟩
def tableAsk (opc : Nat) (p : List Byte) : Frame := ask opc 0x4001 p.length p
/-- A batch that sums row 0 into one bag. -/
def aBatch : List Byte := toLE 2 0 ++ toLE 1 1 ++ toLE 1 1 ++ toLE 4 0 ++ toLE 4 1 ++ toLE 4 1 ++ toLE 48 0 ++ toLE 4 0 ++ toLE 4 0
theorem wit_TableRequestsAnswer (f : Frame) (h : isAnswer f.cls = false) (hd : f.dst = 0x4001) (hp : 8 ≤ f.payload.length) (h0 : leAt f.payload 0 2 = 0)
    (ho : f.offset = 0) (hk : f.pkey = 0) :
    ServesTable (tables idleTable f) 9 f.opc 9 0 f (mayEnter 9 (inbox f 0) (tables idleTable f)).2.2 := by
  refine ⟨inbox f 0, ⟨rfl, rfl, rfl, h, rfl, rfl, rfl⟩, rfl, ?_, hp, h0.symm, by decide, ?_⟩
  · rw [hd]; rfl
  · have h1 : tblServes (mayEnter 9 (inbox f 0) (tables idleTable f)).2.2 0 = true := rfl
    have h2 : rget (mayEnter 9 (inbox f 0) (tables idleTable f)).2.2 R.TBL_SLOT_BASE 0 = 0 := rfl
    have h3 : rget (mayEnter 9 (inbox f 0) (tables idleTable f)).2.2 R.TBL_PART 0 = 1 := rfl
    have h4 : keyPart (mayEnter 9 (inbox f 0) (tables idleTable f)).2.2 0 = some 1 := rfl
    simp [tblStatus, h1, h2, h3, h4, ho, hk]
theorem wit_TableRequestsAnswer_cases : (tables idleTable frame0).tbl.batches.length < 1024 ∧
    batchStatus (mayEnter 9 (inbox (tableAsk 0x20 aBatch) 0) (tables idleTable (tableAsk 0x20 aBatch))).2.2 (tableAsk 0x20 aBatch) 0 = none ∧
    batchStatus (mayEnter 9 (inbox (tableAsk 0x20 [0#8]) 0) (tables idleTable (tableAsk 0x20 [0#8]))).2.2 (tableAsk 0x20 [0#8]) 0 = some stIllegal ∧
    (geoOf (tables idleTable frame0) 0).rb = 128 ∧ (geoOf (tables idleTable frame0) 0).fmt ≠ 0 ∧ regionLive (tables idleTable frame0) 0 = true ∧
    filterForm (tables idleTable frame0) (geoOf (tables idleTable frame0) 0) 0
      (toLE 4 0 ++ [0#8, 1#8] ++ toLE 2 0 ++ toLE 4 0 ++ toLE 4 0 ++ toLE 4 3 ++ toLE 44 0) = true ∧
    dirBad (tables idleTable frame0) 0 0 [0, 1, 2, 3] = false ∧ filterForm (tables idleTable frame0) (geoOf (tables idleTable frame0) 0) 0 [] = false ∧
    pinRoom (tables idleTable frame0) 0 0 = true ∧ endpointHolds (tables idleTable frame0) < 16384 ∧
    leAt (toLE 4 0 ++ toLE 4 60000) 4 4 ≤ 60000 := by decide +kernel
/-- Four other versions are held, or the region's extent is not active. -/
theorem wit_TableRequestsAnswer_refused : pinRoom (tables { idleTable with holds := [(1, .inst 1), (2, .inst 1), (3, .inst 1), (4, .inst 1)] } frame0) 0 0 = false ∧
    regionLive (rset R.TBL_NSLOTS 0 65536 (tables idleTable frame0)) 0 = false := by decide +kernel

/-- A write of row 0 that has written, or not, its fresh slot. -/
def rowWrite (ans : Option (Nat × List Byte)) : TWrite := ⟨9, frame0, false, 2, [(12, 0, ans)], [(0, 1)]⟩
def writing (ans : Option (Nat × List Byte)) : State := tables { idleTable with writes := [rowWrite ans], superseded := [⟨2, 3, 0⟩], holds := [(1, .node 5 9)] } frame0
theorem wit_TableTimesEndHolds : (tblOf (scatterWrite 0 (poolPass (writing none))) 0).writes = [rowWrite none] ∧ ioStatus (rowWrite none) = none ∧
    ioStatus (rowWrite (some (stOK, []))) = some stOK ∧ regionLive (scatterWrite 0 (poolPass (writing none))) 0 = true ∧
    (tblOf (writing none) 0).superseded.find? (fun q => q.old == 2) = some ⟨2, 3, 0⟩ ∧ rbit (writing none) R.TBL_VALID 0 = true ∧
    0 + 2 ≤ epochNow (rset R.EPOCH_NOW_EPOCH 0 2 (writing none)) ∧ versionHeld (writing none) 0 (slotVer (writing none) 0 2) (slotVer (writing none) 0 3) = false ∧
    rbit (rset R.TBL_STATUS_READY 0 0 (writing none)) R.TBL_STATUS_READY 0 = false ∧ thas (writing none).tbl.run 0 = true := by decide +kernel
/-- A batch of one share that has started, whose arrays are in hand, or a failed row of which has come. -/
def batch (fetching : Bool) (fetch : Tab BFetch) (rounds : List (Nat × Nat)) : Batch where
  dir := dirOf (tables idleTable frame0) 0
  frame := frame0
  port := 0
  part := 1
  table := 0
  geo := ⟨1, false, 32, 4, 0⟩
  ver := 0
  pool := 1
  emptyZero := false
  ofmt := 1
  rm := 0
  sat := false
  seed := 0
  srEpoch := 0
  nidx := 1
  nbags := 1
  starts := [0]
  indices := [0]
  fetching := fetching
  shares := [⟨0, true, rounds, 0, true⟩]
  fetch := fetch
  rowSlots := []
  acc := []
  rows := []
  fetches := 0
  spills := 0
  deadline := 90
def pooling (y : Batch) : State := let s := tables idleTable frame0; { s with tbl := { s.tbl with batches := [(9, y)] } }
/-- The switch holds 1,024 batches. -/
def fullOfBatches : State := { site with tbl := { site.tbl with batches := List.replicate 1024 (9, batch false [] []) } }
theorem wit_TableRequestsAnswer_full : running fullOfBatches = true ∧ 1024 ≤ fullOfBatches.tbl.batches.length :=
  ⟨rfl, (List.length_replicate (n := 1024) (a := (9, batch false [] []))).ge⟩
theorem wit_TableTimesEndHolds_batches : tget (poolPass (pooling (batch false [] [(0, 1)]))).tbl.batches 9 = some (batch false [] [(0, 1)]) ∧
    (batch false [] []).shares.all (·.started) = true ∧ (batchArrays (batch false [] [])).any (fun e => e.isOk) = true ∧
    (batchArrays (batch false [(12, ⟨0, 0, 0, some (stDenied, [])⟩)] [])).any (fun e => !e.isOk) = true ∧
    (tfind [(12, (⟨2, 0, 3, some (stOK, [])⟩ : BFetch))] fun _ f => f.kind == 2 && f.share == 0 && f.row == 3 && f.ans.isSome).isSome = true ∧
    (batch true [] []).shares.all (fun x => x.rounds.isEmpty) = true ∧ tget (pooling (batch true [] [])).tbl.batches 9 = some (batch true [] []) := by
  decide +kernel

/-! ## Weight streams, extents, token streams -/

/-- Plan 0 in a state of its registers; and with a slot of the timetable that starts it. -/
def aPlan : Plan := ⟨[], ⟨1, 0, 0, 5, 0, 8, 8, 0, 64, 0⟩, 1, none, [], [], 0, [], 0, [7], none, none, some 8, false, false, false, 0, none, false⟩
def planWith (st : Nat) (x : Plan) (f : Frame) : State :=
  let s : State := { planned with
    hall := { planned.hall with inbox := [(9, ⟨f, 255, false, none, none, 0, false⟩)] }
    ws := ⟨[(0, x)]⟩
    col := { planned.col with live := some ⟨1, 1000, 7, [], [⟨0, 2, 0, 0, 0, 0, 0, 0, 0, [], false⟩], 0⟩ } }
  rset R.PLAN_VALID 0 1 (rset R.WS_STATE_STATE 0 st s)
def storeAnswer_ (st : Nat) : Frame := { frame0 with cls := 1, rsv := 7, status := st }
def flagAnswer_ (st : Nat) : Frame := { frame0 with cls := 1, rsv := 8, status := st }
theorem wit_WeightStreamsLeadAndCopy : running (planWith 0 aPlan frame0) = true ∧ rbit (planWith 0 aPlan frame0) R.PLAN_VALID 0 = true ∧
    planState (planWith 0 aPlan frame0) 0 = 0 ∧ (prefetchNext (planWith 0 aPlan frame0) 0).isSome = true ∧ aPlan.copied = false ∧
    { aPlan with bytes := List.replicate 8 0#8 }.copied = true ∧ planState (planWith 1 aPlan frame0) 0 = 1 ∧
    2 * rget (planWith 1 aPlan frame0) R.WS_COPIED_BYTES 0 < aPlan.cfg.srcLen ∧
    aPlan.cfg.srcLen ≤ 2 * rget (rset R.WS_COPIED_BYTES 0 4 (planWith 1 aPlan frame0)) R.WS_COPIED_BYTES 0 ∧ aPlan.waiting = none := by decide +kernel
theorem wit_WeightStreamsLeadAndCopy_answers :
    (planOf (planWith 3 aPlan (storeAnswer_ 0)) (fun x => isAnswer (storeAnswer_ 0).cls && x.stores.contains (storeAnswer_ 0).rsv)).any (fun p => p.1 == 0) = true ∧
    (planOf (planWith 3 aPlan (flagAnswer_ 0)) (fun x => isAnswer (flagAnswer_ 0).cls && x.flag == some (flagAnswer_ 0).rsv)).any (fun p => p.1 == 0) = true ∧
    aPlan.errSent = false ∧ aPlan.repeating = false ∧ aPlan.failed = none ∧ stDenied ≠ stOK ∧ stOK ≠ stWithheld := by decide +kernel

/-- `EXT_GRANT` of one granule to node 5, and the malformed one; `EXT_REVOKE`; an extent in some state. -/
def grantArgs : List Byte := toLE 2 0 ++ toLE 1 0 ++ toLE 1 1 ++ toLE 2 5 ++ toLE 2 0 ++ toLE 4 0 ++ toLE 4 1 ++ toLE 24 0
theorem wit_ExtentsStageGrants : Begins (commanded 0x20 0 grantArgs) 0 0x20 neverBusy (theCmd 0x20 0 grantArgs) [] (taken 0x20 0 grantArgs) ∧
    Begins (commanded 0x21 0 [0#8]) 0 0x21 neverBusy (theCmd 0x21 0 [0#8]) [] (taken 0x21 0 [0#8]) ∧
    grantForm (theCmd 0x20 0 grantArgs).args = true ∧ grantForm (theCmd 0x20 0 []).args = false ∧ (theCmd 0x21 0 [0#8]).restZero 2 = true ∧
    (theCmd 0x21 0 [0#8, 0#8, 1#8]).restZero 2 = false :=
  ⟨begins (by decide +kernel), begins (by decide +kernel), by decide +kernel, by decide +kernel, by decide +kernel, by decide +kernel⟩
def extents (st : Nat) : State := { site with pool := { site.pool with
  extents := [(0, ⟨st, false, false, false, false, 1, 5, 0, 4, 0, 0, 0, 6, []⟩)], leases := [(0, ⟨5, 1, 9⟩)] } }
theorem wit_ExtentsStageGrants_states : running (extents 2) = true ∧ (tget (extents 3).pool.extents 0).any (fun x => x.state == 3 && (drainLeft (extents 3) 0 x).isEmpty) = true ∧
    snoopsFor (extents 3) 0 2 = false ∧ (tget (extents 2).pool.extents 0).any (fun x => x.state == 2) = true ∧
    (tget (extents 4).pool.extents 0).any (fun x => x.state == 4) = true ∧ tget (extents 1).pool.leases 0 = some ⟨5, 1, 9⟩ := by decide +kernel
/-- A request of the extent that was accepted before its mark is left. -/
theorem wit_ExtentsStageGrants_left : drainLeft { extents 3 with pool := { (extents 3).pool with
    reqs := [(5, newReq .store frame0 (.mgmt 0) true 0 8 [] [])] } } 0 ⟨3, false, false, false, false, 1, 5, 0, 4, 0, 0, 0, 6, []⟩ = [5] := by decide +kernel
/-- A lease renewal: without a lease, with one that is live, and with one that has lapsed. -/
theorem wit_ExtentsStageGrants_leases : Hears (arrived { frame0 with opc := 0xF2 } 0) 9 0xF2 (inbox { frame0 with opc := 0xF2 } 0) ∧
    leaseOf (takeInbox 9 (arrived { frame0 with opc := 0xF2 } 0)) 5 = none ∧ leaseOf (extents 1) 5 = some (0, ⟨5, 1, 9⟩) ∧
    leaseOf { site with pool := { site.pool with leases := [(0, ⟨5, 2, 9⟩)] } } 5 = some (0, ⟨5, 2, 9⟩) :=
  ⟨hears _ _ _ rfl rfl, by decide +kernel, by decide +kernel, by decide +kernel⟩

/-- A context record of stream 4, partition 1, one block, whose list is at offset 0 of this node. -/
def record : List Byte := toLE 4 4 ++ toLE 1 1 ++ toLE 1 0 ++ toLE 2 0 ++ toLE 4 1 ++ toLE 4 0 ++ toLE 8 (0x4001 * 2 ^ 48) ++ toLE 40 0
theorem wit_StreamCommandsEditContexts {code : Nat} (h : code ∈ [0x28, 0x29, 0x2A, 0x2B, 0x2C, 0x2D]) :
    Streams (commanded code 64 []) 0 code (some record) (theCmd code 64 []) [] (ctxOf record) (taken code 64 []) := by
  simp only [List.mem_cons, List.not_mem_nil, or_false] at h
  rcases h with rfl | rfl | rfl | rfl | rfl | rfl <;>
    exact ⟨record, rfl, begins (by decide +kernel), by decide +kernel, by decide +kernel, by decide +kernel, rfl⟩
/-- The list names no block before it is written; here its one block is in a `STREAM` extent. -/
def blocky : State := { site with pool := { site.pool with
  mem := [(2, 0x20#8)]
  extents := [(0, ⟨1, false, false, false, false, 1, 5, 0, 1, 0, 0, 0, 0, []⟩), (1, ⟨1, false, false, false, true, 1, 5, 1, 4, 12, 0, 0, 0, []⟩)] } }
theorem wit_StreamCommandsEditContexts_list : ctxBySid (taken 0x28 64 []) 4 = none ∧ lowestFree (taken 0x28 64 []).pool.streams 262144 = some 0 ∧
    listStatus blocky (ctxOf record) 0 = none ∧ sourceGone (taken 0x2C 64 []) 0x4300 = true ∧ sourceGone site 0x4001 = false := by decide +kernel
theorem wit_StreamCommandsEditContexts_query : Begins (commanded 0x2E 64 (toLE 4 4)) 0 0x2E (fun c r => streamBusy (c.arg 0 4) c r) (theCmd 0x2E 64 (toLE 4 4)) []
    (taken 0x2E 64 (toLE 4 4)) ∧ (theCmd 0x2E 64 (toLE 4 4)).arg 0 4 = 4 := ⟨begins (by decide +kernel), by decide +kernel⟩

/-- Context 0 of stream 4, at some step of a handoff, with an answer in the inbox to request 7. -/
def handing (x : StreamCtx) (st : Nat) : State := { site with
  pool := { site.pool with streams := [(0, x)] }
  hall := { site.hall with inbox := [(9, ⟨{ frame0 with cls := 1, rsv := 7, status := st }, 255, false, none, none, 0, false⟩)] } }
theorem wit_StreamRunsKeepTheLedger : running (handing (ctxOf record) 0) = true ∧ (ctxOf record).pollId = none ∧ (ctxOf record).step = .idle ∧
    (ownAnswer (handing (ctxOf record) 0) 7).any (fun p => p.1 == 9) = true ∧ ownAnswer (handing (ctxOf record) 0) 8 = none ∧
    polls { ctxOf record with lstate := 2 } = true ∧ writesInFlight (handing { ctxOf record with step := .drainWrites } 0) 0 = false ∧
    (tfind (handing { ctxOf record with casId := some 7 } stNoAnswer).pool.streams (fun _ x => x.casId == some 7)).any (fun p => p.2.casTries < 3) = true ∧
    (tfind (handing { ctxOf record with pullId := some 7, lstate := 2 } stDenied).pool.streams (fun _ x => x.pullId == some 7)).any
      (fun p => p.2.lstate == 2 && !p.2.fromMirror) = true := by decide +kernel

/-! ## Links, keys and spares -/

/-- Port 1 in a link state, tested, with its link `l`. -/
def port1 (lst : Nat) (l : LinkPort) : State := rset R.LINK_STATUS_LSTATE 1 lst (rset R.LINK_STATUS_RX_LANES 1 15 (rset R.LINK_STATUS_TX_LANES 1 15
  { site with boot := { site.boot with testDone := true, savedWant := [1] }, link := [(1, l)] }))
theorem wit_LinkTrainingChangesState : running (port1 0 LinkPort.down) = true ∧ lstate (port1 0 LinkPort.down) 1 = 0 ∧ mayTrain (port1 0 LinkPort.down) 1 = true ∧
    lstate (port1 5 LinkPort.down) 1 = 5 ∧ isEth (port1 4 LinkPort.down) 1 = false ∧ (port1 1 LinkPort.down).boot.savedWant.contains 1 = true ∧
    isReady (port1 1 LinkPort.down) = true ∧ isReady (rset R.START_STATUS_PHASE 0 3 (port1 1 LinkPort.down)) = false ∧
    ({ LinkPort.down with prbs := true } : LinkPort).prbs = true ∧ LinkPort.down.resume = none ∧ LinkPort.down.aligned = false := by decide +kernel
/-- A `RESUME` in `RECOVER`, of the same or another incarnation; a connector without its cable. -/
theorem wit_LinkTrainingChangesState_resume : ({ LinkPort.down with aligned := true, peerInc := some 3 } : LinkPort).peerInc.any (· != 4) = true ∧
    (some 3 : Option Nat).any (· != 3) = false ∧ lstate (portDown 1 none (port1 6 { LinkPort.down with aligned := true, peerInc := some 3 })) 1 = 0 ∧
    lstate (pumpAll 1 (sendNak 1 (rset R.LINK_STATUS_LSTATE 1 4 (port1 6 { LinkPort.down with former := 4 })))) 1 = 4 ∧
    { site.pkg with cabAbsent := [31] }.cabAbsent.contains 31 = true := by decide +kernel

theorem wit_LinkFlitsKeepOrder : lstate (port1 3 LinkPort.down) 1 = 3 ∧ hopPort (port1 3 LinkPort.down) 1 = false ∧ bitAt 65536 16 = true ∧
    linkUp (port1 4 LinkPort.down) 1 = true ∧ maskOk (port1 4 LinkPort.down) 1 15 = true ∧
    ((lanesOf 15).any fun i => rget (port1 4 LinkPort.down) R.LANE_STATE (4 * 1 + i) == 3) = false ∧
    ((lanesOf 15).any fun i => rget (rset R.LANE_STATE 4 3 (port1 4 LinkPort.down)) R.LANE_STATE (4 * 1 + i) == 3) = true ∧
    (lanesOf 15).filter (fun i => sleeps (port1 4 LinkPort.down) (.lane (4 * 1 + i))) = [] ∧ gangedAway (port1 4 LinkPort.down) 1 = false ∧
    3 < laneCount (port1 4 LinkPort.down) 1 ∧ bitAt (rxMask (port1 4 LinkPort.down) 1) 3 = true ∧ rget (port1 4 LinkPort.down) R.LANE_STATE 7 = 0 := by
  decide +kernel
/-- A flit whose check is right; a lane that is good again; a port that encrypts. -/
def aFlit : List Byte := List.replicate 248 0#8 ++ toLE 8 (crc64 (List.replicate 248 0#8))
theorem wit_LinkFlitsKeepOrder_good : (aFlit.length == 256 && crc64 (aFlit.take 248) == leAt aFlit 248 8 && decide (leAt aFlit 0 1 % 16 ≤ 4)) = true := by decide +kernel
def again : State := rset R.LANE_STATE 4 1 (port1 4 { LinkPort.down with goodSince := [(0, 5)] })
theorem wit_LinkFlitsKeepOrder_again : tget (linkOf again 1).goodSince 0 = some 5 ∧ rget again R.LANE_STATE 4 = 1 ∧
    bestMask (rset R.LANE_STATE 4 0 (atTime 100000005 again)) 1 8 = some 15 ∧
    maskWidth (rxMask (rset R.LINK_STATUS_RX_LANES 1 1 again) 1) < maskWidth 15 ∧ maskWidth 15 ≤ maskWidth (rxMask again 1) := by decide +kernel

/-- Port 1 takes part in hop keys; node 0x4001 is not its initiator, and is that of node 0x4000. -/
def keyed (peer : Nat) (h : HopState) : State :=
  let s := port1 4 { LinkPort.down with hop := h }
  { s with sec := { s.sec with frame := { siteFrame with ports := [(1, ⟨2, 0, false, peer, 1, []⟩)] } } }
def aKey : HopKey := ⟨1, [], [], 0, 0, 0⟩
theorem wit_HopKeysRoll : running (keyed 0x4002 HopState.idle) = true ∧ keyPort (keyed 0x4002 HopState.idle) 1 = true ∧
    isInitiator (keyed 0x4002 HopState.idle) 1 = false ∧ isInitiator (keyed 0x4000 HopState.idle) 1 = true ∧ nextKeyId HopState.idle = 1 ∧
    keyCheck (keyed 0x4002 HopState.idle) 1 [] 4918 [] = false ∧ HopState.idle.offerAt = none ∧
    nextKeyId { HopState.idle with cur := some aKey } = 2 ∧ halfUsed aKey = false := by decide +kernel

/-- Port 1 is down since 5 ns, and asks for the group's spare since then. -/
def asking : State := { port1 0 LinkPort.down with res := { site.res with downSince := [(1, 5)], asks := [⟨1, 2, 0x4002, 1, 5, 5⟩] } }
def subFrame (opc : Nat) (p : List Byte) : Frame := { frame0 with opc := opc, payload := p }
theorem wit_SpareSwitchesAgree : running asking = true ∧ tget asking.res.downSince 1 = some 5 ∧ lstate asking 1 ≠ 4 ∧
    (askOf asking 1).any (fun a => decide (max asking.clk.now (a.sentAt + 20000) < askEnd asking a)) = true ∧
    (asking.res.asks.find? fun a => a.group == leAt (toLE 2 2 ++ toLE 2 0x4002 ++ [2#8]) 0 2 % 1024 &&
      a.failed == leAt (toLE 2 2 ++ toLE 2 0x4002 ++ [2#8]) 2 2 % 32768).isSome = true ∧ asking.res.seen.contains (0, 0) = false := by decide +kernel
theorem wit_SpareSwitchesAgree_hears (p : List Byte) : Hears (arrived (subFrame 0xF7 p) 1) 9 0xF7 (inbox (subFrame 0xF7 p) 1) ∧
    Hears (arrived (subFrame 0xF8 p) 1) 9 0xF8 (inbox (subFrame 0xF8 p) 1) ∧ Hears (arrived (subFrame 0xF9 p) 1) 9 0xF9 (inbox (subFrame 0xF9 p) 1) :=
  ⟨hears _ _ _ rfl rfl, hears _ _ _ rfl rfl, hears _ _ _ rfl rfl⟩
theorem wit_SpareSwitchesAgree_force : Begins (commanded 0x38 0 [127#8]) 0 0x38 neverBusy (theCmd 0x38 0 [127#8]) [] (taken 0x38 0 [127#8]) ∧
    (theCmd 0x38 0 [127#8]).arg 0 1 = 127 ∧ (theCmd 0x38 0 [128#8]).arg 0 1 = 128 := ⟨begins (by decide +kernel), by decide +kernel, by decide +kernel⟩

/-! ## The Shell -/

/-- Request `code` of `n` zero bytes runs in host 0's mailbox. -/
def mailed (code n : Nat) : State := rset R.MBOX_STATUS_BUSY 0 1 { site with sec := { site.sec with mboxHost := 0, mboxCmd := code, mboxLen := n } }
theorem wit_ShellRequestsAnswer {code : Nat} (h : code ∈ [1, 2, 3, 4, 5, 6, 7, 8, 9, 10]) (n : Nat) (owner : Bool) :
    Asks (mailed code n) 0 code owner (mboxReq (mailed code n)) := by
  simp only [List.mem_cons, List.not_mem_nil, or_false] at h
  rcases h with rfl | rfl | rfl | rfl | rfl | rfl | rfl | rfl | rfl | rfl <;>
    exact ⟨rfl, rfl, .inl (by rw [show rget (mailed _ n) R.START_STATUS_PHASE 0 = 4 from rfl]; decide), fun _ => rfl, rfl⟩
def aJobKey : JobKey := ⟨1, [], 0, 0x4001, 0, none, none⟩
theorem wit_ShellRequestsAnswer_cases : (mboxReq (mailed 2 32)).length = 32 ∧ (mboxReq (mailed 2 31)).length ≠ 32 ∧ (mailed 9 36).sec.holone[leAt (mboxReq (mailed 9 36)) 0 1]?.isSome = true ∧
    licensed (mailed 9 36) 3 = true ∧ (mboxReq (mailed 9 36)).length = 36 ∧ leAt (mboxReq (mailed 9 36)) 0 1 < 4 ∧ leAt (mboxReq (mailed 9 36)) 1 3 = 0 ∧
    licensed { site with sec := { site.sec with licence := none } } 3 = false ∧ (mailed 6 8).sec.jobOpen = none ∧ jobMode (mailed 6 8) = true ∧
    mboxReq (mailed 6 8) ≠ [] ∧ zeroFrom (mboxReq (mailed 6 8)) 1 (mboxReq (mailed 6 8)).length = true ∧
    jobMode { site with sec := { site.sec with licence := none } } = false ∧ licensed (mailed 8 4) 2 = true ∧
    tget (mailed 8 4).sec.jobKeys (leAt (mboxReq (mailed 8 4)) 0 4) = none ∧
    tget ({ (mailed 8 4).sec with jobKeys := [(0, aJobKey)] } : Shell).jobKeys 0 = some aJobKey := by decide +kernel
/-- Partition 0 is enabled for `JOB_OPEN`, and an endpoint of the key's partition is there for `JOB_WRAP`. -/
theorem wit_ShellRequestsAnswer_job : ({ siteFrame with enabled := [0, 1] } : ProtFrame).enabled.contains 0 = true ∧
    ((upTo 128).any fun n => isEndpointPort site n && portNode site n == some 5 && (pfPort site n).part == aJobKey.part) = true ∧
    ((upTo 128).any fun n => isEndpointPort site n && portNode site n == some 0 && (pfPort site n).part == aJobKey.part) = false := by decide +kernel

/-- A management query of one register of partition 1, and a key message that fails its check. -/
theorem wit_KeysAndImagesLoad (opc : Nat) (p : List Byte) : Serves (arrived (ask opc 0x4001 16 p) 1) 9 (inbox (ask opc 0x4001 16 p) 1) (ask opc 0x4001 16 p)
    (entered (ask opc 0x4001 16 p) 1).1 (entered (ask opc 0x4001 16 p) 1).2.1 (entered (ask opc 0x4001 16 p) 1).2.2 ∧
    (ask opc 0x4001 16 p).dst = nodeSelf (entered (ask opc 0x4001 16 p) 1).2.2 := ⟨serves _ _ rfl, rfl⟩
/-- A key, a locked and an open Holone slot. -/
def unlocking : State := { site with sec := { site.sec with
  jobKeys := [(0, { aJobKey with destroyAt := some 9 })]
  holone := [⟨some [], 0, 0, [], none, 0⟩, ⟨none, 0, 0, [], some 60, 0⟩] } }
theorem wit_KeysAndImagesLoad_cases : queryStatus (some 1) (List.replicate 16 0#8) ≠ stOK ∧ (queryBlocks 1).any (fun b => b.1 % 8 == 0 && 8 ≤ b.2) = true ∧
    (tget unlocking.sec.jobKeys 0).bind (·.destroyAt) = some 9 ∧ holoneOn unlocking = true ∧
    holoneOn { site with sec := { site.sec with licence := none } } = false ∧ unlocking.sec.holone[0]? = some ⟨some [], 0, 0, [], none, 0⟩ ∧
    unlocking.sec.holone[1]? = some ⟨none, 0, 0, [], some 60, 0⟩ ∧ rget (rset R.START_STATUS_PHASE 0 5 site) R.START_STATUS_PHASE 0 = 5 ∧
    rbit (rset R.SVC_CFG_TFTP_EN 0 1 site) R.SVC_CFG_TFTP_EN 0 = true ∧ stageRefusal site 3 = none ∧
    (stageRefusal (rset R.START_STATUS_PHASE 0 3 site) 1).isSome = true ∧ (Upd.idle.state = 0) := by decide +kernel
/-- A kind that is being written: its end and its stall. -/
theorem wit_KeysAndImagesLoad_writing : (updOf { site with boot := { site.boot with upd := [{ Upd.idle with state := 1 }, Upd.idle, Upd.idle] } } 1).state = 1 := by
  decide +kernel
theorem wit_KeysAndImagesLoad_cmds : Begins (commanded 0x40 64 [3#8]) 0 0x40 stageBusy (theCmd 0x40 64 [3#8]) [] (taken 0x40 64 [3#8]) ∧
    Begins (commanded 0x41 0 [14#8]) 0 0x41 maskBusy (theCmd 0x41 0 [14#8]) [] (taken 0x41 0 [14#8]) ∧
    Begins (commanded 0x42 0 [14#8]) 0 0x42 maskBusy (theCmd 0x42 0 [14#8]) [] (taken 0x42 0 [14#8]) ∧ staging (taken 0x40 64 [3#8]) = false ∧
    maskForm (theCmd 0x41 0 [14#8]) = true ∧ armRefusal (taken 0x41 0 [14#8]) = none ∧ armOk (taken 0x41 0 [14#8]) (maskKinds (theCmd 0x41 0 [14#8])) = false ∧
    staging (setHost 1 { HostPort.down with running := [⟨0x40, 1, false, 3, 0⟩] } site) = true :=
  ⟨begins (by decide +kernel), begins (by decide +kernel), begins (by decide +kernel), by decide +kernel, by decide +kernel, by decide +kernel,
    by decide +kernel, by decide +kernel⟩

/-! ## Hosts, time, start-up -/

/-- Nobody owns the switch, host 0 does, or host 1 does and host 0's link is up. -/
def owned (o : Nat) : State := rset R.HOST_OWN_OWNER 0 o site
theorem wit_OwnershipPassesByClaim : barsOn (owned 0) 0 = true ∧ rget (owned 0) R.START_STATUS_PHASE 0 ≠ 5 ∧ (pfHost (wakeHall (owned 0)) 0).canOwn = true ∧
    rget (wakeHall (owned 0)) R.HOST_OWN_OWNER 0 = 0 ∧ rget (wakeHall (owned 1)) R.HOST_OWN_OWNER 0 = 0 + 1 ∧ rget (wakeHall (owned 2)) R.HOST_OWN_OWNER 0 = 2 - 0 ∧
    (hostPort (wakeHall (owned 2)) (1 - 0)).claimAt ≠ some (wakeHall (owned 2)).clk.now ∧ (pfHost (wakeHall (owned 0)) 1).canOwn = false ∧
    isOwner (wakeHall (owned 1)) 0 = true ∧ isOwner (wakeHall (owned 2)) 0 = false ∧ barsOn (rset R.HOST_PORT_BARS_EN 1 1 site) 1 = true := by decide +kernel

theorem wit_HostWindowTakesCommands : barsOn site 0 = true ∧ rget site R.START_STATUS_PHASE 0 ≠ 5 ∧ (pfHost (wakeHall site) 0).canOwn = true ∧
    (hostPort (wakeHall site) 0).queue.length + (hostPort (wakeHall site) 0).running.length < 256 ∧ isReady (wakeHall site) = true ∧
    isReady (wakeHall (rset R.START_STATUS_PHASE 0 3 site)) = false ∧ (cmdBytes 1 0 []).length = 64 ∧ cqFree (wakeHall site) 0 = true ∧
    cqFree (wakeHall (commanded 2 0 [])) 0 = false ∧ (hostPort site 0).heldCpl = [] ∧ cqRoom site 0 = true ∧
    256 ≤ (hostPort (setHost 0 { HostPort.down with queue := List.replicate 256 ⟨[]⟩ } site) 0).queue.length ∧
    mayWrite (wakeHall site) 0 0x1000 = true ∧ mayWrite (wakeHall (owned 2)) 0 0x2000 = false := by decide +kernel
theorem wit_HostWindowTakesCommands_cmds : Begins (commanded 2 0 []) 0 0x02 neverBusy (theCmd 2 0 []) [] (taken 2 0 []) ∧
    Begins (commanded 1 0 [1#8]) 0 0x01 neverBusy (theCmd 1 0 [1#8]) [] (taken 1 0 [1#8]) ∧ (theCmd 1 0 [1#8]).arg 0 1 = 1 ∧ (theCmd 1 0 [2#8]).arg 0 1 = 2 ∧
    (theCmd 2 0 []).restZero 0 = true ∧ (theCmd 2 0 [1#8]).restZero 0 = false :=
  ⟨begins (by decide +kernel), begins (by decide +kernel), by decide +kernel, by decide +kernel, by decide +kernel, by decide +kernel⟩

/-- A time role and state. -/
def timed (role st : Nat) : State := rset R.TIME_CTL_TIME_ROLE 0 role (rset R.TIME_STATUS_TIME_STATE 0 st (rset R.TIME_CTL_EXT_PPS_EN 0 1 (linked 4)))
theorem wit_TimeAndEpochsTurn : running (timed 1 2) = true ∧ timePort (timed 1 2) 0 = true ∧ timePort (timed 1 2) 1 = false ∧ timePort (atTime 9 (timed 1 2)) 127 = false ∧
    timeRole (atTime 9 (timed 1 2)) = 1 ∧ timeState (atTime 9 (timed 1 2)) = 2 ∧ rbit (atTime 9 (timed 1 2)) R.TIME_CTL_EXT_PPS_EN 0 = true ∧
    timeState (atTime 9 (timed 0 1)) ≠ 2 ∧ ceilDiv (timed 1 2).clk.now secondNs * secondNs ≤ (timed 1 2).clk.nextB ∧ timeRole (timed 0 1) = 0 ∧
    timeState (timed 0 1) = 1 ∧ latestPeer (atTime 100000000 (timed 1 1)) = none ∧ (timed 1 2).clk.cutoff = false ∧
    (retireBefore (timed 1 2)).clk.cutoff = false := by decide +kernel

theorem wit_StartsAndResetsLeaveState : running site = true ∧ rget (ensureBoot site) R.START_STATUS_PHASE 0 ≠ 1 ∧ (ensureBoot site).boot.bootDone = true ∧
    rget (ensureBoot (rset R.START_STATUS_PHASE 0 1 site)) R.START_STATUS_PHASE 0 = 1 ∧
    startDone (rset R.START_STATUS_PHASE 0 3 (port1 0 LinkPort.down)) = true ∧ startDone site = false ∧ waitsLock site = false ∧
    waitsLock (rset R.START_STATUS_WARM 0 1 (timed 0 1)) = true ∧ site.pkg.holdup = false ∧ resetDue site = none ∧
    resetDue (setHost 0 { HostPort.down with resetAt := some (true, 5) } site) = some (true, 5) ∧ rget site R.START_STATUS_PHASE 0 ≠ 5 ∧
    onTrial { site with boot := { site.boot with upd := [{ Upd.idle with state := 4 }] } } = true ∧
    isReady (rset R.START_STATUS_PHASE 0 3 site) = false ∧ site.pkg.phase = .ready ∧ State.reset.pkg.phase = .start := by decide +kernel

/-! ## The whole block -/

theorem wit_StepRunsFrontCommand : State.reset.pending = [] ∧ running State.reset = true ∧ resetDue State.reset = none ∧ State.reset.clk.slew = 0 ∧
    State.reset.clk.now + 1 < 2 ^ 64 := by decide +kernel
theorem wit_StepKeepsCanonicalForm : Canonical State.reset := ⟨by decide, by decide, by decide, by decide, by decide, by decide⟩
theorem wit_CommandsLeaveQueueAlone : ({ State.reset with pending := [.laneSleep 0, .auditNow, .hallGate] } : State).pending =
    [.laneSleep 0, .auditNow] ++ [.hallGate] := rfl

/-! ## Well-formed commands -/

/-- Commands with operands at the ends of their ranges. -/
theorem test_wellFormed_accepts0 :
    ([.movePassEnd 67108863, .moveHoldTimeout 67108863, .moveSourceFree 67108863, .clockPointPauseEnd 31, .galleryIdleSleep 31,
     .stackSelfRefresh 19, .laneSleep 127, .slotWake 2 511, .unitWakeDone 2 511, .galleryZeroingDone 31,
     .time 127 18446744073709551615 [], .timeSyncSend 127, .slotStart 4095, .ingressFrame 127 (List.replicate 32 0#8),
     .ethernetFrame 127 281474976710655 281474976710655 65535 [] true, .load 0, .store 0, .ofStoreRelease 0, .atomic 0,
     .answerEntryExpire 32767 1048575, .bulkPut 0, .bulkGet 0, .bulkPutMasked 0, .bulkAtomic 0, .trackerAnswer 0,
     .trackerTimeout 0, .caps 127 18446744073709551615, .launch 0, .galleryDispatch 31, .instanceEnd 0, .instanceTimeLimit 0,
     .launchDeadline 0, .strandFabricAnswer 32767 0, .waiteRelease 32767, .nop 32767, .br 32767, .loop 32767, .waite 32767,
     .bar 32767, .fence 32767] : List Instr).all WellFormed = true := by decide +kernel
/-- Commands with operands at the ends of their ranges. -/
theorem test_wellFormed_accepts1 :
    ([.raise 32767, .halt 32767, .recv 32767, .send 32767, .fwd 32767, .grant 32767, .ldv 32767, .stv 32767, .lds 32767,
     .sts 32767, .gath 32767, .scat 32767, .atom 32767, .pin 32767, .pinRelease 32767, .add 32767, .sub 32767, .mul 32767,
     .fma 32767, .div 32767, .max 32767, .min 32767, .cmp 32767, .sel 32767, .and 32767, .or 32767, .xor 32767, .andn 32767,
     .not 32767, .shl 32767, .shr 32767, .sar 32767, .mov 32767, .bcast 32767, .bcasti 32767, .iota 32767, .ins 32767,
     .ext 32767, .sadd 32767, .ssub 32767] : List Instr).all WellFormed = true := by decide +kernel
/-- Commands with operands at the ends of their ranges. -/
theorem test_wellFormed_accepts2 :
    ([.smul 32767, .sand 32767, .sor 32767, .sxor 32767, .sshl 32767, .sshr 32767, .ssar 32767, .smin 32767, .smax 32767,
     .sminu 32767, .smaxu 32767, .slt 32767, .sltu 32767, .seq 32767, .smov 32767, .slih 32767, .pand 32767, .por 32767,
     .pxor 32767, .pandn 32767, .pnot 32767, .pset 32767, .pfrom 32767, .pto 32767, .pcnt 32767, .neg 32767, .abs 32767,
     .sqrt 32767, .acc 32767, .accm 32767, .clra 32767, .rnd 32767, .pack 32767, .unpk 32767, .topk 32767, .cvt 32767,
     .xpnd 32767, .colSeg 0, .colPart 0, .colResult 0] : List Instr).all WellFormed = true := by decide +kernel
/-- Commands with operands at the ends of their ranges. -/
theorem test_wellFormed_accepts3 :
    ([.colGrant 0, .colAbort 0, .colNoProgress 8191, .colRearm 8191, .straggler 8191 131071, .gatherBatch 0,
     .gatherDirectoryDone 0, .gatherRowFetch 0 31 0, .gatherBatchEnd 0, .gatherBatchDeadline 0, .rowPut 0, .rowFlip 4095,
     .scatterAdd 0, .filterTopk 0, .tablePin 0, .tableUnpin 0, .pinHoldLapse 4095 0 32767, .tableSlotFree 4095 0,
     .tableReady 4095, .tierAnswer 0 31 true, .tierAttemptTimeout 0, .trayLatencyWindow 63 31 0, .traySlowClear 63 31,
     .wsPrefetchPoint 1023, .wsCopyComplete 1023, .wsStoreAnswer 0, .wsFlagAnswer 0, .weightLate 1023, .extGrant 1, .extRevoke 1,
     .fenceConfirmed 65535, .drainDone 65535, .drainTimeout 65535, .scrubDone 65535, .leaseRenew 0, .leaseExpiry 511,
     .streamOpen 1 none, .streamGrow 1 none, .streamHandoff 1 none, .streamAccept 1 none] : List Instr).all WellFormed = true := by decide +kernel
/-- Commands with operands at the ends of their ranges. -/
theorem test_wellFormed_accepts4 :
    ([.streamTakeover 1 none, .streamClose 1 none, .streamQuery 1, .ledgerPoll 262143, .ledgerCasAnswer 0, .streamPullAnswer 0,
     .streamAcceptTimeout 262143, .cacheDeclare 0, .cacheRelease 0, .rdShared 0, .rdOwn 0, .upgrade 0, .wbDirty 0, .evictClean 0,
     .snoopAnswer 0, .snoopTimeout 1048575, .staleClear 1, .staleQuery 1, .portSignal 127, .retrain 127, .prbsCheckDone 127 true,
     .fullTrainingDone 127 [], .trainingTimeout 127, .trainingRetry 127, .pairAligned 127, .alignmentLost 127,
     .resume 127 65535 4095, .holdUpExpiry 127, .flitReceive 127 (List.replicate 256 0#8), .replayTimeout 127,
     .tag 127 (List.replicate 256 0#8), .widthAsk 127 255, .width 127 255, .offer 127 4294967295 [], .accept 127 4294967295 [],
     .done 127 4294967295 [], .abort 127 4294967295, .keyDoneTimeout 127, .rekeyStart 127, .subForce 1] : List Instr).all WellFormed = true := by decide +kernel
/-- Commands with operands at the ends of their ranges. -/
theorem test_wellFormed_accepts5 :
    ([.subAsk 0, .subAskTimeout 127, .subAnswer 0, .subCommit 0, .idGet 1, .quote 1, .frameStage 1, .licenceLoad 1, .jobOpen 1,
     .jobWrap 1, .jobClose 1, .jobKeyInstall 0, .mgtQuery 0, .holoneRequest [], .imageStage 1 none, .imageArm 1, .imageDisarm 1,
     .claim 1, .renew 1, .release 1, .hostLinkDown 1, .commandWindowWrite 1 [], .commandCompletion 1, .cqHeadWrite 1 0,
     .cqConfigWrite 1 0 0, .reset 1, .stageDiscard 1, .progLoad 1 none, .hostCommandLaunch 1 none, .kill 1, .colOpen 1 none,
     .colClose 1, .hostCommandColAbort 1, .ttLoad 1 none, .s0Query 1, .hostApertureAccess 1 true 0 0 [],
     .hostInboundRequest 0 none, .registerWrite 1 0 [], .laneFailed 127 7, .governorRun 0] : List Instr).all WellFormed = true := by decide +kernel
/-- Commands with operands at the ends of their ranges. -/
theorem test_wellFormed_accepts6 :
    ([.wsLevelHalfLead 1023, .wsEscalate 1023, .laneSerWindow 127 7 0, .laneRetrainGood 127 7, .keyLimitReached 127,
     .oldKeyRetire 127, .subWaitExpiry 127, .subAskResend 127, .trayRebuildDone 63 31,
     .ageingMeasureDone (List.replicate 2080 0), .endorseSet 1, .credSet 1, .recoveryImage 1, .jobKeyDestroy 4294967295,
     .holoneSlotUnlock 3, .resetNLow 0, .selftestDone [], .tftpWriteRequest 3 [], .imageWriteDone 3, .imageTransferStall 3,
     .holdupN true, .thermalSample (List.replicate 80 0) (List.replicate 20 0) 0, .i3cPrivateRead 255, .i3cDynamicAddress 0,
     .cabPresN 31 true, .hostPortTrained 1 0 0, .ppsInEdge 18446744073709551615, .rekeyRetry 127, .epochBoundary, .stageCutoff,
     .routeRetire, .hallGate, .holdoverEntry, .acquiringEnd, .quietSlot, .schedulerCellTime, .auditNow, .bufferAuditDone,
     .ledgerRevertTick, .maintNow] : List Instr).all WellFormed = true := by decide +kernel
/-- Commands with operands at the ends of their ranges. -/
theorem test_wellFormed_accepts7 :
    ([.pwrokRise, .pwrokFall, .warmReset, .startupReady, .mgmtHeartbeatLoss, .trialTimeout, .ownerLeaseExpiry, .effLimitTick,
     .thermtripRelease, .ppsOutPulse, .shellSramError, .standbyGroupUp, .standbyGroupDown, .followerReadyTimeout,
     .savedSettingsWrite] : List Instr).all WellFormed = true := by decide +kernel
/-- For each check of `WellFormed`, a command with that one operand out of range. -/
theorem test_wellFormed_refuses0 :
    ([.movePassEnd 67108864, .moveHoldTimeout 67108864, .moveSourceFree 67108864, .clockPointPauseEnd 32, .galleryIdleSleep 32,
     .stackSelfRefresh 20, .laneSleep 128, .slotWake 3 511, .slotWake 2 512, .unitWakeDone 3 511, .unitWakeDone 2 512,
     .galleryZeroingDone 32, .time 128 18446744073709551615 [], .time 127 18446744073709551616 [], .timeSyncSend 128,
     .slotStart 4096, .ingressFrame 128 (List.replicate 32 0#8), .ingressFrame 127 (List.replicate 31 0#8),
     .ingressFrame 127 (List.replicate 8225 0#8), .ethernetFrame 128 281474976710655 281474976710655 65535 [] true,
     .ethernetFrame 127 281474976710656 281474976710655 65535 [] true,
     .ethernetFrame 127 281474976710655 281474976710656 65535 [] true,
     .ethernetFrame 127 281474976710655 281474976710655 65536 [] true, .answerEntryExpire 32768 1048575,
     .answerEntryExpire 32767 1048576, .caps 128 18446744073709551615, .caps 127 18446744073709551616, .galleryDispatch 32,
     .strandFabricAnswer 32768 0, .waiteRelease 32768, .nop 32768, .br 32768, .loop 32768, .waite 32768, .bar 32768,
     .fence 32768, .raise 32768, .halt 32768, .recv 32768, .send 32768] : List Instr).all (fun c => !WellFormed c) = true := by decide +kernel
/-- For each check of `WellFormed`, a command with that one operand out of range. -/
theorem test_wellFormed_refuses1 :
    ([.fwd 32768, .grant 32768, .ldv 32768, .stv 32768, .lds 32768, .sts 32768, .gath 32768, .scat 32768, .atom 32768, .pin 32768,
     .pinRelease 32768, .add 32768, .sub 32768, .mul 32768, .fma 32768, .div 32768, .max 32768, .min 32768, .cmp 32768,
     .sel 32768, .and 32768, .or 32768, .xor 32768, .andn 32768, .not 32768, .shl 32768, .shr 32768, .sar 32768, .mov 32768,
     .bcast 32768, .bcasti 32768, .iota 32768, .ins 32768, .ext 32768, .sadd 32768, .ssub 32768, .smul 32768, .sand 32768,
     .sor 32768, .sxor 32768] : List Instr).all (fun c => !WellFormed c) = true := by decide +kernel
/-- For each check of `WellFormed`, a command with that one operand out of range. -/
theorem test_wellFormed_refuses2 :
    ([.sshl 32768, .sshr 32768, .ssar 32768, .smin 32768, .smax 32768, .sminu 32768, .smaxu 32768, .slt 32768, .sltu 32768,
     .seq 32768, .smov 32768, .slih 32768, .pand 32768, .por 32768, .pxor 32768, .pandn 32768, .pnot 32768, .pset 32768,
     .pfrom 32768, .pto 32768, .pcnt 32768, .neg 32768, .abs 32768, .sqrt 32768, .acc 32768, .accm 32768, .clra 32768,
     .rnd 32768, .pack 32768, .unpk 32768, .topk 32768, .cvt 32768, .xpnd 32768, .colNoProgress 8192, .colRearm 8192,
     .straggler 8192 131071, .straggler 8191 131072, .gatherRowFetch 0 32 0, .rowFlip 4096,
     .pinHoldLapse 4096 0 32767] : List Instr).all (fun c => !WellFormed c) = true := by decide +kernel
/-- For each check of `WellFormed`, a command with that one operand out of range. -/
theorem test_wellFormed_refuses3 :
    ([.pinHoldLapse 4095 0 32768, .tableSlotFree 4096 0, .tableReady 4096, .tierAnswer 0 32 true, .trayLatencyWindow 64 31 0,
     .trayLatencyWindow 63 32 0, .traySlowClear 64 31, .traySlowClear 63 32, .wsPrefetchPoint 1024, .wsCopyComplete 1024,
     .weightLate 1024, .extGrant 2, .extRevoke 2, .fenceConfirmed 65536, .drainDone 65536, .drainTimeout 65536, .scrubDone 65536,
     .leaseExpiry 512, .streamOpen 2 none, .streamGrow 2 none, .streamHandoff 2 none, .streamAccept 2 none,
     .streamTakeover 2 none, .streamClose 2 none, .streamQuery 2, .ledgerPoll 262144, .streamAcceptTimeout 262144,
     .snoopTimeout 1048576, .staleClear 2, .staleQuery 2, .portSignal 128, .retrain 128, .prbsCheckDone 128 true,
     .fullTrainingDone 128 [], .trainingTimeout 128, .trainingRetry 128, .pairAligned 128, .alignmentLost 128,
     .resume 128 65535 4095, .resume 127 65536 4095] : List Instr).all (fun c => !WellFormed c) = true := by decide +kernel
/-- For each check of `WellFormed`, a command with that one operand out of range. -/
theorem test_wellFormed_refuses4 :
    ([.resume 127 65535 4096, .holdUpExpiry 128, .flitReceive 128 (List.replicate 256 0#8),
     .flitReceive 127 (List.replicate 255 0#8), .replayTimeout 128, .tag 128 (List.replicate 256 0#8),
     .tag 127 (List.replicate 255 0#8), .widthAsk 128 255, .widthAsk 127 256, .width 128 255, .width 127 256,
     .offer 128 4294967295 [], .offer 127 4294967296 [], .accept 128 4294967295 [], .accept 127 4294967296 [],
     .done 128 4294967295 [], .done 127 4294967296 [], .abort 128 4294967295, .abort 127 4294967296, .keyDoneTimeout 128,
     .rekeyStart 128, .subForce 2, .subAskTimeout 128, .idGet 2, .quote 2, .frameStage 2, .licenceLoad 2, .jobOpen 2, .jobWrap 2,
     .jobClose 2, .imageStage 2 none, .imageArm 2, .imageDisarm 2, .claim 2, .renew 2, .release 2, .hostLinkDown 2,
     .commandWindowWrite 2 [], .commandCompletion 2, .cqHeadWrite 2 0] : List Instr).all (fun c => !WellFormed c) = true := by decide +kernel
/-- For each check of `WellFormed`, a command with that one operand out of range. -/
theorem test_wellFormed_refuses5 :
    ([.cqConfigWrite 2 0 0, .reset 2, .stageDiscard 2, .progLoad 2 none, .hostCommandLaunch 2 none, .kill 2, .colOpen 2 none,
     .colClose 2, .hostCommandColAbort 2, .ttLoad 2 none, .s0Query 2, .hostApertureAccess 2 true 0 0 [], .registerWrite 2 0 [],
     .laneFailed 128 7, .laneFailed 127 8, .wsLevelHalfLead 1024, .wsEscalate 1024, .laneSerWindow 128 7 0,
     .laneSerWindow 127 8 0, .laneRetrainGood 128 7, .laneRetrainGood 127 8, .keyLimitReached 128, .oldKeyRetire 128,
     .subWaitExpiry 128, .subAskResend 128, .trayRebuildDone 64 31, .trayRebuildDone 63 32,
     .ageingMeasureDone (List.replicate 2079 0), .endorseSet 2, .credSet 2, .recoveryImage 2, .jobKeyDestroy 4294967296,
     .holoneSlotUnlock 4, .tftpWriteRequest 0 [], .tftpWriteRequest 4 [], .imageWriteDone 0, .imageWriteDone 4,
     .imageTransferStall 0, .imageTransferStall 4, .thermalSample (List.replicate 79 0) (List.replicate 20 0) 0] : List Instr).all (fun c => !WellFormed c) = true := by decide +kernel
/-- For each check of `WellFormed`, a command with that one operand out of range. -/
theorem test_wellFormed_refuses6 :
    ([.thermalSample (List.replicate 80 0) (List.replicate 19 0) 0, .i3cPrivateRead 256, .cabPresN 32 true,
     .hostPortTrained 2 0 0, .ppsInEdge 18446744073709551616, .rekeyRetry 128] : List Instr).all (fun c => !WellFormed c) = true := by decide +kernel

/-! ## More cases of the statements -/

/-- An item that carries lanes is whole or not, and the strand's wait is no fault. -/
theorem wit_StreamItemsMove_lanes : badLanes true lanesOut = false ∧ badLanes true [0#8] = true ∧ outstanding.wait ≠ Wait.fault := by decide +kernel

/-- The copies of a move are on their way; a move is at its flip. -/
theorem wit_GranuleMovesChangeSource_copies :
    copying { moving ⟨.wing, 1, 0, none, 0⟩ 0 with pool := { (moving ⟨.wing, 1, 0, none, 0⟩ 0).pool with
      ops := [(4, { tierOp .read [0] 1 with copy := true })] } } 0 = true ∧
    copying (moving ⟨.wing, 1, 0, none, 0⟩ 0) 0 = false := by decide +kernel

/-- A frame with a bad tail may have begun to leave for the endpoint's port by cut-through (a free value says whether it has), or
it cannot have. -/
def sideFrame : Frame := { renewal with cls := 5, dst := 5, tailBad := true }
/-- Ports 0 and 1 are up, cut-through is on for every class, and node 5 is reached by port 0. -/
def cutting : State :=
  let s := rset R.LINK_STATUS_LSTATE 1 4 (rset R.LINK_STATUS_RX_LANES 1 15 (rset R.LINK_STATUS_TX_LANES 1 15 (rset R.HALL_CT_CT_CLASS 0 255 (linked 4))))
  { s with hall := { s.hall with routes := [(5, 1)] } }
theorem wit_IngressChecksRefuse_through : lstate cutting 1 = 4 ∧ tailFlaw false sideFrame = 4 ∧
    mayHaveLeft (rbump R.PDROP_RX_TAIL_BAD 1 (countRx 1 sideFrame cutting)) 1 sideFrame = true ∧
    lstate (hasLeft 1 false sideFrame (rbump R.PDROP_RX_TAIL_BAD 1 (countRx 1 sideFrame cutting))).2 1 = 4 ∧
    (hasLeft 0 true { renewal with tailBad := true } (rbump R.PDROP_RX_TAIL_BAD 0 (linked 4))).1 = false ∧
    (isEndpointPort cutting 1 || (pfPort cutting 1).role == 0 || (pfPort cutting 1).role == 4) = false ∧
    lstate (countRx 0 renewal (linked 4)) 0 = 4 := by decide +kernel
/-- A shim that the port does not take, one that only asks, and frames that are too short. -/
theorem wit_EdgeFramesEnter_shims : ethOpc 0x80 = false ∧ ethOpc 0xA1 = true ∧ (etherBytes.take 15).length < 16 ∧ (etherBytes.take 17).length < 16 + 8 := by
  decide +kernel

/-- The instance has faulted and is not told of yet, or is. -/
def aFault (told : Bool) : FaultInfo := ⟨7, 5, stIllegal, 0, 0, 0, 0, 0, told⟩
def faulted (told : Bool) : State :=
  { issuing aStrand 0 with seed := { (issuing aStrand 0).seed with insts := [(5, { instWith 0 with fault := some (aFault told) })] } }
theorem wit_InstancesEndOnce_faults :
    tget (faulted false).seed.insts 5 = some { instWith 0 with fault := some (aFault false) } ∧
    tget (sfaultRec 5 { instWith 0 with fault := some (aFault false) } (aFault false) (launchFault { instWith 0 with fault := some (aFault false) }
      stIllegal (launchEnd aLaunch stIllegal 0 3 (setInst 5 { instWith 0 with fault := some (aFault true) } (faulted false))))).seed.insts 5 =
      some { instWith 0 with fault := some (aFault true) } ∧
    instQuiet (faulted true) { instWith 0 with fault := some (aFault true) } = true := by decide +kernel

/-- The run goes on, or it is at its end. -/
theorem wit_CollectiveRunsOpenAndClose_runs : colRuns (reducing 3 credited frame0) 3 = true ∧ colRuns (reducing 2 credited frame0) 3 = false ∧
    openedByCommand (reducing 3 credited frame0) 3 = true ∧ openedByCommand (reducing 3 { credited with byTable := true } frame0) 3 = false := by
  decide +kernel

/-- A filter of rows 0 to 3 that keeps one pair: nothing holds it up, its rows are fresh or stale, and its directory is readable. -/
def aFilter : Frame := tableAsk 0x24 (toLE 4 0 ++ [0#8, 1#8] ++ toLE 2 0 ++ toLE 4 0 ++ toLE 4 0 ++ toLE 4 3 ++ toLE 44 0)
def filtering : State := (mayEnter 9 (inbox aFilter 0) (tables idleTable aFilter)).2.2
theorem wit_TableRequestsAnswer_filter : scanWaits (tables idleTable aFilter) 9 = none ∧
    scanSlots filtering 0 0 aFilter.payload = [] ∧ dirBad filtering 0 0 [0, 1, 2, 3] = false ∧
    filterForm filtering (geoOf filtering 0) 0 aFilter.payload = true ∧ regionLive filtering 0 = true ∧
    dirBad { filtering with pool := { filtering.pool with bad := [0] } } 0 0 [0, 1, 2, 3] = true := by decide +kernel
/-- Row 0 lies in slot 0 of the table, and its first line is stale. -/
def staleRow : State :=
  { filtering with pool := { filtering.pool with mem := [(5, 0#8), (4096, 0#8)] }
                   coh := { filtering.coh with tags := [⟨0, 0, 3, 0, 0⟩] } }
theorem wit_TableRequestsAnswer_stale : (linesOf 0 128).any (isStale staleRow) = true ∧ (linesOf 128 128).any (isStale staleRow) = false := by
  decide +kernel
/-- `ROW_PUT` of a row of 128 bytes, `SCATTER_ADD` of one entry of FP32 deltas, and the malformed ones. -/
theorem wit_TableRequestsAnswer_writes : (toLE 16 0 ++ List.replicate 128 0#8 : List Byte).length = 16 + (geoOf filtering 0).rb ∧
    leAt (toLE 16 0) 2 2 = 0 ∧ leAt (toLE 16 0) 8 8 = 0 ∧ (toLE 16 0).length ≠ 16 + (geoOf filtering 0).rb ∧
    (toLE 2 0 ++ [1#8, 0#8] ++ toLE 4 1 ++ toLE 24 0 ++ toLE 4 0 ++ List.replicate 128 0#8 : List Byte).length =
      32 + 1 * (4 + (geoOf filtering 0).elems * 32 / 8) ∧
    leAt (toLE 2 0 ++ [1#8, 0#8] ++ toLE 4 1 ++ toLE 24 0) 2 1 = 1 ∧ leAt (toLE 2 0 ++ [10#8, 0#8]) 2 1 = 10 := by decide +kernel
/-- Endpoint 5 holds the live version already; a pin and an unpin of the right and of the wrong length. -/
theorem wit_TableRequestsAnswer_pins : (tblOf (tables { idleTable with holds := [(0, .node 5 9)] } frame0) 0).holds.any
      (fun h => h.1 == liveVer (tables idleTable frame0) 0 && (match h.2 with | .node m _ => m == 5 | .inst _ => false)) = true ∧
    (toLE 4 0 ++ toLE 4 1).length = 8 ∧ leAt (toLE 4 0 ++ toLE 4 1) 4 4 = 1 ∧ leAt (toLE 4 0 ++ toLE 4 60001) 4 4 = 60001 ∧
    (toLE 2 0 ++ toLE 14 0).length = 16 ∧ leAt (toLE 16 0) 2 6 = 0 ∧ (toLE 2 0).length ≠ 16 := by decide +kernel

/-- The share of a batch waits behind its own batch on a gallery, or for another one. -/
theorem wit_TableTimesEndHolds_shares : ((enum' (batch false [] []).shares).any fun p => !p.2.started && !waitsOwn (pooling (batch false [] [])) 9 p.1) = false ∧
    ((enum' [(⟨0, false, [], 0, false⟩ : Share)]).any fun p => !p.2.started && !waitsOwn (pooling (batch false [] [])) 9 p.1) = true := by decide +kernel
/-- A table whose directory is in Stair 0 or not yet, with a line of it held, or quiet. -/
def readying : State := rset R.TBL_STATUS_READY 0 0 (rset R.TBL_DIR_BASE 0 0 (tables idleTable frame0))
def placed : State := { readying with pool := { readying.pool with
  map := [(0, ⟨0, 0, false, false, 1, 0, 0, 0, 0, 0, 0, 0, [0, 0, 0, 0], false⟩), (1, ⟨0, 0, false, false, 1, 0, 0, 0, 0, 0, 1, 0, [0, 0, 0, 0], false⟩)] } }
theorem wit_TableTimesEndHolds_ready : dirPlaced readying 0 = false ∧ dirPlaced placed 0 = true ∧
    linesQuiet placed (dirRegion fun f => rget placed f 0).1 128 true = true ∧
    linesQuiet { placed with coh := { placed.coh with tags := [⟨0, 0, 1, 0, 0⟩] } } (dirRegion fun f => rget placed f 0).1 128 true = false := by
  decide +kernel

/-- A run that began for slot 0 of an epoch. -/
theorem wit_WeightStreamsLeadAndCopy_lead : ({ aPlan with slot := some (0, 3) } : Plan).slot = some (0, 3) ∧
    planState (planWith 1 { aPlan with slot := some (0, 3) } frame0) 0 = 1 := by decide +kernel

/-- A line of the extent is held, or none is; a granule of it is to be zeroed. -/
theorem wit_ExtentsStageGrants_held : ((extents 3).coh.tags.filter fun g => g.state == 1 || g.state == 2) = [] ∧
    ([⟨0, 5 * 2 ^ 20, 1, 0, 0⟩].filter fun (g : CTag) => (⟨3, false, false, false, false, 1, 5, 5, 4, 0, 0, 0, 6, []⟩ : Extent).holds g.line) ≠ [] ∧
    snoopsFor { extents 3 with coh := { (extents 3).coh with snoops := [(4, ⟨0, 0, true, 0, 2, 1, 5⟩)] } } 0 2 = true := by decide +kernel

/-- The list of a stream command can be read at once, or a line of it is held modified. -/
def heldList : State := { site with
  pool := { site.pool with extents := [(0, ⟨1, false, false, false, false, 1, 5, 0, 1, 0, 0, 0, 0, []⟩)] }
  coh := { site.coh with tags := [⟨0, 0, 2, 0, 0⟩] } }
theorem wit_StreamCommandsEditContexts_busy : listBusy (commanded 0x28 64 []) 0 0x28 (ctxOf record) = false ∧
    listBusy (commandedIn heldList 0x28 64 []) 0 0x28 (ctxOf record) = true := by decide +kernel
/-- A piece that a target has written, and a context that is gone. -/
theorem wit_StreamRunsKeepTheLedger_put :
    (tfind (handing { ctxOf record with pullId := some 7, lstate := 2, step := .put } stOK).pool.streams (fun _ x => x.pullId == some 7)).any
      (fun p => p.2.lstate == 2 && p.2.step == .put) = true ∧ ({ ctxOf record with lstate := 3 } : StreamCtx).lstate = 3 := by decide +kernel

/-! ## Small tests, from the manual's worked cases where a comment says so -/

/-- The state after a command. -/
def after (c : Instr) (s : State) : State := match exec c s with
  | .next t => t
  | _ => s

def strandAfter (c : Instr) (s : State) : Strand := (tget (after c s).seed.strands 0).getD aStrand

/-- The worked case of 04_number_formats.md: 1.0 and three copies of 2^-9 in BF16, in carry form and rounded. -/
def workedLane : Lane := (((Lane.init.add (valOf .bf16 0x3F80) 1).add (valOf .bf16 0x3B00) 1).add (valOf .bf16 0x3B00) 1).add (valOf .bf16 0x3B00) 1
theorem test_lane_form : workedLane.form = [4, 1, 0, 4, 0, 0, 0, 0, 0, 0x80, 1, 1, 0, 0, 0, 0] := by decide +kernel
theorem test_lane_rounds : [RMode.rne, .rtz, .rup, .rdn, .rna].map (fun m => workedLane.round .bf16 m false false 0) =
    [0x3F81, 0x3F80, 0x3F81, 0x3F80, 0x3F81] := by decide +kernel
theorem test_lane_mean : workedLane.round .bf16 .rne false true 0 = 0x3E81 := by decide +kernel
theorem test_lane_stochastic : [0xBFFFFFFF, 0xC0000000].map (workedLane.round .bf16 .sr false false) = [0x3F81, 0x3F80] := by decide +kernel
/-- FP16 60,000 twice, rounded to FP16 and to E4M3 (the table of that chapter). -/
def twice : Lane := (Lane.init.add (valOf .fp16 0x7B53) 1).add (valOf .fp16 0x7B53) 1
theorem test_overflow : [twice.round .fp16 .rne false false 0, twice.round .fp16 .rne true false 0, twice.round .fp16 .rtz false false 0,
    twice.round .e4m3 .rne false false 0, twice.round .e4m3 .rne true false 0] = [0x7C00, 0x7BFF, 0x7BFF, 0x7F, 0x7E] := by decide +kernel
/-- 1,000 times the greatest FP32 number: the sum overflows and the mean is exact. -/
def many : Lane := Lane.init.add (valOf .fp32 0x7F7FFFFF) 1000
theorem test_mean_exact : [many.round .fp32 .rne false false 0, many.round .fp32 .rne false true 0] = [0x7F800000, 0x7F7FFFFF] := by decide +kernel
/-- 13.0, 3.0, -1.0 and 0.3 in MX E2M1: scale 0x80 and elements 7, 3, 9 and 0. -/
def mxCase : Nat × List Nat :=
  mxBlock .e2m1 .rne ([0x41500000, 0x40400000, 0xBF800000, 0x3E99999A].map (valOf .fp32) ++ List.replicate 28 (valOf .fp32 0)) (List.replicate 32 0)
theorem test_mx_block : mxCase.1 = 0x80 ∧ mxCase.2.take 5 = [7, 3, 9, 0, 0] := by decide +kernel
/-- The worked encoding of 05_seedcode_instructions.md: `ACC.BF16.H1 a1, v5 @!p2`. -/
theorem test_word : Insn.of 0xA0C5428100000000 = ⟨0x28, 3, 1, 5, 0, true, 2, 1, 0⟩ ∧ (Insn.of 0xA0C5428100000000).ok 0xA0C5428100000000 64 0 = true := by
  decide +kernel
/-- The check value of CRC-32C over the digits 1 to 9 (PRESUMED: general knowledge of that polynomial). -/
theorem test_crc : crc32c (toLE 9 0x393837363534333231) = 0xE3069283 := by decide +kernel

theorem test_sadd_wraps : (strandAfter (.sadd 0) (issuing { aStrand with s := aStrand.s.set 2 (BitVec.allOnes 64) } (word 0x23 0 1 2 1 0 0))).sr 1 = 0 := by
  decide +kernel
theorem test_slih_keeps_low : (strandAfter (.slih 0) (issuing aStrand (word 0x23 0 3 0 0 49 0xABCD))).sr 3 = 0xABCD00000003#64 := by decide +kernel
theorem test_add_int8_wraps : laneOf ((strandAfter (.add 0) (issuing { aStrand with v := (aStrand.v.set 2 0x7F).set 3 0x01 } (word 0x18 8 1 2 3 0 0))).vr 1) 0 =
    0x80 := by decide +kernel
theorem test_add_int8_clamps : laneOf ((strandAfter (.add 0) (issuing { aStrand with v := (aStrand.v.set 2 0x7F).set 3 0x01 } (word 0x18 8 1 2 3 8 0))).vr 1) 0 =
    0x7F := by decide +kernel
theorem test_sar_sign : laneOf ((strandAfter (.sar 0) (issuing { aStrand with v := (aStrand.v.set 2 0x80000000).set 3 31 } (word 0x21 9 1 2 3 7 0))).vr 1) 0 =
    0xFFFFFFFF := by decide +kernel
theorem test_fma_fp32 : laneOf ((strandAfter (.fma 0) (issuing { aStrand with v := ((aStrand.v.set 1 0x3F800000).set 2 0x40000000).set 3 0x40400000 }
    (word 0x1B 1 1 2 3 0 0))).vr 1) 0 = 0x40E00000 := by decide +kernel
theorem test_div_int_by_zero : laneOf ((strandAfter (.div 0) (issuing { aStrand with v := aStrand.v.set 2 5 } (word 0x1C 9 1 2 3 0 0))).vr 1) 0 = 0x7FFFFFFF := by
  decide +kernel
theorem test_loop_counts : (strandAfter (.loop 0) (issuing aStrand (word 2 0 0 2 0 0 0))).sr 2 = 1 ∧
    (strandAfter (.loop 0) (issuing aStrand (word 2 0 0 2 0 0 0))).pc = 0 := by decide +kernel
theorem test_sts_then_lds : (strandAfter (.lds 0) { after (.sts 0) (issuing { pointers with s := pointers.s.set 1 0x1122334455667788#64 } (word 0x13 0 1 2 0 3 8)) with
    seed := { (after (.sts 0) (issuing { pointers with s := pointers.s.set 1 0x1122334455667788#64 } (word 0x13 0 1 2 0 3 8))).seed with
      insts := [(5, instWith (word 0x12 0 1 2 0 2 8))], strands := [(0, pointers)] } }).sr 1 = 0x55667788#64 := by decide +kernel
theorem test_lds_misaligned_faults : (tget (after (.lds 0) (issuing pointers (word 0x12 0 1 2 0 3 1))).seed.insts 5).any
    (fun n => n.fault.any fun f => f.cause == 2 && f.addr == 0x8000000000000001) = true := by decide +kernel
theorem test_raise_reserved_code : (tget (after (.raise 0) (issuing aStrand (word 6 0 0 0 0 0 0x25))).seed.insts 5).any
    (fun n => n.fault.any fun f => f.cause == 5 && f.status == stIllegal) = true := by decide +kernel

/-- A command for an object that is not there changes nothing but the time it may name. -/
theorem test_absent : (after (.load 3) site).hall = site.hall ∧ (after (.snoopTimeout 7) site).coh = site.coh ∧ (after (.trainingRetry 5) site).link = site.link := by
  decide +kernel
theorem test_claim_when_free : rget (after (.claim 0) (owned 0)) R.HOST_OWN_OWNER 0 = 1 ∧ rget (after (.claim 0) (owned 2)) R.HOST_OWN_OWNER 0 = 2 := by decide +kernel
theorem test_release : rget (after (.release 0) (owned 1)) R.HOST_OWN_OWNER 0 = 0 := by decide +kernel
theorem test_window_counts_short_write : rget (after (.commandWindowWrite 0 [1#8]) site) R.CW_BAD_COUNT 0 = 1 := by decide +kernel
theorem test_cable_out : (after (.cabPresN 0 true) (linked 4)).pkg.cabAbsent = [0] ∧ lstate (after (.cabPresN 0 true) (linked 4)) 0 = 0 := by decide +kernel
theorem test_trip : (after (.thermalSample [1150] [] 0) site).pkg.phase = .tripped ∧ (after (.thermalSample [1149] [] 0) site).pkg.phase = .ready := by decide +kernel
theorem test_declare : (tget (after (.cacheDeclare 9) (caching [] aDeclare)).coh.slots 0).any (fun c => c.node == 5 && c.state == 1 && c.lines == 64) = true := by
  decide +kernel
theorem test_pin : (tblOf (after (.tablePin 9) (tables idleTable (tableAsk 0x25 (toLE 4 0 ++ toLE 4 1)))) 0).holds = [(0, .node 5 1000000)] := by decide +kernel
theorem test_step_takes_front : (match step { site with pending := [.auditNow, .hallGate] } with | .next t => t.pending | _ => []) = [.hallGate] := by decide +kernel
theorem test_step_idles : (match step site with | .next t => t.clk.now | _ => 0) = 1 := by decide +kernel

end Sys2Proof.Tests
end

section
/-! PROOFS. The Seedcode instructions that only change their strand's registers: bitwise, scalar and predicate operations,
`SEL` and `NOP` (R148, R173, R174, R176, R177): what each writes when a strand issues it, and which words the load check
refuses. -/
namespace Sys2Proof.Claims

open Sys2Proof.Machine

/-! ## What an issued register instruction answers -/

section Issue

variable {s : State} {k : Nat} {x : Strand} {n : Inst} {i : Insn} {c : Instr} {code : Nat}

theorem isOp_intro {op : Nat} (hop : i.op = op) : isOp op i = true := by simp [isOp, hop]

theorem isOpFn_intro {op mask : Nat} (hop : i.op = op) (hfn : i.fn % mask = code) : isOpFn op mask code i = true := by
  simp [isOpFn, hop, hfn]

/-- An issued instruction whose meaning is `f` on the strand's registers leaves the strand at its next instruction with the
registers `f i x`, and nothing else changed but the meter. -/
theorem IssuesOn.regInsn_went (h : IssuesOn s k x n i) {kind : Insn → Bool} {f : Insn → Strand → Strand}
    (hk : kind i = true) (hp : (f i x).pc = x.pc) (hi : (f i x).inst = x.inst) :
    regInsn k kind f s = .next (went s k n (f i x)) := by
  obtain ⟨⟨hrun, hstrand, hinst, ⟨w, hword, rfl⟩, hmay, hfree⟩, hnext⟩ := h
  rw [regInsn_next hrun hstrand hinst hword hmay hk hfree hp hi hnext, went, hp, counted]

/-- An issued bitwise instruction writes the governed elements of vD (R144, R174). -/
theorem IssuesOn.bitInsn_writesLanes (h : IssuesOn s k x n i) {r : Fmt → Nat → Nat → Nat} (hc : exec c s = bitInsn k code r s)
    (hop : i.op = 0x21) (hfn : i.fn % 8 = code) :
    WritesLanes c s k x n i fun e => r i.format (opA i x e) (i.bOp x e) :=
  ⟨_, hc.trans (h.regInsn_went (isOpFn_intro hop hfn) rfl rfl), fun _ he => el_putGov _ _ _ he⟩

/-- An issued scalar instruction writes sD from sA and its second operand (R176). -/
theorem IssuesOn.scalarInsn_writesScalar (h : IssuesOn s k x n i) {r : Word64 → Word64 → Word64}
    (hc : exec c s = scalarInsn k code r s) (hop : i.op = 0x23) (hfn : i.fn % 32 = code) :
    WritesScalar c s k x n i (r (x.sr i.a) (i.sOp x)) :=
  hc.trans (h.regInsn_went (isOpFn_intro hop hfn) rfl rfl)

theorem WritesScalar.of_eq {v v' : Word64} (h : WritesScalar c s k x n i v) (e : v = v') : WritesScalar c s k x n i v' := e ▸ h

/-- An issued predicate instruction that combines two predicates writes pD (R177). -/
theorem IssuesOn.predInsn_writesPred (h : IssuesOn s k x n i) {r : Pred → Pred → Pred} (hc : exec c s = predInsn k code r s)
    (hop : i.op = 0x24) (hfn : i.fn % 16 = code) : WritesPred c s k x n i (r (x.pr i.a) (x.pr i.b)) :=
  hc.trans (h.regInsn_went (isOpFn_intro hop hfn) rfl rfl)

end Issue

/-! ## Facts about the operations on elements and words -/

@[simp] theorem el_mod_width (f : Fmt) (v : Vec) (e : Nat) : el f v e % 2 ^ f.width = el f v e := Nat.mod_mod _ _

/-- A choice by the strict signed order is one by the weak order where equal words give the same choice. -/
theorem ite_slt_eq_ite_toInt_le {a b p q : Word64} (hpq : a = b → p = q) :
    (if a.slt b then p else q) = if a.toInt ≤ b.toInt then p else q := by
  rcases lt_trichotomy a.toInt b.toInt with h | h | h
  · simp [BitVec.slt, h, h.le]
  · simp [hpq (BitVec.eq_of_toInt_eq h)]
  · simp [BitVec.slt, h.not_gt, h.not_ge]

/-- As `ite_slt_eq_ite_toInt_le`, for the unsigned order. -/
theorem ite_ult_eq_ite_toNat_le {a b p q : Word64} (hpq : a = b → p = q) :
    (if a.ult b then p else q) = if a.toNat ≤ b.toNat then p else q := by
  rcases lt_trichotomy a.toNat b.toNat with h | h | h
  · simp [BitVec.ult, h, h.le]
  · simp [hpq (BitVec.eq_of_toNat_eq h)]
  · simp [BitVec.ult, h.not_gt, h.not_ge]

theorem sumN_eq_sum (l : List Nat) : sumN l = l.sum := List.sum_eq_foldl.symm

/-- Counting truth values one by one counts the places that hold. -/
theorem sumN_map_b2n (p : Nat → Bool) (l : List Nat) : sumN (l.map fun j => b2n (p j)) = (l.filter p).length := by
  rw [sumN_eq_sum]
  induction l with
  | nil => rfl
  | cons j l ih =>
    rw [List.map_cons, List.sum_cons, ih]
    cases hj : p j <;> simp [b2n, hj, Nat.add_comm]

/-! ## The load check of these instructions (R98, R142) -/

section LoadCheck

variable {i : Insn} {w textLen pc : Nat}

theorem ok_nop (hop : i.op = 0) : i.ok w textLen pc = (w == 0) := by
  simp only [Insn.ok, hop]

theorem ok_bitwise (hop : i.op = 0x21) : i.ok w textLen pc =
    ((i.fmt == 8 || i.fmt == 9) && i.bsrcOk && !i.fnBit 3 && (i.fn % 8 != 4 || (i.fn / 16 == 0 && i.b == 0))) := by
  simp only [Insn.ok, hop]

theorem ok_scalar (hop : i.op = 0x23) : i.ok w textLen pc = okScalar i := by
  simp only [Insn.ok, hop]

theorem ok_pred (hop : i.op = 0x24) : i.ok w textLen pc = okPred i := by
  simp only [Insn.ok, hop]

/-- A predicate operation of a code beyond 8 meets no row of R177's table. -/
theorem okPred_of_lt (h : 8 < i.fn) : okPred i = false := by
  unfold okPred
  split
  case h_6 => simp [show ¬ i.fn ≤ 3 by omega]
  all_goals omega

end LoadCheck

/-! ## The obligations -/

/-- Settles O15: the meaning of `NOP` is the identity on the strand's registers. -/
theorem nopOnlyAdvances : Obligations.NopOnlyAdvances := by
  unfold Obligations.NopOnlyAdvances
  refine ⟨fun s k x n i h hop => ?_, by decide, fun w textLen pc hop => ?_⟩
  · exact (exec_nop k s).trans (h.regInsn_went (isOp_intro hop) rfl rfl)
  · rw [ok_nop hop, beq_iff_eq]

/-- Settles O10: the register written is made of the list of the elements chosen. -/
theorem selectWritesLanes : Obligations.SelectWritesLanes := by
  unfold Obligations.SelectWritesLanes
  intro s k x n i h hop
  refine ⟨_, (exec_sel k s).trans (h.regInsn_went (isOp_intro hop) rfl rfl), fun e he => ?_⟩
  rw [el_vecOf _ (by simp) (by simpa using he)]
  cases hg : govOn i.format (i.gov x) e <;> simp [he, hg]

/-- Settles O4: each operation is `bitInsn` with its own function of two elements; the shifts are products and quotients. -/
theorem bitwiseWritesLanes : Obligations.BitwiseWritesLanes := by
  unfold Obligations.BitwiseWritesLanes
  refine ⟨fun s k x n i h hop => ⟨?and, ?or, ?xor, ?andn, ?not, ?shl, ?shr, ?sar⟩, fun w textLen pc hop hbad => ?refused⟩
  case and => exact h.bitInsn_writesLanes (exec_and k s) hop
  case or => exact h.bitInsn_writesLanes (exec_or k s) hop
  case xor => exact h.bitInsn_writesLanes (exec_xor k s) hop
  case andn => exact h.bitInsn_writesLanes (exec_andn k s) hop
  case not => exact h.bitInsn_writesLanes (exec_not k s) hop
  case shl => simpa only [Nat.shiftLeft_eq] using h.bitInsn_writesLanes (exec_shl k s) hop
  case shr => simpa only [Nat.shiftRight_eq_div_pow] using h.bitInsn_writesLanes (exec_shr k s) hop
  case sar => exact h.bitInsn_writesLanes (exec_sar k s) hop
  case refused =>
    rw [ok_bitwise hop]
    rcases hbad with hbit | ⟨hfmt8, hfmt9⟩ | ⟨hnot, hsrc | hb⟩
    · simp [hbit]
    · simp [hfmt8, hfmt9]
    · simp [hnot, hsrc]
    · simp [hnot, hb]

/-- Settles O6: each operation is `scalarInsn` with its own function of two words; the minima and maxima choose by the strict
order, which differs from the weak one only between equal words. -/
theorem scalarsWriteRegister : Obligations.ScalarsWriteRegister := by
  unfold Obligations.ScalarsWriteRegister
  refine ⟨fun s k x n i h hop => ⟨?sadd, ?ssub, ?smul, ?sand, ?sor, ?sxor, ?sshl, ?sshr, ?ssar, ?smin, ?smax, ?sminu, ?smaxu,
    ?slt, ?sltu, ?seq, ?smov, ?slih⟩, fun w textLen pc hop hbad => ?refused⟩
  case sadd => exact h.scalarInsn_writesScalar (exec_sadd k s) hop
  case ssub => exact h.scalarInsn_writesScalar (exec_ssub k s) hop
  case smul => exact h.scalarInsn_writesScalar (exec_smul k s) hop
  case sand => exact h.scalarInsn_writesScalar (exec_sand k s) hop
  case sor => exact h.scalarInsn_writesScalar (exec_sor k s) hop
  case sxor => exact h.scalarInsn_writesScalar (exec_sxor k s) hop
  case sshl => exact h.scalarInsn_writesScalar (exec_sshl k s) hop
  case sshr => exact h.scalarInsn_writesScalar (exec_sshr k s) hop
  case ssar => exact h.scalarInsn_writesScalar (exec_ssar k s) hop
  case smin => exact fun hfn => (h.scalarInsn_writesScalar (exec_smin k s) hop hfn).of_eq (ite_slt_eq_ite_toInt_le id)
  case smax => exact fun hfn => (h.scalarInsn_writesScalar (exec_smax k s) hop hfn).of_eq (ite_slt_eq_ite_toInt_le Eq.symm)
  case sminu => exact fun hfn => (h.scalarInsn_writesScalar (exec_sminu k s) hop hfn).of_eq (ite_ult_eq_ite_toNat_le id)
  case smaxu => exact fun hfn => (h.scalarInsn_writesScalar (exec_smaxu k s) hop hfn).of_eq (ite_ult_eq_ite_toNat_le Eq.symm)
  case slt => exact h.scalarInsn_writesScalar (exec_slt k s) hop
  case sltu => exact h.scalarInsn_writesScalar (exec_sltu k s) hop
  case seq => exact h.scalarInsn_writesScalar (exec_seq k s) hop
  case smov => exact h.scalarInsn_writesScalar (exec_smov k s) hop
  case slih => exact fun hfn => (exec_slih k s).trans (h.regInsn_went (isOpFn_intro hop hfn) rfl rfl)
  case refused =>
    rw [ok_scalar hop, okScalar]
    rcases hbad with hcode | ⟨hslih, himm⟩ | ⟨hcode, ha⟩ | ⟨himm, hb⟩
    · simp [show ¬ (Insn.of w).fn % 32 ≤ 17 by omega]
    · simp [hslih, himm]
    · obtain hmov | hslih | hbeyond :
          (Insn.of w).fn % 32 = 16 ∨ (Insn.of w).fn % 32 = 17 ∨ ¬ (Insn.of w).fn % 32 ≤ 17 := by omega
      · simp [hmov, ha]
      · simp [hslih, ha]
      · simp [hbeyond]
    · simp [himm, hb]

/-- Settles O7: the first five operations are `predInsn`; the others take a constant, a scalar register, or write one. -/
theorem predicatesWriteRegister : Obligations.PredicatesWriteRegister := by
  unfold Obligations.PredicatesWriteRegister
  refine ⟨fun s k x n i h hop => ⟨?pand, ?por, ?pxor, ?pandn, ?pnot, ?pset, ?pfrom, ?pto, ?pcnt⟩,
    fun w textLen pc hop hcode => (ok_pred hop).trans (okPred_of_lt hcode)⟩
  case pand => exact h.predInsn_writesPred (exec_pand k s) hop
  case por => exact h.predInsn_writesPred (exec_por k s) hop
  case pxor => exact h.predInsn_writesPred (exec_pxor k s) hop
  case pandn => exact h.predInsn_writesPred (exec_pandn k s) hop
  case pnot => exact h.predInsn_writesPred (exec_pnot k s) hop
  case pset => exact fun hfn => (exec_pset k s).trans (h.regInsn_went (isOpFn_intro hop hfn) rfl rfl)
  case pfrom =>
    rw [← BitVec.ofNat_toNat]
    exact fun hfn => (exec_pfrom k s).trans (h.regInsn_went (isOpFn_intro hop hfn) rfl rfl)
  case pto =>
    rw [← BitVec.ofNat_toNat]
    exact fun hfn => (exec_pto k s).trans (h.regInsn_went (isOpFn_intro hop hfn) rfl rfl)
  case pcnt =>
    intro hfn
    rw [← sumN_map_b2n]
    exact (exec_pcnt k s).trans (h.regInsn_went (isOpFn_intro hop hfn) rfl rfl)

end Sys2Proof.Claims
end

section
/-! PROOFS. The whole block: every command goes on to a next state that keeps the queue and the canonical form, so that every
step does, and the machine after reset. -/
namespace Sys2Proof.Laws

open Sys2Proof.Machine Sys2Proof.Safety

/-! ## Every command completes -/

/-- An answer is a next state that keeps the queue of `s` and its canonical form. -/
def Completes (s : State) (o : Out) : Prop := ∃ t, o = Host.Outcome.next t ∧ Keeps s t

theorem KeepsN.completes {s : State} {o : Out} (h : KeepsN s o) (hg : GoesOn o) : Completes s o :=
  let ⟨t, ht⟩ := hg
  ⟨t, ht, h.next t ht⟩

theorem execLoad_goesOn (id : Nat) (s : State) : GoesOn (execLoad id s) := by
  unfold execLoad
  split <;> exact ⟨_, rfl⟩

theorem execGatherBatch_goesOn (id : Nat) (s : State) : GoesOn (execGatherBatch id s) := by
  unfold execGatherBatch
  split <;> exact ⟨_, rfl⟩

theorem execFilterTopk_goesOn (id : Nat) (s : State) : GoesOn (execFilterTopk id s) := by
  unfold execFilterTopk
  split <;> exact ⟨_, rfl⟩

theorem listCmd_goesOn (h code : Nat) (buf : Option (List Byte)) (act : Cmd → StreamCtx → State → State) (s : State) :
    GoesOn (listCmd h code buf act s) := by
  unfold listCmd
  dsimp only
  split <;> exact ⟨_, rfl⟩

theorem execPwrokFall_goesOn (s : State) : GoesOn (execPwrokFall s) := by
  unfold execPwrokFall
  split <;> exact ⟨_, rfl⟩

theorem execPwrokRise_goesOn (s : State) : GoesOn (execPwrokRise s) := by
  unfold execPwrokRise
  split
  · exact ⟨_, rfl⟩
  · split <;> exact ⟨_, rfl⟩
  · exact ⟨_, rfl⟩

theorem execStandbyGroupUp_goesOn (s : State) : GoesOn (execStandbyGroupUp s) := by
  unfold execStandbyGroupUp
  split <;> exact ⟨_, rfl⟩

theorem execStandbyGroupDown_goesOn (s : State) : GoesOn (execStandbyGroupDown s) := by
  unfold execStandbyGroupDown
  split <;> exact ⟨_, rfl⟩

theorem execThermalSample_goesOn (temps stemps : List Nat) (w : Nat) (s : State) : GoesOn (execThermalSample temps stemps w s) := by
  unfold execThermalSample
  split <;> exact ⟨_, rfl⟩

/-- Every command completes. The shared frames of commands answer a next state whatever they are given, so that for most
commands nothing is left to show. -/
theorem exec_completes {s s0 : State} (h : Keeps s0 s) : ∀ c : Instr, Completes s0 (exec c s)
  | .movePassEnd _ => (execMovePassEnd_keeps h).completes ⟨_, rfl⟩
  | .moveHoldTimeout _ => (execMoveHoldTimeout_keeps h).completes ⟨_, rfl⟩
  | .moveSourceFree _ => (execMoveSourceFree_keeps h).completes ⟨_, rfl⟩
  | .clockPointPauseEnd _ => (execClockPointPauseEnd_keeps h).completes ⟨_, rfl⟩
  | .galleryIdleSleep _ => (execGalleryIdleSleep_keeps h).completes ⟨_, rfl⟩
  | .stackSelfRefresh _ => (execStackSelfRefresh_keeps h).completes ⟨_, rfl⟩
  | .laneSleep _ => (execLaneSleep_keeps h).completes ⟨_, rfl⟩
  | .slotWake _ _ => (execSlotWake_keeps h).completes ⟨_, rfl⟩
  | .unitWakeDone _ _ => (execUnitWakeDone_keeps h).completes ⟨_, rfl⟩
  | .galleryZeroingDone _ => (execGalleryZeroingDone_keeps h).completes ⟨_, rfl⟩
  | .time _ _ _ => (execTime_keeps h).completes ⟨_, rfl⟩
  | .timeSyncSend _ => (execTimeSyncSend_keeps h).completes ⟨_, rfl⟩
  | .slotStart _ => (execSlotStart_keeps h).completes ⟨_, rfl⟩
  | .ingressFrame _ _ => (execIngressFrame_keeps h).completes ⟨_, rfl⟩
  | .ethernetFrame _ _ _ _ _ _ => (execEthernetFrame_keeps h).completes ⟨_, rfl⟩
  | .load _ => (execLoad_keeps h).completes (execLoad_goesOn ..)
  | .store _ => (execStore_keeps h).completes ⟨_, rfl⟩
  | .ofStoreRelease _ => (execOfStoreRelease_keeps h).completes ⟨_, rfl⟩
  | .atomic _ => (execAtomic_keeps h).completes ⟨_, rfl⟩
  | .answerEntryExpire _ _ => (execAnswerEntryExpire_keeps h).completes ⟨_, rfl⟩
  | .bulkPut _ => (execBulkPut_keeps h).completes ⟨_, rfl⟩
  | .bulkGet _ => (execBulkGet_keeps h).completes ⟨_, rfl⟩
  | .bulkPutMasked _ => (execBulkPutMasked_keeps h).completes ⟨_, rfl⟩
  | .bulkAtomic _ => (execBulkAtomic_keeps h).completes ⟨_, rfl⟩
  | .trackerAnswer _ => (execTrackerAnswer_keeps h).completes ⟨_, rfl⟩
  | .trackerTimeout _ => (execTrackerTimeout_keeps h).completes ⟨_, rfl⟩
  | .caps _ _ => (execCaps_keeps h).completes ⟨_, rfl⟩
  | .launch _ => (execLaunch_keeps h).completes ⟨_, rfl⟩
  | .galleryDispatch _ => (execGalleryDispatch_keeps h).completes ⟨_, rfl⟩
  | .instanceEnd _ => (execInstanceEnd_keeps h).completes ⟨_, rfl⟩
  | .instanceTimeLimit _ => (execInstanceTimeLimit_keeps h).completes ⟨_, rfl⟩
  | .launchDeadline _ => (execLaunchDeadline_keeps h).completes ⟨_, rfl⟩
  | .strandFabricAnswer _ _ => (execStrandFabricAnswer_keeps h).completes ⟨_, rfl⟩
  | .waiteRelease _ => (execWaiteRelease_keeps h).completes ⟨_, rfl⟩
  | .nop _ => (execNop_keeps h).completes ⟨_, rfl⟩
  | .br _ => (execBr_keeps h).completes ⟨_, rfl⟩
  | .loop _ => (execLoop_keeps h).completes ⟨_, rfl⟩
  | .waite _ => (execWaite_keeps h).completes ⟨_, rfl⟩
  | .bar _ => (execBar_keeps h).completes ⟨_, rfl⟩
  | .fence _ => (execFence_keeps h).completes ⟨_, rfl⟩
  | .raise _ => (execRaise_keeps h).completes ⟨_, rfl⟩
  | .halt _ => (execHalt_keeps h).completes ⟨_, rfl⟩
  | .recv _ => (execRecv_keeps h).completes ⟨_, rfl⟩
  | .send _ => (execSend_keeps h).completes ⟨_, rfl⟩
  | .fwd _ => (execFwd_keeps h).completes ⟨_, rfl⟩
  | .grant _ => (execGrant_keeps h).completes ⟨_, rfl⟩
  | .ldv _ => (execLdv_keeps h).completes ⟨_, rfl⟩
  | .stv _ => (execStv_keeps h).completes ⟨_, rfl⟩
  | .lds _ => (execLds_keeps h).completes ⟨_, rfl⟩
  | .sts _ => (execSts_keeps h).completes ⟨_, rfl⟩
  | .gath _ => (execGath_keeps h).completes ⟨_, rfl⟩
  | .scat _ => (execScat_keeps h).completes ⟨_, rfl⟩
  | .atom _ => (execAtom_keeps h).completes ⟨_, rfl⟩
  | .pin _ => (execPin_keeps h).completes ⟨_, rfl⟩
  | .pinRelease _ => (execPinRelease_keeps h).completes ⟨_, rfl⟩
  | .add _ => (execAdd_keeps h).completes ⟨_, rfl⟩
  | .sub _ => (execSub_keeps h).completes ⟨_, rfl⟩
  | .mul _ => (execMul_keeps h).completes ⟨_, rfl⟩
  | .fma _ => (execFma_keeps h).completes ⟨_, rfl⟩
  | .div _ => (execDiv_keeps h).completes ⟨_, rfl⟩
  | .max _ => (execMax_keeps h).completes ⟨_, rfl⟩
  | .min _ => (execMin_keeps h).completes ⟨_, rfl⟩
  | .cmp _ => (execCmp_keeps h).completes ⟨_, rfl⟩
  | .sel _ => (execSel_keeps h).completes ⟨_, rfl⟩
  | .and _ => (execAnd_keeps h).completes ⟨_, rfl⟩
  | .or _ => (execOr_keeps h).completes ⟨_, rfl⟩
  | .xor _ => (execXor_keeps h).completes ⟨_, rfl⟩
  | .andn _ => (execAndn_keeps h).completes ⟨_, rfl⟩
  | .not _ => (execNot_keeps h).completes ⟨_, rfl⟩
  | .shl _ => (execShl_keeps h).completes ⟨_, rfl⟩
  | .shr _ => (execShr_keeps h).completes ⟨_, rfl⟩
  | .sar _ => (execSar_keeps h).completes ⟨_, rfl⟩
  | .mov _ => (execMov_keeps h).completes ⟨_, rfl⟩
  | .bcast _ => (execBcast_keeps h).completes ⟨_, rfl⟩
  | .bcasti _ => (execBcasti_keeps h).completes ⟨_, rfl⟩
  | .iota _ => (execIota_keeps h).completes ⟨_, rfl⟩
  | .ins _ => (execIns_keeps h).completes ⟨_, rfl⟩
  | .ext _ => (execExt_keeps h).completes ⟨_, rfl⟩
  | .sadd _ => (execSadd_keeps h).completes ⟨_, rfl⟩
  | .ssub _ => (execSsub_keeps h).completes ⟨_, rfl⟩
  | .smul _ => (execSmul_keeps h).completes ⟨_, rfl⟩
  | .sand _ => (execSand_keeps h).completes ⟨_, rfl⟩
  | .sor _ => (execSor_keeps h).completes ⟨_, rfl⟩
  | .sxor _ => (execSxor_keeps h).completes ⟨_, rfl⟩
  | .sshl _ => (execSshl_keeps h).completes ⟨_, rfl⟩
  | .sshr _ => (execSshr_keeps h).completes ⟨_, rfl⟩
  | .ssar _ => (execSsar_keeps h).completes ⟨_, rfl⟩
  | .smin _ => (execSmin_keeps h).completes ⟨_, rfl⟩
  | .smax _ => (execSmax_keeps h).completes ⟨_, rfl⟩
  | .sminu _ => (execSminu_keeps h).completes ⟨_, rfl⟩
  | .smaxu _ => (execSmaxu_keeps h).completes ⟨_, rfl⟩
  | .slt _ => (execSlt_keeps h).completes ⟨_, rfl⟩
  | .sltu _ => (execSltu_keeps h).completes ⟨_, rfl⟩
  | .seq _ => (execSeq_keeps h).completes ⟨_, rfl⟩
  | .smov _ => (execSmov_keeps h).completes ⟨_, rfl⟩
  | .slih _ => (execSlih_keeps h).completes ⟨_, rfl⟩
  | .pand _ => (execPand_keeps h).completes ⟨_, rfl⟩
  | .por _ => (execPor_keeps h).completes ⟨_, rfl⟩
  | .pxor _ => (execPxor_keeps h).completes ⟨_, rfl⟩
  | .pandn _ => (execPandn_keeps h).completes ⟨_, rfl⟩
  | .pnot _ => (execPnot_keeps h).completes ⟨_, rfl⟩
  | .pset _ => (execPset_keeps h).completes ⟨_, rfl⟩
  | .pfrom _ => (execPfrom_keeps h).completes ⟨_, rfl⟩
  | .pto _ => (execPto_keeps h).completes ⟨_, rfl⟩
  | .pcnt _ => (execPcnt_keeps h).completes ⟨_, rfl⟩
  | .neg _ => (execNeg_keeps h).completes ⟨_, rfl⟩
  | .abs _ => (execAbs_keeps h).completes ⟨_, rfl⟩
  | .sqrt _ => (execSqrt_keeps h).completes ⟨_, rfl⟩
  | .acc _ => (execAcc_keeps h).completes ⟨_, rfl⟩
  | .accm _ => (execAccm_keeps h).completes ⟨_, rfl⟩
  | .clra _ => (execClra_keeps h).completes ⟨_, rfl⟩
  | .rnd _ => (execRnd_keeps h).completes ⟨_, rfl⟩
  | .pack _ => (execPack_keeps h).completes ⟨_, rfl⟩
  | .unpk _ => (execUnpk_keeps h).completes ⟨_, rfl⟩
  | .topk _ => (execTopk_keeps h).completes ⟨_, rfl⟩
  | .cvt _ => (execCvt_keeps h).completes ⟨_, rfl⟩
  | .xpnd _ => (execXpnd_keeps h).completes ⟨_, rfl⟩
  | .colSeg _ => (execColSeg_keeps h).completes ⟨_, rfl⟩
  | .colPart _ => (execColPart_keeps h).completes ⟨_, rfl⟩
  | .colResult _ => (execColResult_keeps h).completes ⟨_, rfl⟩
  | .colGrant _ => (execColGrant_keeps h).completes ⟨_, rfl⟩
  | .colAbort _ => (execColAbort_keeps h).completes ⟨_, rfl⟩
  | .colNoProgress _ => (execColNoProgress_keeps h).completes ⟨_, rfl⟩
  | .colRearm _ => (execColRearm_keeps h).completes ⟨_, rfl⟩
  | .straggler _ _ => (execStraggler_keeps h).completes ⟨_, rfl⟩
  | .gatherBatch _ => (execGatherBatch_keeps h).completes (execGatherBatch_goesOn ..)
  | .gatherDirectoryDone _ => (execGatherDirectoryDone_keeps h).completes ⟨_, rfl⟩
  | .gatherRowFetch _ _ _ => (execGatherRowFetch_keeps h).completes ⟨_, rfl⟩
  | .gatherBatchEnd _ => (execGatherBatchEnd_keeps h).completes ⟨_, rfl⟩
  | .gatherBatchDeadline _ => (execGatherBatchDeadline_keeps h).completes ⟨_, rfl⟩
  | .rowPut _ => (execRowPut_keeps h).completes ⟨_, rfl⟩
  | .rowFlip _ => (execRowFlip_keeps h).completes ⟨_, rfl⟩
  | .scatterAdd _ => (execScatterAdd_keeps h).completes ⟨_, rfl⟩
  | .filterTopk _ => (execFilterTopk_keeps h).completes (execFilterTopk_goesOn ..)
  | .tablePin _ => (execTablePin_keeps h).completes ⟨_, rfl⟩
  | .tableUnpin _ => (execTableUnpin_keeps h).completes ⟨_, rfl⟩
  | .pinHoldLapse _ _ _ => (execPinHoldLapse_keeps h).completes ⟨_, rfl⟩
  | .tableSlotFree _ _ => (execTableSlotFree_keeps h).completes ⟨_, rfl⟩
  | .tableReady _ => (execTableReady_keeps h).completes ⟨_, rfl⟩
  | .tierAnswer _ _ _ => (execTierAnswer_keeps h).completes ⟨_, rfl⟩
  | .tierAttemptTimeout _ => (execTierAttemptTimeout_keeps h).completes ⟨_, rfl⟩
  | .trayLatencyWindow _ _ _ => (execTrayLatencyWindow_keeps h).completes ⟨_, rfl⟩
  | .traySlowClear _ _ => (execTraySlowClear_keeps h).completes ⟨_, rfl⟩
  | .wsPrefetchPoint _ => (execWsPrefetchPoint_keeps h).completes ⟨_, rfl⟩
  | .wsCopyComplete _ => (execWsCopyComplete_keeps h).completes ⟨_, rfl⟩
  | .wsStoreAnswer _ => (execWsStoreAnswer_keeps h).completes ⟨_, rfl⟩
  | .wsFlagAnswer _ => (execWsFlagAnswer_keeps h).completes ⟨_, rfl⟩
  | .weightLate _ => (execWeightLate_keeps h).completes ⟨_, rfl⟩
  | .extGrant _ => (execExtGrant_keeps h).completes ⟨_, rfl⟩
  | .extRevoke _ => (execExtRevoke_keeps h).completes ⟨_, rfl⟩
  | .fenceConfirmed _ => (execFenceConfirmed_keeps h).completes ⟨_, rfl⟩
  | .drainDone _ => (execDrainDone_keeps h).completes ⟨_, rfl⟩
  | .drainTimeout _ => (execDrainTimeout_keeps h).completes ⟨_, rfl⟩
  | .scrubDone _ => (execScrubDone_keeps h).completes ⟨_, rfl⟩
  | .leaseRenew _ => (execLeaseRenew_keeps h).completes ⟨_, rfl⟩
  | .leaseExpiry _ => (execLeaseExpiry_keeps h).completes ⟨_, rfl⟩
  | .streamOpen _ _ => (execStreamOpen_keeps h).completes (listCmd_goesOn ..)
  | .streamGrow _ _ => (execStreamGrow_keeps h).completes (listCmd_goesOn ..)
  | .streamHandoff _ _ => (execStreamHandoff_keeps h).completes ⟨_, rfl⟩
  | .streamAccept _ _ => (execStreamAccept_keeps h).completes (listCmd_goesOn ..)
  | .streamTakeover _ _ => (execStreamTakeover_keeps h).completes (listCmd_goesOn ..)
  | .streamClose _ _ => (execStreamClose_keeps h).completes ⟨_, rfl⟩
  | .streamQuery _ => (execStreamQuery_keeps h).completes ⟨_, rfl⟩
  | .ledgerPoll _ => (execLedgerPoll_keeps h).completes ⟨_, rfl⟩
  | .ledgerCasAnswer _ => (execLedgerCasAnswer_keeps h).completes ⟨_, rfl⟩
  | .streamPullAnswer _ => (execStreamPullAnswer_keeps h).completes ⟨_, rfl⟩
  | .streamAcceptTimeout _ => (execStreamAcceptTimeout_keeps h).completes ⟨_, rfl⟩
  | .cacheDeclare _ => (execCacheDeclare_keeps h).completes ⟨_, rfl⟩
  | .cacheRelease _ => (execCacheRelease_keeps h).completes ⟨_, rfl⟩
  | .rdShared _ => (execRdShared_keeps h).completes ⟨_, rfl⟩
  | .rdOwn _ => (execRdOwn_keeps h).completes ⟨_, rfl⟩
  | .upgrade _ => (execUpgrade_keeps h).completes ⟨_, rfl⟩
  | .wbDirty _ => (execWbDirty_keeps h).completes ⟨_, rfl⟩
  | .evictClean _ => (execEvictClean_keeps h).completes ⟨_, rfl⟩
  | .snoopAnswer _ => (execSnoopAnswer_keeps h).completes ⟨_, rfl⟩
  | .snoopTimeout _ => (execSnoopTimeout_keeps h).completes ⟨_, rfl⟩
  | .staleClear _ => (execStaleClear_keeps h).completes ⟨_, rfl⟩
  | .staleQuery _ => (execStaleQuery_keeps h).completes ⟨_, rfl⟩
  | .portSignal _ => (execPortSignal_keeps h).completes ⟨_, rfl⟩
  | .retrain _ => (execRetrain_keeps h).completes ⟨_, rfl⟩
  | .prbsCheckDone _ _ => (execPrbsCheckDone_keeps h).completes ⟨_, rfl⟩
  | .fullTrainingDone _ _ => (execFullTrainingDone_keeps h).completes ⟨_, rfl⟩
  | .trainingTimeout _ => (execTrainingTimeout_keeps h).completes ⟨_, rfl⟩
  | .trainingRetry _ => (execTrainingRetry_keeps h).completes ⟨_, rfl⟩
  | .pairAligned _ => (execPairAligned_keeps h).completes ⟨_, rfl⟩
  | .alignmentLost _ => (execAlignmentLost_keeps h).completes ⟨_, rfl⟩
  | .resume _ _ _ => (execResume_keeps h).completes ⟨_, rfl⟩
  | .holdUpExpiry _ => (execHoldUpExpiry_keeps h).completes ⟨_, rfl⟩
  | .flitReceive _ _ => (execFlitReceive_keeps h).completes ⟨_, rfl⟩
  | .replayTimeout _ => (execReplayTimeout_keeps h).completes ⟨_, rfl⟩
  | .tag _ _ => (execTag_keeps h).completes ⟨_, rfl⟩
  | .widthAsk _ _ => (execWidthAsk_keeps h).completes ⟨_, rfl⟩
  | .width _ _ => (execWidth_keeps h).completes ⟨_, rfl⟩
  | .offer _ _ _ => (execOffer_keeps h).completes ⟨_, rfl⟩
  | .accept _ _ _ => (execAccept_keeps h).completes ⟨_, rfl⟩
  | .done _ _ _ => (execDone_keeps h).completes ⟨_, rfl⟩
  | .abort _ _ => (execAbort_keeps h).completes ⟨_, rfl⟩
  | .keyDoneTimeout _ => (execKeyDoneTimeout_keeps h).completes ⟨_, rfl⟩
  | .rekeyStart _ => (execRekeyStart_keeps h).completes ⟨_, rfl⟩
  | .subForce _ => (execSubForce_keeps h).completes ⟨_, rfl⟩
  | .subAsk _ => (execSubAsk_keeps h).completes ⟨_, rfl⟩
  | .subAskTimeout _ => (execSubAskTimeout_keeps h).completes ⟨_, rfl⟩
  | .subAnswer _ => (execSubAnswer_keeps h).completes ⟨_, rfl⟩
  | .subCommit _ => (execSubCommit_keeps h).completes ⟨_, rfl⟩
  | .idGet _ => (execIdGet_keeps h).completes ⟨_, rfl⟩
  | .quote _ => (execQuote_keeps h).completes ⟨_, rfl⟩
  | .frameStage _ => (execFrameStage_keeps h).completes ⟨_, rfl⟩
  | .licenceLoad _ => (execLicenceLoad_keeps h).completes ⟨_, rfl⟩
  | .jobOpen _ => (execJobOpen_keeps h).completes ⟨_, rfl⟩
  | .jobWrap _ => (execJobWrap_keeps h).completes ⟨_, rfl⟩
  | .jobClose _ => (execJobClose_keeps h).completes ⟨_, rfl⟩
  | .jobKeyInstall _ => (execJobKeyInstall_keeps h).completes ⟨_, rfl⟩
  | .mgtQuery _ => (execMgtQuery_keeps h).completes ⟨_, rfl⟩
  | .holoneRequest _ => (execHoloneRequest_keeps h).completes ⟨_, rfl⟩
  | .imageStage _ _ => (execImageStage_keeps h).completes ⟨_, rfl⟩
  | .imageArm _ => (execImageArm_keeps h).completes ⟨_, rfl⟩
  | .imageDisarm _ => (execImageDisarm_keeps h).completes ⟨_, rfl⟩
  | .claim _ => (execClaim_keeps h).completes ⟨_, rfl⟩
  | .renew _ => (execRenew_keeps h).completes ⟨_, rfl⟩
  | .release _ => (execRelease_keeps h).completes ⟨_, rfl⟩
  | .hostLinkDown _ => (execHostLinkDown_keeps h).completes ⟨_, rfl⟩
  | .commandWindowWrite _ _ => (execCommandWindowWrite_keeps h).completes ⟨_, rfl⟩
  | .commandCompletion _ => (execCommandCompletion_keeps h).completes ⟨_, rfl⟩
  | .cqHeadWrite _ _ => (execCqHeadWrite_keeps h).completes ⟨_, rfl⟩
  | .cqConfigWrite _ _ _ => (execCqConfigWrite_keeps h).completes ⟨_, rfl⟩
  | .reset _ => (execReset_keeps h).completes ⟨_, rfl⟩
  | .stageDiscard _ => (execStageDiscard_keeps h).completes ⟨_, rfl⟩
  | .progLoad _ _ => (execProgLoad_keeps h).completes ⟨_, rfl⟩
  | .hostCommandLaunch _ _ => (execHostCommandLaunch_keeps h).completes ⟨_, rfl⟩
  | .kill _ => (execKill_keeps h).completes ⟨_, rfl⟩
  | .colOpen _ _ => (execColOpen_keeps h).completes ⟨_, rfl⟩
  | .colClose _ => (execColClose_keeps h).completes ⟨_, rfl⟩
  | .hostCommandColAbort _ => (execHostCommandColAbort_keeps h).completes ⟨_, rfl⟩
  | .ttLoad _ _ => (execTtLoad_keeps h).completes ⟨_, rfl⟩
  | .s0Query _ => (execS0Query_keeps h).completes ⟨_, rfl⟩
  | .hostApertureAccess _ _ _ _ _ => (execHostApertureAccess_keeps h).completes ⟨_, rfl⟩
  | .hostInboundRequest _ _ => (execHostInboundRequest_keeps h).completes ⟨_, rfl⟩
  | .registerWrite _ _ _ => (execRegisterWrite_keeps h).completes ⟨_, rfl⟩
  | .laneFailed _ _ => (execLaneFailed_keeps h).completes ⟨_, rfl⟩
  | .governorRun _ => (execGovernorRun_keeps h).completes ⟨_, rfl⟩
  | .wsLevelHalfLead _ => (execWsLevelHalfLead_keeps h).completes ⟨_, rfl⟩
  | .wsEscalate _ => (execWsEscalate_keeps h).completes ⟨_, rfl⟩
  | .laneSerWindow _ _ _ => (execLaneSerWindow_keeps h).completes ⟨_, rfl⟩
  | .laneRetrainGood _ _ => (execLaneRetrainGood_keeps h).completes ⟨_, rfl⟩
  | .keyLimitReached _ => (execKeyLimitReached_keeps h).completes ⟨_, rfl⟩
  | .oldKeyRetire _ => (execOldKeyRetire_keeps h).completes ⟨_, rfl⟩
  | .subWaitExpiry _ => (execSubWaitExpiry_keeps h).completes ⟨_, rfl⟩
  | .subAskResend _ => (execSubAskResend_keeps h).completes ⟨_, rfl⟩
  | .trayRebuildDone _ _ => (execTrayRebuildDone_keeps h).completes ⟨_, rfl⟩
  | .ageingMeasureDone _ => (execAgeingMeasureDone_keeps h).completes ⟨_, rfl⟩
  | .endorseSet _ => (execEndorseSet_keeps h).completes ⟨_, rfl⟩
  | .credSet _ => (execCredSet_keeps h).completes ⟨_, rfl⟩
  | .recoveryImage _ => (execRecoveryImage_keeps h).completes ⟨_, rfl⟩
  | .jobKeyDestroy _ => (execJobKeyDestroy_keeps h).completes ⟨_, rfl⟩
  | .holoneSlotUnlock _ => (execHoloneSlotUnlock_keeps h).completes ⟨_, rfl⟩
  | .resetNLow _ => (execResetNLow_keeps h).completes ⟨_, rfl⟩
  | .selftestDone _ => (execSelftestDone_keeps h).completes ⟨_, rfl⟩
  | .tftpWriteRequest _ _ => (execTftpWriteRequest_keeps h).completes ⟨_, rfl⟩
  | .imageWriteDone _ => (execImageWriteDone_keeps h).completes ⟨_, rfl⟩
  | .imageTransferStall _ => (execImageTransferStall_keeps h).completes ⟨_, rfl⟩
  | .holdupN _ => (execHoldupN_keeps h).completes ⟨_, rfl⟩
  | .thermalSample _ _ _ => (execThermalSample_keeps h).completes (execThermalSample_goesOn ..)
  | .i3cPrivateRead _ => (execI3cPrivateRead_keeps h).completes ⟨_, rfl⟩
  | .i3cDynamicAddress _ => (execI3cDynamicAddress_keeps h).completes ⟨_, rfl⟩
  | .cabPresN _ _ => (execCabPresN_keeps h).completes ⟨_, rfl⟩
  | .hostPortTrained _ _ _ => (execHostPortTrained_keeps h).completes ⟨_, rfl⟩
  | .ppsInEdge _ => (execPpsInEdge_keeps h).completes ⟨_, rfl⟩
  | .rekeyRetry _ => (execRekeyRetry_keeps h).completes ⟨_, rfl⟩
  | .epochBoundary => (execEpochBoundary_keeps h).completes ⟨_, rfl⟩
  | .stageCutoff => (execStageCutoff_keeps h).completes ⟨_, rfl⟩
  | .routeRetire => (execRouteRetire_keeps h).completes ⟨_, rfl⟩
  | .hallGate => (execHallGate_keeps h).completes ⟨_, rfl⟩
  | .holdoverEntry => (execHoldoverEntry_keeps h).completes ⟨_, rfl⟩
  | .acquiringEnd => (execAcquiringEnd_keeps h).completes ⟨_, rfl⟩
  | .quietSlot => (execQuietSlot_keeps h).completes ⟨_, rfl⟩
  | .schedulerCellTime => (execSchedulerCellTime_keeps h).completes ⟨_, rfl⟩
  | .auditNow => (execAuditNow_keeps h).completes ⟨_, rfl⟩
  | .bufferAuditDone => (execBufferAuditDone_keeps h).completes ⟨_, rfl⟩
  | .ledgerRevertTick => (execLedgerRevertTick_keeps h).completes ⟨_, rfl⟩
  | .maintNow => (execMaintNow_keeps h).completes ⟨_, rfl⟩
  | .pwrokRise => (execPwrokRise_keeps h).completes (execPwrokRise_goesOn ..)
  | .pwrokFall => (execPwrokFall_keeps h).completes (execPwrokFall_goesOn ..)
  | .warmReset => (execWarmReset_keeps h).completes ⟨_, rfl⟩
  | .startupReady => (execStartupReady_keeps h).completes ⟨_, rfl⟩
  | .mgmtHeartbeatLoss => (execMgmtHeartbeatLoss_keeps h).completes ⟨_, rfl⟩
  | .trialTimeout => (execTrialTimeout_keeps h).completes ⟨_, rfl⟩
  | .ownerLeaseExpiry => (execOwnerLeaseExpiry_keeps h).completes ⟨_, rfl⟩
  | .effLimitTick => (execEffLimitTick_keeps h).completes ⟨_, rfl⟩
  | .thermtripRelease => (execThermtripRelease_keeps h).completes ⟨_, rfl⟩
  | .ppsOutPulse => (execPpsOutPulse_keeps h).completes ⟨_, rfl⟩
  | .shellSramError => (execShellSramError_keeps h).completes ⟨_, rfl⟩
  | .standbyGroupUp => (execStandbyGroupUp_keeps h).completes (execStandbyGroupUp_goesOn ..)
  | .standbyGroupDown => (execStandbyGroupDown_keeps h).completes (execStandbyGroupDown_goesOn ..)
  | .followerReadyTimeout => (execFollowerReadyTimeout_keeps h).completes ⟨_, rfl⟩
  | .savedSettingsWrite => (execSavedSettingsWrite_keeps h).completes ⟨_, rfl⟩

/-! ## Steps -/

/-- The queue is no memory: taking a command from it keeps the canonical form. -/
theorem canonical_withPending {s : State} (l : List Instr) (h : Canonical s) : Canonical { s with pending := l } :=
  ⟨h.pool, h.pips, h.galleries, h.request, h.response, h.registers⟩

theorem step_of_nil {s : State} (h : s.pending = []) : step s = .next (tick s) := by simp only [step, h]

theorem step_of_cons {s : State} {c : Instr} {l : List Instr} (h : s.pending = c :: l) : step s = exec c { s with pending := l } := by
  simp only [step, h]

/-- A step takes one command from the queue, if there is one, and keeps the canonical form. -/
theorem step_completes (s : State) : ∃ t, step s = .next t ∧ t.pending = s.pending.tail ∧ (Canonical s → Canonical t) := by
  cases hp : s.pending with
  | nil =>
    have hk := tick_keeps (Keeps.refl s)
    exact ⟨tick s, step_of_nil hp, hk.queue.trans hp, hk.canon⟩
  | cons c l =>
    obtain ⟨t, ht, hk⟩ := exec_completes (Keeps.refl { s with pending := l }) c
    exact ⟨t, (step_of_cons hp).trans ht, hk.queue, fun hc => hk.canon (canonical_withPending l hc)⟩

/-- As many steps as a part of the queue has commands take that part. -/
theorem runs_takes_queue (l r : List Instr) (s : State) (h : s.pending = l ++ r) : ∃ t, runs l.length s = .next t ∧ t.pending = r := by
  induction l generalizing s with
  | nil => exact ⟨s, rfl, h⟩
  | cons c l ih =>
    obtain ⟨t, ht, hq, -⟩ := step_completes s
    obtain ⟨u, hu, hr⟩ := ih t (by rw [hq, h]; rfl)
    exact ⟨u, by simpa only [runs, List.length_cons, Host.Core.run, core, ht] using hu, hr⟩

/-! ## Time on an empty queue, and the machine after reset -/

/-- Without a slew to work off, and short of the clock's wrap, one nanosecond passes. -/
theorem tickTime_of_straight {c : Clock} (hs : c.slew = 0) (hw : c.now + 1 < 2 ^ 64) : tickTime c = { c with now := c.now + 1 } := by
  rw [tickTime, if_pos (Or.inl hs), Nat.mod_eq_of_lt hw]

theorem idle_of_running {s : State} (hr : running s = true) : idle s = { s with clk := tickTime s.clk } := by
  unfold running at hr
  unfold idle
  split at hr <;> simp_all

theorem tick_of_running {s : State} (hr : running s = true) (hd : resetDue s = none) :
    tick s = { s with clk := tickTime s.clk } := by
  have hr' : running { s with clk := tickTime s.clk } = true := hr
  have hd' : resetDue { s with clk := tickTime s.clk } = none := hd
  simp only [tick, idle_of_running hr, hr', if_true, hd']

/-- After reset no register has been written: each reads as its reset value. -/
theorem rget_reset (f : Fld) (i : Nat) : rget State.reset f i = f.reset := rfl

theorem canonical_reset : Canonical State.reset := ⟨rfl, rfl, rfl, rfl, rfl, rfl⟩

end Sys2Proof.Laws

namespace Sys2Proof.Claims

open Sys2Proof.Machine Sys2Proof.Safety Sys2Proof.Laws

/-- Settles O59: every command, and the passing of time on an empty queue, keeps the canonical form. -/
theorem stepKeepsCanonicalForm : Obligations.StepKeepsCanonicalForm := by
  unfold Obligations.StepKeepsCanonicalForm
  intro s t hc ht
  obtain ⟨u, hu, -, hk⟩ := step_completes s
  obtain rfl : u = t := by simpa [hu] using ht
  exact hk hc

/-- Settles O60: every command completes and keeps the queue, and the steps follow by induction on the part of it. -/
theorem commandsLeaveQueueAlone : Obligations.CommandsLeaveQueueAlone := by
  unfold Obligations.CommandsLeaveQueueAlone
  refine ⟨fun c s => ?_, runs_takes_queue⟩
  obtain ⟨t, ht, hk⟩ := exec_completes (Keeps.refl s) c
  exact ⟨t, ht, hk.queue⟩

/-- Settles O57: the step's two cases, and time on an empty queue. -/
theorem stepRunsFrontCommand : Obligations.StepRunsFrontCommand := by
  unfold Obligations.StepRunsFrontCommand
  refine ⟨fun c s => step_of_cons rfl, fun s => step_of_nil, fun s hq hr hd hs hw => ?_, fun s nbits w => ⟨rfl, rfl⟩⟩
  rw [step_of_nil hq, tick_of_running hr hd, tickTime_of_straight hs hw]

/-- Settles O58: the registers read as their reset values, and the rest is the value of the reset state's fields. -/
theorem resetStateHoldsValues : Obligations.ResetStateHoldsValues := by
  unfold Obligations.ResetStateHoldsValues
  exact ⟨canonical_reset, rfl, rfl, rfl, rget_reset _ _, rget_reset _ _, rget_reset _ _, rget_reset _ _, fun _ _ => rget_reset _ _,
    fun _ => rfl, rfl, rfl, rfl, rfl, rfl, rfl, rget_reset _ _, rget_reset _ _, fun _ _ => ⟨rget_reset _ _, rget_reset _ _⟩⟩

end Sys2Proof.Claims
end

section
/-! PROOFS. The lane-wise Seedcode instructions: arithmetic, comparison, moves and unary operations (R169 to R172, R175,
R178). Each writes the governed elements of one register, or some bits of predicates, as the operation on one element says. -/
namespace Sys2Proof.Claims

open Sys2Proof.Machine

/-! ## What an issued lane-wise instruction writes -/

section Issue

variable {s : State} {k : Nat} {x : Strand} {n : Inst} {i : Insn} {c : Instr} {kind : Insn → Bool}

/-- Only the bits of the element's width count in what is written. -/
theorem WritesLanes.congr {r r' : Nat → Nat} (h : WritesLanes c s k x n i r)
    (hr : ∀ e, r e % 2 ^ i.format.width = r' e % 2 ^ i.format.width) : WritesLanes c s k x n i r' := by
  obtain ⟨v, hv, hg⟩ := h
  refine ⟨v, hv, fun e he => ?_⟩
  rw [hg e he, hr e]

/-- An issued instruction that computes each governed element of vD from the elements of vA, its second operand and vD. -/
theorem IssuesOn.laneWise_writesLanes (h : IssuesOn s k x n i) {r : Insn → Nat → Nat → Nat → Nat}
    (hc : exec c s = regInsn k kind (fun i x => laneWise i x (r i)) s) (hk : kind i = true) :
    WritesLanes c s k x n i fun e => r i (opA i x e) (i.bOp x e) (opD i x e) :=
  ⟨_, hc.trans (h.regInsn_went hk rfl rfl), fun _ he => el_putGov _ _ _ he⟩

/-- An issued instruction that computes each governed element of vD from that of vA alone. -/
theorem IssuesOn.unaryWise_writesLanes (h : IssuesOn s k x n i) {r : Insn → Strand → Nat → Nat}
    (hc : exec c s = regInsn k kind (fun i x => unaryWise i x (r i x)) s) (hk : kind i = true) :
    WritesLanes c s k x n i fun e => r i x (opA i x e) :=
  ⟨_, hc.trans (h.regInsn_went hk rfl rfl), fun _ he => el_putGov _ _ _ he⟩

end Issue

theorem isOpFn_move {i : Insn} {code : Nat} (hop : i.op = 0x22) (hfn : i.fn = code) (hc : code < 64) :
    isOpFn 0x22 64 code i = true := isOpFn_intro hop (by rw [hfn, Nat.mod_eq_of_lt hc])

/-! ## Integer elements (R171) -/

/-- The greatest integer of an integer format. -/
theorem maxBits_of_isInt {f : Fmt} (hf : f.isInt = true) : (f.maxBits : Int) = 2 ^ (f.width - 1) - 1 := by
  cases f <;> simp_all [Fmt.isInt, Fmt.maxBits, Fmt.width]

theorem intFit_eq {f : Fmt} (hf : f.isInt = true) (sat : Bool) (v : Int) :
    intFit f sat v = if sat then unsigned f.width (max (-2 ^ (f.width - 1)) (min (2 ^ (f.width - 1) - 1) v))
      else unsigned f.width v := by
  have hlo : -(2 ^ (f.width - 1) - 1 : Int) - 1 = -2 ^ (f.width - 1) := by ring
  simp only [intFit, maxBits_of_isInt hf, hlo]
  cases sat <;> rfl

theorem unsigned_top {f : Fmt} (hf : f.isInt = true) : unsigned f.width (2 ^ (f.width - 1) - 1) = f.maxBits := by
  cases f <;> simp_all [Fmt.isInt, Fmt.maxBits, Fmt.width, unsigned]

theorem unsigned_bottom {f : Fmt} (hf : f.isInt = true) : unsigned f.width (-2 ^ (f.width - 1)) = 2 ^ (f.width - 1) := by
  cases f <;> simp_all [Fmt.isInt, Fmt.width, unsigned]

theorem intDiv_eq {f : Fmt} (hf : f.isInt = true) (rm : RMode) (a b : Int) : intDiv f rm a b =
    if b ≠ 0 then roundTo f rm true 0 (Q.div ⟨a, 1⟩ ⟨b, 1⟩)
    else if a = 0 then 0 else if 0 < a then unsigned f.width (2 ^ (f.width - 1) - 1)
    else unsigned f.width (-2 ^ (f.width - 1)) := by
  rw [unsigned_top hf, unsigned_bottom hf, intDiv]
  by_cases hb : b = 0
  · rw [if_pos hb, if_neg (not_not_intro hb)]
  · rw [if_neg hb, if_pos hb]

theorem arith_of_isInt {i : Insn} (hf : i.format.isInt = true) (fp : FVal → FVal → FVal → FVal) (int : Int → Int → Int → Int)
    (a b d : Nat) : arith i fp int a b d =
      if i.sat then unsigned i.format.width (max (-2 ^ (i.format.width - 1)) (min (2 ^ (i.format.width - 1) - 1)
          (int (signed i.format.width a) (signed i.format.width b) (signed i.format.width d))))
      else unsigned i.format.width (int (signed i.format.width a) (signed i.format.width b) (signed i.format.width d)) := by
  simp only [arith, hf, if_true, intFit_eq hf, intOf]

theorem arith_of_isFloat {i : Insn} (hf : i.format.isInt = false) (fp : FVal → FVal → FVal → FVal) (int : Int → Int → Int → Int)
    (a b d : Nat) : arith i fp int a b d =
      fRound i.format i.rm i.sat (fp (valOf i.format a) (valOf i.format b) (valOf i.format d)) := by
  simp [arith, hf]

/-! ## Choices and comparisons (R170, R172) -/

/-- `MAX` and `MIN` by how the operands compare; of equal ones a negative zero is taken for `MIN` and left for `MAX`. -/
theorem fMaxMin_eq (f : Fmt) (max_ : Bool) (a b : Nat) : fMaxMin f max_ a b = match fCmp (valOf f a) (valOf f b) with
    | none => f.nanBits
    | some .lt => if max_ then b else a
    | some .gt => if max_ then a else b
    | some .eq => if isNegZero (valOf f a) = max_ then b else a := by
  unfold fMaxMin
  dsimp only
  cases hc : fCmp (valOf f a) (valOf f b) with
  | none => rfl
  | some o =>
    cases o
    case lt => rfl
    case gt => rfl
    case eq => cases max_ <;> cases isNegZero (valOf f a) <;> rfl

/-- The test of each code of `CMP`. -/
theorem cmpTest_eq {code : Nat} (o : Option Ordering) : code < 7 → cmpTest code o = match code, o with
    | 0, o => o == some .eq
    | 1, o => o != some .eq
    | 2, o => o == some .lt
    | 3, o => o == some .lt || o == some .eq
    | 4, o => o == some .gt
    | 5, o => o == some .gt || o == some .eq
    | _, o => o == none := by
  intro hc
  rcases o with _ | o
  · interval_cases code <;> rfl
  · cases o <;> interval_cases code <;> rfl

/-- Only the bits of the element's width count in what `put` writes. -/
theorem put_mod (f : Fmt) (v : Vec) (e b : Nat) : put f v e (b % 2 ^ f.width) = put f v e b := by
  simp only [put, Nat.mod_mod]

/-! ## The obligations -/

/-- Settles O1: on a floating-point format each operation rounds its exact result. -/
theorem floatArithmeticWritesLanes : Obligations.FloatArithmeticWritesLanes := by
  unfold Obligations.FloatArithmeticWritesLanes
  intro s k x n i h hf
  have ha := arith_of_isFloat hf
  refine ⟨fun hop => ?add, fun hop => ?sub, fun hop => ?mul, fun hop => ?fma, fun hop => ?div⟩
  case add => simpa only [ha] using h.laneWise_writesLanes (exec_add k s) (isOp_intro hop)
  case sub => simpa only [ha] using h.laneWise_writesLanes (exec_sub k s) (isOp_intro hop)
  case mul => simpa only [ha] using h.laneWise_writesLanes (exec_mul k s) (isOp_intro hop)
  case fma => simpa only [ha] using h.laneWise_writesLanes (exec_fma k s) (isOp_intro hop)
  case div =>
    simpa only [hf, Bool.false_eq_true, if_false] using h.laneWise_writesLanes
      (r := fun i a b _ => if i.format.isInt then intDiv i.format i.rm (intOf i.format a) (intOf i.format b)
        else fRound i.format i.rm i.sat (fDiv i.format (valOf i.format a) (valOf i.format b))) (exec_div k s) (isOp_intro hop)

/-- Settles O2: on an integer format each operation keeps its exact result as `SAT` says; the model's bounds are those of the
format's width. -/
theorem integerArithmeticWritesLanes : Obligations.IntegerArithmeticWritesLanes := by
  unfold Obligations.IntegerArithmeticWritesLanes
  intro s k x n i h hf
  have ha := arith_of_isInt hf
  refine ⟨fun hop => ?add, fun hop => ?sub, fun hop => ?mul, fun hop => ?fma, fun hop => ?div⟩
  case add => simpa only [ha] using h.laneWise_writesLanes (exec_add k s) (isOp_intro hop)
  case sub => simpa only [ha] using h.laneWise_writesLanes (exec_sub k s) (isOp_intro hop)
  case mul => simpa only [ha] using h.laneWise_writesLanes (exec_mul k s) (isOp_intro hop)
  case fma => simpa only [ha] using h.laneWise_writesLanes (exec_fma k s) (isOp_intro hop)
  case div =>
    refine (h.laneWise_writesLanes
      (r := fun i a b _ => if i.format.isInt then intDiv i.format i.rm (intOf i.format a) (intOf i.format b)
        else fRound i.format i.rm i.sat (fDiv i.format (valOf i.format a) (valOf i.format b)))
      (exec_div k s) (isOp_intro hop)).congr fun e => ?_
    rw [if_pos hf, intDiv_eq hf]
    rfl

/-- Settles O3: the operand chosen by the comparison; of equal operands a negative zero is the lesser. -/
theorem maxMinWriteLanes : Obligations.MaxMinWriteLanes := by
  unfold Obligations.MaxMinWriteLanes
  intro s k x n i h
  refine ⟨fun hop => ?max, fun hop => ?min⟩
  case max =>
    refine (h.laneWise_writesLanes (exec_max k s) (isOp_intro hop)).congr fun e => ?_
    rw [fMaxMin_eq] <;> rfl
  case min =>
    refine (h.laneWise_writesLanes (exec_min k s) (isOp_intro hop)).congr fun e => ?_
    rw [fMaxMin_eq] <;> rfl

/-- Settles O5: the moves of a whole register are lane-wise; `INS` and `EXT` are about one element. -/
theorem movesWriteRegisters : Obligations.MovesWriteRegisters := by
  unfold Obligations.MovesWriteRegisters
  intro s k x n i h hop
  refine ⟨fun hfn => ?mov, fun hfn => ?bcast, fun hfn => ?bcasti, fun hfn => ?iota, fun hfn _ => ?ins, fun hfn _ => ?ext⟩
  case mov => exact h.unaryWise_writesLanes (r := fun _ _ => id) (exec_mov k s) (isOpFn_move hop hfn (by decide))
  case bcast =>
    exact (h.unaryWise_writesLanes (r := fun i x _ => (x.sr i.a).toNat % 2 ^ i.format.width) (exec_bcast k s)
      (isOpFn_move hop hfn (by decide))).congr fun e => Nat.mod_mod _ _
  case bcasti =>
    refine (h.unaryWise_writesLanes (r := fun i _ _ => i.immBits) (exec_bcasti k s)
      (isOpFn_move hop hfn (by decide))).congr fun e => ?_
    rw [Insn.immBits]
    split
    · rfl
    · exact Nat.mod_mod _ _
  case iota =>
    exact ⟨_, (exec_iota k s).trans (h.regInsn_went (isOpFn_move hop hfn (by decide)) rfl rfl), fun _ he => el_putGov _ _ _ he⟩
  case ins =>
    have hput : (if govOn i.format (i.gov x) i.imm
        then x.putV i.d (put i.format (x.vr i.d) i.imm ((x.sr i.a).toNat % 2 ^ i.format.width)) else x) =
        if govOn i.format (i.gov x) i.imm then x.putV i.d (put i.format (x.vr i.d) i.imm (x.sr i.a).toNat) else x := by
      rw [put_mod]
    rw [← hput]
    refine (exec_ins k s).trans (h.regInsn_went (isOpFn_move hop hfn (by decide)) ?_ ?_)
    · dsimp only
      split <;> rfl
    · dsimp only
      split <;> rfl
  case ext => exact (exec_ext k s).trans (h.regInsn_went (isOpFn_move hop hfn (by decide)) rfl rfl)

/-- Settles O8: each operation computes the element from that of vA, by cases on the kind of format. -/
theorem unaryWritesLanes : Obligations.UnaryWritesLanes := by
  unfold Obligations.UnaryWritesLanes
  intro s k x n i h hop
  have hkind {code : Nat} (hfn : i.fn / 16 = code) : (i.op == 0x25 && i.fn / 16 == code) = true := by simp [hop, hfn]
  have neg (hfn : i.fn / 16 = 0) := h.unaryWise_writesLanes
    (r := fun i _ a => if i.format.isInt then intFit i.format i.sat (-(intOf i.format a))
      else if valOf i.format a = .nan then i.format.nanBits else a ^^^ 2 ^ (i.format.width - 1)) (exec_neg k s) (hkind hfn)
  have abs (hfn : i.fn / 16 = 1) := h.unaryWise_writesLanes
    (r := fun i _ a => if i.format.isInt then intFit i.format i.sat (intOf i.format a).natAbs
      else if valOf i.format a = .nan then i.format.nanBits else a % 2 ^ (i.format.width - 1)) (exec_abs k s) (hkind hfn)
  refine ⟨fun hfn hf => (neg hfn).congr fun e => ?_, fun hfn hf => (abs hfn).congr fun e => ?_,
    fun hfn hf => (neg hfn).congr fun e => ?_, fun hfn hf => (abs hfn).congr fun e => ?_, fun hfn hf => ?_⟩
  · rw [if_pos hf, intFit_eq hf]
    rfl
  · rw [if_pos hf, intFit_eq hf]
    rfl
  · simp [hf]
  · simp [hf]
  · exact h.unaryWise_writesLanes
      (r := fun i _ a => match valOf i.format a with
        | .nan => i.format.nanBits
        | .inf neg => if neg then i.format.nanBits else infBits i.format i.sat false
        | .fin _ q => if q.n < 0 then i.format.nanBits else roundSqrt i.format i.rm i.sat q) (exec_sqrt k s) (hkind hfn)

/-- Settles O9: `cmpWrite_bit` says what each predicate bit holds, and the test of a code is the comparison that R172 names. -/
theorem compareWritesPredicate : Obligations.CompareWritesPredicate := by
  unfold Obligations.CompareWritesPredicate
  intro s k x n i h hop hd hfn hp
  have hw {q j : Nat} (hj : j < 16) := cmpWrite_bit i.format (i.gov x)
    (fun e => cmpTest (i.fn % 8) (fCmp (valOf i.format (opA i x e)) (valOf i.format (i.bOp x e)))) x hp hd (q := q) hj
  obtain ⟨-, hrest, hlen⟩ := hw (q := 0) (j := 0) (by decide)
  refine ⟨_, (exec_cmp k s).trans (h.regInsn_went (isOp_intro hop) ?_ ?_), hrest, hlen, fun q j _ hj => (hw hj).1.trans ?_⟩
  · exact (congrArg Strand.pc hrest :)
  · exact (congrArg Strand.inst hrest :)
  · refine if_congr ?_ (cmpTest_eq _ hfn) rfl
    rw [Bool.and_eq_true]
    exact Iff.rfl

end Sys2Proof.Claims
end

section
/-! PROOFS. Accumulators, rounding, packing and conversions (R179 to R186): what each lane or element of the register
written holds. -/
namespace Sys2Proof.Claims

open Sys2Proof.Machine

/-! ## Lists with their places, and writes that skip elements -/

/-- A lane of a list that is changed place by place. -/
theorem getD_map_enum' {α : Type} (l : List α) (r : Nat × α → α) (d : α) {j : Nat} (hj : j < l.length) :
    ((enum' l).map r).getD j d = r (j, l.getD j d) := by
  simp [enum'_eq, List.getD_eq_getElem?_getD, List.getElem?_eq_getElem hj]

@[simp] theorem length_enum' {α : Type} (l : List α) : (enum' l).length = l.length := by simp [enum'_eq]

/-- What a governed write gives for each element where some elements have no source. -/
theorem el_foldl_putSome {f : Fmt} (g : Pred) (src : Nat → Option Nat) (r : Nat → Nat → Nat) (d : Vec) {e : Nat}
    (he : e < f.elems) :
    el f ((upTo f.elems).foldl (fun v e => match src e with
        | some j => if govOn f g e then put f v e (r j e) else v
        | none => v) d) e =
      match src e with
      | some j => if govOn f g e then r j e % 2 ^ f.width else el f d e
      | none => el f d e := by
  have hstep : (fun (v : Vec) e => match src e with
      | some j => if govOn f g e then put f v e (r j e) else v
      | none => v) =
      fun v e => if ((src e).isSome && govOn f g e) then put f v e (r ((src e).getD 0) e) else v := by
    funext v e
    cases src e <;> simp
  rw [hstep, el_foldl_put _ (fun e => r ((src e).getD 0) e) _ (fun y hy => List.mem_range.mp hy) List.nodup_range d he]
  cases src e <;> simp [he]

/-- The elements of a register made of a list, zeros above it. -/
theorem el_vecOf_getD {f : Fmt} (es : List Nat) (h : es.length ≤ f.elems) {j : Nat} (hj : j < f.elems) :
    el f (vecOf f es) j = es.getD j 0 % 2 ^ f.width := by
  by_cases hl : j < es.length
  · exact el_vecOf es h hl
  · unfold vecOf
    rw [enum'_eq, List.foldl_map]
    refine (el_foldl_enum es 0 (by omega) (0 : Vec) hj).trans ?_
    rw [if_neg (by omega), List.getD_eq_default _ _ (by omega)]
    exact congrArg (· % 2 ^ f.width) (by rw [show (0 : Vec) = 0#512 from rfl, BitVec.zero_ushiftRight, BitVec.toNat_zero])

section Issue

variable {s : State} {k : Nat} {x : Strand} {n : Inst} {i : Insn} {c : Instr}

/-- An issued register instruction, where its meaning has been brought to a form of its own. -/
theorem IssuesOn.regInsn_went_of_eq (h : IssuesOn s k x n i) {kind : Insn → Bool} {f : Insn → Strand → Strand} {y : Strand}
    (hk : kind i = true) (hf : f i x = y) (hp : y.pc = x.pc) (hi : y.inst = x.inst) :
    regInsn k kind f s = .next (went s k n y) := by
  subst hf
  exact h.regInsn_went hk hp hi

end Issue

/-! ## Accumulators (R179 to R182) -/

/-- The element that lane `j` of the accumulator takes. -/
theorem accumulate_place (i : Insn) (j : Nat) : (if i.format.elems = 32 then 16 * b2n (i.fnBit 0) + j else j) =
    if i.format.elems = 32 then (if i.fnBit 0 then 16 + j else j) else j := by
  cases i.fnBit 0 <;> simp [b2n]

/-- `ACC` and `ACCM` change the lanes whose element is governed on, where the multiplicity is not 0. -/
theorem accumulate_lanes (i : Insn) (x : Strand) (mult scale : Nat) (hl : (x.ar i.d).length = 16) :
    ∃ l, accumulate i x mult scale = x.putA i.d l ∧ l.length = 16 ∧ ∀ j, j < 16 →
      l.getD j Lane.init =
        let e := if i.format.elems = 32 then (if i.fnBit 0 then 16 + j else j) else j
        if govOn i.format (i.gov x) e ∧ mult ≠ 0 then
          ((x.ar i.d).getD j Lane.init).add
            (if i.fnBit 1 then mxValue i.format (opA i x e) scale else valOf i.format (opA i x e)) mult
        else (x.ar i.d).getD j Lane.init := by
  refine ⟨_, rfl, ?_, fun j hj => ?_⟩
  · simp [hl]
  · rw [getD_map_enum' _ _ _ (by omega), accumulate_place]
    rfl

/-- The lane that element `e` of a rounding without a block takes. -/
theorem rndPlain_eq (i : Insn) (x : Strand) (mean : Bool) :
    ∃ v, rndPlain i x mean = x.putV i.d v ∧ ∀ e, e < i.format.elems → el i.format v e =
      match (if i.format.elems = 8 then some (e + 8 * i.part) else if i.format.elems = 16 then some e
        else if 16 * i.part ≤ e ∧ e < 16 * i.part + 16 then some (e - 16 * i.part) else none) with
      | some j => if govOn i.format (i.gov x) e
        then ((x.ar i.a).getD j Lane.init).round i.format i.rm i.sat mean (i.srWord x e) % 2 ^ i.format.width else opD i x e
      | none => opD i x e := by
  refine ⟨_, rfl, fun e he => (el_foldl_putSome _ _ (fun j e =>
    ((x.ar i.a).getD j Lane.init).round i.format i.rm i.sat mean (i.srWord x e)) _ he).trans ?_⟩
  rcases elems_cases i.format with h | h | h <;> simp only [h] <;> rfl

/-- What a conversion leaves in each element. -/
theorem cvtWise_eq (i : Insn) (x : Strand) (src : Fmt) (r : Nat → Nat) :
    ∃ v, cvtWise i x src r = x.putV i.d v ∧ ∀ e, e < i.format.elems → el i.format v e =
      match cvtSource src i.format i.part e with
      | some j => if govOn i.format (i.gov x) e then r (el src (x.vr i.a) j) % 2 ^ i.format.width else opD i x e
      | none => opD i x e :=
  ⟨_, rfl, fun _ he => el_foldl_putSome _ _ (fun j _ => r (el src (x.vr i.a) j)) _ he⟩

/-! ## The obligations -/

/-- Settles O11: `accumulate_lanes` says what each lane becomes; `CLRA` is a change place by place. -/
theorem accumulateAddsOneItem : Obligations.AccumulateAddsOneItem := by
  unfold Obligations.AccumulateAddsOneItem
  intro s k x n i h hl
  refine ⟨fun hop => ?acc, fun hop => ?accm, fun hop => ?clra⟩
  case acc =>
    obtain ⟨l, hacc, hlen, hlane⟩ := accumulate_lanes i x 1 ((x.sr i.b).toNat % 256) hl
    refine ⟨l, (exec_acc k s).trans (h.regInsn_went_of_eq (isOp_intro hop) hacc rfl rfl), hlen, fun j hj => ?_⟩
    simpa only [ne_eq, one_ne_zero, not_false_eq_true, and_true] using hlane j hj
  case accm =>
    obtain ⟨l, hacc, hlen, hlane⟩ := accumulate_lanes i x ((x.sr i.b).toNat % 2 ^ 32) ((x.sr (i.imm % 16)).toNat % 256) hl
    exact ⟨l, (exec_accm k s).trans (h.regInsn_went_of_eq (isOp_intro hop) hacc rfl rfl), hlen, hlane⟩
  case clra =>
    refine ⟨_, (exec_clra k s).trans (h.regInsn_went (isOp_intro hop) rfl rfl), by simp [hl], fun j hj => ?_⟩
    exact getD_map_enum' _ _ _ (by omega)

/-- Settles O12: the register that `rndPlain` writes, and the report that may go with it. -/
theorem roundReadsAccumulator : Obligations.RoundReadsAccumulator := by
  unfold Obligations.RoundReadsAccumulator
  intro s k x n i h hop hblock
  obtain ⟨v, hv, hel⟩ := rndPlain_eq i x (bitAt i.imm 5)
  refine ⟨v, hel, (exec_rnd k s).trans (h.regInsn_went_of_eq (isOp_intro hop) ?_ ?_ ?_)⟩
  · simp [hblock, hv]
  · split <;> rfl
  · split <;> rfl

/-- Settles O13: the register is made of the list of the marked lanes. -/
theorem packJoinsLanes : Obligations.PackJoinsLanes := by
  unfold Obligations.PackJoinsLanes
  intro s k x n i h hop
  have hlen : ((List.range 16).filter fun j => (i.gov x).getLsbD j).length ≤ 16 :=
    (List.length_filter_le _ _).trans (by simp)
  refine ⟨vecOf .int32 (((List.range 16).filter fun j => (i.gov x).getLsbD j).map fun j => laneOf (x.vr i.a) j),
    (exec_pack k s).trans (h.regInsn_went_of_eq (isOp_intro hop) ?_ rfl rfl), fun j hj => ?_⟩
  · simp [Strand.putSN]
  · refine (el_vecOf_getD (f := .int32) _ (by rw [List.length_map]; exact hlen) hj).trans ?_
    split
    next hm =>
      rw [List.getD_eq_getElem _ _ (by simpa using hm), List.getElem_map, ← List.getD_eq_getElem _ 0 hm]
      exact el_mod_width .int32 _ _
    next hm => rw [List.getD_eq_default _ _ (by simpa using hm), Nat.zero_mod]

/-- Settles O14: each instruction's meaning on the registers, by cases on whether a block is asked for. -/
theorem filterAndConvertWriteResults : Obligations.FilterAndConvertWriteResults := by
  unfold Obligations.FilterAndConvertWriteResults
  intro s k x n i h
  refine ⟨fun hop => ?unpk, fun hop => ?topk, fun hop hblock hreport => ?rnd, fun hop hblock hsrc => ?block, fun hop hblock => ?cvt,
    fun hop hblock => ?xpnd, fun hop hblock => ?xpndBlock⟩
  case unpk => exact (exec_unpk k s).trans (h.regInsn_went (isOp_intro hop) rfl rfl)
  case topk => exact (exec_topk k s).trans (h.regInsn_went (isOp_intro hop) rfl rfl)
  case rnd =>
    refine (exec_rnd k s).trans (h.regInsn_went_of_eq (isOp_intro hop) ?_ rfl rfl)
    simp only [hblock, hreport, if_true, Bool.false_eq_true, if_false]
    rfl
  case block =>
    refine (exec_cvt k s).trans (h.regInsn_went_of_eq (isOp_intro hop) ?_ rfl rfl)
    simp only [hblock, hsrc, if_true]
  case cvt =>
    obtain ⟨v, hv, hel⟩ := cvtWise_eq i x i.sfmt (convert i.sfmt i.format i.rm i.sat)
    refine ⟨v, (exec_cvt k s).trans (h.regInsn_went_of_eq (isOp_intro hop) ?_ rfl rfl), hel⟩
    simp [hblock, hv]
  case xpnd =>
    obtain ⟨v, hv, hel⟩ := cvtWise_eq i x i.sfmt (convert i.sfmt i.format .rne false)
    refine ⟨v, (exec_xpnd k s).trans (h.regInsn_went_of_eq (isOp_intro hop) ?_ rfl rfl), hel⟩
    simp [hblock, hv]
  case xpndBlock =>
    obtain ⟨v, hv, hel⟩ := cvtWise_eq i x i.sfmt
      fun b => convertVal i.format .rne false (mxValue i.sfmt b ((x.sr (i.imm / 256 % 16)).toNat % 256))
    refine ⟨v, (exec_xpnd k s).trans (h.regInsn_went_of_eq (isOp_intro hop) ?_ rfl rfl), hel⟩
    simp [hblock, hv]

end Sys2Proof.Claims
end

section
/-! PROOFS. Control Seedcode instructions (R149 to R153): branches, waits, the barrier, and the end of a strand. -/
namespace Sys2Proof.Claims

open Sys2Proof.Machine

/-! ## What an issued instruction answers -/

section Issue

variable {s t : State} {k : Nat} {x y : Strand} {n : Inst} {i : Insn}

/-- An issued instruction does what its action says; one whose action gives nothing waits. -/
theorem Issues.issueInsn_next (h : Issues s k x n i) {kind : Insn → Bool} {act : Insn → Strand → Inst → State → Option State}
    (hk : kind i = true) : issueInsn k kind act s = .next ((act i x n (counted s n)).getD s) := by
  obtain ⟨hrun, hstrand, hinst, ⟨w, hword, rfl⟩, hmay, hfree⟩ := h
  exact Machine.issueInsn_next hrun hstrand hinst hword hmay hk hfree

/-- A strand that may issue has not halted and waits for nothing. -/
theorem Issues.awake (h : Issues s k x n i) : x.halted = false ∧ x.wait = .none := by
  have hmay := h.may
  simp only [canIssue, Bool.and_eq_true, Bool.not_eq_true', beq_iff_eq] at hmay
  exact ⟨hmay.1.1.1.1, hmay.1.1.1.2⟩

/-- The strand goes on to its next instruction, in any state that has its registers and the record of its launch. -/
theorem IssuesOn.retire_next (h : IssuesOn s k x n i) (hn : tget t.seed.insts x.inst = some n) (hi : y.inst = x.inst)
    (hp : y.pc = x.pc) : retire k y t = setStrand k { y with pc := x.pc + 8 } t := by
  rw [retire_inText (n := n) (by rw [hi]; exact hn) (by rw [hp]; exact h.next), hp]

theorem IssuesOn.retire_went (h : IssuesOn s k x n i) (hi : y.inst = x.inst) (hp : y.pc = x.pc) :
    retire k y (counted s n) = went s k n y := by
  rw [went, hp]
  exact h.retire_next h.inst hi hp

theorem IssuesOn.advance_went (h : IssuesOn s k x n i) : advance_ k (counted s n) = went s k n x :=
  advance_inText h.strand h.inst h.next

/-- The strand, with registers of its own, goes to an offset in its text. -/
theorem Issues.goTo_next (h : Issues s k x n i) {dest : Nat} (hi : y.inst = x.inst) (hd : dest < n.image.textLen) :
    goTo k dest (setStrand k y (counted s n)) = setStrand k { y with pc := dest } (counted s n) := by
  rw [goTo_inText (setStrand_self k y _) (by rw [hi]; exact h.inst) hd, setStrand_setStrand]

end Issue

/-! ## The barrier (R93, R94) -/

/-- The strands of one launch that have not halted. -/
def liveStrands (s : State) (i : Inst) : List Nat :=
  i.strands.filter fun k => match tget s.seed.strands k with | some x => !x.halted | none => false

/-- Strand `k` stands at the barrier. -/
def atBar (s : State) (k : Nat) : Bool := match tget s.seed.strands k with | some x => x.wait == .bar | none => false

/-- Strand `k` leaves the barrier. -/
def leaveBar (k : Nat) (s : State) : State :=
  match tget s.seed.strands k with
  | some x => retire k { x with wait := .none } s
  | none => s

/-- The barrier's rule: when every live strand of one launch stands at it, each goes on. -/
theorem barCheck_eq {s : State} {m : Nat} {i : Inst} (hi : tget s.seed.insts m = some i) :
    barCheck m s = if (liveStrands s i).all (atBar s) then each (liveStrands s i) leaveBar s else s := by
  simp only [barCheck, hi]
  rfl

theorem barCheck_waits {s : State} {m j : Nat} {i : Inst} {y : Strand} (hi : tget s.seed.insts m = some i) (hj : j ∈ i.strands)
    (hy : tget s.seed.strands j = some y) (hh : y.halted = false) (hb : (y.wait == .bar) = false) : barCheck m s = s := by
  rw [barCheck_eq hi, if_neg]
  intro hall
  have hmem : j ∈ liveStrands s i := List.mem_filter.mpr ⟨hj, by simp [hy, hh]⟩
  have := List.all_eq_true.mp hall j hmem
  simp [atBar, hy, hb] at this

theorem leaveBar_inText {s : State} {k : Nat} {x : Strand} {n : Inst} (hx : tget s.seed.strands k = some x)
    (hn : tget s.seed.insts x.inst = some n) (ht : x.pc + 8 < n.image.textLen) :
    leaveBar k s = setStrand k { x with wait := .none, pc := x.pc + 8 } s := by
  simp only [leaveBar, hx]
  exact retire_inText hn ht

/-- Strands of one launch that leave the barrier go on, each in its text; the other strands stay. -/
theorem each_leaveBar {m : Nat} {n : Inst} (l : List Nat) (hl : l.Nodup) (s : State) (hn : tget s.seed.insts m = some n)
    (h : ∀ j ∈ l, ∃ y, tget s.seed.strands j = some y ∧ y.inst = m ∧ y.pc + 8 < n.image.textLen) :
    ∃ tab, each l leaveBar s = { s with seed := { s.seed with strands := tab } } ∧
      (∀ j ∈ l, ∀ y, tget s.seed.strands j = some y → tget tab j = some { y with wait := .none, pc := y.pc + 8 }) ∧
      ∀ j, j ∉ l → tget tab j = tget s.seed.strands j := by
  induction l generalizing s with
  | nil => exact ⟨s.seed.strands, rfl, by simp, fun _ _ => rfl⟩
  | cons a l ih =>
    obtain ⟨ha, hl⟩ := List.nodup_cons.mp hl
    obtain ⟨x, hx, rfl, htext⟩ := h a List.mem_cons_self
    have hne {j : Nat} (hj : j ∈ l) : j ≠ a := fun e => ha (e ▸ hj)
    obtain ⟨tab, htab, hin, hout⟩ := ih hl (setStrand a { x with wait := .none, pc := x.pc + 8 } s) hn fun j hj => by
      rw [setStrand_ne _ _ (hne hj)]
      exact h j (List.mem_cons_of_mem _ hj)
    refine ⟨tab, ?_, fun j hj y hy => ?_, fun j hj => ?_⟩
    · change each l leaveBar (leaveBar a s) = _
      rw [leaveBar_inText hx hn htext, htab]
      rfl
    · rcases List.mem_cons.mp hj with rfl | hj
      · obtain rfl : x = y := Option.some.inj (hx.symm.trans hy)
        rw [hout j ha, setStrand_self]
      · exact hin j hj y (by rw [setStrand_ne _ _ (hne hj), hy])
    · rw [hout j fun hm => hj (List.mem_cons_of_mem _ hm), setStrand_ne _ _ (List.ne_of_not_mem_cons hj)]

/-- The last strand of a launch to reach the barrier releases them all. -/
theorem barCheck_releases {s : State} {m : Nat} {n : Inst} (hn : tget s.seed.insts m = some n) (hnd : n.strands.Nodup)
    (h : ∀ j ∈ n.strands, ∃ y, tget s.seed.strands j = some y ∧ y.inst = m ∧ y.pc + 8 < n.image.textLen ∧
      (y.halted = true ∨ y.wait = .bar)) :
    ∃ tab, barCheck m s = { s with seed := { s.seed with strands := tab } } ∧
      (∀ j ∈ n.strands, ∀ y, tget s.seed.strands j = some y → y.halted = false →
        tget tab j = some { y with wait := .none, pc := y.pc + 8 }) ∧
      ∀ j, (j ∉ n.strands ∨ ∃ y, tget s.seed.strands j = some y ∧ y.halted = true) → tget tab j = tget s.seed.strands j := by
  have hmem {j : Nat} : j ∈ liveStrands s n ↔ j ∈ n.strands ∧ ∃ y, tget s.seed.strands j = some y ∧ y.halted = false := by
    rw [liveStrands, List.mem_filter]
    cases tget s.seed.strands j <;> simp
  have hall : (liveStrands s n).all (atBar s) = true := List.all_eq_true.mpr fun j hj => by
    obtain ⟨hj, y, hy, hh⟩ := hmem.mp hj
    obtain ⟨y', hy', -, -, hw⟩ := h j hj
    obtain rfl : y = y' := Option.some.inj (hy.symm.trans hy')
    simp_all [atBar]
  obtain ⟨tab, htab, hin, hout⟩ := each_leaveBar (liveStrands s n) (hnd.filter _) s hn fun j hj => by
    obtain ⟨y, hy, hi, ht, -⟩ := h j (hmem.mp hj).1
    exact ⟨y, hy, hi, ht⟩
  refine ⟨tab, by rw [barCheck_eq hn, if_pos hall, htab], fun j hj y hy hh => hin j (hmem.mpr ⟨hj, y, hy, hh⟩) y hy,
    fun j hj => hout j fun hm => ?_⟩
  obtain ⟨hj', y, hy, hh⟩ := hmem.mp hm
  rcases hj with hj | ⟨y', hy', hh'⟩
  · exact hj hj'
  · simp_all

/-- `BAR` of the last strand to reach the barrier. -/
theorem IssuesOn.bar_releases {s : State} {k : Nat} {x : Strand} {n : Inst} {i : Insn} (h : IssuesOn s k x n i)
    (hnd : n.strands.Nodup) (hk : k ∈ n.strands)
    (hrest : ∀ j, j ∈ n.strands → j ≠ k → ∃ y, tget s.seed.strands j = some y ∧ y.inst = x.inst ∧ y.pc + 8 < n.image.textLen ∧
      (y.halted = true ∨ y.wait = .bar)) :
    ∃ tab, barCheck x.inst (setStrand k { x with wait := .bar } (counted s n)) =
        { counted s n with seed := { (counted s n).seed with strands := tab } } ∧
      tget tab k = some { x with pc := x.pc + 8 } ∧
      (∀ j y, j ∈ n.strands → j ≠ k → tget s.seed.strands j = some y → y.halted = false →
        tget tab j = some { y with wait := .none, pc := y.pc + 8 }) ∧
      ∀ j, (j ∉ n.strands ∨ ∃ y, tget s.seed.strands j = some y ∧ y.halted = true) → tget tab j = tget s.seed.strands j := by
  obtain ⟨hawake, hwait⟩ := h.awake
  have hself := setStrand_self k { x with wait := .bar } (counted s n)
  have hother {j : Nat} (hj : j ≠ k) : tget (setStrand k { x with wait := .bar } (counted s n)).seed.strands j =
      tget s.seed.strands j := setStrand_ne _ _ hj
  obtain ⟨tab, htab, hin, hout⟩ := barCheck_releases (s := setStrand k { x with wait := .bar } (counted s n)) h.inst hnd
    fun j hj => by
      by_cases hjk : j = k
      · subst hjk
        exact ⟨_, hself, rfl, h.next, Or.inr rfl⟩
      · rw [hother hjk]
        exact hrest j hj hjk
  refine ⟨tab, htab, ?_, fun j y hj hjk hy hh => hin j hj y (by rw [hother hjk, hy]) hh, fun j hj => ?_⟩
  · rw [hin k hk _ hself hawake]
    exact congrArg (fun w => some { x with wait := w, pc := x.pc + 8 }) hwait.symm
  · have hjk : j ≠ k := by
      rintro rfl
      rcases hj with hj | ⟨y, hy, hh⟩
      · exact hj hk
      · rw [h.strand] at hy
        cases hy
        simp [hawake] at hh
    rw [← hother hjk]
    exact hout j (by rwa [hother hjk])

/-! ## The end of a wait (R106, R151) -/

/-- What a strand whose awaited event comes is left with. -/
theorem retire_waited {t : State} {k v d : Nat} {x : Strand} {n : Inst} (hn : tget t.seed.insts x.inst = some n)
    (ht : x.pc + 8 < n.image.textLen) :
    retire k (({ x with wait := .none } : Strand).putSN d v) t =
      setStrand k { ({ x with wait := .none } : Strand).putSN d v with pc := x.pc + 8 } t :=
  retire_inText hn ht

/-- `WAITE_RELEASE` of a strand that awaits an event looks at the word it stands at. -/
theorem execWaiteRelease_waiting {s : State} {k mark w : Nat} {x : Strand} {n : Inst} (hx : tget s.seed.strands k = some x)
    (hn : tget s.seed.insts x.inst = some n) (hw : x.wait = .event mark) (hf : n.fault = none)
    (hword : n.image.wordAt x.pc = some w) :
    let i := Insn.of w
    let go (v : Nat) (t : State) : State := retire k (({ x with wait := .none } : Strand).putSN i.d v) t
    (i.fn = 1 → ∀ a b, slotSpan s (i.imm % 4096) = some (a, b) → mark < a →
      execWaiteRelease k s = .next (go (epochNow (atTime a s)) (atTime a s))) ∧
    (i.fn = 2 → execWaiteRelease k s = .next (if (x.sr i.a).toNat < n.limitAt
      then go (atTime (x.sr i.a).toNat s).clk.now (atTime (x.sr i.a).toNat s) else s)) ∧
    (i.fn = 3 → execWaiteRelease k s = .next (if epochNow s ≠ mark then go (epochNow s) s else s)) := by
  refine ⟨fun hfn a b hspan ha => ?_, fun hfn => ?_, fun hfn => ?_⟩
  · simp [execWaiteRelease, hx, hn, hw, hf, hword, hfn, hspan, ha]
  · simp [execWaiteRelease, hx, hn, hw, hf, hword, hfn]
  · simp [execWaiteRelease, hx, hn, hw, hf, hword, hfn]

/-! ## The obligations -/

/-- Settles O16: a branch writes its link, then goes to its target, which lies in the text. -/
theorem branchesSetTheCounter : Obligations.BranchesSetTheCounter := by
  unfold Obligations.BranchesSetTheCounter
  intro s k x n i h
  have br (hop : i.op = 0x01) := (exec_br k s).trans (h.issueInsn_next (isOp_intro hop))
  have loop (hop : i.op = 0x02) := (exec_loop k s).trans (h.issueInsn_next (isOp_intro hop))
  have hlink : (if i.fnBit 4 then x.putSN i.d (x.pc + 8) else x).inst = x.inst := by split <;> rfl
  have htarget (h0 : (0 : Int) ≤ x.pc + i.sext) (h1 : (x.pc : Int) + i.sext < n.image.textLen) : i.target x < n.image.textLen := by
    rw [Insn.target]
    omega
  refine ⟨fun hop ht => ?untaken, fun hop ht hd h0 h1 => ?direct, fun hop ht hi ha hlt => ?indirect, fun hop ht hi ha => ?misaligned,
    fun hop h0 => ?loopEnd, fun hop h1 => ?loopLast, fun hop h0 h1 hge hlt => ?loopOn⟩
  case untaken =>
    refine (br hop).trans (congrArg _ ?_)
    simp only [ht, Bool.false_eq_true, if_false, Option.getD_some, h.advance_went]
  case direct =>
    refine (br hop).trans (congrArg _ ?_)
    simp only [ht, hd, if_true, Bool.false_eq_true, if_false, Option.getD_some]
    exact h.goTo_next hlink (htarget h0 h1)
  case indirect =>
    refine (br hop).trans (congrArg _ ?_)
    simp only [ht, hi, if_true, Option.getD_some]
    exact (if_neg (not_not_intro ha)).trans ((if_neg (Nat.not_le.mpr hlt)).trans (h.goTo_next hlink hlt))
  case misaligned =>
    refine (br hop).trans (congrArg _ ?_)
    simp only [ht, hi, if_true, Option.getD_some]
    exact if_pos ha
  case loopEnd =>
    refine (loop hop).trans (congrArg _ ?_)
    simp only [h0, if_true, Option.getD_some, h.advance_went]
  case loopLast =>
    refine (loop hop).trans (congrArg _ ?_)
    rw [Option.getD_some, h1, if_neg (by decide), if_pos (by decide)]
    exact h.retire_went rfl rfl
  case loopOn =>
    refine (loop hop).trans (congrArg _ ?_)
    rw [Option.getD_some, if_neg h0, if_neg (sub_ne_zero.mpr h1)]
    exact h.goTo_next rfl (htarget hge hlt)

/-- Settles O17: each wait completes or holds the strand; the barrier's rule is `barCheck_eq`, and the end of a wait
`execWaiteRelease_waiting`. -/
theorem waitsAndEndsChangeRunState : Obligations.WaitsAndEndsChangeRunState := by
  unfold Obligations.WaitsAndEndsChangeRunState
  refine ⟨fun s k x n i h => ?issued, fun s k x n mark w hx hn hw hf hword ht => ?released⟩
  case issued =>
    have waite (hop : i.op = 0x03) := (exec_waite k s).trans (h.issueInsn_next (isOp_intro hop))
    have fence (hop : i.op = 0x05) := (exec_fence k s).trans (h.issueInsn_next (isOp_intro hop))
    have halt (hop : i.op = 0x07) := (exec_halt k s).trans (h.issueInsn_next (isOp_intro hop))
    have bar (hop : i.op = 0x04) : exec (.bar k) s = .next (barCheck x.inst (setStrand k { x with wait := .bar } (counted s n))) :=
      (exec_bar k s).trans (h.issueInsn_next (isOp_intro hop))
    refine ⟨fun ch hop hfn hch => ?chan, fun hop hfn hch => ?noChan, fun hop hfn hs => ?slot, fun hop hfn hs => ?noSlot,
      fun hop hfn ht => ?time, fun hop hfn ht => ?noTime, fun hop hfn => ?boundary, ?barWaits, ?barGoes, fun hop hfree => ?fence,
      fun hop hbit hreqs => ?fenceWaits, fun hop => ?raise, fun hop h0 => ?halt0, fun hop h0 => ?halt⟩
    case chan =>
      have hch' : waitedChan (counted s n) x n (i.imm % 256) = some ch := hch
      refine (waite hop).trans (congrArg _ ?_)
      simp only [hfn, hch', Option.map_some, Option.getD_some]
      exact h.retire_went rfl rfl
    case noChan =>
      have hch' : waitedChan (counted s n) x n (i.imm % 256) = none := hch
      refine (waite hop).trans (congrArg _ ?_)
      simp only [hfn, hch', Option.map_none, Option.getD_none]
    case slot =>
      have hs' : slotNow (counted s n) (i.imm % 4096) = true := hs
      refine (waite hop).trans (congrArg _ ?_)
      simp only [hfn, hs', if_true, Option.getD_some]
      exact h.retire_went rfl rfl
    case noSlot =>
      have hs' : slotNow (counted s n) (i.imm % 4096) = false := hs
      refine (waite hop).trans (congrArg _ ?_)
      simp only [hfn, hs', Bool.false_eq_true, if_false, Option.getD_some]
      rfl
    case time =>
      refine (waite hop).trans (congrArg _ ?_)
      simp only [hfn, Option.getD_some]
      exact (if_pos ht).trans (h.retire_went rfl rfl)
    case noTime =>
      refine (waite hop).trans (congrArg _ ?_)
      simp only [hfn, Option.getD_some]
      exact if_neg (Nat.not_le.mpr ht)
    case boundary =>
      refine (waite hop).trans (congrArg _ ?_)
      simp only [hfn, Option.getD_some]
      rfl
    case barWaits =>
      rintro hop ⟨j, y, hj, hjk, hy, hh, hb⟩
      exact (bar hop).trans (congrArg _ (barCheck_waits (j := j) h.inst hj (by rw [setStrand_ne _ _ hjk]; exact hy) hh hb))
    case barGoes =>
      intro hop hnd hk hrest
      obtain ⟨tab, htab, hself, hin, hout⟩ := h.bar_releases hnd hk hrest
      exact ⟨_, (bar hop).trans (congrArg _ htab), hself, hin, hout, tab, rfl⟩
    case fence =>
      refine (fence hop).trans (congrArg _ ?_)
      rw [if_neg (by rcases hfree with hf | hf <;> simp [hf]), Option.getD_some]
      exact h.advance_went
    case fenceWaits =>
      refine (fence hop).trans (congrArg _ ?_)
      rw [if_pos (by simp [hbit, hreqs]), Option.getD_none]
    case raise => exact (exec_raise k s).trans (h.issueInsn_next (isOp_intro hop))
    case halt0 =>
      refine (halt hop).trans (congrArg _ ?_)
      simp only [h0, if_true, Option.getD_some]
    case halt =>
      refine (halt hop).trans (congrArg _ ?_)
      simp only [h0, if_false, Option.getD_some]
  case released =>
    obtain ⟨hslot, htime, hbound⟩ := execWaiteRelease_waiting hx hn hw hf hword
    refine ⟨fun hfn hlt => ?_, fun hfn hne => ?_, fun a b hfn hspan ha => ?_, fun hfn hge => ?_⟩
    · exact (htime hfn).trans (congrArg _ ((if_pos hlt).trans (retire_waited (by simpa using hn) ht)))
    · exact (hbound hfn).trans (congrArg _ ((if_pos hne).trans (retire_waited hn ht)))
    · have hepoch : epochNow (atTime a s) = epochNow s := rget_atTime ..
      rw [← hepoch]
      exact (hslot hfn a b hspan ha).trans (congrArg _ (retire_waited (by simpa using hn) ht))
    · exact (htime hfn).trans (congrArg _ (if_neg (Nat.not_lt.mpr hge)))

end Sys2Proof.Claims
end

section
/-! PROOFS. Stream Seedcode instructions (R154 to R159): what an item taken, sent or forwarded leaves, and what a grant
reserves. -/
namespace Sys2Proof.Claims

open Sys2Proof.Machine

/-! ## What a stream instruction finds at its channel -/

section View

variable {s : State} {x : Strand} {n : Inst} {c : Nat} {y : ColCtx} {bound : ColRec → Bool}

theorem chanView_live (hc : chanCtx s x n = some (c, y)) (hb : bound y.record = true) (hd : y.dead = false) :
    chanView (counted s n) x n bound = .live c y := by
  have hc' : chanCtx (counted s n) x n = some (c, y) := hc
  simp [chanView, hc', hb, hd]

theorem chanView_dead (hc : chanCtx s x n = some (c, y)) (hb : bound y.record = true) (hd : y.dead = true) :
    chanView (counted s n) x n bound = .dead c := by
  have hc' : chanCtx (counted s n) x n = some (c, y) := hc
  simp [chanView, hc', hb, hd]

theorem chanView_unbound (hc : chanCtx s x n = some (c, y)) (hb : bound y.record = false) :
    chanView (counted s n) x n bound = .unbound := by
  have hc' : chanCtx (counted s n) x n = some (c, y) := hc
  simp [chanView, hc', hb]

end View

@[simp] theorem takeItem_seed (c ch : Nat) (y : ColCtx) (it : RItem) (s : State) : (takeItem c ch y it s).seed = s.seed := rfl

@[simp] theorem recvBuffer_insts (k : Nat) (i : Inst) (bs : List Byte) (s : State) :
    (recvBuffer k i bs s).seed.insts = s.seed.insts := rfl

/-! ## The obligations -/

/-- Settles O18: by what the strand finds at its channel. -/
theorem streamItemsMove : Obligations.StreamItemsMove := by
  unfold Obligations.StreamItemsMove
  intro s k x n i c y h hc
  have recv (hop : i.op = 0x08) := (exec_recv k s).trans (h.issueInsn_next (isOp_intro hop))
  have send (hop : i.op = 0x09) := (exec_send k s).trans (h.issueInsn_next (isOp_intro hop))
  have fwd (hop : i.op = 0x0A) := (exec_fwd k s).trans (h.issueInsn_next (isOp_intro hop))
  have grant (hop : i.op = 0x0B) := (exec_grant k s).trans (h.issueInsn_next (isOp_intro hop))
  refine ⟨fun hop hb hd => ⟨fun hempty => ?recvWaits, fun it rest hitems => ⟨fun hbit => ?recvPlain, fun ls hbit hls => ?recvCarry⟩⟩,
    fun hop hb hd => ⟨fun hfull => ?sendWaits, fun hroom => ?send⟩,
    fun hop hb hb' hd => ⟨fun hwait => ?fwdWaits, fun it rest hitems hroom => ⟨fun hgood => ?fwd, fun hbad => ?fwdBad⟩⟩,
    fun hd => ⟨fun hop hb => ?recvDead, fun hop hb => ?sendDead, fun hop hb hb' => ?fwdDead, fun hop hb => ?grantDead⟩,
    fun hop hb => ?recvUnbound, fun hop hb => ?sendUnbound⟩
  case recvWaits =>
    refine (recv hop).trans (congrArg _ ?_)
    simp only [chanView_live (bound := fun r => r.recvBound _) hc hb hd, hempty, Option.getD_none]
  case recvPlain =>
    refine (recv hop).trans (congrArg _ ?_)
    simp only [chanView_live (bound := fun r => r.recvBound _) hc hb hd, hitems, hbit, Bool.false_eq_true, if_false, Option.getD_some]
    exact h.retire_next h.inst rfl rfl
  case recvCarry =>
    refine (recv hop).trans (congrArg _ ?_)
    simp only [chanView_live (bound := fun r => r.recvBound _) hc hb hd, hitems, hbit, if_true, hls, Option.getD_some]
    exact h.retire_next h.inst rfl rfl
  case sendWaits =>
    refine (send hop).trans (congrArg _ ?_)
    simp only [chanView_live (bound := fun r => r.sendBound _) hc hb hd, if_pos hfull, Option.getD_none]
  case send =>
    refine (send hop).trans (congrArg _ ?_)
    simp only [chanView_live (bound := fun r => r.sendBound _) hc hb hd, if_neg (Nat.not_le.mpr hroom), Option.getD_some, h.advance_went]
  case fwdWaits =>
    refine (fwd hop).trans (congrArg _ ?_)
    simp only [chanView_live (bound := fun r => r.recvBound _ && r.sendBound _) hc (by rw [hb, hb']; rfl) hd]
    rcases hwait with hempty | hfull
    · simp only [hempty, Option.getD_none]
    · simp only [if_pos hfull]
      cases chanItems y (i.imm % 8) x <;> rfl
  case fwd =>
    refine (fwd hop).trans (congrArg _ ?_)
    simp only [chanView_live (bound := fun r => r.recvBound _ && r.sendBound _) hc (by rw [hb, hb']; rfl) hd, hitems,
      if_neg (Nat.not_le.mpr hroom), hgood, Bool.false_eq_true, if_false, Option.getD_some]
    exact congrArg _ (h.retire_next h.inst rfl rfl)
  case fwdBad =>
    refine (fwd hop).trans (congrArg _ ?_)
    simp only [chanView_live (bound := fun r => r.recvBound _ && r.sendBound _) hc (by rw [hb, hb']; rfl) hd, hitems,
      if_neg (Nat.not_le.mpr hroom), hbad, if_true, Option.getD_some]
    exact congrArg _ (h.retire_next h.inst rfl rfl)
  case recvDead =>
    refine (recv hop).trans (congrArg _ ?_)
    simp only [chanView_dead (bound := fun r => r.recvBound _) hc hb hd, Option.getD_some]
    exact h.retire_went rfl rfl
  case sendDead =>
    refine (send hop).trans (congrArg _ ?_)
    simp only [chanView_dead (bound := fun r => r.sendBound _) hc hb hd, Option.getD_some, h.advance_went]
  case fwdDead =>
    refine (fwd hop).trans (congrArg _ ?_)
    simp only [chanView_dead (bound := fun r => r.recvBound _ && r.sendBound _) hc (by rw [hb, hb']; rfl) hd, Option.getD_some]
    exact h.retire_went rfl rfl
  case grantDead =>
    refine (grant hop).trans (congrArg _ ?_)
    simp only [chanView_dead (bound := fun r => r.recvBound _) hc hb hd, Option.getD_some, h.advance_went]
  case recvUnbound =>
    refine (recv hop).trans (congrArg _ ?_)
    simp only [chanView_unbound (bound := fun r => r.recvBound _) hc hb, Option.getD_some]
  case sendUnbound =>
    refine (send hop).trans (congrArg _ ?_)
    simp only [chanView_unbound (bound := fun r => r.sendBound _) hc hb, Option.getD_some]

/-- Settles O19: with room on both sides the reservation and the message, without it nothing. -/
theorem grantReturnsCredits : Obligations.GrantReturnsCredits := by
  unfold Obligations.GrantReturnsCredits
  intro s k x n i c y h hop hc hd ch count u q need cells room hb kind key node hg
  have grant := (exec_grant k s).trans (h.issueInsn_next (isOp_intro hop))
  have hview : chanView (counted s n) x n (fun r => r.recvBound (i.imm / 256 % 8)) = .live c y := chanView_live hc hb hd
  have hg' : grantee y.record (i.imm / 256 % 8) ((x.sr i.a).toNat % 16384) = some (kind, key, node) := hg
  refine ⟨fun hno => ?_, fun ⟨hbuf, hpart⟩ => ?_⟩
  · refine grant.trans (congrArg _ ?_)
    have hno' : y.record.chbuf * 2 ^ 20 < q.used + need ∨ (!partRoom u (colPart u y) cells) = true := by
      rw [Bool.not_eq_true', ← Bool.not_eq_true, ← Nat.not_le]
      exact not_and_or.mp hno
    simp only [hview, hg']
    exact congrArg (Option.getD · s) (if_pos hno')
  · refine grant.trans (congrArg _ ?_)
    have hyes : ¬ (y.record.chbuf * 2 ^ 20 < q.used + need ∨ (!partRoom u (colPart u y) cells) = true) :=
      not_or.mpr ⟨Nat.not_lt.mpr hbuf, by rw [hpart]; exact Bool.false_ne_true⟩
    simp only [hview, hg', h.advance_went]
    exact congrArg (Option.getD · s) (if_neg hyes)

end Sys2Proof.Claims
end

section
/-! PROOFS. Memory, atomic and pin Seedcode instructions (R160 to R168): where an access goes, what a local one reads or
writes, what a fabric one sends, and what the answer does. -/
namespace Sys2Proof.Claims

open Sys2Proof.Machine

/-! ## Where an access goes (R160) -/

section Access

variable {s : State} {k a m align : Nat} {n : Inst} {loc : Space → State → Option State} {fab : State → Option State}

theorem memAccess_local (ho : spaceOf n a m ≠ .outside) (hf : spaceOf n a m ≠ .fabric) (ha : a % align = 0) :
    memAccess k n a m align loc fab s = loc (spaceOf n a m) s := by
  simp only [memAccess, memSpace]
  cases hsp : spaceOf n a m <;> simp_all

theorem memAccess_fabric (hf : spaceOf n a m = .fabric) (ha : a % align = 0) : memAccess k n a m align loc fab s = fab s := by
  simp [memAccess, memSpace, hf, ha]

theorem memAccess_outside (ho : spaceOf n a m = .outside) :
    memAccess k n a m align loc fab s = some (strandFault k 1 stIllegal a s) := by
  simp [memAccess, memSpace, ho]

theorem memAccess_misaligned (ho : spaceOf n a m ≠ .outside) (ha : a % align ≠ 0) :
    memAccess k n a m align loc fab s = some (strandFault k 2 stIllegal a s) := by
  simp only [memAccess, memSpace]
  cases hsp : spaceOf n a m <;> simp_all

end Access

theorem spaceOf_fabric {n : Inst} {a m : Nat} (ha : a < 2 ^ 63) : spaceOf n a m = .fabric := by simp only [spaceOf, if_pos ha]

theorem spaceOf_ne_fabric {n : Inst} {a m : Nat} (ha : 2 ^ 63 ≤ a) : spaceOf n a m ≠ .fabric := by
  unfold spaceOf
  dsimp only
  rw [if_neg (Nat.not_lt.mpr ha)]
  split
  · simp
  · split <;> simp

/-! ## Local writes and the strand's registers -/

@[simp] theorem localWrite_strands (i : Inst) (k : Nat) (sp : Space) (bs : List Byte) (s : State) :
    (localWrite i k sp bs s).seed.strands = s.seed.strands := by cases sp <;> rfl

@[simp] theorem localWrite_insts (i : Inst) (k : Nat) (sp : Space) (bs : List Byte) (s : State) :
    (localWrite i k sp bs s).seed.insts = s.seed.insts := by cases sp <;> rfl

theorem setStrand_localWrite (i : Inst) (k j : Nat) (sp : Space) (bs : List Byte) (x : Strand) (s : State) :
    setStrand j x (localWrite i k sp bs s) = localWrite i k sp bs (setStrand j x s) := by cases sp <;> rfl

/-- The local writes of the lanes `l`, in their order. -/
def writeLanes (i : Inst) (k : Nat) (at_ : Nat → Space) (data : Nat → List Byte) (l : List Nat) (s : State) : State :=
  each l (fun j t => localWrite i k (at_ j) (data j) t) s

section Lanes

variable (i : Inst) (k : Nat) (at_ : Nat → Space) (data : Nat → List Byte)

theorem writeLanes_cons (j : Nat) (l : List Nat) (s : State) :
    writeLanes i k at_ data (j :: l) s = writeLanes i k at_ data l (localWrite i k (at_ j) (data j) s) := rfl

@[simp] theorem writeLanes_strands (l : List Nat) (s : State) : (writeLanes i k at_ data l s).seed.strands = s.seed.strands := by
  induction l generalizing s with
  | nil => rfl
  | cons j l ih => rw [writeLanes_cons, ih, localWrite_strands]

@[simp] theorem writeLanes_insts (l : List Nat) (s : State) : (writeLanes i k at_ data l s).seed.insts = s.seed.insts := by
  induction l generalizing s with
  | nil => rfl
  | cons j l ih => rw [writeLanes_cons, ih, localWrite_insts]

theorem setStrand_writeLanes (l : List Nat) (j : Nat) (x : Strand) (s : State) :
    setStrand j x (writeLanes i k at_ data l s) = writeLanes i k at_ data l (setStrand j x s) := by
  induction l generalizing s with
  | nil => rfl
  | cons a l ih => rw [writeLanes_cons, ih, setStrand_localWrite, writeLanes_cons]

end Lanes

section Issue

variable {s t : State} {k : Nat} {x : Strand} {n : Inst} {i : Insn}

/-- The strand goes on, in any state that has its registers and the record of its launch. -/
theorem IssuesOn.advance_next (h : IssuesOn s k x n i) (hs : t.seed.strands = s.seed.strands) (hn : t.seed.insts = s.seed.insts) :
    advance_ k t = setStrand k { x with pc := x.pc + 8 } t :=
  advance_inText (by rw [hs]; exact h.strand) (by rw [hn]; exact h.inst) h.next

theorem IssuesOn.advance_localWrite (h : IssuesOn s k x n i) (sp : Space) (bs : List Byte) :
    advance_ k (localWrite n k sp bs (counted s n)) = localWrite n k sp bs (went s k n x) := by
  rw [went, ← setStrand_localWrite]
  exact h.advance_next (localWrite_strands ..) (localWrite_insts ..)

end Issue

/-! ## The lanes of `GATH` and `SCAT` (R165) -/

/-- The address of lane `j`. -/
def laneAddr (i : Insn) (x : Strand) (j : Nat) : Nat := ((x.sr i.a).toNat + laneOf (x.vr i.b) j * 2 ^ (i.imm % 16)) % 2 ^ 64

/-- The governed lanes. -/
def laneList (i : Insn) (x : Strand) : List Nat := (List.range 16).filter fun j => (i.gov x).getLsbD j

theorem laneAddrs_eq (i : Insn) (x : Strand) : laneAddrs i x = (laneList i x).map fun j => (j, laneAddr i x j) := rfl

theorem mem_laneList {i : Insn} {x : Strand} {j : Nat} : j ∈ laneList i x ↔ j < 16 ∧ (i.gov x).getLsbD j = true := by
  simp [laneList]

theorem gathWrite_near (i : Insn) (x : Strand) (near : Vec) : gathWrite i x near [] = x.putV i.d near := by simp [gathWrite]

section Near

variable {s : State} {k : Nat} {x : Strand} {n : Inst} {i : Insn}
  (hnear : ∀ j ∈ laneList i x, 2 ^ 63 ≤ laneAddr i x j ∧ spaceOf n (laneAddr i x j) 4 ≠ .outside ∧ laneAddr i x j % 4 = 0)
include hnear

theorem laneFault_none : laneFault n (laneAddrs i x) = none := by
  rw [laneFault, laneAddrs_eq, List.findSome?_eq_none_iff]
  intro p hp
  obtain ⟨j, hj, rfl⟩ := List.mem_map.mp hp
  obtain ⟨-, ho, ha⟩ := hnear j hj
  simp only [memSpace]
  cases hsp : spaceOf n (laneAddr i x j) 4 <;> simp_all

theorem isFabric_near {j : Nat} (hj : j ∈ laneList i x) : isFabric (laneAddr i x j) = false := by
  simpa [isFabric] using (hnear j hj).1

theorem any_isFabric_near : ((laneAddrs i x).any fun p => isFabric p.2) = false := by
  rw [laneAddrs_eq, List.any_map, List.any_eq_false]
  exact fun j hj => by simp [isFabric_near hnear hj]

theorem filter_isFabric_near : ((laneAddrs i x).filter fun p => isFabric p.2) = [] := by
  rw [List.filter_eq_nil_iff, laneAddrs_eq]
  intro p hp
  obtain ⟨j, hj, rfl⟩ := List.mem_map.mp hp
  simp [isFabric_near hnear hj]

theorem filter_not_isFabric_near : ((laneAddrs i x).filter fun p => !isFabric p.2) = laneAddrs i x := by
  rw [List.filter_eq_self, laneAddrs_eq]
  intro p hp
  obtain ⟨j, hj, rfl⟩ := List.mem_map.mp hp
  simp [isFabric_near hnear hj]

/-- `GATH` of local lanes takes each governed lane from the stores. -/
theorem laneOf_gathNear {j : Nat} (hj : j < 16) : laneOf (gathNear k i x n s) j =
    if (i.gov x).getLsbD j then leAt (localRead s n k (spaceOf n (laneAddr i x j) 4) 4) 0 4 % 2 ^ 32 else laneOf (x.vr i.d) j := by
  have hfold := el_foldl_put (f := .int32) (fun _ => true)
    (fun j => leAt (localRead s n k (spaceOf n (laneAddr i x j) 4) 4) 0 4) (laneList i x)
    (fun e he => (mem_laneList.mp he).1) (List.nodup_range.filter _) (x.vr i.d) (e := j) hj
  rw [gathNear, filter_not_isFabric_near hnear, laneAddrs_eq, List.foldl_map]
  refine hfold.trans (if_congr ?_ rfl rfl)
  simp [mem_laneList, hj]

end Near

/-- The room for requests depends on the strands alone. -/
theorem fabRoom_congr {s t : State} {k m : Nat} {x : Strand} (h : t.seed.strands = s.seed.strands) :
    fabRoom t k x m = fabRoom s k x m := by rw [fabRoom, fabRoom, galOutstanding, galOutstanding, h]

/-- Of lanes with the same address the highest is kept. -/
def keptLanes (i : Insn) (x : Strand) : List Nat :=
  (List.range 16).filter fun j => (i.gov x).getLsbD j &&
    !(List.range 16).any fun q => (i.gov x).getLsbD q && decide (j < q) && laneAddr i x q == laneAddr i x j

theorem laneAddrs_kept (i : Insn) (x : Strand) :
    ((laneAddrs i x).filter fun p => !((laneAddrs i x).any fun q => decide (p.1 < q.1) && q.2 == p.2)) =
      (keptLanes i x).map fun j => (j, laneAddr i x j) := by
  rw [laneAddrs_eq, List.filter_map, keptLanes, laneList, List.filter_filter]
  congr 1
  refine List.filter_congr fun j _ => ?_
  rw [Bool.and_comm]
  simp only [Function.comp, List.any_map, List.any_filter, Bool.and_assoc]

theorem keptLanes_subset {i : Insn} {x : Strand} {j : Nat} (hj : j ∈ keptLanes i x) : j ∈ laneList i x := by
  simp only [keptLanes, List.mem_filter, Bool.and_eq_true, List.mem_range] at hj
  exact mem_laneList.mpr ⟨hj.1, hj.2.1⟩

/-- `SCAT` of local lanes writes the lanes kept. -/
theorem IssuesOn.scat_near {s : State} {k : Nat} {x : Strand} {n : Inst} {i : Insn} (h : IssuesOn s k x n i) (hop : i.op = 0x15)
    (hnear : ∀ j ∈ laneList i x, 2 ^ 63 ≤ laneAddr i x j ∧ spaceOf n (laneAddr i x j) 4 ≠ .outside ∧ laneAddr i x j % 4 = 0)
    (hroom : fabRoom (counted s n) k x 0 = true) :
    exec (.scat k) s = .next (writeLanes n k (fun j => spaceOf n (laneAddr i x j) 4) (fun j => toLE 4 (laneOf (x.vr i.d) j))
      (keptLanes i x) (went s k n x)) := by
  have hfar : (((keptLanes i x).map fun j => (j, laneAddr i x j)).filter fun p => isFabric p.2) = [] := by
    rw [List.filter_eq_nil_iff]
    intro p hp
    obtain ⟨j, hj, rfl⟩ := List.mem_map.mp hp
    simp [isFabric_near hnear (keptLanes_subset hj)]
  have hloc : (((keptLanes i x).map fun j => (j, laneAddr i x j)).filter fun p => !isFabric p.2) =
      (keptLanes i x).map fun j => (j, laneAddr i x j) := by
    rw [List.filter_eq_self]
    intro p hp
    obtain ⟨j, hj, rfl⟩ := List.mem_map.mp hp
    simp [isFabric_near hnear (keptLanes_subset hj)]
  let wrote : State := writeLanes n k (fun j => spaceOf n (laneAddr i x j) 4) (fun j => toLE 4 (laneOf (x.vr i.d) j))
    (keptLanes i x) (counted s n)
  have hwrote : each ((keptLanes i x).map fun j => (j, laneAddr i x j))
      (fun p u => localWrite n k (spaceOf n p.2 4) (toLE 4 (laneOf (x.vr i.d) p.1)) u) (counted s n) = wrote := by
    rw [each, List.foldl_map]
    rfl
  have hroom' : fabRoom wrote k x 0 = true := (fabRoom_congr (writeLanes_strands ..)).trans hroom
  refine ((exec_scat k s).trans (h.issueInsn_next (isOp_intro hop))).trans (congrArg _ ?_)
  simp only [laneFault_none hnear, laneAddrs_kept, hfar, hloc, hwrote, List.map_nil, List.length_nil, if_pos hroom, fabStore,
    if_pos hroom', Option.getD_some]
  rw [went, ← setStrand_writeLanes]
  exact h.advance_next (writeLanes_strands ..) (writeLanes_insts ..)

/-! ## Requests of one piece -/

@[simp] theorem length_toLE (w v : Nat) : (toLE w v).length = w := by
  induction w generalizing v with
  | zero => rfl
  | succ w ih => rw [toLE, List.length_cons, ih]

/-- A store of one piece is one request. -/
theorem fabStore_one {k : Nat} {x : Strand} {n : Inst} {ord : Bool} {a : Nat} {bs : List Byte} {s : State} :
    fabStore k x n ord [(a, bs)] s = if fabRoom s k x 1 then
      some (advance_ k (sendStrand k (strandReq n 0x02 a bs.length bs ord false false none 0 s) s)) else none := by
  have hord : (ord && decide (0 + 1 = [(a, bs)].length)) = ord := by simp
  simp only [fabStore, each, enum', List.length_cons, List.length_nil, List.range_succ, List.range_zero, List.nil_append,
    List.zip_cons_cons, List.zip_nil_right, List.foldl_cons, List.foldl_nil] at hord ⊢
  rw [hord]

/-! ## Answers (R161, R167) -/

section Answer

variable {s : State} {k m st : Nat} {data : List Byte} {x : Strand} {r : FabReq} {n : Inst}

theorem fabAnswer_ok (hf : n.fault = none) (hw : x.wait ≠ .fault) (hl : r.isLoad = false) (hst : st = stOK ∨ st = stReplayed) :
    fabAnswer k m st data x r n s = setStrand k (match r.dReg with
      | some d => ({ x with reqs := x.reqs.filter (·.n != m) } : Strand).putSN d (leAt data 0 r.width)
      | none => { x with reqs := x.reqs.filter (·.n != m) }) s := by
  have hno : (st == stNoAnswer || st == stRouteStale) = false := by rcases hst with rfl | rfl <;> rfl
  simp only [fabAnswer, Inst.discards, hf, hl, hno, Bool.and_false, Bool.false_and, Bool.false_or, beq_iff_eq, hw, if_false,
    Bool.false_eq_true, if_pos hst] <;> rfl

theorem fabAnswer_failed (hf : n.fault = none) (hw : x.wait ≠ .fault) (hl : r.isLoad = false) (h0 : st ≠ stOK) (h1 : st ≠ stReplayed)
    (hlast : r.isAtomic = false ∨ 3 ≤ r.repeats ∨ (st ≠ stNoAnswer ∧ st ≠ stRouteStale)) :
    fabAnswer k m st data x r n s = instFault x.inst 3 st k r.pc ((n.image.wordAt r.pc).getD 0) r.addr
      (setStrand k { x with reqs := x.reqs.filter (·.n != m) } s) := by
  have hno : (r.isAtomic && (st == stNoAnswer || st == stRouteStale) && decide (r.repeats < 3)) = false := by
    rcases hlast with h | h | ⟨h, h'⟩
    · simp [h]
    · simp [Nat.not_lt.mpr h]
    · simp [h, h']
  simp only [fabAnswer, Inst.discards, hf, hl, hno, h0, h1, Bool.false_or, beq_iff_eq, hw, if_false, Bool.false_eq_true, or_self]

/-- The answer to a request of a strand. -/
theorem exec_strandFabricAnswer_next {id : Nat} {ib : Inbox} (ha : ownAnswer s m = some (id, ib)) (hx : tget s.seed.strands k = some x)
    (hr : x.reqs.find? (·.n == m) = some r) (hn : tget s.seed.insts x.inst = some n) :
    exec (.strandFabricAnswer k m) s = .next (fabAnswer k m ib.frame.status ib.frame.payload x r n (takeInbox id s)) := by
  rw [exec_strandFabricAnswer]
  simp only [execStrandFabricAnswer, ha, hx, hr, hn]

end Answer

/-! ## The obligations -/

/-- Settles O20: where the access goes decides whether it reads, writes or faults. -/
theorem localAccessReadsAndStores : Obligations.LocalAccessReadsAndStores := by
  unfold Obligations.LocalAccessReadsAndStores
  intro s k x n i h
  have ldv (hop : i.op = 0x10) := (exec_ldv k s).trans (h.issueInsn_next (isOp_intro hop))
  have stv (hop : i.op = 0x11) := (exec_stv k s).trans (h.issueInsn_next (isOp_intro hop))
  have lds (hop : i.op = 0x12) := (exec_lds k s).trans (h.issueInsn_next (isOp_intro hop))
  have sts (hop : i.op = 0x13) := (exec_sts k s).trans (h.issueInsn_next (isOp_intro hop))
  refine ⟨fun hop hl ha => ?ldv, fun hop hl ha hbit => ?lds, fun hop hl ha hbit => ?ldsSigned, fun hop hl ha => ?stv,
    fun hop hl ha => ?sts, fun hop ho => ?ldvOut, fun hop ho => ?stvOut, fun hop hl ha => ?ldvMis, fun hop hl ha => ?stsMis⟩
  case ldv =>
    refine ⟨_, (ldv hop).trans (congrArg _ ?_), fun _ he => el_putGov _ _ _ he⟩
    simp only [memAccess_local hl.1 hl.2 ha, Option.getD_some]
    exact h.retire_went rfl rfl
  case lds =>
    refine (lds hop).trans (congrArg _ ?_)
    simp only [memAccess_local hl.1 hl.2 ha, Option.getD_some, ldsWrite, hbit, Bool.false_eq_true, if_false]
    exact h.retire_went rfl rfl
  case ldsSigned =>
    refine (lds hop).trans (congrArg _ ?_)
    simp only [memAccess_local hl.1 hl.2 ha, Option.getD_some, ldsWrite, hbit, if_true]
    exact h.retire_went rfl rfl
  case stv =>
    refine ⟨putGov i.format (i.gov x) (unpackReg i.format (localRead s n k (spaceOf n (i.address x) i.format.bytes) i.format.bytes))
      fun e => el i.format (x.vr i.d) e, fun e he => (el_putGov _ _ _ he).trans ?_, (stv hop).trans (congrArg _ ?_)⟩
    · rw [el_mod_width]
    · simp only [memAccess_local hl.1 hl.2 ha, Option.getD_some]
      exact h.advance_localWrite _ _
  case sts =>
    refine (sts hop).trans (congrArg _ ?_)
    simp only [memAccess_local hl.1 hl.2 ha, Option.getD_some]
    exact h.advance_localWrite _ _
  case ldvOut =>
    refine (ldv hop).trans (congrArg _ ?_)
    simp only [memAccess_outside ho, Option.getD_some]
  case stvOut =>
    refine (stv hop).trans (congrArg _ ?_)
    simp only [memAccess_outside ho, Option.getD_some]
  case ldvMis =>
    refine (ldv hop).trans (congrArg _ ?_)
    simp only [memAccess_misaligned hl.1 ha, Option.getD_some]
  case stsMis =>
    refine (sts hop).trans (congrArg _ ?_)
    simp only [memAccess_misaligned hl.1 ha, Option.getD_some]

/-- Settles O21: an address below 2^63 is a fabric address; the requests go out where the limits leave room. -/
theorem fabricAccessSendsOneRequest : Obligations.FabricAccessSendsOneRequest := by
  unfold Obligations.FabricAccessSendsOneRequest
  intro s k x n i h hfab
  have hsp {m : Nat} : spaceOf n (i.address x) m = .fabric := spaceOf_fabric hfab
  have sts (hop : i.op = 0x13) := (exec_sts k s).trans (h.issueInsn_next (isOp_intro hop))
  have atom (hop : i.op = 0x16) := (exec_atom k s).trans (h.issueInsn_next (isOp_intro hop))
  refine ⟨fun hop ha hroom => ?ldv, fun hop ha hroom => ?lds, fun hop ha hroom => ?sts, fun hop ha hroom => ?atom,
    fun hop ha hroom => ?stsWaits, fun hop ha hroom => ?atomWaits⟩
  case ldv =>
    refine ((exec_ldv k s).trans (h.issueInsn_next (isOp_intro hop))).trans (congrArg _ ?_)
    simp only [memAccess_fabric hsp ha, loadPieces, hop, fabLoad, if_pos hroom, Option.getD_some]
  case lds =>
    refine ((exec_lds k s).trans (h.issueInsn_next (isOp_intro hop))).trans (congrArg _ ?_)
    simp only [memAccess_fabric hsp ha, loadPieces, hop, fabLoad, List.length_cons, List.length_nil]
    rw [if_pos hroom, Option.getD_some]
  case sts =>
    refine (sts hop).trans (congrArg _ ?_)
    simp only [memAccess_fabric hsp ha, fabStore_one, if_pos hroom, length_toLE, Option.getD_some]
  case atom =>
    refine (atom hop).trans (congrArg _ ?_)
    simp only [memAccess_fabric hsp ha, if_pos hroom, Option.getD_some]
    rfl
  case stsWaits =>
    refine (sts hop).trans (congrArg _ ?_)
    simp only [memAccess_fabric hsp ha, fabStore_one, hroom, Bool.false_eq_true, if_false, Option.getD_none]
  case atomWaits =>
    refine (atom hop).trans (congrArg _ ?_)
    simp only [memAccess_fabric hsp ha, hroom, Bool.false_eq_true, if_false, Option.getD_none]

/-- Settles O22: where every governed lane is local, no lane is sent. -/
theorem gatherScatterAtomIssue : Obligations.GatherScatterAtomIssue := by
  unfold Obligations.GatherScatterAtomIssue
  intro s k x n i h
  refine ⟨fun hop hnear => ?gath, fun hop hnear hroom => ?scat, fun hop ho hf ha => ?atom⟩
  case gath =>
    have hnear' := fun j (hj : j ∈ laneList i x) => hnear j (mem_laneList.mp hj).1 (mem_laneList.mp hj).2
    refine ⟨gathNear k i x n (counted s n), ?_, fun j hj => laneOf_gathNear hnear' hj⟩
    refine ((exec_gath k s).trans (h.issueInsn_next (isOp_intro hop))).trans (congrArg _ ?_)
    simp only [laneFault_none hnear', any_isFabric_near hnear', Bool.false_eq_true, if_false, Option.getD_some,
      gathWrite_near]
    exact h.retire_went rfl rfl
  case scat =>
    exact h.scat_near hop (fun j hj => hnear j (mem_laneList.mp hj).1 (mem_laneList.mp hj).2) hroom
  case atom =>
    refine ((exec_atom k s).trans (h.issueInsn_next (isOp_intro hop))).trans (congrArg _ ?_)
    simp only [memAccess_local ho hf ha, Option.getD_some]
    exact h.retire_next (by rw [localWrite_insts]; exact h.inst) rfl rfl

/-- Settles O23: `PIN` by whether the version may be pinned and is held already; an answer by its status. -/
theorem pinsAndAnswersComplete : Obligations.PinsAndAnswersComplete := by
  unfold Obligations.PinsAndAnswersComplete
  refine ⟨fun s k x n i h hop => ?pins, fun s k m id ib x r n ha hx hr hn hf hw hl => ⟨fun hst => ?ok, fun h0 h1 hlast => ?failed⟩⟩
  case pins =>
    have hkind {code : Nat} (hfn : i.fn = code) (hc : code < 64) : isOpFn 0x17 64 code i = true :=
      isOpFn_intro hop (by rw [hfn, Nat.mod_eq_of_lt hc])
    have pin (hfn : i.fn = 0) := (exec_pin k s).trans (h.issueInsn_next (hkind hfn (by decide)))
    refine ⟨fun hfn hok => ?_, fun hfn hok hheld => ?_, fun hfn hok hheld => ?_, fun hfn => ?_⟩
    · refine (pin hfn).trans (congrArg _ ?_)
      simp only [hok, Bool.false_eq_true, if_false, Option.getD_some]
      exact h.retire_went rfl rfl
    · refine (pin hfn).trans (congrArg _ ?_)
      simp only [hok, hheld, if_true, Option.getD_some]
      exact h.retire_went rfl rfl
    · refine (pin hfn).trans (congrArg _ ?_)
      simp only [hok, hheld, if_true, Bool.false_eq_true, if_false, Option.getD_some]
    · exact (exec_pinRelease k s).trans (h.issueInsn_next (hkind hfn (by decide)))
  case ok => exact (exec_strandFabricAnswer_next ha hx hr hn).trans (congrArg _ (fabAnswer_ok hf hw hl hst))
  case failed => exact (exec_strandFabricAnswer_next ha hx hr hn).trans (congrArg _ (fabAnswer_failed hf hw hl h0 h1 hlast))

end Sys2Proof.Claims
end


section
/-! PROOFS. Requests that reach their switch: tracked loads and stores, atomics and the answer memory, bulk transfers and the
tracker, and coherent requests. Each is one lemma on what the action of the request does, under the frame of `Serves`. -/
namespace Sys2Proof.Claims

open Sys2Proof.Machine Sys2Proof.Safety

/-- A request that is served now does what its action says. -/
theorem Serves.serve_next {s t : State} {id n : Nat} {i : Inbox} {f : Frame} {tracked : Bool} (h : Serves s id i f n tracked t)
    {ok : Frame → Bool} {act : Nat → Bool → Frame → State → State} (hok : ok f = true) :
    serve id ok act s = .next (act n tracked f t) := by
  obtain ⟨hr, hi, hf, ha, hh, hd, he⟩ := h
  subst hf
  rw [Machine.serve_next hr hi ha hh hok hd, he]

/-! ## Loads and stores -/

section
variable {s t : State} {n : Nat} {f : Frame}

theorem loadAct_here (h : f.dst = nodeSelf t) :
    loadAct n true f t = submit n (newReq .load f (.mgmt 0) true f.offset f.len [] []) 0 t := if_pos h

theorem loadAct_near (h : f.dst ≠ nodeSelf t) (hn : oneHop t f.dst = true) : loadAct n true f t = sendTracked n t :=
  (if_neg h).trans (if_pos hn)

theorem loadAct_far (h : f.dst ≠ nodeSelf t) (hn : ¬ oneHop t f.dst = true) :
    loadAct n true f t = if f.je then refuse n true f stUnsupported 0 t else sendAs n (blockGet f) t :=
  (if_neg h).trans (if_neg hn)

theorem storeGo_here (h : f.dst = nodeSelf t) :
    storeGo n f t = submit n (newReq .store f (.mgmt 0) true f.offset f.len f.payload []) 0 t := if_pos h

theorem storeGo_near (h : f.dst ≠ nodeSelf t) (hn : oneHop t f.dst = true) : storeGo n f t = sendTracked n t :=
  (if_neg h).trans (if_pos hn)

theorem storeGo_far (h : f.dst ≠ nodeSelf t) (hn : ¬ oneHop t f.dst = true) : storeGo n f t = sendAs n (maskedPut f) t :=
  (if_neg h).trans (if_neg hn)

/-- A store that may be sent on is carried out at once unless it is an ordered one. -/
theorem storeAct_of_may (hmay : f.je = false ∨ oneHop t f.dst = true) :
    storeAct n true f t = if !f.of_ then storeGo n f t else if pairClear t n f then ofGo n f t
      else { t with track := { t.track with reqs := tmod t.track.reqs n fun e => { e with held := true } } } := by
  have hje : ¬ (f.je = true ∧ (!oneHop t f.dst) = true) := by
    rintro ⟨h1, h2⟩
    rcases hmay with h | h <;> simp_all
  exact (if_neg Bool.false_ne_true).trans (if_neg hje)

/-- It is the turn of a store that is not ordered, and of an ordered one after whose pair's stores none is left or failed. -/
theorem storeAct_turn (hmay : f.je = false ∨ oneHop t f.dst = true)
    (hturn : f.of_ = false ∨ (pairClear t n f = true ∧ pairFailed t n f = false)) : storeAct n true f t = storeGo n f t := by
  rw [storeAct_of_may hmay]
  cases ho : f.of_ with
  | false => rfl
  | true =>
    obtain ⟨hclear, hfailed⟩ := hturn.resolve_left (by simp [ho])
    simp only [hclear, ofGo, hfailed, Bool.not_true, Bool.false_eq_true, if_true, if_false]

end

/-- Settles O24: by where the window is, and for an ordered store by what its pair's earlier stores have come to. -/
theorem loadsAndStoresAtHome : Obligations.LoadsAndStoresAtHome := by
  unfold Obligations.LoadsAndStoresAtHome
  refine ⟨?load, ?waits, ?store, ?release⟩
  case load =>
    intro s id i f n t h hop hw here near
    have hgo : exec (.load id) s = .next (loadAct n true f t) :=
      (exec_load id s).trans ((if_neg (ne_true_of_eq_false hw)).trans (h.serve_next (by rw [hop]; rfl)))
    refine ⟨fun hh => hgo.trans (congrArg _ (loadAct_here hh)), fun hh hn => hgo.trans (congrArg _ (loadAct_near hh hn)),
      fun hh hn hj => hgo.trans (congrArg _ ?_), fun hh hn hj => hgo.trans (congrArg _ ?_)⟩
    · rw [loadAct_far hh hn, hj]; rfl
    · rw [loadAct_far hh hn, hj]; rfl
  case waits => exact fun s id hw => (exec_load id s).trans (if_pos hw)
  case store =>
    intro s id i f n t h hop hmay here near turn
    have hgo : exec (.store id) s = .next (storeAct n true f t) := (exec_store id s).trans (h.serve_next (by rw [hop]; rfl))
    refine ⟨fun ht hh => hgo.trans (congrArg _ ?_), fun ht hh hn => hgo.trans (congrArg _ ?_),
      fun ht hh hn => hgo.trans (congrArg _ ?_), fun ho hc hf => hgo.trans (congrArg _ ?_),
      fun ho hc => hgo.trans (congrArg _ ?_)⟩
    · rw [storeAct_turn hmay ht, storeGo_here hh]
    · rw [storeAct_turn hmay ht, storeGo_near hh hn]
    · rw [storeAct_turn hmay ht, storeGo_far hh hn]
    · rw [storeAct_of_may hmay, ho, hc, ofGo, hf]; rfl
    · rw [storeAct_of_may hmay, ho, hc]; rfl
  case release =>
    intro s id e hr he hheld hclear hhere t hfailed
    refine (exec_ofStoreRelease id s).trans ((whenRunning_next _ hr).trans (congrArg _ ?_))
    simp only [he, hheld, hclear, and_self, if_true]
    exact (if_neg (ne_true_of_eq_false hfailed)).trans (storeGo_here hhere)

/-! ## Atomics -/

section
variable {s t : State} {n aopc : Nat} {tracked : Bool} {f : Frame} {e : AnswerEntry}

theorem homeAtomic_malformed (h : ¬ (0x10 ≤ aopc ∧ aopc ≤ 0x1F ∧ f.len = 24 ∧ f.offset % atomicWidth aopc = 0)) :
    homeAtomic n tracked aopc f t = refuse n tracked f stIllegal 1 t := if_pos (by omega)

/-- An atomic that the answer memory holds (R59). -/
theorem homeAtomic_held (h : 0x10 ≤ aopc ∧ aopc ≤ 0x1F ∧ f.len = 24 ∧ f.offset % atomicWidth aopc = 0)
    (he : entryOf t f.src f.tag = some e) :
    homeAtomic n tracked aopc f t =
      if e.check ≠ atomicCheck aopc f then refuse n tracked f stTagReused 1 t
      else if e.pending then setReq n { atomicReq aopc f tracked with phase := .replay }
        { t with track := { t.track with answers := t.track.answers.map fun x =>
          if x.src = e.src ∧ x.tag = e.tag then { x with waiting := x.waiting ++ [n] } else x } }
      else deliver n (atomicReq aopc f tracked) (repeatStatus e.status) (toLE 8 e.old) t :=
  (if_neg (by omega)).trans (by rw [he])

/-- An atomic that the answer memory does not hold (R58, R59). -/
theorem homeAtomic_new (h : 0x10 ≤ aopc ∧ aopc ≤ 0x1F ∧ f.len = 24 ∧ f.offset % atomicWidth aopc = 0)
    (he : entryOf t f.src f.tag = none) :
    homeAtomic n tracked aopc f t =
      if atomicAge t f < -1000 then refuse n tracked f stIllegal 1 t
      else if (ageWindow t : Int) ≤ atomicAge t f ∨ issuedTooEarly t f = true then refuse n tracked f stExpired 1 t
      else if 16777216 ≤ t.track.answers.length then refuse n tracked f stAnswerFull 1 t
      else atomicApply n tracked aopc f t :=
  (if_neg (by omega)).trans (by rw [he]; rfl)

end

/-- An atomic of either class for this switch follows the table of R59. -/
theorem Serves.exec_homeAtomic {s t : State} {id n aopc : Nat} {i : Inbox} {f : Frame} {tracked : Bool} {c : Instr}
    (h : Serves s id i f n tracked t) (hdst : f.dst = nodeSelf t)
    (hc : (c = .atomic id ∧ isAtomicOpc f.opc = true ∧ aopc = f.opc) ∨ (c = .bulkAtomic id ∧ f.opc = 0xA3 ∧ aopc = leAt f.payload 20 1)) :
    exec c s = .next (homeAtomic n tracked aopc f t) := by
  rcases hc with ⟨rfl, hop, rfl⟩ | ⟨rfl, hop, rfl⟩
  · exact (exec_atomic id s).trans ((h.serve_next hop).trans (congrArg _ (if_pos hdst)))
  · exact (exec_bulkAtomic id s).trans ((h.serve_next (by rw [hop]; rfl)).trans (congrArg _ (if_pos hdst)))

/-- Settles O25: the rows of R59's table, by the form of the atomic, its entry in the answer memory and its age. -/
theorem atomicsAtHomeReturnOld : Obligations.AtomicsAtHomeReturnOld := by
  unfold Obligations.AtomicsAtHomeReturnOld
  intro s id i f n tracked t h hdst c aopc hc w formed r age fresh
  have hgo := h.exec_homeAtomic hdst hc
  refine ⟨fun hbad => hgo.trans (congrArg _ (homeAtomic_malformed hbad)), ?held, ?new⟩
  case held =>
    intro e hform he
    refine ⟨fun hchk => ?_, fun hchk hp => ?_, fun hchk hp => ?_⟩ <;> rw [hgo, homeAtomic_held hform he]
    · rw [if_pos hchk]
    · rw [if_neg (not_not_intro hchk), hp]; rfl
    · rw [if_neg (not_not_intro hchk), hp]; rfl
  case new =>
    intro hform he
    refine ⟨fun hage => ?_, fun hage hlate => ?_, fun hfresh hfull => ?_, fun hfresh hroom => ?_⟩ <;>
      rw [hgo, homeAtomic_new hform he]
    · rw [if_pos hage]
    · rw [if_neg hage, if_pos hlate]
    · obtain ⟨hage, hlate, hearly⟩ := hfresh
      rw [if_neg hage, if_neg (not_or.mpr ⟨hlate, ne_true_of_eq_false hearly⟩), if_pos hfull]
    · obtain ⟨hage, hlate, hearly⟩ := hfresh
      rw [if_neg hage, if_neg (not_or.mpr ⟨hlate, ne_true_of_eq_false hearly⟩), if_neg (Nat.not_le.mpr hroom)]
      rfl

/-! ## Bulk transfers and the tracker -/

/-- A request that was converted is not passed on: the two forms differ in their code. -/
theorem passes_of_converted {e : Track} (h : converted e = true) : passes e = false := by
  have hne : e.orig.opc ≠ e.sent.opc := by
    simp only [converted, Bool.or_eq_true, Bool.and_eq_true, beq_iff_eq] at h
    rcases h with ⟨h1, h2⟩ | ⟨h1, h2⟩ <;> simp [h1, h2]
  simp [passes, hne]

section
variable {s t : State} {k : Nat} {e : Track} {a : Frame}

theorem takeAnswer_converted (hf : findTrack t a = some (k, e)) (hs : a.status ≠ stRouteStale) (hc : converted e = true)
    (hj : a.je = false) : takeAnswer a t = closeTrack k a.status (answerData e a) 1 t := by
  simp only [takeAnswer, hf, hs, hc, hj, passes_of_converted hc, false_and, or_self, Bool.not_true, Bool.false_and, Bool.false_eq_true,
    if_false]

theorem takeAnswer_passed (hf : findTrack t a = some (k, e)) (hc : converted e = false) (hp : passes e = true)
    (hb : (payloadBound t e.orig.src).any (fun b => decide (b < a.payload.length)) = false) :
    takeAnswer a t = closeForwarded k e a t := by
  simp only [takeAnswer, hf, hc, hp, hb, false_and, and_false, or_true, Bool.and_false, Bool.false_eq_true, if_false, if_true]

/-- An answer from a port is taken by the tracker. -/
theorem exec_trackerAnswer_port {id : Nat} {i : Inbox} (hr : running s = true) (hi : tget s.hall.inbox id = some i)
    (ha : isAnswer i.frame.cls = true) (hh : i.host = none) (hp : i.port ≠ 255) :
    exec (.trackerAnswer id) s = .next (takeAnswer i.frame (takeInbox id s)) := by
  refine (exec_trackerAnswer id s).trans ((whenRunning_next _ hr).trans (congrArg _ ?_))
  simp only [hi, ha, hh, hp, Bool.not_true, Option.isSome_none, Bool.or_self, Bool.false_eq_true, if_false]

end

/-- A bulk transfer of another switch's window is sent on. -/
theorem bulkAct_away {k : PKind} {n : Nat} {tracked : Bool} {f : Frame} {t : State} (h : f.dst ≠ nodeSelf t) :
    bulkAct k n tracked f t = sendTracked n t := if_pos h

theorem bulkAct_masked {n : Nat} {tracked : Bool} {f : Frame} {t : State} (h : f.dst = nodeSelf t) :
    bulkAct .bulkPutMasked n tracked f t = submit n (newReq .bulkPutMasked f (.mgmt 0) tracked f.offset 4096 (slice f.payload 64 4096)
      (maskMarks (f.payload.take 64) t).1) 0 (maskMarks (f.payload.take 64) t).2 := by
  rw [bulkAct, if_neg (not_not_intro h)]

/-- Settles O26: by where the window is; the answers and the timeout by what the tracker holds of them. -/
theorem bulkAndTrackerComplete : Obligations.BulkAndTrackerComplete := by
  unfold Obligations.BulkAndTrackerComplete
  refine ⟨?bulk, ?expire, ?answer, ?timeout⟩
  case bulk =>
    intro s id i f n tracked t h
    have put (hop : f.opc = 0xA0) := (exec_bulkPut id s).trans (h.serve_next (act := bulkAct .bulkPut) (by rw [hop]; rfl))
    have get (hop : f.opc = 0xA1) := (exec_bulkGet id s).trans (h.serve_next (act := bulkAct .bulkGet) (by rw [hop]; rfl))
    have masked (hop : f.opc = 0xA2) :=
      (exec_bulkPutMasked id s).trans (h.serve_next (act := bulkAct .bulkPutMasked) (by rw [hop]; rfl))
    refine ⟨fun hop hh => (put hop).trans (congrArg _ (if_neg (not_not_intro hh))),
      fun hop hh => (put hop).trans (congrArg _ (bulkAct_away hh)),
      fun hop hh => (get hop).trans (congrArg _ (if_neg (not_not_intro hh))),
      fun hop hh => (get hop).trans (congrArg _ (bulkAct_away hh)),
      fun hop hh => (masked hop).trans (congrArg _ (bulkAct_masked hh)),
      fun hop hh => (masked hop).trans (congrArg _ (bulkAct_away hh)),
      fun hop hh => (exec_bulkAtomic id s).trans ((h.serve_next (by rw [hop]; rfl)).trans (congrArg _ (if_neg hh)))⟩
  case expire =>
    intro s src tag e hr he hp t
    refine (exec_answerEntryExpire src tag s).trans ((whenRunning_next _ hr).trans (congrArg _ ?_))
    simp only [he, hp, Bool.false_eq_true, if_false, atTime_track, t]
  case answer =>
    intro s id k i e hr hi ha hh hp hf hs
    have hgo := exec_trackerAnswer_port hr hi ha hh hp
    exact ⟨fun hc hj => hgo.trans (congrArg _ (takeAnswer_converted hf hs hc hj)),
      fun hc hpass hb => hgo.trans (congrArg _ (takeAnswer_passed hf hc hpass hb))⟩
  case timeout =>
    intro s req e hr he key t
    refine (exec_trackerTimeout req s).trans ((whenRunning_next _ hr).trans (congrArg _ ?_))
    simp only [he]
    rfl

/-! ## Coherent requests -/

/-- What the five coherent requests do once their form is known (R329, R332). -/
theorem coherentAct_eq (k : PKind) (n : Nat) (tracked : Bool) (f : Frame) (t : State) :
    coherentAct k n tracked f t =
      if ¬ (tracked = true ∧ f.dst = nodeSelf t) then refuse n tracked f stUnsupported 0 t
      else if ¬ (f.offset % 128 = 0 ∧ f.len = if k = .wbDirty then 128 else 0) then refuse n tracked f stIllegal 1 t
      else if (regSlot t f.src).isNone then refuse n tracked f stUnsupported 1 t
      else submit n (newReq k f (.mgmt 0) true f.offset 128 f.payload []) 0 t := by
  refine ite_congr (propext ?_) (fun _ => rfl) fun _ => ite_congr (propext ?_) (fun _ => rfl) fun _ => rfl
  · cases tracked <;> simp
  · simp [Decidable.imp_iff_not_or]

/-- Settles O27: the five requests share `coherentAct`, whose checks come in the order of the clauses. -/
theorem coherentRequestsMoveLines : Obligations.CoherentRequestsMoveLines := by
  unfold Obligations.CoherentRequestsMoveLines
  intro s id i f n tracked t h c k opc hmem hop ours formed
  have hgo : exec c s = .next (coherentAct k n tracked f t) ∧ (k = .wbDirty ↔ opc = 0x43) := by
    simp only [List.mem_cons, Prod.mk.injEq, List.not_mem_nil, or_false] at hmem
    rcases hmem with ⟨rfl, rfl, rfl⟩ | ⟨rfl, rfl, rfl⟩ | ⟨rfl, rfl, rfl⟩ | ⟨rfl, rfl, rfl⟩ | ⟨rfl, rfl, rfl⟩
    · exact ⟨(exec_rdShared id s).trans (h.serve_next (by rw [hop]; rfl)), by simp⟩
    · exact ⟨(exec_rdOwn id s).trans (h.serve_next (by rw [hop]; rfl)), by simp⟩
    · exact ⟨(exec_upgrade id s).trans (h.serve_next (by rw [hop]; rfl)), by simp⟩
    · exact ⟨(exec_wbDirty id s).trans (h.serve_next (by rw [hop]; rfl)), by simp⟩
    · exact ⟨(exec_evictClean id s).trans (h.serve_next (by rw [hop]; rfl)), by simp⟩
  obtain ⟨hgo, hk⟩ := hgo
  rw [hgo, coherentAct_eq]
  simp only [hk]
  refine ⟨fun ho hf hreg => ?_, fun ho hf hreg => ?_, fun ho hf => ?_, fun ho => ?_⟩
  · rw [if_neg (not_not_intro ho), if_neg (not_not_intro hf), if_neg (by simp [Option.isSome_iff_ne_none.mp hreg])]
  · rw [if_neg (not_not_intro ho), if_neg (not_not_intro hf), if_pos (by simp [hreg])]
  · rw [if_neg (not_not_intro ho), if_pos hf]
  · rw [if_pos ho]

end Sys2Proof.Claims
end


section
/-! PROOFS. Caching endpoints: their registration and its end, snoop answers and timeouts, and the stale lines. -/
namespace Sys2Proof.Claims

open Sys2Proof.Machine Sys2Proof.Safety

/-- A message that is heard is acted on. -/
theorem Hears.onCtl_next {s : State} {id opc : Nat} {i : Inbox} (h : Hears s id opc i) {act : Inbox → State → State} :
    onCtl id opc act s = .next (act i (takeInbox id s)) := by
  obtain ⟨hr, hi, ho, hc, hd⟩ := h
  exact Machine.onCtl_next hr hi ho hc hd

/-- A command that begins does what its action says. -/
theorem Begins.withCmdOr_next {s t : State} {h code : Nat} {busy : Cmd → List BCmd → Bool} {c : Cmd} {rest : List HostCmd}
    (hb : Begins s h code busy c rest t) {refused : Cmd → State → State} {act : Cmd → State → State} :
    withCmdOr refused h code busy act s = .next (skipUnknown h rest.length (act c t)) := by
  obtain ⟨hr, hh, ⟨e, hq, rfl⟩, hc, hfree, hform, hsender, rfl⟩ := hb
  exact Machine.withCmdOr_next hr hq hh hc hfree hform hsender

theorem Begins.withCmd_next {s t : State} {h code : Nat} {busy : Cmd → List BCmd → Bool} {c : Cmd} {rest : List HostCmd}
    (hb : Begins s h code busy c rest t) {act : Cmd → State → State} :
    withCmd h code busy act s = .next (skipUnknown h rest.length (act c t)) := hb.withCmdOr_next

/-- A command leaves what its action gives. -/
theorem Begins.leaves {s t u : State} {h code : Nat} {busy : Cmd → List BCmd → Bool} {c : Cmd} {rest : List HostCmd}
    (hb : Begins s h code busy c rest t) {act : Cmd → State → State} {k : Instr} (hk : exec k s = withCmd h code busy act s)
    (hu : act c t = u) : LeavesCmd k s h rest u :=
  hk.trans (hb.withCmd_next.trans (congrArg (fun x => Host.Outcome.next (skipUnknown h rest.length x)) hu))

/-! ## Registration -/

section
variable {t : State} {port node lines : Nat} {eth : Bool}

theorem declareCache_incapable (h : bitAt (rget t R.PEER_CAPS_CAPS port) 10 = false) :
    declareCache port eth node lines t = cacheState node 2 0xFF 0 3 false t := if_pos (by simp [h])

/-- On a port with the capability the node's slot decides. -/
theorem declareCache_capable (he : eth = false) (hp : port < 128) (hc : bitAt (rget t R.PEER_CAPS_CAPS port) 10 = true) :
    ¬ (eth = true ∨ 128 ≤ port ∨ (!bitAt (rget t R.PEER_CAPS_CAPS port) 10) = true) := by
  simp [he, hc, hp]

theorem declareCache_again {k : Nat} {c : CSlot} (he : eth = false) (hp : port < 128)
    (hc : bitAt (rget t R.PEER_CAPS_CAPS port) 10 = true) (hs : slotOfNode t node = some (k, c)) (h1 : c.state = 1) :
    declareCache port eth node lines t =
      if c.lines ≠ lines then cacheState node 2 k 0 4 false t else cacheState node 1 k c.ways 0 false t := by
  refine (if_neg (declareCache_capable he hp hc)).trans ?_
  rw [hs]
  exact if_neg (not_not_intro h1)

end

/-- Settles O28: the checks of `CACHE_DECLARE` in their order, and the release of a slot that is there. -/
theorem registrationHoldsSlots : Obligations.RegistrationHoldsSlots := by
  unfold Obligations.RegistrationHoldsSlots
  refine ⟨?declare, ?release⟩
  case declare =>
    intro s id i h t node lines
    have hgo := (exec_cacheDeclare id s).trans
      (h.onCtl_next (act := fun i t => declareCache i.port i.eth i.frame.src (leAt i.frame.payload 0 4) t))
    refine ⟨fun k he hp hc hs hl1 hl2 hroom hk => hgo.trans (congrArg _ ?_),
      fun k c he hp hc hs => ⟨fun h1 hl => hgo.trans (congrArg _ ?_), fun h1 hl => hgo.trans (congrArg _ ?_)⟩,
      fun hc => hgo.trans (congrArg _ (declareCache_incapable hc))⟩
    · refine (if_neg (declareCache_capable he hp hc)).trans ?_
      rw [hs]
      refine (if_neg (show ¬ (lines = 0 ∨ 65536 < lines) by omega)).trans ((if_neg (show ¬ (!leaseRoom t node) = true by simp [hroom])).trans ?_)
      rw [hk]
    · exact (declareCache_again he hp hc hs h1).trans (if_neg (not_not_intro hl))
    · exact (declareCache_again he hp hc hs h1).trans (if_pos hl)
  case release =>
    intro s id i h t node
    have hgo := (exec_cacheRelease id s).trans (h.onCtl_next (act := fun i t => poolPass (releaseCache i.frame.src t)))
    refine ⟨fun hn => hgo.trans (congrArg (fun x => Host.Outcome.next (poolPass x)) ?_),
      fun k c hs => hgo.trans (congrArg (fun x => Host.Outcome.next (poolPass x)) ?_)⟩
    · rw [releaseCache, hn]
    · rw [releaseCache, hs]

/-! ## Snoops -/

/-- The answer of the endpoint that a snoop was sent to ends the snoop. -/
theorem exec_snoopAnswer_over {s : State} {id : Nat} {i : Inbox} {n : Snoop} {c : CSlot} (hr : running s = true)
    (hi : tget s.hall.inbox id = some i) (ha : isAnswer i.frame.cls = true) (hd : i.frame.dst = nodeSelf s) (hp : i.port ≠ 255)
    (hn : tget s.coh.snoops i.frame.tag = some n) (hc : tget s.coh.slots n.slot = some c) (hs : c.node = i.frame.src) :
    exec (.snoopAnswer id) s = .next (snoopOver i.frame.tag n
      (if i.frame.opc = 0x90 ∧ 128 ≤ i.frame.payload.length ∧ i.frame.status = stOK then some (i.frame.payload.take 128) else none)
      (takeInbox id s)) := by
  refine (exec_snoopAnswer id s).trans ((whenRunning_next _ hr).trans (congrArg _ ?_))
  have hthere : (!isAnswer i.frame.cls || i.frame.dst != nodeSelf s || i.port == 255) = false := by simp [ha, hd, hp]
  simp only [hi, hthere, hn, hc, hs, bne_self_eq_false, Bool.false_eq_true, if_false]

/-- An invalidating snoop that is over has dropped its tag. -/
theorem snoopOver_inv {k : Nat} {n : Snoop} {data : Option (List Byte)} {s : State} (h : n.inv = true) :
    snoopOver k n data s = poolPass (freeReleasing n.slot (match data with
      | some d => if n.purpose = 2 then dropTag n.slot n.line (endSnoop k s)
        else writeBack (if n.purpose = 0 ∨ n.purpose = 3 then n.req else 0) n.line d (dropTag n.slot n.line (endSnoop k s))
      | none => dropTag n.slot n.line (endSnoop k s))) := by
  cases data <;> simp only [snoopOver, h, if_true]

/-- Settles O29: by the form of the answer, the number of times a snoop was sent, and the scope that a command names. -/
theorem snoopsAndStaleEnd : Obligations.SnoopsAndStaleEnd := by
  unfold Obligations.SnoopsAndStaleEnd
  refine ⟨?answer, ?timeout, ?clear, ?query⟩
  case answer =>
    intro s id i n c hr hi ha hd hp hn hc hs t
    have hgo := exec_snoopAnswer_over hr hi ha hd hp hn hc hs
    refine ⟨fun hinv hop => hgo.trans (congrArg _ ?_), fun hinv hop hst hlen hpur => hgo.trans (congrArg _ ?_)⟩
    · rw [if_neg (fun h => hop h.1), snoopOver_inv hinv]
    · rw [if_pos ⟨hop, hlen, hst⟩, snoopOver_inv hinv]
      simp only [if_neg hpur, t]
  case timeout =>
    intro s k n hr hn t n'
    have hgo := (exec_snoopTimeout k s).trans (whenRunning_next _ hr)
    simp only [hn] at hgo
    exact ⟨fun h1 => hgo.trans (congrArg _ (if_pos h1)), fun h1 => hgo.trans (congrArg _ (if_neg h1))⟩
  case clear =>
    intro s h c rest t hb v
    refine ⟨fun h0 ha hl => hb.leaves (exec_staleClear h s) ?_, fun h1 hl => hb.leaves (exec_staleClear h s) ?_,
      fun hbig => hb.leaves (exec_staleClear h s) ?_⟩
    · simp only [h0]
      exact if_pos ⟨ha, hl⟩
    · simp only [h1]
      exact if_pos hl
    · split
      · omega
      · omega
      · rfl
  case query =>
    intro s h c rest t hb slot lines told hs hne
    refine hb.leaves (exec_staleQuery h s) ?_
    refine (if_neg (show ¬ (64 ≤ slot ∧ slot ≠ 0xFF) by omega)).trans ?_
    have hmore : ¬ told.isEmpty = true := by simpa using hne
    refine (congrArg (complete h c stOK _ 0) (if_neg hmore)).trans rfl

end Sys2Proof.Claims
end


section
/-! PROOFS. Moves of granules, the trays of the lower stairs, the sleep of units, and the power and thermal steps. -/
namespace Sys2Proof.Claims

open Sys2Proof.Machine Sys2Proof.Safety

/-! ## Moves -/

section
variable {s : State} {g : Nat} {m : Move}

theorem passEnd_of_copying (hm : tget s.pool.moves g = some m) (hc : copying s g = true) : passEnd g s = s := by
  simp only [passEnd, hm, hc, if_true]

theorem abandonMove_of_move (hm : tget s.pool.moves g = some m) : abandonMove g s = endMove g (granuleOf s g) s := by
  simp only [abandonMove, thas, hm, Option.isSome_some, if_true]

theorem passEnd_abandons (hm : tget s.pool.moves g = some m) (hc : copying s g = false) (hw : moveCopies s g = false) :
    passEnd g s = poolPass (endMove g (granuleOf s g) s) := by
  simp only [passEnd, hm, hc, hw, abandonMove_of_move hm, Bool.not_false, Bool.false_eq_true, if_true, if_false]

/-- A pass whose copies are done ends in a flip, a next pass or a hold. -/
theorem passEnd_done (hm : tget s.pool.moves g = some m) (hc : copying s g = false) (hw : moveCopies s g = true) :
    passEnd g s = if m.holdSince.isSome ∨ m.dirty = 0 then poolPass (flipMove g s)
      else if m.pass < 4 then startOps (beginPass g { m with pass := m.pass + 1, dirty := 0, todo := m.dirty } s)
      else startOps (beginPass g { m with dirty := 0, holdSince := some s.clk.now, todo := m.dirty } s) := by
  simp only [passEnd, hm, hc, hw, Bool.not_true, Bool.false_eq_true, if_false]

end

/-- Settles O30: the ends of a pass, and the timed steps of a hold and of the source's release. -/
theorem granuleMovesChangeSource : Obligations.GranuleMovesChangeSource := by
  unfold Obligations.GranuleMovesChangeSource
  refine ⟨?pass, ?hold, ?free⟩
  case pass =>
    intro s g m hr hm copies x
    have hgo : exec (.movePassEnd g) s = .next (passEnd g s) := (exec_movePassEnd g s).trans (whenRunning_next _ hr)
    refine ⟨fun hc => hgo.trans (congrArg _ (passEnd_of_copying hm hc)),
      fun hc hw hh hd hp => hgo.trans (congrArg _ ((passEnd_done hm hc hw).trans ?_)),
      fun hc hw hh hd hp => hgo.trans (congrArg _ ((passEnd_done hm hc hw).trans ?_)),
      fun hc hw hh => hgo.trans (congrArg _ ((passEnd_done hm hc hw).trans ?_)),
      fun hc hw => hgo.trans (congrArg _ (passEnd_abandons hm hc hw))⟩
    · exact (if_neg (by simpa [hh] using hd)).trans (if_pos hp)
    · exact (if_neg (by simpa [hh] using hd)).trans (if_neg (Nat.not_lt.mpr hp))
    · exact if_pos (hh.imp_left Option.isSome_iff_ne_none.mpr)
  case hold =>
    intro s g t0 m hr hm hh t
    refine (exec_moveHoldTimeout g s).trans ((whenRunning_next _ hr).trans (congrArg _ ?_))
    simp only [hm, hh, t]
  case free => exact fun s g hr => (exec_moveSourceFree g s).trans (whenRunning_next _ hr)

/-! ## Trays -/

section
variable {s : State} {k tray : Nat} {o : TierOp}

theorem writeCheck_waits (h : o.trays ≠ []) : writeCheck k o s = setOp k o s := if_pos (by simpa using h)

theorem writeCheck_done (h : o.trays = []) :
    writeCheck k o s = opEnded k (if o.okSeen then stOK else if o.last = stOK then stTierError else o.last) (setOp k o s) :=
  if_neg (by simp [h])

theorem opAnswer_write (ho : tget s.pool.ops k = some o) (ht : o.trays.contains tray = true) (hk : o.kind = .write) :
    opAnswer k tray true s = writeCheck k { o with trays := o.trays.erase tray, okSeen := true } s ∧
    opAnswer k tray false s =
      writeCheck k { o with trays := o.trays.erase tray, last := stTierError } (trayError o.set tray s) := by
  simp only [opAnswer, ho, ht, hk, Bool.not_true, Bool.false_eq_true, if_false, if_true, and_self]

theorem opAnswer_read (ho : tget s.pool.ops k = some o) (ht : o.trays.contains tray = true) (hk : o.kind ≠ .write) :
    opAnswer k tray true s = (if (o.trays.erase tray).isEmpty then readDone k o s else setOp k { o with trays := o.trays.erase tray } s) ∧
    opAnswer k tray false s = (if o.attempt = 1 then secondAttempt k o o.trays (trayError o.set tray s)
      else opEnded k stTierError (trayError o.set tray s)) := by
  simp only [opAnswer, ho, ht, Bool.not_true, Bool.false_eq_true, if_false, if_true]
  cases h : o.kind <;> simp_all

theorem opTimeout_write (ho : tget s.pool.ops k = some o) (hk : o.kind = .write) :
    opTimeout k s = writeCheck k { o with trays := [], last := stTierTimeout } (each o.trays (fun t => trayFail o.set t) s) := by
  simp only [opTimeout, ho, hk]

theorem opTimeout_second (ho : tget s.pool.ops k = some o) (hk : o.kind ≠ .write) (hm : o.kind ≠ .mirror) (ha : o.attempt = 2) :
    opTimeout k s = opEnded k stTierTimeout s := by
  simp only [opTimeout, ho, ha]
  cases h : o.kind <;> simp_all

end

/-- Settles O31: the answers by the kind of the operation, the trays that are left and the attempt; the states of a tray. -/
theorem traysRetire : Obligations.TraysRetire := by
  unfold Obligations.TraysRetire
  refine ⟨?answer, ?timeout, ?window, ?clear, ?rebuilt, ?query⟩
  case answer =>
    intro s k tray o hr ho ht left failed
    have hgo (ok : Bool) : exec (.tierAnswer k tray ok) s = .next (poolPass (opAnswer k tray ok s)) :=
      (exec_tierAnswer k tray ok s).trans (whenRunning_next _ hr)
    refine ⟨fun hk hl => ⟨?_, ?_⟩, fun hk hl => ?_, fun hk hl => ?_, fun hk ha hs => ?_, fun hk ha t0 ts hs => ?_⟩ <;> rw [hgo]
    · rw [(opAnswer_write ho ht hk).1, writeCheck_waits hl]
    · rw [(opAnswer_write ho ht hk).2, writeCheck_waits hl]
    · rw [(opAnswer_write ho ht hk).1, writeCheck_done hl, show o.trays.erase tray = [] from hl]
      rfl
    · rw [(opAnswer_read ho ht hk).1, if_pos (by rw [show o.trays.erase tray = [] from hl]; rfl)]
    · rw [(opAnswer_read ho ht hk).2, if_pos ha, secondAttempt, hs]
    · rw [(opAnswer_read ho ht hk).2, if_pos ha, secondAttempt, hs]
  case timeout =>
    intro s k o hr ho ha t
    have hgo : o.kind ≠ .mirror → exec (.tierAttemptTimeout k) s = .next (poolPass (opTimeout k t)) := by
      intro hm
      refine (exec_tierAttemptTimeout k s).trans ((whenRunning_next _ hr).trans (congrArg _ ?_))
      simp only [ho, ha, hm, or_self, if_false, t]
    have ho' : tget t.pool.ops k = some o := by simpa only [t, atTime_pool] using ho
    refine ⟨fun hk => ?_, fun hk hm ha2 => ?_⟩
    · rw [hgo (by simp [hk]), opTimeout_write ho' hk, writeCheck_done rfl]
      rfl
    · rw [hgo hm, opTimeout_second ho' hk hm ha2]
  case window =>
    intro s set tray ns hr hv hs ht t x med hx hn
    refine (exec_trayLatencyWindow set tray ns s).trans ((whenRunning_next _ hr).trans (congrArg _ ?_))
    refine (if_pos ⟨hv, hs, ht⟩).trans ?_
    have hx' : (trayOf (setTray set tray { trayOf s set tray with latency := ns } s) set tray).state = .up := hx
    simp only [latencyWindow, hx']
    exact if_neg (Nat.not_lt.mpr hn)
  case clear =>
    intro s set tray t0 hr hs hb
    refine (exec_traySlowClear set tray s).trans ((whenRunning_next _ hr).trans (congrArg _ ?_))
    simp only [hs, hb]
  case rebuilt =>
    intro s set tray hr hs ho t x node port
    exact (exec_trayRebuildDone set tray s).trans ((whenRunning_next _ hr).trans (congrArg _ (if_pos ⟨hs, ho⟩)))
  case query =>
    intro s h c rest t hb first n
    refine ⟨fun hf hl hn => hb.leaves (exec_s0Query h s) ?_, fun hbad => hb.leaves (exec_s0Query h s) (if_pos hbad)⟩
    refine (if_neg (show ¬ (2 ^ 20 < first + n ∨ c.bufLen < 8 * n) by omega)).trans ?_
    exact congrArg (completeWith h c stOK) (if_neg (by omega))

/-! ## Sleep -/

/-- Settles O32: each unit's step by its conditions, with the time at which it takes place. -/
theorem sleepAndWakeUnits : Obligations.SleepAndWakeUnits := by
  unfold Obligations.SleepAndWakeUnits
  intro s hr
  refine ⟨?pause, ?gallery, ?stack, ?lane, ?slot, ?awake⟩
  case pause =>
    intro g t0 hp
    refine (exec_clockPointPauseEnd g s).trans ((whenRunning_next _ hr).trans (congrArg _ ?_))
    simp only [hp]
  case gallery =>
    intro g hg hruns hwork hz t u
    have hmay : ¬ (32 ≤ g ∨ (!galRuns s g) = true ∨ galWork s g = true ∨ (galOf s g).zeroFor.isSome = true) := by
      simp [hruns, hwork, hz, hg]
    have hgo : exec (.galleryIdleSleep g) s = .next (if (match nextUse t 0 g with
        | some at_ => decide (at_ < t.clk.now + 10000) | none => false) = true then t
        else toSleep (.gallery g) (setGal g { galOf u g with point := 0, paused := none, ungatedAt := none } u)) :=
      (exec_galleryIdleSleep g s).trans ((whenRunning_next _ hr).trans (congrArg _ (if_neg hmay)))
    refine ⟨fun at_ hu hsoon => hgo.trans (congrArg _ (if_pos (by simp [hu, hsoon]))), fun hlate => hgo.trans (congrArg _ (if_neg ?_))⟩
    cases hu : nextUse t 0 g with
    | none => simp
    | some at_ => simpa using hlate at_ hu
  case stack =>
    intro k hk hs hb t
    exact (exec_stackSelfRefresh k s).trans ((whenRunning_next _ hr).trans (congrArg _ (if_neg (by simpa [hs, hk] using hb))))
  case lane =>
    intro n m t hm hup hen hw hsent hwidth rest
    refine (exec_laneSleep n s).trans ((whenRunning_next _ hr).trans (congrArg _ ?_))
    have hm' : bestMask (atTime (lastUse s (.lane (4 * n)) + laneIdleNs s) s) n 1 = some m := hm
    simp only [hm']
    exact if_neg (by simp [hup, hen, hw, hsent, hwidth])
  case slot =>
    intro kind unit at_ hu hs ht
    refine (exec_slotWake kind unit s).trans ((whenRunning_next _ hr).trans (congrArg _ ?_))
    simp only [hu]
    exact if_pos ⟨hs, ht⟩
  case awake =>
    intro kind unit w hw t u
    refine (exec_unitWakeDone kind unit s).trans ((whenRunning_next _ hr).trans (congrArg _ ?_))
    simp only [hw]
    rfl

/-! ## Power and heat -/

/-- What a thermal sample leaves in the registers before its thresholds are looked at (R518). -/
def sampled (die hbms : List Nat) (w : Nat) (s : State) : State :=
  let t := match s.pkg.sampleAt with | some t0 => atTime (t0 + 100000) s | none => s
  rset R.THERM_STATUS_TJ_MAX 0 (hottest die / 10) (rset R.THERM_STATUS_HBM_MAX 0 (hottest hbms / 10)
    { t with pkg := { t.pkg with sampleAt := some t.clk.now, power := w, restartOk := decide (hottest die < 850) } })

theorem exec_thermalSample_powered {s : State} (die hbms : List Nat) (w : Nat) (h1 : s.pkg.phase ≠ .off) (h2 : s.pkg.phase ≠ .standby) :
    exec (.thermalSample die hbms w) s =
      .next (if s.pkg.phase = .tripped then sampled die hbms w s else thermalRows die hbms (sampled die hbms w s)) := by
  rw [exec_thermalSample, execThermalSample]
  cases h : s.pkg.phase with
  | off => exact absurd h h1
  | standby => exact absurd h h2
  | _ => rfl

/-- At 115 degrees, or 105 in a stack, a sample trips the package. -/
theorem thermalRows_trips {die hbms : List Nat} {s : State} (h : 1150 ≤ hottest die ∨ 1050 ≤ hottest hbms) :
    ∃ v, thermalRows die hbms s = trip v := by
  unfold thermalRows
  exact ⟨_, if_pos h⟩

/-- Settles O33: the times of the governor and of the limit, the rows of a sample, and the ends of a measurement. -/
theorem powerAndHeatActions : Obligations.PowerAndHeatActions := by
  unfold Obligations.PowerAndHeatActions
  refine ⟨?governor, ?limit, ?sample, ?release, ?i3c, ?start, ?measured⟩
  case governor =>
    intro s w hr at_
    have hgo := (exec_governorRun w s).trans (whenRunning_next _ hr)
    refine ⟨fun hs hl => hgo.trans (congrArg _ (if_pos ⟨hs, hl⟩)), fun hs ha => hgo.trans (congrArg _ ?_)⟩
    exact (if_neg (by simp [hs])).trans (if_neg (Nat.not_lt.mpr ha))
  case limit =>
    intro s hr at_ t eff lim goes ha
    have hgo (v : Nat) (hv : (if t.pkg.dieHot = true then max 400 (eff - 50) else if t.pkg.dieCool = true then min lim (eff + 25) else eff) = v) :
        goes v := by
      subst hv
      exact (exec_effLimitTick s).trans ((whenRunning_next _ hr).trans (congrArg _ (if_neg (Nat.not_lt.mpr ha))))
    have hpkg : t.pkg = s.pkg := atTime_pkg ..
    refine ⟨fun hh => hgo _ ?_, fun hh hc => hgo _ ?_, fun hh hc => hgo _ ?_⟩
    · simp only [hpkg, hh, if_true]
    · simp only [hpkg, hh, hc, Bool.false_eq_true, if_true, if_false]
    · simp only [hpkg, hh, hc, Bool.false_eq_true, if_false]
  case sample =>
    intro s die hbms w h1 h2 t u
    have hgo := exec_thermalSample_powered die hbms w h1 h2
    refine ⟨fun hp => hgo.trans (congrArg _ (if_pos hp)), fun hp => hgo.trans (congrArg _ (if_neg hp)), fun hp hot => ?_⟩
    obtain ⟨v, hv⟩ := thermalRows_trips (s := sampled die hbms w s) hot
    exact ⟨v, hgo.trans (congrArg _ ((if_neg hp).trans hv))⟩
  case release => exact fun s hp ht ho => (exec_thermtripRelease s).trans (congrArg _ (if_pos ⟨hp, ht, ho⟩))
  case i3c =>
    intro s k hon
    have hread : exec (.i3cPrivateRead k) s = .next (emit (.i3c (toLE 8 (match i3cReg k with | some a => readWord 2 a s | none => 0))) s) :=
      (exec_i3cPrivateRead k s).trans (congrArg _ (if_pos hon))
    refine ⟨fun a ha => ?_, fun ha => ?_, (exec_i3cDynamicAddress k s).trans (congrArg _ (if_pos hon))⟩
    · rw [hread, ha]
    · rw [hread, ha]
  case start =>
    intro s hr hm
    exact (exec_maintNow s).trans ((whenRunning_next _ hr).trans (congrArg _ (if_neg (by simp [hm]))))
  case measured =>
    intro s slacks t0 hr hm u
    refine (exec_ageingMeasureDone slacks s).trans ((whenRunning_next _ hr).trans (congrArg _ ?_))
    simp only [hm]
    rfl

end Sys2Proof.Claims
end


section
/-! PROOFS. Frames that arrive on a port of either personality, accesses through a host's windows, and the timed steps of the
Hall. -/
namespace Sys2Proof.Claims

open Sys2Proof.Machine Sys2Proof.Safety

/-! ## Arriving frames -/

section
variable {n : Nat} {edge : Bool} {f : Frame} {s : State}

theorem arriveWhole_version (h : f.ver ≠ 2) : arriveWhole n false edge f s = ingressEnd n edge f stUnsupported (countRefused n s) :=
  if_pos h

/-- A frame of the version of R79 on a port that is up comes to its landing. -/
theorem arriveWhole_up (hn : n < 128) (hv : f.ver = 2) (hl : lstate s n = 4) :
    arriveWhole n false edge f s = match landFor s n f with
      | none => rbump R.PDROP_RX_OVERRUN n s
      | some l => match (if edge then ingressStatus s n (if edge then { f with g := genLive s } else f)
            else sideStatus s n (if edge then { f with g := genLive s } else f)) with
        | some st => ingressEnd n edge (if edge then { f with g := genLive s } else f) st s
        | none => arriveOn n edge false l (if edge then { f with g := genLive s } else f) s := by
  have h5 : ¬ (n < 128 ∧ lstate s n = 5 ∧ f.cls ≠ 0 ∧ f.cls ≠ 7 ∧
      (!(isAnswer f.cls && (match findTrack s f with | some (_, t) => t.orig.cls == 7 | none => false))) = true) := by
    rintro ⟨-, h, -⟩
    omega
  refine (if_neg (not_not_intro hv)).trans ((if_neg h5).trans ?_)
  rw [if_pos hn]
  cases landFor s n f with
  | none => exact (if_neg Bool.false_ne_true).trans (if_pos hn)
  | some l => rfl

theorem arriveOn_port (l : Landing) (hn : n < 128) : arriveOn n edge false l f s = match admitColour n f (countIn n f s) with
    | (true, u) => takeIn n edge false l f u
    | (false, u) => ingressEnd n true f (timeoutStatus f) u := if_pos hn

/-- Where the tail is good the frame goes on as it is; where it is not, as much as has left. -/
theorem arrive_port (hn : n < 128) :
    arrive n false f s =
      let t := countRx n f s
      let e := isEndpointPort t n || (pfPort t n).role == 0 || (pfPort t n).role == 4
      let flaw := tailFlaw false f
      let left := hasLeft n e f (rbump R.PDROP_RX_TAIL_BAD n t)
      if flaw = 0 then arriveWhole n false e f t
      else if left.1 = true then arriveWhole n false e { f with tailBad := true, reason := flaw } left.2 else left.2 := by
  have h128 : decide (128 ≤ n) = false := by simpa using hn
  simp only [arrive, h128, Bool.false_or, if_pos hn]
  refine ite_congr rfl (fun _ => rfl) fun _ => ?_
  generalize hasLeft n _ f _ = left
  obtain ⟨gone, u⟩ := left
  cases gone <;> rfl

end

/-- Settles O34: `arrive_port` on the tail, `arriveWhole_up` on the version and the landing, then the rules of the port, its
policer and the generation. -/
theorem ingressChecksRefuse : Obligations.IngressChecksRefuse := by
  unfold Obligations.IngressChecksRefuse
  intro s n bytes hr hn heth f t hup edge flaw v w through f1 g status goes
  have hgo : exec (.ingressFrame n bytes) s = .next (arrive n false f s) :=
    (exec_ingressFrame n bytes s).trans
      ((whenRunning_next _ hr).trans (congrArg _ (if_pos ⟨by simp [heth], .inl hup⟩)))
  have hleft : flaw ≠ 0 → arrive n false f s = if through then arriveWhole n false edge f1 w else w := by
    intro hflaw
    have hv : v = rbump R.PDROP_RX_TAIL_BAD n t := if_pos hflaw
    have hw : w = (hasLeft n edge f v).2 := if_pos hflaw
    have hf1 : f1 = { f with tailBad := true, reason := flaw } := if_pos hflaw
    rw [hw, hf1]
    simp only [through, hv]
    exact (arrive_port hn).trans (if_neg hflaw)
  have hwhole : (flaw = 0 ∨ through) → arrive n false f s = arriveWhole n false edge f1 w := by
    intro h
    by_cases hflaw : flaw = 0
    · have hw : w = t := (if_neg (not_not_intro hflaw)).trans (if_neg (not_not_intro hflaw))
      have hf1 : f1 = f := if_neg (not_not_intro hflaw)
      rw [hw, hf1]
      exact (arrive_port hn).trans (if_pos hflaw)
    · rw [hleft hflaw, if_pos (h.resolve_left hflaw)]
  have hver : f1.ver = f.ver := by
    by_cases hflaw : flaw = 0 <;> simp only [f1, hflaw, ne_eq, not_true_eq_false, not_false_eq_true, if_false, if_true]
  have hland {l : Landing} (hl : flaw = 0 ∨ through) (h2 : f.ver = 2) (h4 : lstate w n = 4) (hsome : landFor w n f1 = some l) :
      exec (.ingressFrame n bytes) s = .next (match status with
        | some st => ingressEnd n edge g st w
        | none => arriveOn n edge false l g w) := by
    rw [hgo, hwhole hl, arriveWhole_up hn (hver.trans h2) h4, hsome]
  refine ⟨fun hflaw hno => hgo.trans (congrArg _ ((hleft hflaw).trans (if_neg hno))),
    fun hl hv => hgo.trans (congrArg _ ((hwhole hl).trans (arriveWhole_version (hver ▸ hv)))),
    fun hl hv h4 hno => hgo.trans (congrArg _ ((hwhole hl).trans ?_)), fun l hl hv h4 hsome => ⟨?_, ?_, ?_⟩⟩
  · rw [arriveWhole_up hn (hver.trans hv) h4, hno]
  · intro st hst
    exact (hland hl hv h4 hsome).trans (by rw [hst])
  · intro u hst hu
    refine (hland hl hv h4 hsome).trans ?_
    rw [hst, arriveOn_port l hn, hu]
  · intro u hst hu
    have htake : exec (.ingressFrame n bytes) s = .next (takeIn n edge false l g u) := by
      refine (hland hl hv h4 hsome).trans ?_
      rw [hst, arriveOn_port l hn, hu]
    exact ⟨fun hret => htake.trans (congrArg _ (if_pos hret)),
      fun hret => htake.trans (congrArg _ ((if_neg hret).trans (if_pos hn)))⟩

/-! ## Ethernet bulk personality and the host's windows -/

theorem asksOnly_iff (opc : Nat) : asksOnly opc = true ↔ opc = 0x01 ∨ opc = 0xA1 := by
  simp [asksOnly]

/-- An Ethernet frame of the right form and type. -/
theorem arriveEth_typed {n mac etype : Nat} {bytes : List Byte} {s : State} (hl : bytes.length + 18 ≤ 9216)
    (he : etype = rget s R.ETH_CFG_ETHERTYPE 0) :
    arriveEth n mac etype bytes true s =
      let t := { s with hall := { s.hall with ethPeer := tput s.hall.ethPeer n 0 mac } }
      let f := shimFrame t n bytes
      if bytes.length < 16 then rbump R.PDROP_RX_TAIL_BAD n t
      else if !ethOpc f.opc then ingressEnd n true f stUnsupported (countRx n f t)
      else if !asksOnly f.opc ∧ bytes.length < 16 + f.len then rbump R.PDROP_RX_TAIL_BAD n t
      else arrive n true f t :=
  (if_neg Bool.false_ne_true).trans ((if_neg (Nat.not_lt.mpr hl)).trans (if_neg (not_not_intro he)))

/-- An access through a host's aperture that is on becomes a frame. -/
theorem apertureIn_on {h off len : Nat} {write : Bool} {bytes : List Byte} {t : State}
    (hon : off / 2 ^ 32 < 16 ∧ len ≠ 0 ∧ off % 2 ^ 32 % 4096 + len ≤ 4096 ∧
      rbit t R.APERTURE_EN (h * 16 + off / 2 ^ 32) = true ∧ isReady t = true) :
    apertureIn h write off len bytes t =
      match ingressStatus t (128 + h) (apertureFrame t h (off / 2 ^ 32) (off % 2 ^ 32) len write bytes) with
      | some st => apertureEnd h (apertureFrame t h (off / 2 ^ 32) (off % 2 ^ 32) len write bytes) st t
      | none => dispatchFrame (128 + h) true false .none (apertureFrame t h (off / 2 ^ 32) (off % 2 ^ 32) len write bytes) t := by
  obtain ⟨h1, h2, h3, h4, h5⟩ := hon
  refine (if_neg ?_).trans rfl
  rintro (h | h | h | h | h)
  · omega
  · exact h2 h
  · omega
  · exact absurd h (by rw [h4]; exact Bool.false_ne_true)
  · simp [h5] at h

theorem apertureIn_off {h off len : Nat} {write : Bool} {bytes : List Byte} {t : State}
    (hoff : ¬ (off / 2 ^ 32 < 16 ∧ len ≠ 0 ∧ off % 2 ^ 32 % 4096 + len ≤ 4096 ∧
      rbit t R.APERTURE_EN (h * 16 + off / 2 ^ 32) = true ∧ isReady t = true)) :
    apertureIn h write off len bytes t = apertureOnes h write len t := by
  refine if_pos ?_
  by_contra hon
  simp only [not_or, Bool.not_eq_true', Bool.not_eq_false] at hon
  obtain ⟨h1, h2, h3, h4, h5⟩ := hon
  exact hoff ⟨by omega, h2, by omega, h4, h5⟩

/-- A load or store that has come to a host is done by DMA, or denied outside the inbound window. -/
theorem exec_hostInbound_dma {s : State} {id h : Nat} {i : Inbox} {b : List Byte} (hr : running s = true)
    (hi : tget s.hall.inbox id = some i) (hh : i.host = some h) (hd : isHead s id i = true)
    (ho : i.frame.opc = 0x01 ∨ i.frame.opc = 0x02 ∨ i.frame.opc = 0xA0 ∨ i.frame.opc = 0xA1) :
    exec (.hostInboundRequest id (some b)) s = .next (inboundDma h i.frame (some b) (takeInbox id s)) := by
  refine (exec_hostInboundRequest id (some b) s).trans ((whenRunning_next _ hr).trans (congrArg _ ?_))
  simp only [hi, hh, hd, Bool.not_true, Bool.false_eq_true, if_false]
  exact if_pos (by omega)

/-- The DMA of a transfer that is not masked. -/
theorem inboundDma_plain {h : Nat} {f : Frame} {b : List Byte} {t : State} (ho : f.opc ≠ 0xA2) :
    inboundDma h f (some b) t =
      if rget t R.INBOUND_LEN_LEN h < f.offset + f.len then hostError h f stDenied t
      else if f.opc = 0x01 ∨ f.opc = 0xA1 then
        hostAnswer h f stOK (slice b 0 f.len) (emit (.dmaRead h (rget t R.INBOUND_INBOUND_BASE h + f.offset) f.len) t)
      else hostAnswer h f stOK [] (emit (.dmaWrite h (rget t R.INBOUND_INBOUND_BASE h + f.offset) (slice f.payload 0 f.len)) t) := by
  simp only [inboundDma, if_neg ho]

/-- Settles O35: the checks of an Ethernet frame in their order, the two outcomes of an aperture access, and the inbound window. -/
theorem edgeFramesEnter : Obligations.EdgeFramesEnter := by
  unfold Obligations.EdgeFramesEnter
  refine ⟨?eth, ?aperture, ?inbound⟩
  case eth =>
    intro s n dst mac etype bytes fcs hr heth hup hdst goes t f
    have hgo : exec (.ethernetFrame n dst mac etype bytes fcs) s = .next (arriveEth n mac etype bytes fcs s) :=
      (exec_ethernetFrame n dst mac etype bytes fcs s).trans
        ((whenRunning_next _ hr).trans (congrArg _ (if_pos ⟨heth, hup, hdst⟩)))
    refine ⟨fun hf => hgo.trans (congrArg _ ?_), fun hf hl => hgo.trans (congrArg _ ?_), fun hf hl he => hgo.trans (congrArg _ ?_),
      ?typed⟩
    · exact if_pos (by simp [hf])
    · exact (if_neg (by simp [hf])).trans (if_pos hl)
    · exact (if_neg (by simp [hf])).trans ((if_neg (Nat.not_lt.mpr hl)).trans (if_pos he))
    · intro hf hl he asks
      subst hf
      have hty := hgo.trans (congrArg _ (arriveEth_typed hl he))
      have hasks : (!asksOnly f.opc) = true ↔ ¬ asks := by
        rw [Bool.not_eq_true', ← Bool.not_eq_true, asksOnly_iff]
      refine ⟨fun hs => hty.trans (congrArg _ (if_pos hs)), fun hs ho => hty.trans (congrArg _ ?_),
        fun hs ho ha hlen => hty.trans (congrArg _ ?_), fun hs ho ha => hty.trans (congrArg _ ?_)⟩
      · exact (if_neg (Nat.not_lt.mpr hs)).trans (if_pos (by rw [show ethOpc (shimFrame t n bytes).opc = false from ho]; rfl))
      · refine (if_neg (Nat.not_lt.mpr hs)).trans ((if_neg ?_).trans (if_pos ⟨hasks.mpr ha, hlen⟩))
        rw [show ethOpc (shimFrame t n bytes).opc = true from ho]
        exact Bool.false_ne_true
      · refine (if_neg (Nat.not_lt.mpr hs)).trans ((if_neg ?_).trans (if_neg ?_))
        · rw [show ethOpc (shimFrame t n bytes).opc = true from ho]
          exact Bool.false_ne_true
        · rintro ⟨h1, h2⟩
          exact (hasks.mp h1) (ha.resolve_right (Nat.not_le.mpr h2))
  case aperture =>
    intro s h write off len bytes hb hp t i o f goes on
    have hgo : exec (.hostApertureAccess h write off len bytes) s = .next (apertureIn h write off len bytes t) :=
      (exec_hostApertureAccess h write off len bytes s).trans (hostWork_next hb hp)
    refine ⟨fun hon hst => ?_, fun hon st hst => ?_, fun hoff hw => ?_, fun hoff hw => ?_⟩
    · refine hgo.trans (congrArg _ ((apertureIn_on hon).trans ?_))
      rw [show ingressStatus t (128 + h) (apertureFrame t h (off / 2 ^ 32) (off % 2 ^ 32) len write bytes) = none from hst]
    · refine hgo.trans (congrArg _ ((apertureIn_on hon).trans ?_))
      rw [show ingressStatus t (128 + h) (apertureFrame t h (off / 2 ^ 32) (off % 2 ^ 32) len write bytes) = some st from hst]
    · subst hw
      exact hgo.trans (congrArg _ (apertureIn_off hoff))
    · subst hw
      exact hgo.trans (congrArg _ (apertureIn_off hoff))
  case inbound =>
    intro s id h i b hr hi hh hd f t at_ within goes
    have hgo (ho : f.opc = 0x01 ∨ f.opc = 0x02 ∨ f.opc = 0xA0 ∨ f.opc = 0xA1) := exec_hostInbound_dma (b := b) hr hi hh hd ho
    refine ⟨fun ho hw => ?_, fun ho hw => ?_, fun ho hw => ?_⟩
    · refine (hgo (by omega)).trans (congrArg _ ((inboundDma_plain (show f.opc ≠ 0xA2 by omega)).trans ?_))
      exact (if_neg (Nat.not_lt.mpr hw)).trans (if_pos ho)
    · refine (hgo (by omega)).trans (congrArg _ ((inboundDma_plain (show f.opc ≠ 0xA2 by omega)).trans ?_))
      exact (if_neg (Nat.not_lt.mpr hw)).trans (if_neg (show ¬ (f.opc = 0x01 ∨ f.opc = 0xA1) by omega))
    · refine (hgo (by omega)).trans (congrArg _ ((inboundDma_plain (show f.opc ≠ 0xA2 by omega)).trans ?_))
      exact if_pos (Nat.not_le.mp hw)

/-! ## The Hall -/

/-- The four iterations of a cell time, of which the first alone moves the pointers (R355). -/
theorem cellTime_eq (s : State) :
    cellTime s =
      let o := allOffers (activeInputs (accountHeld s)) (accountHeld s)
      let a := iterate true o.1 [] o.2
      let b := iterate false o.1 a.1 a.2
      let c := iterate false o.1 b.1 b.2
      let d := iterate false o.1 c.1 c.2
      let u := syncOff (sendBalcony (d.1.map (·.output)) (each d.1 moveCell d.2))
      { u with hall := { u.hall with quietCell := u.hall.quietCell - 1 } } := by
  dsimp only [cellTime]

/-- Settles O36: each timed step of the Hall. -/
theorem hallTimesEndWaits : Obligations.HallTimesEndWaits := by
  unfold Obligations.HallTimesEndWaits
  intro s hr
  refine ⟨(exec_schedulerCellTime s).trans (
    (whenRunning_next _ hr).trans (congrArg _ (cellTime_eq s))),
    fun hq => ?_, fun hq => ?_, fun at_ h0 => ?_, fun at_ h0 h1 => ?_,
    fun ha => ?_, fun ha => ?_, fun e he => ?_, fun hdown => ?_⟩
  · exact (exec_quietSlot s).trans ((whenRunning_next _ hr).trans (congrArg _ (if_pos hq)))
  · exact (exec_quietSlot s).trans ((whenRunning_next _ hr).trans (congrArg _ (if_neg (by simp [hq]))))
  · refine (exec_routeRetire s).trans ((whenRunning_next _ hr).trans (congrArg _ ?_))
    simp only [h0]
    rfl
  · refine (exec_routeRetire s).trans ((whenRunning_next _ hr).trans (congrArg _ ?_))
    cases h : s.hall.gen0 with
    | old x => exact absurd h (h0 x)
    | _ =>
      simp only [h1]
      rfl
  · refine (exec_auditNow s).trans ((whenRunning_next _ hr).trans (congrArg _ ?_))
    simp only [startAudit, ha]
  · refine (exec_auditNow s).trans ((whenRunning_next _ hr).trans (congrArg _ ?_))
    obtain ⟨e, he⟩ := Option.ne_none_iff_exists'.mp ha
    simp only [startAudit, he]
  · intro t freed left u
    have hgo : exec .bufferAuditDone s = .next (if freed = 0 then u else report ⟨0x13, 0, none, 0xFF, 0, 0, freed, 0⟩ u) := by
      refine (exec_bufferAuditDone s).trans ((whenRunning_next _ hr).trans (congrArg _ ?_))
      simp only [he, atTime_hall, u, left, freed, t]
    exact ⟨fun h0 => hgo.trans (congrArg _ (if_pos h0)), fun h0 => hgo.trans (congrArg _ (if_neg h0))⟩
  · refine (exec_hallGate s).trans ((whenRunning_next _ hr).trans (congrArg _ (if_neg ?_)))
    simpa using hdown

end Sys2Proof.Claims
end


section
/-! SUPPORT. Reads of a table whose entries are picked by key, and of a memory of which a range was zeroed. -/
namespace Sys2Proof.Machine

theorem tget_filter_key {α : Type} {t : Tab α} (p : Nat → Bool) (a : Nat) (h : twf t = true) :
    tget (t.filter fun x => p x.1) a = if p a then tget t a else none := by
  induction t with
  | nil => exact (ite_self none).symm
  | cons q t ih =>
    obtain ⟨k, v⟩ := q
    obtain ⟨hlt, ht⟩ := twf_cons.mp h
    have hrest : a ≤ k → tget t a = none := fun hak => tget_eq_none_of_lt fun x hx => lt_of_le_of_lt hak (hlt x hx)
    rw [List.filter_cons]
    by_cases hk : p k = true
    · rw [if_pos hk]
      by_cases hak : a = k
      · simp [tget, hak, hk]
      · by_cases hlk : a < k <;> simp [tget, hak, hlk, ih ht]
    · rw [if_neg hk, ih ht]
      by_cases hak : a = k
      · simp [hak, hk]
      · by_cases hlk : a < k
        · simp [tget, hak, hlk, hrest hlk.le]
        · simp [tget, hak, hlk]

/-- A zeroed range reads zero, and every other byte as before. -/
theorem mget_mzero {m : Mem} (a n c : Nat) (h : Memory.wf m = true) :
    mget (mzero m a n) c = if a ≤ c ∧ c < a + n then 0 else mget m c := by
  have ht : twf m = true := by
    simp only [Memory.wf, Bool.and_eq_true] at h
    exact h.1
  have hf := tget_filter_key (fun k => !(decide (a ≤ k) && decide (k < a + n))) c ht
  simp only [mget, tgetD, mzero, hf]
  by_cases hc : a ≤ c ∧ c < a + n
  · simp [hc]
  · rw [if_neg hc, if_pos (by simp only [Bool.not_eq_true', Bool.and_eq_false_iff, decide_eq_false_iff_not]; omega)]

theorem galOf_setGal_ne {g k : Nat} (x : Gallery) (s : State) (h : k ≠ g) : galOf (setGal g x s) k = galOf s k := by
  simp [galOf, setGal, List.getElem?_set_ne h.symm]

theorem galOf_atTime (n g : Nat) (s : State) : galOf (atTime n s) g = galOf s g := by rw [galOf, atTime_seed, galOf]

/-- A gallery that is set with its queue and batches as they were. -/
theorem galOf_setGal_self {g : Nat} {x : Gallery} {s : State} (hg : g < s.seed.gals.length) (hq : x.queue = (galOf s g).queue)
    (hb : x.batches = (galOf s g).batches) : galOf (setGal g x s) g = x := by
  have hqq : (x.queue.isEmpty && !(galOf s g).queue.isEmpty) = false := by rw [hq]; cases (galOf s g).queue.isEmpty <;> rfl
  have hbb : (x.batches.isEmpty && !(galOf s g).batches.isEmpty) = false := by rw [hb]; cases (galOf s g).batches.isEmpty <;> rfl
  simp only [setGal, hqq, hbb, Bool.false_eq_true, if_false]
  simp [galOf, hg]

end Sys2Proof.Machine
end

section
/-! PROOFS. Launches and their checks, the dispatch of a gallery's queue, and the ends of instances. -/
namespace Sys2Proof.Claims

open Sys2Proof.Machine Sys2Proof.Safety

/-! ## Launches -/

theorem launchGo_ok {r : LaunchRec} {t : State} (h : launchStatus t r = none) : launchGo r t = placeLaunch r t := by
  simp only [launchGo, h]

theorem launchGo_refused {r : LaunchRec} {t : State} {st : Nat} (h : launchStatus t r = some st) :
    launchGo r t = launchEnd r st 0 1 t := by
  simp only [launchGo, h]

/-- The record of a launch from a frame: one that does not await its end has no deadline. -/
theorem launchOf_deadline (b : List Byte) (by_ : LaunchBy) (part pkey src dst tag port d : Nat) :
    (if (launchOf b by_ part pkey src dst tag port (some d)).early
      then { launchOf b by_ part pkey src dst tag port (some d) with deadline := none }
      else launchOf b by_ part pkey src dst tag port (some d)) =
    launchOf b by_ part pkey src dst tag port (if bitAt (leAt b 2 1) 1 then none else some d) := by
  have he : (launchOf b by_ part pkey src dst tag port (some d)).early = bitAt (leAt b 2 1) 1 := rfl
  rw [he]
  cases bitAt (leAt b 2 1) 1 <;> rfl

/-- Settles O37: each request by its form and by the status of its checks. -/
theorem launchesStartInstances : Obligations.LaunchesStartInstances := by
  unfold Obligations.LaunchesStartInstances
  refine ⟨?frame, ?host, ?kill, ?load, ?deadline⟩
  case frame =>
    intro s id i f n t e h hop he due r
    have hgo := (exec_launch id s).trans (h.serve_next (ok := fun f => f.opc == 0x30) (by rw [hop]; rfl))
    have hgood : f.dst = nodeSelf t → f.len = 72 → launchForm f.payload = true → exec (.launch id) s = .next (launchGo r t) := by
      intro hd hl hform
      refine hgo.trans (congrArg _ ?_)
      refine (if_neg Bool.false_ne_true).trans ((if_neg (not_not_intro hd)).trans ((if_neg (by simp [hl, hform])).trans ?_))
      rw [he]
      exact congrArg (launchGo · t) (launchOf_deadline ..)
    refine ⟨fun hd hl hform hst => (hgood hd hl hform).trans (congrArg _ (launchGo_ok hst)),
      fun st hd hl hform hst => (hgood hd hl hform).trans (congrArg _ (launchGo_refused hst)),
      fun hd hform => hgo.trans (congrArg _ ?_), fun hd hn => hgo.trans (congrArg _ ?_)⟩
    · exact (if_neg Bool.false_ne_true).trans ((if_neg (not_not_intro hd)).trans (if_pos (by simp [hform])))
    · exact (if_neg Bool.false_ne_true).trans ((if_pos hd).trans (if_pos hn))
  case host =>
    intro s h c rest t b hb hl hz hform u r
    have hgo : LeavesCmd (.hostCommandLaunch h (some b)) s h rest (launchGo r u) :=
      hb.leaves (exec_hostCommandLaunch h (some b) s) (if_neg (by simp [hl, hz, hform]))
    exact ⟨fun hst => launchGo_ok hst ▸ hgo, fun st hst => launchGo_refused hst ▸ hgo⟩
  case kill =>
    intro s h c rest t hb hz
    exact ⟨fun hi => hb.leaves (exec_kill h s) (if_neg (by simp [hz, hi])), fun hi => hb.leaves (exec_kill h s) (if_pos (by simp [hi]))⟩
  case load =>
    intro s h c rest t b hb hslot hvar hz
    have hform : ¬ (1024 ≤ c.arg 0 2 ∨ 64 ≤ c.arg 2 1 ∨ (!c.restZero 3) = true) := by simp [hz, hslot, hvar]
    refine ⟨fun h0 => hb.leaves (exec_progLoad h (some b) s) ((if_neg hform).trans (if_pos h0)),
      fun h0 hi => hb.leaves (exec_progLoad h (some b) s) ((if_neg hform).trans ((if_neg h0).trans (if_pos hi))),
      fun h0 hi => hb.leaves (exec_progLoad h (some b) s) ((if_neg hform).trans ((if_neg h0).trans (if_neg (by simp [hi]))))⟩
  case deadline =>
    intro s n g r hr mine hheld hg hq
    refine (exec_launchDeadline n s).trans ((whenRunning_next _ hr).trans (congrArg _ ?_))
    have hheld' : s.seed.held.find? (fun q => q.by_ == .request n && q.deadline.isSome) = none := hheld
    have hg' : (upTo 32).find? (fun k => (galOf s k).queue.any fun q => q.by_ == .request n && q.deadline.isSome) = some g := hg
    have hq' : (galOf s g).queue.find? (fun q => q.by_ == .request n && q.deadline.isSome) = some r := hq
    simp only [hheld', hg', hq']

/-! ## Dispatch -/

section
variable {s : State} {g : Nat} {r : LaunchRec} {q : List LaunchRec} {p : ProgSlot}

/-- The launch at the head of the queue of a gallery that is awake, not being zeroed, and holds no other partition's work. -/
theorem exec_galleryDispatch_head (hr : running s = true) (hq : (galOf s g).queue = r :: q) (hby : ∀ b, r.by_ ≠ .pool b)
    (ha : sleeps s (.gallery g) = false) (hz : (galOf s g).zeroFor = none) (hf : foreign s g r.part = false)
    (hp : progSlot s r.slot = some p) (hk : keyPart s r.pkey = some p.part) :
    exec (.galleryDispatch g) s = .next (
      if mustZero (galOf s g) r.part then (if mustZero (galOf s g) r.part && galIdle s g then beginZero g r.part s else s)
      else
        let pips := (freePips s g).take p.image.pips
        let text := if (galOf s g).texts.any (fun y => y.slot == r.slot && y.version == p.version) then 0 else ceilDiv p.image.textLen 4096
        let need := ceilDiv (p.image.dataLen + p.image.gsLen) 4096
        if pips.length < p.image.pips ∨ !(galOf s g).batches.isEmpty then s
        else
          let t := evictTexts g (text + need) p.version (galOf s g).texts.length s
          let free := openPages t g
          if free.length < text + need then s
          else placeHeld (dispatchAt g r p pips (free.take text) ((free.drop text).take need) (popQueue g t))) := by
  refine (exec_galleryDispatch g s).trans ((whenRunning_next _ hr).trans (congrArg _ ?_))
  simp only [hq, ha, hz, hf, Option.isSome_none, Bool.or_self, Bool.false_eq_true, if_false]
  cases hb : r.by_ with
  | pool b => exact absurd hb (hby b)
  | _ => simp only [hp, hk, ne_eq, not_true_eq_false, if_false]

end

/-! ## Zeroing -/

/-- The state in which the zeroing of gallery `g` for partition `p` has ended. -/
def zeroedGallery (g p : Nat) (s : State) : State :=
  let t := setGal g { galOf s g with zeroFor := none, resident := some p, needZero := false, texts := [] }
    (atTime ((galOf s g).zeroAt + 8000) s)
  { t with seed := { t.seed with
      pipMem := mzero t.seed.pipMem (g * 128 * 0x20000) (128 * 0x20000), galMem := mzero t.seed.galMem (g * 2 ^ 23) (2 ^ 23) } }

section
variable {s : State} {g p : Nat}

theorem galOf_zeroedGallery_self (hg : g < s.seed.gals.length) :
    galOf (zeroedGallery g p s) g = { galOf s g with zeroFor := none, resident := some p, needZero := false, texts := [] } := by
  refine Eq.trans (b := galOf (setGal g _ (atTime ((galOf s g).zeroAt + 8000) s)) g) rfl (galOf_setGal_self ?_ ?_ ?_)
  · rw [atTime_seed]
    exact hg
  · rw [galOf_atTime]
  · rw [galOf_atTime]

theorem galOf_zeroedGallery_ne {k : Nat} (h : k ≠ g) : galOf (zeroedGallery g p s) k = galOf s k :=
  Eq.trans (b := galOf (setGal g _ (atTime ((galOf s g).zeroAt + 8000) s)) k) rfl ((galOf_setGal_ne _ _ h).trans (galOf_atTime ..))

theorem galMem_zeroedGallery (a : Nat) (h : Memory.wf s.seed.galMem = true) :
    mget (zeroedGallery g p s).seed.galMem a = if a / 2 ^ 23 = g then 0 else mget s.seed.galMem a := by
  have hm : (zeroedGallery g p s).seed.galMem = mzero s.seed.galMem (g * 2 ^ 23) (2 ^ 23) := by
    simp only [zeroedGallery, setGal, atTime_seed]
  rw [hm, mget_mzero _ _ _ h]
  exact ite_congr (propext (by omega)) (fun _ => rfl) fun _ => rfl

theorem pipMem_zeroedGallery (a : Nat) (h : Memory.wf s.seed.pipMem = true) :
    mget (zeroedGallery g p s).seed.pipMem a = if a / (128 * 0x20000) = g then 0 else mget s.seed.pipMem a := by
  have hm : (zeroedGallery g p s).seed.pipMem = mzero s.seed.pipMem (g * 128 * 0x20000) (128 * 0x20000) := by
    simp only [zeroedGallery, setGal, atTime_seed]
  rw [hm, mget_mzero _ _ _ h]
  exact ite_congr (propext (by omega)) (fun _ => rfl) fun _ => rfl

end

/-! ## The end of instances -/

theorem instTell_quiet {s : State} {n : Nat} {i : Inst} (hi : tget s.seed.insts n = some i) (h : i.fault = none) : instTell n s = s := by
  simp only [instTell, hi, h]

theorem instTell_told {s : State} {n : Nat} {i : Inst} {f : FaultInfo} (hi : tget s.seed.insts n = some i) (hf : i.fault = some f)
    (ht : f.told = true) : instTell n s = s := by
  simp only [instTell, hi, hf, ht, if_true]

/-- The first telling of a fault where no collective launched what runs. -/
theorem instTell_untold {s : State} {n : Nat} {i : Inst} {f : FaultInfo} (hi : tget s.seed.insts n = some i) (hf : i.fault = some f)
    (ht : f.told = false) (he : i.launch.early = false) (hc : ∀ c, i.launch.by_ ≠ .col c) :
    instTell n s = sfaultRec n i f (launchFault i f.status
      (launchEnd i.launch f.status 0 3 (setInst n { i with fault := some { f with told := true } } s))) := by
  simp only [instTell, hi, hf, ht, he, Bool.false_eq_true, if_false]

/-- What is left after a fault is freed once the requests under way are answered. -/
theorem instEnd_faulted {s : State} {n : Nat} {j : Inst} (hj : tget (instTell n s).seed.insts n = some j) (hf : j.fault.isSome = true)
    (hc : ∀ c, j.launch.by_ ≠ .col c) :
    instEnd n s = if instQuiet (instTell n s) j then instFree n j (instTell n s) else instTell n s := by
  simp only [instEnd, hj, hf, if_true]
  cases instQuiet (instTell n s) j with
  | false => rfl
  | true =>
    cases hb : j.launch.by_ with
    | col c => exact absurd hb (hc c)
    | _ => rfl

/-- When all the strands have halted, what was launched ends with its result. -/
theorem instEnd_halted {s : State} {n : Nat} {i : Inst} (hi : tget s.seed.insts n = some i) (hq : instQuiet s i = true)
    (hf : i.fault = none) (hh : instHalted s i = true) (hc : ∀ c, i.launch.by_ ≠ .col c) (he : i.launch.early = false) :
    instEnd n s = launchEnd i.launch stOK i.result.toNat 3 (instFree n i s) := by
  simp only [instEnd, instTell_quiet hi hf, hi, hq, hf, hh, runDrained, Option.isSome_none, Bool.not_true, Bool.false_eq_true, if_false]
  cases hb : i.launch.by_ with
  | col c => exact absurd hb (hc c)
  | _ => simp [he]

theorem instEnd_busy {s : State} {n : Nat} {i : Inst} (hi : tget s.seed.insts n = some i) (hq : instQuiet s i = false)
    (hf : i.fault = none) : instEnd n s = s := by
  simp only [instEnd, instTell_quiet hi hf, hi, hq, Bool.not_false, if_true]

/-- Settles O38: the dispatch of the head of a queue, the zeroing of a gallery's stores, and the ends of instances. -/
theorem instancesEndOnce : Obligations.InstancesEndOnce := by
  unfold Obligations.InstancesEndOnce
  refine ⟨?dispatch, ?zeroed, ?ends, ?limit⟩
  case dispatch =>
    intro s g r q p hr hq hby ha hz hf hp hk x pips text need t free
    have hgo := exec_galleryDispatch_head hr hq hby ha hz hf hp hk
    refine ⟨fun hm hi => hgo.trans (congrArg _ ?_), fun hm hb hpips hpages => hgo.trans (congrArg _ ?_),
      fun hm hfew => hgo.trans (congrArg _ ?_)⟩
    · refine (if_pos hm).trans (if_pos ?_)
      rw [hi, show mustZero (galOf s g) r.part = true from hm]
      rfl
    · refine (if_neg (ne_true_of_eq_false hm)).trans ((if_neg ?_).trans (if_neg (Nat.not_lt.mpr hpages)))
      rw [show (galOf s g).batches = [] from hb]
      exact not_or.mpr ⟨Nat.not_lt.mpr hpips, Bool.false_ne_true⟩
    · exact (if_neg (ne_true_of_eq_false hm)).trans (if_pos (hfew.imp_right fun h => by simpa using h))
  case zeroed =>
    intro s g p hr hg hz hlen hwg hwp
    have hgo := (exec_galleryZeroingDone g s).trans (whenRunning_next _ hr)
    simp only [hz] at hgo
    refine ⟨zeroedGallery g p s, hgo, ?_, fun k hk => ?_, fun a => ?_, fun a => ?_⟩
    · exact galOf_zeroedGallery_self (by rw [hlen]; exact hg)
    · exact galOf_zeroedGallery_ne hk
    · exact galMem_zeroedGallery a hwg
    · exact pipMem_zeroedGallery a hwp
  case ends =>
    intro s n i hr hi
    have hgo : exec (.instanceEnd n) s = .next (instEnd n s) := (exec_instanceEnd n s).trans (whenRunning_next _ hr)
    refine ⟨fun hq hf hh hc he => hgo.trans (congrArg _ (instEnd_halted hi hq hf hh hc he)),
      fun f hf ht he hc u j hu hj hjf hjl => hgo.trans (congrArg _ ?_), fun f hf ht hc => hgo.trans (congrArg _ ?_),
      fun hq hf => hgo.trans (congrArg _ (instEnd_busy hi hq hf))⟩
    · have htell : instTell n s = u := (instTell_untold hi hf ht he hc).trans hu.symm
      have hend := instEnd_faulted (n := n) (s := s) (by rw [htell]; exact hj) (by rw [hjf]; rfl) (by rw [hjl]; exact hc)
      rwa [htell] at hend
    · have htell := instTell_told hi hf ht
      have hend := instEnd_faulted (n := n) (s := s) (by rw [htell]; exact hi) (by rw [hf]; rfl) hc
      rwa [htell] at hend
  case limit =>
    intro s n i hr hi hf
    refine (exec_instanceTimeLimit n s).trans ((whenRunning_next _ hr).trans (congrArg _ ?_))
    simp only [hi, hf, Option.isSome_none, Bool.false_eq_true, if_false]

end Sys2Proof.Claims
end


section
/-! PROOFS. The frames of a collective, and the timed steps, commands and slots that open and close its runs. -/
namespace Sys2Proof.Claims

open Sys2Proof.Machine Sys2Proof.Safety

/-- A frame of a collective that is taken is acted on. -/
theorem TakesCol.colTakeFrame_next {s : State} {id opc : Nat} {i : Inbox} (h : TakesCol s id opc i)
    {act : Frame → Nat → State → State} : colTakeFrame id opc act s = .next (act i.frame i.port (takeInbox id s)) := by
  obtain ⟨hr, hi, ho, hh, hd⟩ := h
  exact Machine.colTakeFrame_next hr hi ho hh hd

/-! ## Segments, partials and results -/

section
variable {t : State} {c port : Nat} {x : ColCtx} {f : Frame}

/-- A frame of the present run of a running context is looked up among its senders (R201). -/
theorem colFrame_current (hc : c = f.offset % 8192) (hx : tget t.col.ctx c = some x) (ha : colAllowed t f = true) (h3 : colState t c = 3)
    (hr : bitsOf f.offset 47 1 = rget t R.COL_CTX_RP c) :
    colFrame f port t = match colSender x.record f with
      | none => faultRec f stIllegal 0 port 0 (rbump R.COL_UNGRANTED_COUNT 0 t)
      | some (ch, key, idx) =>
        if (tgetD x.senders key ⟨0, none, 0, false⟩).credit = 0 then faultRec f stIllegal 0 port 0 (rbump R.COL_UNGRANTED_COUNT 0 t)
        else match colItems x.record ch f with
          | none => colAbort c 5 (nodeSelf (spendCredit c key (bitAt f.offset 45) t)) none (spendCredit c key (bitAt f.offset 45) t)
          | some (items, rep) => colDeliver c ch idx items rep (if f.opc = 0xC1 then none else some (bitsOf f.offset 13 32))
            (spendCredit c key (bitAt f.offset 45) t) := by
  subst hc
  have hnow : ¬ (colState t (colNum f) ≠ 3 ∨ colRp f ≠ rget t R.COL_CTX_RP (colNum f)) := by
    rintro (h | h)
    · exact h h3
    · exact h hr
  refine (if_neg (by simp [ha])).trans ((if_neg hnow).trans ?_)
  rw [show tget t.col.ctx (colNum f) = some x from hx]
  rfl

theorem colFrame_denied (ha : ¬ colAllowed t f = true) : colFrame f port t = faultRec f stDenied 0 port 0 t :=
  if_pos (by simpa using ha)

theorem colFrame_stale (hc : c = f.offset % 8192) (ha : colAllowed t f = true)
    (h : ¬ (colState t c = 3 ∧ bitsOf f.offset 47 1 = rget t R.COL_CTX_RP c)) : colFrame f port t = rbump R.COL_STALE_COUNT 0 t := by
  subst hc
  exact (if_neg (by simp [ha])).trans (if_pos (not_and_or.mp h))

end

/-- Settles O39: the checks of a data frame in their order, and the grants and aborts of a run. -/
theorem collectiveFramesAdvanceSegments : Obligations.CollectiveFramesAdvanceSegments := by
  unfold Obligations.CollectiveFramesAdvanceSegments
  intro s id opc i h f t
  refine ⟨?data, ?grant, ?abort⟩
  case data =>
    intro k c x hk hc hx allowed current
    have hgo : exec k s = .next (colFrame f i.port t) := by
      simp only [List.mem_cons, Prod.mk.injEq, List.not_mem_nil, or_false] at hk
      rcases hk with ⟨rfl, rfl⟩ | ⟨rfl, rfl⟩ | ⟨rfl, rfl⟩
      · exact (exec_colSeg id s).trans h.colTakeFrame_next
      · exact (exec_colPart id s).trans h.colTakeFrame_next
      · exact (exec_colResult id s).trans h.colTakeFrame_next
    have hopc : f.opc = opc := by
      obtain ⟨-, -, ho, -⟩ := h
      exact ho
    have hnow : allowed → current → _ := fun ha hcur => hgo.trans (congrArg _ (colFrame_current hc hx ha hcur.1 hcur.2))
    refine ⟨fun ha => hgo.trans (congrArg _ (colFrame_denied ha)), fun ha hcur => hgo.trans (congrArg _ (colFrame_stale hc ha hcur)),
      fun ha hcur hs => (hnow ha hcur).trans (congrArg _ (by rw [hs])), ?sent⟩
    intro ch key idx ha hcur hs credit u
    refine ⟨fun h0 => (hnow ha hcur).trans (congrArg _ ?_), fun h0 hi => (hnow ha hcur).trans (congrArg _ ?_),
      fun items rep h0 hi => (hnow ha hcur).trans (congrArg _ ?_)⟩ <;> simp only [hs]
    · exact if_pos h0
    · exact (if_neg h0).trans (by rw [hi])
    · exact (if_neg h0).trans (by rw [hi, hopc])
  case grant =>
    intro c x w rp count key snd ho hc hx hrp h3 hcount hnear
    subst ho hc
    refine (exec_colGrant id s).trans (h.colTakeFrame_next.trans (congrArg _ ?_))
    have hn : ((!x.record.isRoot && f.src == x.record.parent) || x.record.children.any (·.node == f.src)) = true := by
      rcases hnear with ⟨h1, h2⟩ | h1
      · simp [h1, h2]
      · simp [h1]
    have hcur : (rp == rget t R.COL_CTX_RP (w % 8192)) = true := by simpa using hrp
    have hx' : tget (takeInbox id s).col.ctx (leAt i.frame.payload 0 2 % 8192) = some x := hx
    simp only [hx']
    have hgo : ¬ ((!((!x.record.isRoot && f.src == x.record.parent) || x.record.children.any (·.node == f.src)) || count == 0 ||
        rp == rget t R.COL_CTX_RP (w % 8192) && colState t (w % 8192) != 3) = true) := by
      simp [hn, hcount, h3]
    exact (if_neg hgo).trans (if_pos hcur)
  case abort =>
    intro c x w near ho hc hx
    subst ho hc
    have hgo := (exec_colAbort id s).trans h.colTakeFrame_next
    refine ⟨fun hcur => ?_, fun hcur => hgo.trans (congrArg _ (if_pos ?_))⟩
    · have hrun : ¬ ((!colRuns t (w % 8192) || w / 32768 != rget t R.COL_CTX_RP (w % 8192)) = true) := by
        simp [hcur.1, hcur.2]
      have hx' : tget (takeInbox id s).col.ctx (leAt i.frame.payload 0 2 % 8192) = some x := hx
      refine ⟨fun hnear => hgo.trans (congrArg _ ((if_neg hrun).trans ?_)),
        fun hnear hnode => hgo.trans (congrArg _ ((if_neg hrun).trans ?_))⟩ <;>
        simp only [hx']
      · exact if_pos hnear
      · exact (if_neg (ne_true_of_eq_false hnear)).trans (if_pos hnode)
    · by_contra hno
      simp only [Bool.or_eq_true, Bool.not_eq_true', bne_iff_ne, ne_eq, not_or, not_not, Bool.not_eq_false] at hno
      exact hcur hno

/-! ## Runs and timetables -/

/-- Settles O40: each timed step, command and slot start by its conditions. -/
theorem collectiveRunsOpenAndClose : Obligations.CollectiveRunsOpenAndClose := by
  unfold Obligations.CollectiveRunsOpenAndClose
  refine ⟨?progress, ?rearm, ?straggler, ?opened, ?closed, ?aborted, ?timetable, ?slot⟩
  case progress =>
    intro s c x hr hx h3 t
    refine (exec_colNoProgress c s).trans ((whenRunning_next _ hr).trans (congrArg _ ?_))
    simp only [hx]
    exact if_neg (not_not_intro h3)
  case rearm =>
    intro s c x hr hx h4 hi hq
    refine (exec_colRearm c s).trans ((whenRunning_next _ hr).trans (congrArg _ ?_))
    simp only [hx]
    exact if_neg (by simp [h4, hi, hq])
  case straggler =>
    intro s c k x y hr hx hy h3 hk ht hl
    refine (exec_straggler c k s).trans ((whenRunning_next _ hr).trans (congrArg _ ?_))
    simp only [hx, hy]
    refine (if_neg ?_).trans (if_pos hl)
    rintro (h | h | h)
    · exact h h3
    · omega
    · exact absurd h (ne_true_of_eq_false ht)
  case opened =>
    intro s h c rest t b hb hl hz hs
    exact hb.leaves (exec_colOpen h (some b) s) (if_neg (by simp [hl, hz, hs]))
  case closed =>
    intro s h c rest t hb hn hz
    exact hb.leaves (exec_colClose h s) (if_neg (by simp [hz, hn]))
  case aborted =>
    intro s h c rest t hb hn hz
    refine ⟨fun hrun => hb.leaves (exec_hostCommandColAbort h s) ((if_neg (by simp [hz, hn])).trans ?_),
      fun hrun => hb.leaves (exec_hostCommandColAbort h s) ((if_neg (by simp [hz, hn])).trans ?_)⟩
    · simp only [hrun, if_true]
      rfl
    · simp only [hrun, Bool.false_eq_true, if_false]
      rfl
  case timetable =>
    intro s h c rest t b hb hz hl
    have hform : ¬ ((!c.restZero 0) = true) := by simp [hz]
    refine ⟨fun x hx ho => hb.leaves (exec_ttLoad h (some b) s) ((if_neg hform).trans ((if_neg hl).trans ?_)),
      fun x hx ho => hb.leaves (exec_ttLoad h (some b) s) ((if_neg hform).trans ((if_neg hl).trans ?_)),
      fun hx => hb.leaves (exec_ttLoad h (some b) s) ((if_neg hform).trans ((if_neg hl).trans ?_))⟩ <;> simp only [hx]
    · exact if_neg (ne_true_of_eq_false ho)
    · exact if_pos ho
  case slot =>
    intro s slot hr htt hn hd t u
    refine (exec_slotStart slot s).trans ((whenRunning_next _ hr).trans (congrArg _ (if_neg ?_)))
    rintro (h | h | h)
    · simp [htt] at h
    · omega
    · omega

end Sys2Proof.Claims
end


section
/-! PROOFS. The requests of the tables: each is its action on what `ServesTable` has checked. -/
namespace Sys2Proof.Claims

open Sys2Proof.Machine Sys2Proof.Safety

/-- A table request that passes the shared checks does what its action says. -/
theorem ServesTable.serveTable_next {s t : State} {id opc n tb : Nat} {f : Frame} (h : ServesTable s id opc n tb f t)
    {fail : Nat → Bool → Frame → Nat → State → State} {act : Nat → Frame → Nat → State → State} :
    serveTable id opc fail act s = .next (act n f tb t) := by
  obtain ⟨i, hs, hop, hd, hl, rfl, htb, hst⟩ := h
  refine (hs.serve_next (by rw [hop]; exact beq_self_eq_true _)).trans (congrArg _ ?_)
  refine (if_neg (by simp [hd])).trans ((if_neg (by omega)).trans ?_)
  rw [hst]

/-- The same, for a command that is nothing else. -/
theorem ServesTable.exec_next {s t : State} {id opc n tb : Nat} {f : Frame} (h : ServesTable s id opc n tb f t) {c : Instr}
    {fail : Nat → Bool → Frame → Nat → State → State} {act : Nat → Frame → Nat → State → State} {u : State}
    (hc : exec c s = serveTable id opc fail act s) (hu : act n f tb t = u) : exec c s = .next u :=
  hc.trans (h.serveTable_next.trans (congrArg _ hu))

/-! ## Gather batches -/

section
variable {s t : State} {id n tb : Nat} {f : Frame}

theorem exec_gatherBatch_room (hroom : s.tbl.batches.length < 1024) (h : ServesTable s id 0x20 n tb f t) :
    exec (.gatherBatch id) s = .next (match batchStatus t f tb with
      | some st => imageRefuse n true f st t
      | none => batchAccept n f tb t) :=
  (exec_gatherBatch id s).trans ((if_neg (Nat.not_le.mpr hroom)).trans h.serveTable_next)

end

/-! ## Forms -/

/-- The form of `SCATTER_ADD` (R250), as its refusal states it and as the statement does. -/
theorem scatterForm_iff (l a b c d e r : Nat) :
    (l < 32 ∨ a = 0 ∨ 9 < a ∨ 16 ≤ b ∨ 6 ≤ b % 8 ∨ c = 0 ∨ d ≠ 0 ∨ e = 0 ∨ l ≠ r) ↔
      ¬ (32 ≤ l ∧ 1 ≤ a ∧ a ≤ 9 ∧ b < 16 ∧ b % 8 < 6 ∧ c ≠ 0 ∧ d = 0 ∧ e ≠ 0 ∧ l = r) := by
  omega

/-- The form of `TABLE_PIN` (R247). -/
theorem pinForm_iff (l a b : Nat) : (l ≠ 8 ∨ a ≠ 0 ∨ b = 0 ∨ 60000 < b) ↔ ¬ (l = 8 ∧ a = 0 ∧ 1 ≤ b ∧ b ≤ 60000) := by
  omega

/-- Settles O41: each table request by its form and by what it finds in the table. -/
theorem tableRequestsAnswer : Obligations.TableRequestsAnswer := by
  unfold Obligations.TableRequestsAnswer
  intro s id n tb f t p g
  refine ⟨fun h hroom hst => (exec_gatherBatch_room hroom h).trans (by rw [hst]),
    fun st h hroom hst => (exec_gatherBatch_room hroom h).trans (by rw [hst]),
    fun hfull hr => (exec_gatherBatch id s).trans ((if_pos hfull).trans (whenRunning_next _ hr)), ?put, ?add, ?filter, ?pin, ?unpin⟩
  case put =>
    intro h formed
    refine ⟨fun hf => h.exec_next (exec_rowPut id s) (if_neg ?_), fun hf => h.exec_next (exec_rowPut id s) (if_pos ?_)⟩
    · exact fun hbad => by rcases hbad with h1 | h1 | h1 <;> [exact h1 hf.1; exact h1 hf.2.1; exact h1 hf.2.2]
    · exact (not_and_or.mp hf).imp_right not_and_or.mp
  case add =>
    intro h w formed
    exact ⟨fun hf => h.exec_next (exec_scatterAdd id s) (if_neg fun hbad => (scatterForm_iff ..).mp hbad hf),
      fun hf => h.exec_next (exec_scatterAdd id s) (if_pos ((scatterForm_iff ..).mpr hf))⟩
  case filter =>
    intro h hw ver rows slots u stale scan none_ pairs row image
    have hex := exec_filterTopk id s
    rw [execFilterTopk, hw] at hex
    have formed (hf : filterForm t g tb p = true) : ¬ ((!filterForm t (geoOf t tb) tb f.payload) = true) := by
      rw [show filterForm t (geoOf t tb) tb f.payload = true from hf]
      exact Bool.false_ne_true
    have live (hl : regionLive t tb = true) : ¬ ((!regionLive t tb) = true) := by
      rw [hl]
      exact Bool.false_ne_true
    refine ⟨fun hf => h.exec_next hex ?_, fun hf hl => h.exec_next hex ?_, fun hf hl hb => h.exec_next hex ?_,
      fun hf hl hb hs => h.exec_next hex ?_, fun hf hl hb hs => h.exec_next hex ?_⟩
    · exact if_pos (by rw [show filterForm t (geoOf t tb) tb f.payload = false from hf]; rfl)
    · exact (if_neg (formed hf)).trans (if_pos (by rw [hl]; rfl))
    · exact (if_neg (formed hf)).trans ((if_neg (live hl)).trans (if_pos hb))
    · exact (if_neg (formed hf)).trans ((if_neg (live hl)).trans ((if_neg (ne_true_of_eq_false hb)).trans (if_pos hs)))
    · exact (if_neg (formed hf)).trans ((if_neg (live hl)).trans ((if_neg (ne_true_of_eq_false hb)).trans
        ((if_neg (ne_true_of_eq_false hs)).trans rfl)))
  case pin =>
    intro h formed v x till mine
    have hform : formed → ¬ (f.payload.length ≠ 8 ∨ leAt f.payload 2 2 ≠ 0 ∨ leAt f.payload 4 4 = 0 ∨ 60000 < leAt f.payload 4 4) :=
      fun hf hbad => (pinForm_iff ..).mp hbad hf
    refine ⟨fun hf hm => h.exec_next (exec_tablePin id s) ((if_neg (hform hf)).trans (if_pos hm)),
      fun hf hm hr he => h.exec_next (exec_tablePin id s) ((if_neg (hform hf)).trans ((if_neg (ne_true_of_eq_false hm)).trans (if_neg ?_))),
      fun hf hm hno => h.exec_next (exec_tablePin id s) ((if_neg (hform hf)).trans ((if_neg (ne_true_of_eq_false hm)).trans (if_pos ?_))),
      fun hf => h.exec_next (exec_tablePin id s) (if_pos ((pinForm_iff ..).mpr hf))⟩
    · exact not_or.mpr ⟨by rw [show pinRoom t tb (liveVer t tb) = true from hr]; exact Bool.false_ne_true, Nat.not_le.mpr he⟩
    · exact hno.imp_left fun h0 => by rw [show pinRoom t tb (liveVer t tb) = false from h0]; rfl
  case unpin =>
    intro h formed
    refine ⟨fun hf => h.exec_next (exec_tableUnpin id s) (if_neg ?_), fun hf => h.exec_next (exec_tableUnpin id s) (if_pos ?_)⟩
    · exact not_or.mpr ⟨not_not_intro hf.1, not_not_intro hf.2⟩
    · exact not_and_or.mp hf

end Sys2Proof.Claims
end


section
/-! PROOFS. The timed steps of the tables: directories and rows of a batch, the writes of a table, holds and slots, and the
cutover to ready. -/
namespace Sys2Proof.Claims

open Sys2Proof.Machine Sys2Proof.Safety

/-! ## Batches -/

section
variable {s : State} {b : Nat} {y : Batch}

/-- A batch whose indices are in takes its arrays. -/
theorem exec_gatherDirectoryDone_in (hr : running s = true) (hy : tget (poolPass s).tbl.batches b = some y) (hf : y.fetching = false)
    (hi : ((enum' y.shares).any fun p => !p.2.started && !waitsOwn (poolPass s) b p.1) = false) :
    exec (.gatherDirectoryDone b) s = .next (match batchArrays y with
      | none => poolPass s
      | some (.error st) => batchFail b st (poolPass s)
      | some (.ok (starts, indices)) => batchDirectory b { y with starts := starts, indices := indices } (poolPass s)) := by
  refine (exec_gatherDirectoryDone b s).trans ((whenRunning_next _ hr).trans (congrArg _ ?_))
  simp only [hy, hf, hi, Bool.false_eq_true, if_false] <;> rfl

end

/-! ## Writes -/

section
variable {s : State} {tb : Nat} {w : TWrite} {rest : List TWrite}

/-- The first write of a table whose rows are under way goes by their answers (R248). -/
theorem exec_rowFlip_writing (hr : running s = true) (hw : (tblOf (scatterWrite tb (poolPass s)) tb).writes = w :: rest)
    (hp : w.phase = 2) :
    exec (.rowFlip tb) s = .next (match ioStatus w with
      | none => scatterWrite tb (poolPass s)
      | some st =>
        if st ≠ stOK then scatterWrite tb (startWrites tb rest.length (endWrite tb st [] 0 (scatterWrite tb (poolPass s))))
        else if !regionLive (scatterWrite tb (poolPass s)) tb then
          scatterWrite tb (startWrites tb rest.length (endWrite tb stRevoked [] 0 (scatterWrite tb (poolPass s))))
        else scatterWrite tb (startWrites tb rest.length (endWrite tb stOK
          (toLE 8 (liveVer (flipRows tb w.rows (scatterWrite tb (poolPass s))) tb)) 0
          (flipRows tb w.rows (scatterWrite tb (poolPass s)))))) := by
  refine (exec_rowFlip tb s).trans ((whenRunning_next _ hr).trans (congrArg _ ?_))
  simp only [hw, hp, ne_eq, not_true_eq_false, if_false] <;> rfl

end

/-! ## Cutover -/

/-- A table that is valid, not ready and running places its directory, clears its lines and zeroes its area, in this order. -/
theorem exec_tableReady_valid {s : State} {tb : Nat} (hr : running s = true) (hv : rbit s R.TBL_VALID tb = true)
    (hn : rbit s R.TBL_STATUS_READY tb = false) (ht : thas s.tbl.run tb = true) :
    exec (.tableReady tb) s = .next (
      let d := dirRegion fun f => rget s f tb
      let t := clearStale (fun g => decide (d.1 ≤ g.line) && decide (g.line < d.2)) (atTime (tblOf s tb).zeroEnd s)
      if !dirPlaced s tb then placeDir tb s
      else if !linesQuiet s d.1 (d.2 - d.1) true then askLines d.1 (d.2 - d.1) true s
      else rset R.TBL_STATUS_READY tb 1 { t with pool := { t.pool with mem := mzero t.pool.mem d.1 (d.2 - d.1) } }) := by
  refine (exec_tableReady tb s).trans ((whenRunning_next _ hr).trans (congrArg _ (if_neg ?_)))
  simp [hv, hn, ht]

/-- Settles O42: each timed step by what the batch, the write, the hold, the slot or the table has come to. -/
theorem tableTimesEndHolds : Obligations.TableTimesEndHolds := by
  unfold Obligations.TableTimesEndHolds
  intro s hr
  refine ⟨?directory, ?row, ?ended, ?late, ?flip, ?hold, ?slot, ?ready⟩
  case directory =>
    intro b y st t hy hf hi
    have hgo := exec_gatherDirectoryDone_in hr hy hf hi
    exact ⟨fun ha => hgo.trans (by rw [ha]), fun starts indices ha => hgo.trans (by rw [ha])⟩
  case row =>
    intro b share row y id g st bytes t hy hf hg
    have hgo := (exec_gatherRowFetch b share row s).trans (whenRunning_next _ hr)
    have hy' : tget (poolPass s).tbl.batches b = some y := hy
    simp only [hy', hf, hg, Option.getD_some] at hgo
    exact ⟨fun hst => hgo.trans (congrArg _ (if_pos hst)), fun hst => hgo.trans (congrArg _ (if_neg (not_not_intro hst)))⟩
  case ended =>
    intro b y hy hf he hs image
    have hopen : ¬ ((!y.fetching) = true ∨ (!y.fetch.isEmpty) = true ∨ y.shares.any (fun x => !x.rounds.isEmpty) = true) := by
      simp only [hf, he, Bool.not_true, List.isEmpty_nil, Bool.false_eq_true, false_or, List.any_eq_true, not_exists, not_and]
      intro x hx hx'
      simp [List.all_eq_true.mp hs x hx] at hx'
    have hgo := (exec_gatherBatchEnd b s).trans (whenRunning_next _ hr)
    simp only [hy] at hgo
    exact ⟨_, hgo.trans (congrArg _ (if_neg hopen))⟩
  case late =>
    intro b y hy
    refine (exec_gatherBatchDeadline b s).trans ((whenRunning_next _ hr).trans (congrArg _ ?_))
    simp only [hy]
  case flip =>
    intro tb w rest t next hw hp
    have hgo := exec_rowFlip_writing hr hw hp
    refine ⟨fun hi => hgo.trans (by rw [hi]), fun hi hl => hgo.trans ?_, fun hi hl => hgo.trans ?_⟩ <;> rw [hi]
    · exact congrArg _ ((if_neg (not_not_intro rfl)).trans (if_neg (by rw [hl]; exact Bool.false_ne_true)))
    · exact congrArg _ ((if_neg (not_not_intro rfl)).trans (if_pos (by rw [hl]; rfl)))
  case hold =>
    intro tb ver peer v m till hit hf
    refine (exec_pinHoldLapse tb ver peer s).trans ((whenRunning_next _ hr).trans (congrArg _ ?_))
    dsimp only
    split
    case h_1 heq =>
      cases heq.symm.trans hf
      rfl
    case h_2 hne => exact (hne _ _ _ hf).elim
  case slot =>
    intro tb slot u x hu hv he hh prev t rest
    refine (exec_tableSlotFree tb slot s).trans ((whenRunning_next _ hr).trans (congrArg _ ?_))
    have hu' : (tblOf s tb).superseded.find? (fun q => q.old == slot) = some u := hu
    simp only [hu']
    refine if_neg ?_
    rw [hv, hh]
    simpa using he
  case ready =>
    intro tb hv hn ht d t
    have hgo := exec_tableReady_valid hr hv hn ht
    refine ⟨fun hp => hgo.trans (congrArg _ (if_pos (by rw [hp]; rfl))), fun hp hq => hgo.trans (congrArg _ ((if_neg ?_).trans (if_pos ?_))),
      fun hp hq => hgo.trans (congrArg _ ((if_neg ?_).trans (if_neg ?_)))⟩
    · rw [hp]; exact Bool.false_ne_true
    · exact Bool.not_eq_true' _ ▸ hq
    · rw [hp]; exact Bool.false_ne_true
    · exact fun h => ne_true_of_eq_false (Bool.not_eq_true' _ ▸ h) hq

end Sys2Proof.Claims
end


section
/-! PROOFS. The steps of a weight-stream run, and the extents with their fences, drains, scrubs and leases. -/
namespace Sys2Proof.Claims

open Sys2Proof.Machine Sys2Proof.Safety

/-! ## Weight streams -/

section
variable {s : State} {id p : Nat} {i : Inbox} {x : Plan}

theorem exec_wsStoreAnswer_taken (hr : running s = true) (hi : tget s.hall.inbox id = some i)
    (hp : planOf s (fun x => i.port == 255 && isAnswer i.frame.cls && x.stores.contains i.frame.rsv) = some (p, x)) :
    exec (.wsStoreAnswer id) s = .next (
      let bad := decide (i.frame.status ≠ stOK) && !x.repeating
      planGo p (setPlan p { x with stores := x.stores.filter (· != i.frame.rsv)
                                   failed := if bad then some (x.failed.getD i.frame.status) else x.failed
                                   storeFail := if bad then some (x.storeFail.getD i.frame.status) else x.storeFail }
        (takeInbox id s))) := by
  refine (exec_wsStoreAnswer id s).trans ((whenRunning_next _ hr).trans (congrArg _ ?_))
  simp only [hi, hp]

theorem exec_wsFlagAnswer_taken (hr : running s = true) (hi : tget s.hall.inbox id = some i)
    (hp : planOf s (fun x => i.port == 255 && isAnswer i.frame.cls && x.flag == some i.frame.rsv) = some (p, x)) :
    exec (.wsFlagAnswer id) s = .next (
      if x.errSent then planEnd p x (takeInbox id s)
      else if x.repeating then planGo p (setPlan p { x with flag := none } (takeInbox id s))
      else if i.frame.status = stWithheld ∨ x.failed.isSome then planGo p (setPlan p
        { x with flag := none, failed := some (x.failed.getD (x.storeFail.getD stWithheld)) } (takeInbox id s))
      else planEnd p x (takeInbox id s)) := by
  refine (exec_wsFlagAnswer id s).trans ((whenRunning_next _ hr).trans (congrArg _ ?_))
  simp only [hi, hp]

end

/-- Settles O43: each step of a run by its state, and the answers to its stores and its flag. -/
theorem weightStreamsLeadAndCopy : Obligations.WeightStreamsLeadAndCopy := by
  unfold Obligations.WeightStreamsLeadAndCopy
  intro s hr
  refine ⟨?prefetch, ?plan, ?store, ?flag⟩
  case prefetch =>
    intro p k at_ hv h0 hn
    refine (exec_wsPrefetchPoint p s).trans ((whenRunning_next _ hr).trans (congrArg _ ((if_pos ⟨hv, h0⟩).trans ?_)))
    rw [hn]
  case plan =>
    intro p x hx
    have copied := (exec_wsCopyComplete p s).trans (whenRunning_next _ hr)
    have half := (exec_wsLevelHalfLead p s).trans (whenRunning_next _ hr)
    have late := (exec_weightLate p s).trans (whenRunning_next _ hr)
    simp only [hx] at copied half late
    refine ⟨fun h1 hc hf => copied.trans (congrArg _ (if_pos ⟨h1, hc, by rw [hf]; rfl⟩)),
      fun hc => copied.trans (congrArg _ (if_neg fun h => absurd h.2.1 (ne_true_of_eq_false hc))),
      fun k e hs h1 hl => ?_, fun hl => ?_, fun w hw => ?_,
      fun hw hf => late.trans (congrArg _ (if_pos ⟨Option.isSome_iff_ne_none.mpr hw, by rw [hf]; rfl⟩)),
      fun hno => late.trans (congrArg _ (if_neg ?_))⟩
    · simp only [hs] at half
      exact half.trans (congrArg _ (if_pos ⟨h1, hl⟩))
    · refine half.trans (congrArg _ ?_)
      cases x.slot with
      | none => rfl
      | some k => exact if_neg fun h => Nat.not_lt.mpr hl h.2
    · refine (exec_wsEscalate p s).trans ((whenRunning_next _ hr).trans (congrArg _ ?_))
      simp only [hx, hw]
    · rintro ⟨hw, hf⟩
      rcases hno with h | h
      · exact Option.isSome_iff_ne_none.mp hw h
      · rw [h] at hf
        exact Bool.false_ne_true hf
  case store =>
    intro id i p x hi hp left st
    have hgo := exec_wsStoreAnswer_taken hr hi hp
    refine ⟨fun hgood => ?_, fun hbad hrep => ?_⟩
    · have hb : (decide (i.frame.status ≠ stOK) && !x.repeating) = false := by
        rcases hgood with h | h
        · rw [show i.frame.status = stOK from h]; rfl
        · rw [h, Bool.not_true, Bool.and_false]
      simp only [hb, Bool.false_eq_true, if_false] at hgo
      exact hgo
    · have hb : (decide (i.frame.status ≠ stOK) && !x.repeating) = true := by
        rw [hrep, Bool.not_false, Bool.and_true]
        exact decide_eq_true hbad
      simp only [hb, if_true] at hgo
      exact hgo
  case flag =>
    intro id i p x hi hp t
    have hgo := exec_wsFlagAnswer_taken hr hi hp
    refine ⟨fun he => hgo.trans (congrArg _ (if_pos he)), fun he hrep hf hw => hgo.trans (congrArg _ ?_),
      fun he hrep hw => hgo.trans (congrArg _ ?_), fun he hrep => hgo.trans (congrArg _ ?_)⟩ <;>
      refine (if_neg (ne_true_of_eq_false he)).trans ?_
    · refine (if_neg (ne_true_of_eq_false hrep)).trans (if_neg ?_)
      rintro (h | h)
      · exact hw h
      · rw [hf] at h
        exact Bool.false_ne_true h
    · exact (if_neg (ne_true_of_eq_false hrep)).trans (if_pos (.inl hw))
    · exact if_pos hrep

/-! ## Extents -/

/-- Settles O44: each step of an extent by its state, and the leases by what their holder has. -/
theorem extentsStageGrants : Obligations.ExtentsStageGrants := by
  unfold Obligations.ExtentsStageGrants
  refine ⟨?grant, ?revoke, ?extent, ?renew, ?expiry⟩
  case grant =>
    intro s h c rest t hb
    exact ⟨fun hf => hb.leaves (exec_extGrant h s) (if_pos hf),
      fun hf => hb.leaves (exec_extGrant h s) (if_neg (ne_true_of_eq_false hf))⟩
  case revoke =>
    intro s h c rest t hb
    exact ⟨fun hz => hb.leaves (exec_extRevoke h s) (if_pos hz),
      fun hz => hb.leaves (exec_extRevoke h s) (if_neg (ne_true_of_eq_false hz))⟩
  case extent =>
    intro s e x hr hx
    have fence := (exec_fenceConfirmed e s).trans (whenRunning_next _ hr)
    have drain := (exec_drainDone e s).trans (whenRunning_next _ hr)
    have timeout := (exec_drainTimeout e s).trans (whenRunning_next _ hr)
    have scrub := (exec_scrubDone e s).trans (whenRunning_next _ hr)
    simp only [hx] at fence drain timeout scrub
    refine ⟨fun h2 => fence.trans (congrArg _ (if_neg (not_not_intro h2))), ?drained,
      fun h3 hl => drain.trans (congrArg _ (if_neg fun h => hl (List.isEmpty_iff.mp h.2))),
      fun h3 => timeout.trans (congrArg _ (if_neg (not_not_intro h3))),
      fun h4 => scrub.trans (congrArg _ (if_pos h4)), fun h2 => fence.trans (congrArg _ (if_pos h2)),
      fun h4 => scrub.trans (congrArg _ (if_neg h4))⟩
    intro h3 hl held
    have hover := drain.trans (congrArg _ (if_pos ⟨h3, List.isEmpty_iff.mpr hl⟩))
    refine ⟨fun hs => hover.trans (congrArg _ (if_pos hs)),
      fun hs hh => hover.trans (congrArg _ ((if_neg (ne_true_of_eq_false hs)).trans (if_pos (List.isEmpty_iff.mpr hh)))),
      fun hs hh => hover.trans (congrArg _ ((if_neg (ne_true_of_eq_false hs)).trans (if_neg fun h => hh (List.isEmpty_iff.mp h))))⟩
  case renew =>
    intro s id i h t now
    have hgo := (exec_leaseRenew id s).trans h.onCtl_next
    refine ⟨fun hl => ?_, fun k l hl h1 => ?_, fun k l hl h1 => ?_⟩ <;>
      simp only [show leaseOf (takeInbox id s) i.frame.src = _ from hl] at hgo
    · exact hgo
    · exact hgo.trans (congrArg _ (if_pos h1))
    · exact hgo.trans (congrArg _ (if_neg h1))
  case expiry =>
    intro s k l hr hl h1
    refine (exec_leaseExpiry k s).trans ((whenRunning_next _ hr).trans (congrArg _ ?_))
    simp only [hl]
    exact if_pos h1

end Sys2Proof.Claims
end


section
/-! PROOFS. The token-stream commands of a host, and the timed steps of a handoff. -/
namespace Sys2Proof.Claims

open Sys2Proof.Machine Sys2Proof.Safety

/-! ## Commands -/

section
variable {s t u : State} {h code : Nat} {buf : Option (List Byte)} {c : Cmd} {rest : List HostCmd} {x : StreamCtx}

/-- A stream command of the right form does what its action says. -/
theorem Streams.leaves (hs : Streams s h code buf c rest x t) {act : Cmd → StreamCtx → State → State} {k : Instr}
    (hk : exec k s = streamCmd h code buf act s) (hu : act c x t = u) : LeavesCmd k s h rest u := by
  obtain ⟨b, rfl, hb, hl, hz, hf, rfl⟩ := hs
  exact hb.leaves hk ((if_neg (by simp [hl, hz, hf])).trans hu)

/-- The same for a command whose list of blocks can be read now. -/
theorem Streams.leaves_list (hs : Streams s h code buf c rest x t) (hq : listBusy s h code x = false)
    {act : Cmd → StreamCtx → State → State} {k : Instr} (hk : exec k s = listCmd h code buf act s) (hu : act c x t = u) :
    LeavesCmd k s h rest u := by
  refine hs.leaves (hk.trans (if_neg ?_)) hu
  obtain ⟨b, rfl, -, -, -, -, rfl⟩ := hs
  exact ne_true_of_eq_false hq

/-- A command whose list may be modified elsewhere asks for its lines and stays. -/
theorem listCmd_busy (hr : running s = true) (hq : listBusy s h code (ctxOf (buf.getD [])) = true)
    {act : Cmd → StreamCtx → State → State} :
    listCmd h code buf act s =
      .next (askLines (addrOff (ctxOf (buf.getD [])).list) (8 * (ctxOf (buf.getD [])).nblocks) false s) :=
  (if_pos hq).trans (whenRunning_next _ hr)

/-- Nothing stands in the way of a list of no bytes at the beginning of the pool. -/
theorem linesQuiet_nothing (s : State) (write : Bool) : linesQuiet s 0 0 write = true := by
  simp [linesQuiet, engineTags]

theorem listBusy_nothing (s : State) (h code : Nat) : listBusy s h code (ctxOf []) = false := by
  have hq : linesQuiet s (addrOff (ctxOf []).list) (8 * (ctxOf []).nblocks) false = true := linesQuiet_nothing s false
  rw [listBusy, hq, Bool.not_true, Bool.and_false]

end

/-- A stream that has no context here gets one, in the lowest free number. -/
theorem newCtx_makes {s : State} {h n : Nat} {c : Cmd} {x : StreamCtx} {go : Nat → State → State} (hx : ctxBySid s x.sid = none)
    (hl : listStatus s x 0 = none) (hroom : s.pool.streams.length < 262144) (hn : lowestFree s.pool.streams 262144 = some n) :
    newCtx h c x go s = go n (mapCtx n 0 x (setCtx n { x with cmd := some (h, c.tag) } (beginB h c x.sid s))) := by
  simp only [newCtx, hx, hl, hn, Option.isSome_none, Bool.false_eq_true, if_false, if_neg (Nat.not_le.mpr hroom)]

theorem newCtx_known {s : State} {h : Nat} {c : Cmd} {x : StreamCtx} {go : Nat → State → State} {p : Nat × StreamCtx}
    (hx : ctxBySid s x.sid = some p) : newCtx h c x go s = completeWith h c stIllegal s :=
  if_pos (by rw [hx]; rfl)

/-- Settles O45: each command by whether its stream has a context here, and by the context's state. -/
theorem streamCommandsEditContexts : Obligations.StreamCommandsEditContexts := by
  unfold Obligations.StreamCommandsEditContexts
  intro s h buf c rest t
  refine ⟨?made, ?busy, ?unread, ?query⟩
  case made =>
    intro x makes made
    refine ⟨fun n hs hq hm => hs.leaves_list hq (exec_streamOpen h buf s) ?_, ?accept,
      ?takeover,
      fun hs hq hg => hs.leaves_list hq (exec_streamTakeover h buf s) (if_pos (by rw [hg]; rfl)), fun n y hy => ?known⟩
    · obtain ⟨h1, h2, h3, h4⟩ := hm
      exact newCtx_makes h1 h2 h3 h4
    case accept =>
      intro n y hs hq hm
      obtain ⟨h1, h2, h3, h4⟩ := hm
      exact hs.leaves_list hq (exec_streamAccept h buf s) (newCtx_makes h1 h2 h3 h4)
    case takeover =>
      intro n y hs hq hg hm
      obtain ⟨h1, h2, h3, h4⟩ := hm
      refine hs.leaves_list hq (exec_streamTakeover h buf s) ?_
      exact (if_neg (by rw [hg]; exact Bool.false_ne_true)).trans (newCtx_makes h1 h2 h3 h4)
    case known =>
      refine ⟨fun hs hq => hs.leaves_list hq (exec_streamOpen h buf s) (newCtx_known hy), ?grow, ?hand, ?handed, ?lost, ?owned, ?retired⟩
      case grow =>
        intro z hs hq h0 hn hp hl
        refine hs.leaves_list hq (exec_streamGrow h buf s) ?_
        have hl' : listStatus t { y with nblocks := x.nblocks, list := x.list } y.nblocks = none := hl
        simp only [hy, hl']
        exact if_neg (by simp [h0, hp, hn])
      case hand =>
        intro u hs h0
        refine hs.leaves (exec_streamHandoff h buf s) ?_
        simp only [hy]
        exact if_neg (not_not_intro h0)
      case handed =>
        intro hs h0
        refine hs.leaves (exec_streamHandoff h buf s) ?_
        simp only [hy]
        exact if_pos h0
      case lost =>
        intro hs h3
        refine hs.leaves (exec_streamClose h buf s) ?_
        simp only [hy]
        exact (if_neg (by omega)).trans (if_pos h3)
      case owned =>
        intro hs h4 h3
        refine hs.leaves (exec_streamClose h buf s) ?_
        simp only [hy]
        exact (if_neg h4).trans (if_neg h3)
      case retired =>
        intro hs h4
        refine hs.leaves (exec_streamClose h buf s) ?_
        simp only [hy]
        exact if_pos h4
  case busy =>
    intro i code hi hr x hq
    simp only [List.mem_cons, Prod.mk.injEq, List.not_mem_nil, or_false] at hi
    rcases hi with ⟨rfl, rfl⟩ | ⟨rfl, rfl⟩ | ⟨rfl, rfl⟩ | ⟨rfl, rfl⟩
    · exact (exec_streamOpen h buf s).trans (listCmd_busy hr hq)
    · exact (exec_streamGrow h buf s).trans (listCmd_busy hr hq)
    · exact (exec_streamAccept h buf s).trans (listCmd_busy hr hq)
    · exact (exec_streamTakeover h buf s).trans (listCmd_busy hr hq)
  case unread =>
    intro hb
    exact hb.leaves ((exec_streamOpen h none s).trans (if_neg (ne_true_of_eq_false (listBusy_nothing s h 0x28)))) rfl
  case query =>
    intro n x hb hx hl hz
    refine hb.leaves (exec_streamQuery h s) ?_
    simp only [hx]
    exact if_neg (by simp [hz, hl])

/-! ## The ledger -/

section
variable {s : State} {id n : Nat} {i : Inbox} {x : StreamCtx}

theorem exec_ledgerCasAnswer_taken (hr : running s = true) (hi : tget s.hall.inbox id = some i) (hp : i.port = 255)
    (ha : isAnswer i.frame.cls = true) (hx : tfind s.pool.streams (fun _ x => x.casId == some i.frame.rsv) = some (n, x)) :
    exec (.ledgerCasAnswer id) s = .next (casAnswer n x i.frame (takeInbox id s)) := by
  refine (exec_ledgerCasAnswer id s).trans ((whenRunning_next _ hr).trans (congrArg _ ?_))
  simp only [hi, hp, ha, hx, ne_eq, not_true_eq_false, Bool.not_true, Bool.false_eq_true, or_self, if_false]

theorem exec_streamPullAnswer_taken (hr : running s = true) (hi : tget s.hall.inbox id = some i) (hp : i.port = 255)
    (ha : isAnswer i.frame.cls = true) (hx : tfind s.pool.streams (fun _ x => x.pullId == some i.frame.rsv) = some (n, x))
    (h2 : x.lstate = 2) : exec (.streamPullAnswer id) s = .next (pullAnswer n x i.frame (takeInbox id s)) := by
  refine (exec_streamPullAnswer id s).trans ((whenRunning_next _ hr).trans (congrArg _ ?_))
  simp only [hi, hp, ha, hx, h2, ne_eq, not_true_eq_false, Bool.not_true, Bool.false_eq_true, or_self, if_false, if_true]

end

/-- Settles O46: the polls of the ledger, the outcomes of a `CAS` and of a pull, and the timeouts of a handoff. -/
theorem streamRunsKeepTheLedger : Obligations.StreamRunsKeepTheLedger := by
  unfold Obligations.StreamRunsKeepTheLedger
  intro s hr
  refine ⟨?read, ?poll, ?cas, ?pull, ?accept, (exec_ledgerRevertTick s).trans (whenRunning_next _ hr)⟩
  case read =>
    intro n x k hx hk
    have hgo := (exec_ledgerPoll n s).trans (whenRunning_next _ hr)
    simp only [hx, hk] at hgo
    refine ⟨fun id i ha => hgo.trans (by rw [ha]), fun ha => hgo.trans (by rw [ha])⟩
  case poll =>
    intro n x hx hk
    have hgo := (exec_ledgerPoll n s).trans (whenRunning_next _ hr)
    simp only [hx, hk] at hgo
    refine ⟨fun hd hw => hgo.trans (congrArg _ (if_pos ⟨hd, by rw [hw]; rfl⟩)), fun hd hp h5 => hgo.trans (congrArg _ ?_)⟩
    refine (if_neg ?_).trans ((if_pos hp).trans (congrArg (fun v => readLedger n (atTime x.nextPoll v)) (if_neg ?_)))
    · rintro ⟨h1, h2⟩
      rcases hd with h | h
      · exact h h1
      · rw [h] at h2
        exact Bool.false_ne_true h2
    · rintro ⟨h1, h2⟩
      exact h5.elim (· h1) (· h2)
  case cas =>
    intro id i n x hi hp ha hx t u old
    have hgo := exec_ledgerCasAnswer_taken hr hi hp ha hx
    refine ⟨fun hst ht => hgo.trans (congrArg _ (if_pos ⟨hst, ht⟩)), fun hst => hgo.trans (congrArg _ ?_)⟩
    have hno : i.frame.status ≠ stNoAnswer := by
      rcases hst with h | h <;> rw [h] <;> decide
    have hgood : (i.frame.status == stOK || i.frame.status == stReplayed) = true := by
      rcases hst with h | h <;> rw [h] <;> rfl
    simp only [casAnswer, hno, hgood, false_and, if_false, Bool.true_and, if_true]
    rfl
  case pull =>
    intro id i n x hi hp ha hx h2 t u
    have hgo := exec_streamPullAnswer_taken hr hi hp ha hx h2
    refine ⟨fun h1 h0 => hgo.trans (congrArg _ ((if_pos h1).trans (if_pos h0))),
      fun h1 h0 => hgo.trans (congrArg _ ((if_pos h1).trans (if_neg h0))),
      fun h1 h0 hm => hgo.trans (congrArg _ ((if_neg h1).trans ((if_pos h0).trans (if_neg (ne_true_of_eq_false hm))))),
      fun h1 h0 hm => hgo.trans (congrArg _ ((if_neg h1).trans ((if_pos h0).trans (if_pos hm)))),
      fun h0 h1 => hgo.trans (congrArg _ ((if_neg ?_).trans ((if_neg (not_not_intro h0)).trans (if_pos h1))))⟩
    rw [h1]
    decide
  case accept =>
    intro n x hx
    have hgo := (exec_streamAcceptTimeout n s).trans (whenRunning_next _ hr)
    simp only [hx] at hgo
    exact ⟨fun hw => hgo.trans (congrArg _ (if_pos hw)), fun hw => hgo.trans (congrArg _ (if_neg hw))⟩

end Sys2Proof.Claims
end


section
/-! PROOFS. The states of a Molza port, and its capability words, flits, retries and lanes. -/
namespace Sys2Proof.Claims

open Sys2Proof.Machine Sys2Proof.Safety

/-! ## Training -/

/-- A `RESUME` on a port that recovers and has aligned again: a changed incarnation brings it down, another brings it back (R399). -/
theorem resumeIn_aligned {s : State} {port inc seq : Nat} (h6 : lstate s port = 6) (ha : (linkOf s port).aligned = true) :
    resumeIn port inc seq s = if (linkOf s port).peerInc.any (· != inc) then portDown port none s
      else pumpAll port (sendNak port (rset R.LINK_STATUS_LSTATE port (linkOf s port).former (setLink port
        { linkOf s port with peerInc := some inc, resume := none, aligned := false, nakAt := none, again := 0, stateSince := s.clk.now }
        s))) :=
  (if_neg (not_not_intro h6)).trans (if_neg (by rw [ha]; exact Bool.false_ne_true))

/-- Settles O47: each event of a port by the state that it is in. -/
theorem linkTrainingChangesState : Obligations.LinkTrainingChangesState := by
  unfold Obligations.LinkTrainingChangesState
  intro s port hr l
  refine ⟨?down, ?signal, ?up, ?prbs, ?full, ?aligning, ?recover, ?expiry, ?changed, ?same, ?gone, ?back⟩
  case down =>
    intro h0 hm
    refine ⟨(exec_portSignal port s).trans ((whenRunning_next _ hr).trans (congrArg _ (if_pos ⟨h0, hm⟩))),
      (exec_retrain port s).trans ((whenRunning_next _ hr).trans (congrArg _ ((if_pos h0).trans (if_pos hm)))), fun at_ ha => ?_⟩
    refine (exec_trainingRetry port s).trans ((whenRunning_next _ hr).trans (congrArg _ ?_))
    have ha' : (linkOf s port).retryAt = some at_ := ha
    simp only [ha']
    exact if_pos ⟨h0, hm⟩
  case signal =>
    exact fun h0 => (exec_portSignal port s).trans ((whenRunning_next _ hr).trans (congrArg _ (if_neg fun h => h0 h.1)))
  case up =>
    intro h45
    refine ⟨(exec_retrain port s).trans ((whenRunning_next _ hr).trans (congrArg _ ((if_neg (by omega)).trans (if_pos h45)))),
      fun he => (exec_alignmentLost port s).trans ((whenRunning_next _ hr).trans (congrArg _ ((if_pos h45).trans (if_neg (ne_true_of_eq_false he)))))⟩
  case prbs =>
    intro h1 hp
    have hgo (pass : Bool) := (exec_prbsCheckDone port pass s).trans (whenRunning_next _ hr)
    have hin : ¬ (lstate s port ≠ 1 ∨ (!(linkOf s port).prbs) = true) := by
      rintro (h | h)
      · exact h h1
      · rw [show (linkOf s port).prbs = true from hp] at h
        exact Bool.false_ne_true h
    refine ⟨(hgo true).trans (congrArg _ ((if_neg hin).trans (if_pos rfl))), ?_⟩
    intro t
    exact ⟨fun hn => (hgo false).trans (congrArg _ ((if_neg hin).trans ((if_neg Bool.false_ne_true).trans (if_neg (ne_true_of_eq_false hn))))),
      fun hn => (hgo false).trans (congrArg _ ((if_neg hin).trans ((if_neg Bool.false_ne_true).trans (if_pos hn))))⟩
  case full =>
    intro h1 hp
    have hin : ¬ (lstate s port ≠ 1 ∨ (linkOf s port).prbs = true) := by
      rintro (h | h)
      · exact h h1
      · exact absurd h (ne_true_of_eq_false hp)
    refine ⟨fun settings hs => ?_, ?_⟩
    · refine (exec_fullTrainingDone port settings s).trans ((whenRunning_next _ hr).trans (congrArg _ ((if_neg hin).trans ?_)))
      have hs' : (setLink port { linkOf s port with saved := enum' settings, usingSaved := false } s).boot.savedWant.contains port = true := hs
      simp only [hs', if_true]
      rfl
    · intro t
      exact (exec_trainingTimeout port s).trans ((whenRunning_next _ hr).trans (congrArg _ (if_neg hin)))
  case aligning =>
    intro h2
    exact ⟨(exec_pairAligned port s).trans ((whenRunning_next _ hr).trans (congrArg _ (if_pos h2))),
      (exec_alignmentLost port s).trans ((whenRunning_next _ hr).trans (congrArg _ ((if_neg (by omega)).trans (if_pos (.inl h2)))))⟩
  case recover =>
    intro h6 ha hres
    refine (exec_pairAligned port s).trans ((whenRunning_next _ hr).trans (congrArg _ ((if_neg (by omega)).trans ((if_pos ?_).trans ?_))))
    · exact ⟨h6, by rw [show (linkOf s port).aligned = false from ha]; rfl⟩
    · have hres' : (linkOf s port).resume = none := hres
      simp only [l, hres']
  case expiry =>
    exact fun h6 => (exec_holdUpExpiry port s).trans ((whenRunning_next _ hr).trans (congrArg _ (if_pos h6)))
  case changed =>
    intro inc seq h6 ha hinc h0
    refine (exec_resume port inc seq s).trans ((whenRunning_next _ hr).trans (congrArg _ ?_))
    rw [resumeIn_aligned h6 ha, if_pos hinc]
    exact if_neg fun h => by omega
  case same =>
    intro inc seq h6 ha hinc back u hu
    refine (exec_resume port inc seq s).trans ((whenRunning_next _ hr).trans (congrArg _ ?_))
    rw [resumeIn_aligned h6 ha, if_neg (ne_true_of_eq_false hinc)]
    exact if_pos ⟨h6, hu⟩
  case gone =>
    intro conn hc
    refine (exec_cabPresN conn true s).trans ((whenRunning_next _ hr).trans (congrArg _ ((if_pos rfl).trans ?_)))
    simp only [hc, if_true]
  case back =>
    exact fun conn => (exec_cabPresN conn false s).trans ((whenRunning_next _ hr).trans (congrArg _ (if_neg Bool.false_ne_true)))

/-! ## Flits and lanes -/

/-- A port in personality Molza that takes flits is in one of the states that do. -/
theorem flitIn_taken {s : State} {port : Nat} {b : List Byte} (he : isEth s port = false)
    (hst : lstate s port = 3 ∨ lstate s port = 4 ∨ lstate s port = 5) :
    flitIn port b s = if b.length == 256 && crc64 (b.take 248) == leAt b 248 8 && decide (leAt b 0 1 % 16 ≤ 4) then goodFlit port b s
      else sendNak port (codewordsLost port (rbump R.CRC_BAD_COUNT port s)) := by
  have hin : ¬ (isEth s port = true ∨ (!decide (lstate s port = 3 ∨ lstate s port = 4 ∨ lstate s port = 5 ∨
      (lstate s port = 6 ∧ (linkOf s port).aligned = true))) = true) := by
    rintro (h | h)
    · exact absurd h (ne_true_of_eq_false he)
    · simp only [Bool.not_eq_true', decide_eq_false_iff_not] at h
      omega
  refine (if_neg hin).trans (ite_congr rfl (fun _ => rfl) fun _ => if_neg ?_)
  omega

/-- A lane of the port itself whose window of errors is known. -/
theorem exec_laneSerWindow_used {s : State} {port lane ppm : Nat} (hr : running s = true) (hg : gangedAway s port = false)
    (hl : lane < laneCount s port) (hup : linkUp s port = true) (ha : bitAt (rxMask s port) lane = true)
    (h0 : rget s R.LANE_STATE (4 * port + lane) = 0) :
    exec (.laneSerWindow port lane ppm) s = .next (
      let t := rset R.LANE_SER_PPM (4 * port + lane) ppm (countCorrected port ppm s)
      let limit := rget s R.LINK_CFG_LANE_SER_PPM port
      if limit < ppm then dropLane port lane 1 0x03 (ppm * 100 / limit) t else t) := by
  refine (exec_laneSerWindow port lane ppm s).trans ((whenRunning_next _ hr).trans (congrArg _ ?_))
  have hin : ¬ (gangedAway s port = true ∨ laneCount s port ≤ lane) := by simp [hg, hl]
  simp only [if_neg hin, hup, ha, h0, Bool.and_self, if_true, true_and, Bool.not_true, Bool.false_eq_true, false_and, if_false]

/-- Settles O48: words, flits and lanes by the port's state and the lane's. -/
theorem linkFlitsKeepOrder : Obligations.LinkFlitsKeepOrder := by
  unfold Obligations.LinkFlitsKeepOrder
  intro s port hr l good
  refine ⟨?caps, ?idle, ?flit, ?replay, ?width, ?lane, ?again⟩
  case caps =>
    intro word h3 he t
    have hgo : exec (.caps port word) s = .next (tryUp port
        (if hopPort t port ∧ bitAt word 16 ∧ isInitiator t port ∧ l.hop.cur.isNone ∧ l.hop.offerAt.isNone then startOffer port t else t)) := by
      refine (exec_caps port word s).trans ((whenRunning_next _ hr).trans (congrArg _ (if_neg ?_)))
      rintro (h | h)
      · exact h h3
      · exact absurd h (ne_true_of_eq_false he)
    refine ⟨fun hno => hgo.trans (congrArg (fun v => Host.Outcome.next (tryUp port v)) (if_neg ?_)),
      fun h1 h2 h3 h4 h5 => hgo.trans (congrArg (fun v => Host.Outcome.next (tryUp port v)) (if_pos ?_))⟩
    · rintro ⟨h1, h2, -⟩
      exact hno.elim (absurd h1 ∘ ne_true_of_eq_false) (absurd h2 ∘ ne_true_of_eq_false)
    · exact ⟨h1, h2, h3, by rw [h4]; rfl, by rw [h5]; rfl⟩
  case idle =>
    exact fun word h3 => (exec_caps port word s).trans ((whenRunning_next _ hr).trans (congrArg _ (if_pos (.inl h3))))
  case flit =>
    intro b he hst
    have hgo := (exec_flitReceive port b s).trans ((whenRunning_next _ hr).trans (congrArg _ (flitIn_taken he hst)))
    refine ⟨fun hg => hgo.trans (congrArg _ (if_pos hg)), fun hg => hgo.trans (congrArg _ (if_neg (ne_true_of_eq_false hg))), fun hg h4 => ?_⟩
    have hlen : b.length = 256 := by
      have hg' : (b.length == 256 && crc64 (b.take 248) == leAt b 248 8 && decide (leAt b 0 1 % 16 ≤ 4)) = true := hg
      simp only [Bool.and_eq_true, beq_iff_eq] at hg'
      exact hg'.1.1
    refine (exec_tag port b s).trans ((whenRunning_next _ hr).trans (congrArg _ ((if_pos ⟨h4, hlen⟩).trans ?_)))
    exact (flitIn_taken he hst).trans (if_pos hg)
  case replay =>
    intro h held hh hst t
    refine (exec_replayTimeout port s).trans ((whenRunning_next _ hr).trans (congrArg _ ?_))
    have hh' : (linkOf s port).held = h :: held := hh
    simp only [hh']
    exact if_pos hst
  case width =>
    intro m hup hm failed
    have hin : ¬ ((!linkUp s port) = true ∨ (!maskOk s port m) = true) := by simp [hup, hm]
    have ask := (exec_widthAsk port m s).trans ((whenRunning_next _ hr).trans (congrArg _ (if_neg hin)))
    refine ⟨fun hf ha => ask.trans (congrArg _ ((if_neg (ne_true_of_eq_false hf)).trans (if_pos (List.isEmpty_iff.mpr ha)))),
      fun hf => ask.trans (congrArg _ (if_pos hf)),
      (exec_width port m s).trans ((whenRunning_next _ hr).trans (congrArg _ (if_neg hin)))⟩
  case lane =>
    intro lane hg hl t limit
    refine ⟨fun ppm hup ha h0 => ⟨fun hp => (exec_laneSerWindow_used hr hg hl hup ha h0).trans (congrArg _ (if_pos hp)),
      fun hp => (exec_laneSerWindow_used hr hg hl hup ha h0).trans (congrArg _ (if_neg (Nat.not_lt.mpr hp)))⟩, fun hup ha h3 => ?_⟩
    refine (exec_laneFailed port lane s).trans ((whenRunning_next _ hr).trans (congrArg _ (if_neg ?_)))
    simp [hg, hl, hup, ha, h3]
  case again =>
    intro lane at_ ha k u hst m hm hup
    have hgo : exec (.laneRetrainGood port lane) s =
        .next (if linkUp u port ∧ maskWidth (rxMask u port) < maskWidth m then askWidth port (some m) u else u) := by
      refine (exec_laneRetrainGood port lane s).trans ((whenRunning_next _ hr).trans (congrArg _ ?_))
      have ha' : tget (linkOf s port).goodSince lane = some at_ := ha
      have hm' : bestMask (setLink port { linkOf s port with goodSince := tdel (linkOf s port).goodSince lane }
          (rset R.LANE_STATE (4 * port + lane) 0 (atTime (at_ + 100000000) s))) port 8 = some m := hm
      simp only [ha', hm']
      exact if_neg (show ¬ (rget s R.LANE_STATE k ≠ 1 ∧ rget s R.LANE_STATE k ≠ 3) by omega)
    exact ⟨fun hw => hgo.trans (congrArg _ (if_pos ⟨hup, hw⟩)),
      fun hw => hgo.trans (congrArg _ (if_neg fun h => Nat.not_lt.mpr hw h.2))⟩

end Sys2Proof.Claims
end


section
/-! PROOFS. The messages and times of the hop-key agreement, and the substitution by a spare. -/
namespace Sys2Proof.Claims

open Sys2Proof.Machine Sys2Proof.Safety

section
variable {s : State} {port id : Nat} {b : List Byte}

/-- The responder of a port with keys takes an offer. -/
theorem offerIn_taken (hk : keyPort s port = true) (hi : isInitiator s port = false) :
    offerIn port id b s =
      let h := (linkOf s port).hop
      if id ≠ nextKeyId h ∨ !keyCheck s port b 4918 (ascii "MOLZA-OFFER" ++ slice b 0 4918 ++ toLE 4 id) then
        keyFail port (sendKey port 4 id [] s)
      else
        let rnd := freshRandom s
        let kem := Config.kemEncaps (slice b 3734 1184) rnd.1
        let head := keyHead rnd.2 ++ kem.1
        let acc := head ++ Config.dsaSign dikSeed (Config.sha3 (ascii "MOLZA-ACCEPT" ++ b ++ head))
        sendKey port 2 id acc (setHop port { hopClear h with offer := b, accept := acc, ss := kem.2, offerAt := some rnd.2.clk.now } rnd.2) :=
  if_neg (by simp [hk, hi])

/-- The initiator of a port with keys takes an accept of its offer. -/
theorem acceptIn_taken (hk : keyPort s port = true) (hi : isInitiator s port = true) (ho : (linkOf s port).hop.offerAt.isNone = false) :
    acceptIn port id b s =
      let h := (linkOf s port).hop
      if id ≠ nextKeyId h ∨ !keyCheck s port b 4822 (ascii "MOLZA-ACCEPT" ++ h.offer ++ slice b 0 4822) then
        keyFail port (sendKey port 4 id [] s)
      else
        let k := hopKeyOf h (Config.kemDecaps h.kemD h.kemZ (slice b 3734 1088)) b id s.clk.now
        keyAgreed port k (sendKey port 3 id (doneBytes k) s) :=
  if_neg (by simp [hk, hi, ho])

/-- The responder takes the end of the agreement that it has accepted. -/
theorem doneIn_taken (hk : keyPort s port = true) (hi : isInitiator s port = false) (ha : (linkOf s port).hop.accept ≠ []) :
    doneIn port id b s =
      let h := (linkOf s port).hop
      let k := hopKeyOf h h.ss h.accept id s.clk.now
      if id = nextKeyId h ∧ b = doneBytes k then keyAgreed port k s else keyFail port (sendKey port 4 id [] s) :=
  if_neg (by simp [hk, hi, ha])

/-- The check of a message, as its refusal states it. -/
theorem refusal_of_not_ok {id k : Nat} {c : Bool} (h : ¬ (id = k ∧ c = true)) : id ≠ k ∨ (!c) = true := by
  simpa [Decidable.imp_iff_not_or] using h

theorem not_refusal_of_ok {id k : Nat} {c : Bool} (h : id = k ∧ c = true) : ¬ (id ≠ k ∨ (!c) = true) := by
  simp [h.1, h.2]

end

/-- Settles O49: each message by its checks, and each time by the keys that the port has. -/
theorem hopKeysRoll : Obligations.HopKeysRoll := by
  unfold Obligations.HopKeysRoll
  intro s port hr l h refused
  refine ⟨?responder, ?initiator, ?abort, ?timeout, ?quiet, ?rekey, ?retry, ?limit, ?retire, ?kept⟩
  case responder =>
    intro id b hk hi ok
    have hgo := (exec_offer port id b s).trans ((whenRunning_next _ hr).trans (congrArg _ (offerIn_taken hk hi)))
    refine ⟨fun hok => hgo.trans (congrArg _ (if_neg (not_refusal_of_ok hok))),
      fun hok => hgo.trans (congrArg _ (if_pos (refusal_of_not_ok hok))), ?_⟩
    intro ha k
    have hdone := (exec_done port id b s).trans ((whenRunning_next _ hr).trans (congrArg _ (doneIn_taken hk hi ha)))
    exact ⟨fun h1 h2 => hdone.trans (congrArg _ (if_pos ⟨h1, h2⟩)), fun hno => hdone.trans (congrArg _ (if_neg (not_and_or.mpr hno)))⟩
  case initiator =>
    intro id b t hk hi ho ok
    have ho' : (linkOf s port).hop.offerAt.isNone = false := by rw [show (linkOf s port).hop.offerAt = some t from ho]; rfl
    have hgo := (exec_accept port id b s).trans ((whenRunning_next _ hr).trans (congrArg _ (acceptIn_taken hk hi ho')))
    exact ⟨fun hok => hgo.trans (congrArg _ (if_neg (not_refusal_of_ok hok))),
      fun hok => hgo.trans (congrArg _ (if_pos (refusal_of_not_ok hok)))⟩
  case abort =>
    intro id hk ho
    exact (exec_abort port id s).trans ((whenRunning_next _ hr).trans (congrArg _ ((if_neg (by rw [hk]; exact Bool.false_ne_true)).trans (if_pos ho))))
  case timeout =>
    intro at_ ho
    refine (exec_keyDoneTimeout port s).trans ((whenRunning_next _ hr).trans (congrArg _ ?_))
    simp only [show (linkOf s port).hop.offerAt = some at_ from ho]
  case quiet =>
    intro ho
    refine (exec_keyDoneTimeout port s).trans ((whenRunning_next _ hr).trans (congrArg _ ?_))
    simp only [show (linkOf s port).hop.offerAt = none from ho]
  case rekey =>
    intro k hc hk hi hn ho hrt
    refine (exec_rekeyStart port s).trans ((whenRunning_next _ hr).trans (congrArg _ ?_))
    simp only [show (linkOf s port).hop.cur = some k from hc]
    refine if_neg ?_
    rw [hk, hi, show (linkOf s port).hop.next = none from hn, show (linkOf s port).hop.offerAt = none from ho,
      show (linkOf s port).hop.retryAt = none from hrt]
    decide
  case retry =>
    intro at_ hrt hk hi
    refine (exec_rekeyRetry port s).trans ((whenRunning_next _ hr).trans (congrArg _ ?_))
    simp only [show (linkOf s port).hop.retryAt = some at_ from hrt]
    exact if_pos ⟨hk, hi⟩
  case limit =>
    intro k hc hn
    have hgo := (exec_keyLimitReached port s).trans (whenRunning_next _ hr)
    refine ⟨fun at_ hl => ?_, fun hl => ?_⟩
    · simp only [show (linkOf s port).hop.cur = some k from hc, show (linkOf s port).hop.limitAt = some at_ from hl] at hgo
      exact hgo.trans (congrArg _ (if_pos (by rw [show (linkOf s port).hop.next = none from hn]; rfl)))
    · intro t
      simp only [show (linkOf s port).hop.cur = some k from hc, show (linkOf s port).hop.limitAt = none from hl] at hgo
      refine hgo.trans (congrArg _ ((if_neg ?_).trans ?_))
      · rw [show (linkOf s port).hop.next = none from hn]
        exact Bool.false_ne_true
      · simp only [Bool.or_eq_true, decide_eq_true_eq, t, h, l, show (linkOf s port).hop.cur = some k from hc]
  case retire =>
    intro ho
    exact (exec_oldKeyRetire port s).trans ((whenRunning_next _ hr).trans (congrArg _ (if_pos (Option.isSome_iff_ne_none.mpr ho))))
  case kept =>
    intro ho
    refine (exec_oldKeyRetire port s).trans ((whenRunning_next _ hr).trans (congrArg _ (if_neg ?_)))
    rw [show (linkOf s port).hop.old = none from ho]
    exact Bool.false_ne_true

/-! ## Spares -/

/-- Settles O50: the wait, the ask and its end, and the messages of the substitution. -/
theorem spareSwitchesAgree : Obligations.SpareSwitchesAgree := by
  unfold Obligations.SpareSwitchesAgree
  refine ⟨?times, ?force, fun s id i h => (exec_subAsk id s).trans h.onCtl_next, ?answer, ?commit⟩
  case times =>
    intro s port hr
    refine ⟨?wait, ?ask⟩
    case wait =>
      intro at_ hd t
      have hgo := (exec_subWaitExpiry port s).trans (whenRunning_next _ hr)
      simp only [hd] at hgo
      exact ⟨fun h4 => hgo.trans (congrArg _ (if_pos h4)), fun h4 => hgo.trans (congrArg _ (if_neg h4))⟩
    case ask =>
      intro a ha t
      refine ⟨fun hlate => ?_, ?_⟩
      · refine (exec_subAskResend port s).trans ((whenRunning_next _ hr).trans (congrArg _ ?_))
        simp only [ha]
        exact if_neg (Nat.not_le.mpr hlate)
      · refine (exec_subAskTimeout port s).trans ((whenRunning_next _ hr).trans (congrArg _ ?_))
        simp only [ha]
  case force =>
    intro s h c rest t hb
    refine ⟨fun hp hz => hb.leaves (exec_subForce h s) (if_neg (by simp [hp, hz])), fun hno => hb.leaves (exec_subForce h s) (if_pos ?_)⟩
    exact hno.imp_right fun h => by rw [h]; rfl
  case answer =>
    intro s id i h b t a ha
    have hgo := (exec_subAnswer id s).trans h.onCtl_next
    have ha' : (takeInbox id s).res.asks.find?
        (fun a => a.group == leAt i.frame.payload 0 2 % 1024 && a.failed == leAt i.frame.payload 2 2 % 32768) = some a := ha
    simp only [ha'] at hgo
    exact ⟨fun hc => hgo.trans (congrArg _ (if_pos hc)), fun h2 h3 => hgo.trans (congrArg _ (if_neg (not_or.mpr ⟨h2, h3⟩)))⟩
  case commit =>
    intro s id i h b t key
    have hgo := (exec_subCommit id s).trans h.onCtl_next
    exact ⟨fun hseen => hgo.trans (congrArg _ (if_pos hseen)), fun hseen => hgo.trans (congrArg _ (if_neg (ne_true_of_eq_false hseen)))⟩

end Sys2Proof.Claims
end


section
/-! PROOFS. The requests of the Shell mailbox. -/
namespace Sys2Proof.Claims

open Sys2Proof.Machine Sys2Proof.Safety

/-- A request that the Shell acts on does what its action says. -/
theorem Asks.exec_next {s u : State} {h code : Nat} {owner : Bool} {req : List Byte} (ha : Asks s h code owner req)
    {act : List Byte → State → State} {k : Instr} (hk : exec k s = withMbox h code owner act s) (hu : act req s = u) :
    exec k s = .next u := by
  obtain ⟨hr, hm, hp, ho, rfl⟩ := ha
  exact hk.trans ((withMbox_next hr hm hp ho).trans (congrArg _ hu))

/-- Settles O51: each request by its form, the licence it needs and what the Shell holds. -/
theorem shellRequestsAnswer : Obligations.ShellRequestsAnswer := by
  unfold Obligations.ShellRequestsAnswer
  intro s h req
  refine ⟨fun ha => ha.exec_next (exec_idGet h s) rfl, ?quote, ?frame, ?licence, ?endorse, ?cred, ?opened, ?wrap, ?closed, ?recovery⟩
  case quote =>
    exact fun ha => ⟨fun hl => ha.exec_next (exec_quote h s) (if_neg (not_not_intro hl)), fun hl => ha.exec_next (exec_quote h s) (if_pos hl)⟩
  case frame =>
    exact fun ha => ⟨fun f hf => ha.exec_next (exec_frameStage h s) (by simp only [hf]),
      fun c hc => ha.exec_next (exec_frameStage h s) (by simp only [hc])⟩
  case licence =>
    exact fun ha => ⟨fun hl => ha.exec_next (exec_licenceLoad h s) (if_pos hl),
      fun hl => ha.exec_next (exec_licenceLoad h s) (if_neg (ne_true_of_eq_false hl))⟩
  case endorse =>
    exact fun ha => ⟨fun hl => ha.exec_next (exec_endorseSet h s) (if_pos hl), fun hl => ha.exec_next (exec_endorseSet h s) (if_neg hl)⟩
  case cred =>
    intro ha
    refine ⟨fun hl => ha.exec_next (exec_credSet h s) (if_pos (by rw [hl]; rfl)), fun x hx hl hlen hslot hz => ?_⟩
    intro key
    refine ha.exec_next (exec_credSet h s) ((if_neg (by rw [hl]; exact Bool.false_ne_true)).trans ((if_neg (by omega)).trans ?_))
    have hx' (d) : s.sec.holone.getD (leAt req 0 1) d = x := by rw [List.getD_eq_getElem?_getD, hx, Option.getD_some]
    rw [hx']
  case opened =>
    intro ha hopen
    have hno : ¬ s.sec.jobOpen.isSome = true := by
      rw [hopen]
      exact Bool.false_ne_true
    refine ⟨fun hj => ha.exec_next (exec_jobOpen h s) ((if_neg hno).trans (if_pos (by rw [hj]; rfl))), fun hj hreq hpart hz hen hroom => ?_⟩
    intro draw id nb peers key t
    refine ha.exec_next (exec_jobOpen h s) ((if_neg hno).trans ((if_neg (by rw [hj]; exact Bool.false_ne_true)).trans
      ((if_neg ?_).trans ((if_neg (by rw [hen]; exact Bool.false_ne_true)).trans ((if_neg (Nat.not_le.mpr hroom)).trans rfl)))))
    simp [hreq, hz, hpart]
  case wrap =>
    intro ha hl hlen k hk here w
    have hgo {u : State} (hu : (if (!here) = true then mboxEnd stDenied [] s else mboxEnd stOK w.1 w.2) = u) : exec (.jobWrap h) s = .next u := by
      refine ha.exec_next (exec_jobWrap h s) ((if_neg (by rw [hl]; exact Bool.false_ne_true)).trans ((if_neg (not_not_intro hlen)).trans ?_))
      simp only [hk]
      exact hu
    exact ⟨fun hh => hgo (if_neg (by rw [hh]; exact Bool.false_ne_true)), fun hh => hgo (if_pos (by rw [hh]; rfl))⟩
  case closed =>
    intro ha hl hlen id
    have hgo {u : State} (hu : (match tget s.sec.jobKeys id with
        | none => mboxEnd stIllegal [] s
        | some k => mboxEnd stOK [] (each (otherPeers s)
            (fun p u => sendMgt 0xE1 p.node (installBytes (installHead s id k.part true (epochNow s + 2)) []) u)
            (jobRemoveAt id (epochNow s + 2) s))) = u) : exec (.jobClose h) s = .next u :=
      ha.exec_next (exec_jobClose h s)
        ((if_neg (by rw [hl]; exact Bool.false_ne_true)).trans ((if_neg (not_not_intro hlen)).trans hu))
    refine ⟨fun hk => hgo (by rw [hk]), fun k hk => ?_⟩
    intro nb b
    exact hgo (by rw [hk])
  case recovery =>
    intro ha
    refine ⟨fun h0 h5 => ha.exec_next (exec_recoveryImage h s) (if_neg ?_), fun hno => ha.exec_next (exec_recoveryImage h s) (if_pos hno)⟩
    exact fun hno => hno.elim (· h0) (· h5)

end Sys2Proof.Claims
end


section
/-! PROOFS. Keys of peers, Holone datagrams, and the images of the Shell. -/
namespace Sys2Proof.Claims

open Sys2Proof.Machine Sys2Proof.Safety

/-- A command leaves what its action gives, whatever a refused one would do. -/
theorem Begins.leaves_or {s t u : State} {h code : Nat} {busy : Cmd → List BCmd → Bool} {c : Cmd} {rest : List HostCmd}
    (hb : Begins s h code busy c rest t) {refused : Cmd → State → State} {act : Cmd → State → State} {k : Instr}
    (hk : exec k s = withCmdOr refused h code busy act s) (hu : act c t = u) : LeavesCmd k s h rest u :=
  hk.trans (hb.withCmdOr_next.trans (congrArg (fun x => Host.Outcome.next (skipUnknown h rest.length x)) hu))

/-- A datagram in a slot that has a key and is not locked (R457). -/
theorem exec_holoneRequest_slot {s : State} {b : List Byte} {x : HoloneSlot} {key : List Byte} (hr : running s = true)
    (ho : holoneOn s = true) (hl : b.length = 64) (hx : s.sec.holone[leAt b 0 1]? = some x) (hun : x.lockedUntil = none)
    (hk : x.key = some key) :
    exec (.holoneRequest b) s = .next (
      if Config.hmac key (b.take 32) ≠ b.drop 32 ∨ leAt b 4 8 ≤ x.counter then holoneDrop (leAt b 0 1) s
      else
        let r := holoneAct (leAt b 0 1) (leAt b 1 1) (leAt b 12 4) (leAt b 16 8) (holoneAccept (leAt b 0 1) (leAt b 4 8) x s)
        let a := b.take 2 ++ toLE 1 r.1 ++ (b.take 16).drop 3 ++ toLE 8 r.2.1 ++ (b.take 32).drop 24
        emit (.udp (a ++ Config.hmac key a)) r.2.2) := by
  refine (exec_holoneRequest b s).trans ((whenRunning_next _ hr).trans (congrArg _ ((if_neg (by simp [ho, hl])).trans ?_)))
  simp only [hx, hun, hk]

/-- Settles O52: each message, datagram and image command by its checks. -/
theorem keysAndImagesLoad : Obligations.KeysAndImagesLoad := by
  unfold Obligations.KeysAndImagesLoad
  refine ⟨?peer, ?timed, ?image⟩
  case peer =>
    intro s id i f n tracked t h hd
    have install (hop : f.opc = 0xE1) := (exec_jobKeyInstall id s).trans
      ((h.serve_next (by rw [hop]; rfl)).trans (congrArg _ (if_neg (not_not_intro hd))))
    refine ⟨fun hop hc => (install hop).trans (by rw [hc]), fun k hop hc => ?_, fun hop => ?_⟩
    · exact (install hop).trans (by rw [hc])
    · intro st
      have hgo := (exec_mgtQuery id s).trans ((h.serve_next (by rw [hop]; rfl)).trans (congrArg _ (if_neg (not_not_intro hd))))
      refine ⟨fun hst => hgo.trans (congrArg _ ((if_pos hst).trans ?_)), fun hst => hgo.trans (congrArg _ (if_neg hst))⟩
      exact congrArg (mgtAnswer n tracked f st · t) (if_pos hst)
  case timed =>
    intro s hr
    refine ⟨fun key at_ hk => ?_, fun b x key ho hl hx hun hk => ?_,
      fun b ho => (exec_holoneRequest b s).trans ((whenRunning_next _ hr).trans (congrArg _ (if_pos (.inl (by rw [ho]; rfl))))),
      fun k x at_ hx hun => ?_, fun h5 b => ?_, fun k h5 h1 h3 => ⟨fun b hen => ?_, fun hst => ?_⟩, fun k h1 h3 hst => ?_⟩
    · intro t
      refine (exec_jobKeyDestroy key s).trans ((whenRunning_next _ hr).trans (congrArg _ ?_))
      simp only [hk]
      rfl
    · intro good
      have hgo := exec_holoneRequest_slot hr ho hl hx hun hk
      refine ⟨fun hbad => hgo.trans (congrArg _ (if_pos ?_)), fun hok => hgo.trans (congrArg _ (if_neg ?_))⟩
      · exact (not_and_or.mp hbad).imp_right Nat.not_lt.mp
      · exact fun hbad => hbad.elim (· hok.1) (Nat.not_le.mpr hok.2)
    · intro t
      refine (exec_holoneSlotUnlock k s).trans ((whenRunning_next _ hr).trans (congrArg _ ?_))
      simp only [hx, hun]
      rfl
    · exact (exec_tftpWriteRequest 1 b s).trans ((whenRunning_next _ hr).trans (congrArg _ ((if_pos h5).trans (if_neg (not_not_intro rfl)))))
    · have hgo := (exec_tftpWriteRequest k b s).trans ((whenRunning_next _ hr).trans (congrArg _ ((if_neg h5).trans
        ((if_neg (by rw [hen]; exact Bool.false_ne_true)).trans (if_neg (by omega))))))
      exact ⟨fun href => hgo.trans (by rw [href]), fun r href => hgo.trans (by rw [href])⟩
    · exact (exec_imageWriteDone k s).trans ((whenRunning_next _ hr).trans (congrArg _ ((if_neg h5).trans (if_pos ⟨h1, h3, hst⟩))))
    · exact (exec_imageTransferStall k s).trans ((whenRunning_next _ hr).trans (congrArg _ (if_pos ⟨h1, h3, hst⟩)))
  case image =>
    intro s h buf c rest t
    refine ⟨fun hb h1 h3 hz => ?_, fun hb hform harm => ?_, fun hb hform harm => ?_⟩
    · have hform : ¬ (c.arg 0 1 < 1 ∨ 3 < c.arg 0 1 ∨ (!c.restZero 1) = true) := by
        rintro (h | h | h)
        · omega
        · omega
        · simp [hz] at h
      refine ⟨fun hs => hb.leaves (exec_imageStage h buf s) ((if_neg hform).trans (if_pos hs)),
        fun hs => ⟨fun r href => ?_, fun href => ⟨?_, ?_⟩⟩⟩
      · refine hb.leaves (exec_imageStage h buf s) ((if_neg hform).trans ((if_neg (ne_true_of_eq_false hs)).trans ?_))
        rw [href]
      · rintro rfl
        refine hb.leaves (exec_imageStage h none s) ((if_neg hform).trans ((if_neg (ne_true_of_eq_false hs)).trans ?_))
        rw [href]
      · rintro b rfl
        refine hb.leaves (exec_imageStage h (some b) s) ((if_neg hform).trans ((if_neg (ne_true_of_eq_false hs)).trans ?_))
        rw [href]
    · have hgo {u : State} (hu : (if armOk t (maskKinds c) then
            completeWith h c stOK (writeKinds (maskKinds c) (fun u => { u with state := 3, try_ := true, result := resOK }) t)
          else completeWith h c stIllegal (refuseKinds resIncompatible c t)) = u) : LeavesCmd (.imageArm h) s h rest u := by
        refine hb.leaves_or (exec_imageArm h s) ((if_neg (by rw [hform]; exact Bool.false_ne_true)).trans ?_)
        rw [harm]
        exact hu
      exact ⟨fun hok => hgo (if_pos hok), fun hok => hgo (if_neg (ne_true_of_eq_false hok))⟩
    · refine hb.leaves_or (exec_imageDisarm h s) ((if_neg (by rw [hform]; exact Bool.false_ne_true)).trans ?_)
      rw [harm]

end Sys2Proof.Claims
end


section
/-! PROOFS. The ownership of the switch, and the command window, completion ring and registers of a host. -/
namespace Sys2Proof.Claims

open Sys2Proof.Machine Sys2Proof.Safety

theorem barsOn_iff (s : State) (h : Nat) : barsOn s h = true ↔ h ≤ 1 ∧ running s = true ∧ rbit s R.HOST_PORT_BARS_EN h = true := by
  simp [barsOn, and_assoc]

theorem isOwner_eq (s : State) (h : Nat) : isOwner s h = true ↔ rget s R.HOST_OWN_OWNER 0 = h + 1 := by
  simp [isOwner]

/-! ## Ownership -/

section
variable {h : Nat} {t : State}

theorem claimIn_free (hc : (pfHost t h).canOwn = true) (h0 : rget t R.HOST_OWN_OWNER 0 = 0) : claimIn h t = takeOwner h t :=
  (if_neg (by rw [hc]; exact Bool.false_ne_true)).trans (if_pos h0)

theorem claimIn_own (hc : (pfHost t h).canOwn = true) (ho : rget t R.HOST_OWN_OWNER 0 = h + 1) : claimIn h t = t :=
  (if_neg (by rw [hc]; exact Bool.false_ne_true)).trans ((if_neg (by omega)).trans (if_pos ho))

theorem claimIn_other (hh : h ≤ 1) (hc : (pfHost t h).canOwn = true) (ho : rget t R.HOST_OWN_OWNER 0 = 2 - h)
    (ht : (hostPort t (1 - h)).claimAt ≠ some t.clk.now) : claimIn h t = hostDenied t :=
  (if_neg (by rw [hc]; exact Bool.false_ne_true)).trans ((if_neg (by omega)).trans ((if_neg (by omega)).trans (if_neg (by simpa using ht))))

end

/-- Settles O53: who owns the switch, and who asks. -/
theorem ownershipPassesByClaim : Obligations.OwnershipPassesByClaim := by
  unfold Obligations.OwnershipPassesByClaim
  intro s h hb hp t takes denied own
  obtain ⟨hh, hr, -⟩ := (barsOn_iff s h).mp hb
  have claim := (exec_claim h s).trans (hostWork_next hb hp)
  have renew := (exec_renew h s).trans (hostWork_next hb hp)
  have release := (exec_release h s).trans (hostWork_next hb hp)
  have expiry := (exec_ownerLeaseExpiry s).trans (whenRunning_next _ hr)
  refine ⟨fun hc h0 => claim.trans (congrArg _ (claimIn_free hc h0)), fun hc ho => claim.trans (congrArg _ (claimIn_own hc ho)),
    fun hc ho ht => claim.trans (congrArg _ (claimIn_other hh hc ho ht)),
    fun hc => claim.trans (congrArg _ (if_pos (by rw [show (pfHost (wakeHall s) h).canOwn = false from hc]; rfl))),
    fun ho => ⟨renew.trans (congrArg _ (if_pos ho)), release.trans (congrArg _ (if_pos ho))⟩,
    fun ho => ⟨renew.trans (congrArg _ (if_neg (ne_true_of_eq_false ho))), release.trans (congrArg _ (if_neg (ne_true_of_eq_false ho)))⟩,
    fun h0 => expiry.trans (congrArg _ (if_pos h0)), fun h0 => expiry.trans (congrArg _ (if_neg h0)),
    (exec_hostLinkDown h s).trans ((whenRunning_next _ hr).trans (congrArg _ (if_neg (Nat.not_lt.mpr hh)))), fun u hu => ?_⟩
  exact if_neg hu

/-! ## The window -/

theorem cqAddr_ne (h : Nat) : R.CQ_CFG_CQ_LOG2.addr h ≠ R.CQ_BASE_ADDR.addr h := by
  simp only [Fld.addr, R.CQ_CFG_CQ_LOG2, R.CQ_BASE_ADDR]
  omega

section
variable {h : Nat} {b : List Byte} {t : State}

/-- A command of 64 bytes from a host that may send one finds room in the queue or not (R489). -/
theorem commandIn_may (hl : b.length = 64) (hm : (pfHost t h).canOwn = true ∨ (pfHost t h).canStandby = true) :
    commandIn h b t =
      if 256 ≤ (hostPort t h).queue.length + (hostPort t h).running.length then rbump R.CW_FULL_COUNT h t
      else if !isReady t then completeWith h (cmdOf b) stUnsupported t
      else skipUnknown h ((hostPort t h).queue.length + 1) (setHost h { hostPort t h with queue := (hostPort t h).queue ++ [⟨b⟩] } t) :=
  (if_neg (not_not_intro hl)).trans (if_neg (by rcases hm with h | h <;> simp [h]))

theorem writeCompletion_empty (hq : (hostPort t h).heldCpl = []) : writeCompletion h t = t := by
  simp only [writeCompletion, hq]

theorem writeCompletion_full (hq : cqRoom t h = false) : writeCompletion h t = t := by
  simp only [writeCompletion, hq, Bool.not_false, if_true]
  cases (hostPort t h).heldCpl <;> rfl

end

/-- Settles O54: what reaches the window by its form, and each register of the ring by what is under way. -/
theorem hostWindowTakesCommands : Obligations.HostWindowTakesCommands := by
  unfold Obligations.HostWindowTakesCommands
  refine ⟨?window, ?completion, ?discard, ?reset, ?write⟩
  case window =>
    intro s h hb hp t p may
    have window (b) := (exec_commandWindowWrite h b s).trans (hostWork_next hb hp)
    have config (off v) := (exec_cqConfigWrite h off v s).trans (hostWork_next hb hp)
    refine ⟨fun b hl => (window b).trans (congrArg _ (if_pos hl)),
      fun b hl => ⟨fun hm => ?_, fun hm hfull => ?_, fun hm hroom => ⟨fun hrd => ?_, fun hrd => ?_⟩⟩,
      fun v => (exec_cqHeadWrite h v s).trans (hostWork_next hb hp),
      fun v hf => (config _ v).trans (congrArg _ ((if_pos rfl).trans (if_neg (ne_true_of_eq_false hf)))),
      fun v hf => (config _ v).trans (congrArg _ ((if_pos rfl).trans (if_pos hf))), fun v h8 h16 hf => (config _ v).trans (congrArg _ ?_)⟩
    · refine (window b).trans (congrArg _ ((if_neg (not_not_intro hl)).trans (if_pos ?_)))
      simpa [may] using hm
    · exact (window b).trans (congrArg _ ((commandIn_may hl hm).trans (if_pos hfull)))
    · exact (window b).trans (congrArg _ ((commandIn_may hl hm).trans ((if_neg (Nat.not_le.mpr hroom)).trans
        (if_neg (by rw [hrd]; exact Bool.false_ne_true)))))
    · exact (window b).trans (congrArg _ ((commandIn_may hl hm).trans ((if_neg (Nat.not_le.mpr hroom)).trans (if_pos (by rw [hrd]; rfl)))))
    · have hv : v % 32 = v := Nat.mod_eq_of_lt (by omega)
      refine (if_neg (cqAddr_ne h)).trans ((if_pos rfl).trans ?_)
      rw [hv]
      exact if_pos ⟨hf, h8, h16⟩
  case completion =>
    intro s h hr hh
    exact ⟨(exec_commandCompletion h s).trans ((whenRunning_next _ hr).trans (congrArg _ (if_pos hh))), writeCompletion_empty, writeCompletion_full⟩
  case discard =>
    intro s h c rest t hb
    exact ⟨fun hz => hb.leaves (exec_stageDiscard h s) (if_neg (by rw [hz]; exact Bool.false_ne_true)),
      fun hz => hb.leaves (exec_stageDiscard h s) (if_pos (by rw [hz]; rfl))⟩
  case reset =>
    intro s h c rest t hb u
    refine ⟨fun h1 hz => hb.leaves (exec_reset h s) (if_neg ?_), fun hno => hb.leaves (exec_reset h s) (if_pos ?_)⟩
    · exact not_or.mpr ⟨Nat.not_lt.mpr h1, by rw [hz]; exact Bool.false_ne_true⟩
    · exact hno.imp_right fun hz => by rw [hz]; rfl
  case write =>
    intro s h off b t
    refine ⟨fun hb hoff hlen hal hp => ?_, fun hb => (exec_registerWrite h off b s).trans (congrArg _ (if_neg ?_))⟩
    · have hgo : exec (.registerWrite h off b) s = .next (if !mayWrite t h off then hostDenied t else writeReg h (hostSource h) off b t) := by
        refine (exec_registerWrite h off b s).trans (congrArg _ ((if_pos ⟨hb, by omega⟩).trans ?_))
        refine (if_neg (by omega)).trans ((if_neg ?_).trans (if_neg fun hbad => hp hbad.1))
        simp [hlen, hal]
      exact ⟨fun hm => hgo.trans (congrArg _ (if_neg (by rw [hm]; exact Bool.false_ne_true))),
        fun hm => hgo.trans (congrArg _ (if_pos (by rw [hm]; rfl)))⟩
    · exact fun h => ne_true_of_eq_false hb h.1

end Sys2Proof.Claims
end


section
/-! PROOFS. What starts, resets and stops the switch. -/
namespace Sys2Proof.Claims

open Sys2Proof.Machine Sys2Proof.Safety

section
variable {s : State}

/-- A host port of a speed that it may have has trained. -/
theorem exec_hostPortTrained_speed {h width speed : Nat} (hr : running s = true) (hh : h ≤ 1)
    (hd : (ensureBoot s).boot.bootDone = true) (hs : speed = 32 ∨ speed = 64) :
    exec (.hostPortTrained h width speed) s = .next (
      let b := ensureBoot s
      let cause := if width < 16 then 2 else if b.boot.hostBad.contains h then 3 else 0
      rset R.HOST_PORT_RATE h (if speed = 32 then 5 else 6) (rset R.HOST_PORT_WIDTH h width
        (rset R.HOST_PORT_CAUSE h cause (rset R.HOST_PORT_BARS_EN h (b2n (cause == 0)) (setHost h { hostPort b h with linkUp := true } b))))) := by
  refine (exec_hostPortTrained h width speed s).trans ((whenRunning_next _ hr).trans (congrArg _ ((if_neg ?_).trans ?_)))
  · rintro (h1 | ⟨h1, -⟩)
    · omega
    · rw [hd] at h1
      exact Bool.false_ne_true h1
  · rcases hs with rfl | rfl <;> rfl

end

/-- Settles O56: each start, reset and stop by the phase that the switch or the package is in. -/
theorem startsAndResetsLeaveState : Obligations.StartsAndResetsLeaveState := by
  unfold Obligations.StartsAndResetsLeaveState
  refine ⟨?main, ?package⟩
  case main =>
    intro s hr b
    have ready := (exec_startupReady s).trans (whenRunning_next _ hr)
    have saved := (exec_savedSettingsWrite s).trans (whenRunning_next _ hr)
    have warm := (exec_warmReset s).trans (whenRunning_next _ hr)
    refine ⟨fun m h1 hd => (exec_selftestDone m s).trans ((whenRunning_next _ hr).trans (congrArg _ (if_pos ⟨h1, hd⟩))),
      fun m h1 => (exec_selftestDone m s).trans ((whenRunning_next _ hr).trans (congrArg _ (if_neg fun h => h1 h.1))),
      fun h width speed hh hd hs => exec_hostPortTrained_speed hr hh hd hs,
      fun hd hw => ready.trans (congrArg _ (if_pos ⟨hd, by rw [hw]; rfl⟩)), fun hno => ready.trans (congrArg _ (if_neg ?_)),
      fun at_ ha hd hw => ?_, fun hu => saved.trans (congrArg _ (if_neg (ne_true_of_eq_false hu))), fun hu => saved.trans (congrArg _ (if_pos hu)),
      fun at_ hd => ?_, fun hd h5 => ?_,
      fun hm => (exec_mgmtHeartbeatLoss s).trans ((whenRunning_next _ hr).trans (congrArg _ (if_pos (Option.isSome_iff_ne_none.mpr hm)))),
      fun ht hn => (exec_trialTimeout s).trans ((whenRunning_next _ hr).trans (congrArg _ (if_neg ?_))),
      fun ns hns => (exec_resetNLow ns s).trans ((whenRunning_next _ hr).trans (congrArg _ (if_pos hns))),
      fun ns hns => (exec_resetNLow ns s).trans ((whenRunning_next _ hr).trans (congrArg _ (if_neg (Nat.not_le.mpr hns)))),
      (exec_shellSramError s).trans (whenRunning_next _ hr)⟩
    · rintro ⟨hd, hw⟩
      rcases hno with h | h
      · exact ne_true_of_eq_false h hd
      · rw [h] at hw
        exact Bool.false_ne_true hw
    · refine (exec_followerReadyTimeout s).trans ((whenRunning_next _ hr).trans (congrArg _ ?_))
      simp only [ha]
      exact if_pos ⟨hd, hw⟩
    · simp only [hd] at warm
      exact warm
    · simp only [hd] at warm
      exact warm.trans (congrArg _ (if_neg h5))
    · exact not_or.mpr ⟨by rw [ht]; exact Bool.false_ne_true, ne_true_of_eq_false hn⟩
  case package =>
    intro s
    refine ⟨?up, ?held, fun hp => ?_, fun hp => ?_, ?rise, fun hp => ⟨?_, ?_⟩, fun hp => ⟨?_, ?_⟩⟩
    case up =>
      refine (exec_holdupN true s).trans (congrArg _ ((if_pos (.inl rfl)).trans ?_))
      simp only [Bool.not_true, Bool.and_false]
    case held =>
      refine ⟨fun hs => (exec_holdupN false s).trans (congrArg Host.Outcome.next ?_),
        fun hs => (exec_holdupN false s).trans (congrArg Host.Outcome.next ?_)⟩
      · refine (if_pos (.inr ?_)).trans ?_ <;> simp only [Bool.not_false, Bool.and_true, hs]
      · refine (if_neg ?_).trans ?_ <;> simp only [Bool.not_false, Bool.and_true, hs, Bool.false_eq_true, or_self, not_false_eq_true]
    case rise =>
      have hgo := exec_pwrokRise s
      refine ⟨fun hp => ?_, fun hp ht hw => ?_, fun hp ht => ?_⟩ <;> rw [hgo, execPwrokRise, hp]
      · exact if_neg (by rw [ht, hw]; decide)
      · exact if_pos (.inl ht)
    · rcases hp with hp | hp <;> rw [exec_pwrokFall, execPwrokFall, hp]
    · rw [exec_pwrokFall, execPwrokFall, hp]
    · rw [exec_standbyGroupUp, execStandbyGroupUp, hp]
    · rw [exec_standbyGroupDown, execStandbyGroupDown, hp]
    · rw [exec_standbyGroupUp, execStandbyGroupUp]
      cases h : s.pkg.phase with
      | off => exact absurd h hp
      | _ => rfl
    · rw [exec_standbyGroupDown, execStandbyGroupDown]
      cases h : s.pkg.phase with
      | off => exact absurd h hp
      | _ => rfl

end Sys2Proof.Claims
end
